-- ==== Sys2Proof/Word.lean ====
section
/-! DEFINITION. Word: the word types of the machine and the shape of a keyed table. -/

namespace Sys2Proof

/-- One byte. -/
abbrev Byte := BitVec 8
/-- A 64-bit register value (R233). -/
abbrev Word := BitVec 64
/-- A 32-bit instruction word (R261). -/
abbrev Code := BitVec 32
/-- A vector register (R272). -/
abbrev Vec := BitVec 1024
/-- A table keyed by numbers, in strictly rising key order. -/
abbrev Table (α : Type) := List (Nat × α)

end Sys2Proof
end

