-- ==== Sys2Proof/Config.lean ====
section
/-! DEFINITION. Config: what this part fixes and the manual does not state, as constants without a body (free
values, log 3), and the sizes the manual fixes. -/

namespace Sys2Proof.Config

/-- DESIGN CHOICE (log 3), safe: a fresh 64-bit value the manual leaves open, one for each count. -/
opaque freeWord : Nat → BitVec 64
/-- DESIGN CHOICE (log 3), safe: a fresh 1,024-bit value the manual leaves open (R339, inactive stream lanes). -/
opaque freeVec : Nat → BitVec 1024
/-- Calibrated excess power of one quadrant at sprint level l (R68, SPRINTP), before ordering (log 3). -/
opaque sprintStep : Nat → BitVec 16
/-- The energy model calibrated at boot step 8, in pJ: what is charged, and its datum (R73, log 49): 0 an instruction (its
words), 1 a register-cache line moved (its number), 2 a tile task (its record), 3 a copy chunk (its bytes), 4 a service
position (the bank), 5 a flit, 6 the static power of an island over a period (clock point and slots). -/
opaque energy : Nat → Nat → Nat
/-- What a byte of memory written under one key reads as under another (R166, R167): key, reading key, address, byte. -/
opaque garble : Nat → Nat → Nat → BitVec 8 → BitVec 8
/-- The ciphertext byte of a stored byte: key, address, byte (R66, R166). -/
opaque cipherByte : Nat → Nat → BitVec 8 → BitVec 8
/-- The 256-bit key the security processor generates for a function and generation (R166). -/
opaque functionKey : Nat → Nat → BitVec 256
/-- SHA-384 of a byte string (R58, R64, R228). -/
opaque sha384 : List (BitVec 8) → BitVec 384
/-- ECDSA P-384 verification: public key, digest, signature (R58, R228). -/
opaque ecdsaVerify : BitVec 768 → BitVec 384 → BitVec 768 → Bool
/-- ECDSA P-384 signature of a digest by the device identity key (R64, R65). -/
opaque deviceSign : BitVec 384 → BitVec 768
/-- The device identity public key, x then y (R65). -/
opaque deviceKey : BitVec 768
/-- The public key the firmware image is checked under, and the SHA-384 fused in IOD-A (R58). -/
opaque bootKey : BitVec 768
opaque fusedKeyHash : BitVec 384
/-- The boot ROM's measured bytes (R64). -/
opaque romBytes : List (BitVec 8)
/-- AES-256-GCM of the pod ports: a flit sealed and opened under a pairing's key (pairing, sequence, data), and the tag of
sixteen flits (pairing, first sequence) (R57). -/
opaque gcm : Nat → Nat → BitVec 256 → BitVec 256
opaque gcmOpen : Nat → Nat → BitVec 256 → BitVec 256
opaque gcmTag : Nat → Nat → BitVec 128
/-- L_p of a pod port, which link training sets (R46). -/
opaque podDelay : Nat → Nat
/-- The candidate result of an FP32 approximation: operation, operand (R344), held to its bound by the meaning. -/
opaque approx : Nat → BitVec 32 → BitVec 32
/-- The snapshot keys the security processor makes, the key it derives from the device identity, and one key wrapped under
another (R66). -/
opaque snapshotKey : Nat → BitVec 256
opaque identityKey : BitVec 256
opaque wrapKey : BitVec 256 → BitVec 256 → BitVec 256
/-- Random numbers the security processor shows in DBGNONCE (R227). -/
opaque nonce : Nat → BitVec 256

/-- Lines of a register cache (R122). -/
def registerCacheLines : Nat := 2048
/-- Lines of a hall context cache: 256 MiB of 64 bytes (R124). -/
def hallCacheLines : Nat := 4194304
/-- Entries of a core's translation cache (R152). -/
def tlbEntries : Nat := 256
/-- Lines of a core's instruction cache: 64 KiB (R193); a line of 64 bytes is a DESIGN CHOICE (log 6), safe. -/
def icacheLines : Nat := 1024
/-- Page walkers of a hall (R152). -/
def walkers : Nat := 64
/-- Kept lines a function may hold in one register cache and in one hall context cache (R132). -/
def keptLimitCore : Nat := 512
def keptLimitHall : Nat := 16384

end Sys2Proof.Config
end

