-- ==== Sys2Proof/Syntax.lean ====
section
/-! DEFINITION. Syntax: every instruction and every machine event of the opcode table, one constructor a row.
Operand fields are those the encoding of spec/12_encoding.md carries; fields the encoding holds at zero are not
carried.  A machine event has no encoding; what it happens to stands in State.ev while it runs. -/

namespace Sys2Proof

/-- Type-1 prefix: rounding, saturation and flush codes (R248, R268). -/
structure Arith where
  rnd : BitVec 3
  sat : BitVec 2
  flush : BitVec 2
  deriving DecidableEq, Repr

/-- Type-2 prefix: scope, synchronised reads, register classes, tag suppression (R269). -/
structure MemMod where
  scope : BitVec 3
  sra : BitVec 1
  srb : BitVec 1
  srd : BitVec 1
  crd : BitVec 2
  cra : BitVec 2
  crb : BitVec 2
  notag : BitVec 1
  deriving DecidableEq, Repr

/-- The prefixes of types 0, 1 and 2 that a chain carries (R267). -/
structure Pfx where
  ext : Option (BitVec 26)
  arith : Option Arith
  mm : Option MemMod
  deriving DecidableEq, Repr

/-- No prefix of types 0 to 2. -/
def Pfx.empty : Pfx := ⟨none, none, none⟩

/-- The instructions and machine events of the opcode table (R275, R276 and the rules each row names). -/
inductive Instr where
  /-- ADD (R288). -/
  | add (p : Pfx) (w : BitVec 2) (rd : BitVec 5) (ra : BitVec 5) (rb : BitVec 5)
  /-- SUB (R288). -/
  | sub (p : Pfx) (w : BitVec 2) (rd : BitVec 5) (ra : BitVec 5) (rb : BitVec 5)
  /-- MUL (R288). -/
  | mul (p : Pfx) (w : BitVec 2) (rd : BitVec 5) (ra : BitVec 5) (rb : BitVec 5)
  /-- MULH (R288). -/
  | mulh (p : Pfx) (w : BitVec 2) (rd : BitVec 5) (ra : BitVec 5) (rb : BitVec 5)
  /-- MULHU (R288). -/
  | mulhu (p : Pfx) (w : BitVec 2) (rd : BitVec 5) (ra : BitVec 5) (rb : BitVec 5)
  /-- DIV (R235). -/
  | div (p : Pfx) (w : BitVec 2) (rd : BitVec 5) (ra : BitVec 5) (rb : BitVec 5)
  /-- DIVU (R235). -/
  | divu (p : Pfx) (w : BitVec 2) (rd : BitVec 5) (ra : BitVec 5) (rb : BitVec 5)
  /-- REM (R235). -/
  | rem (p : Pfx) (w : BitVec 2) (rd : BitVec 5) (ra : BitVec 5) (rb : BitVec 5)
  /-- REMU (R235). -/
  | remu (p : Pfx) (w : BitVec 2) (rd : BitVec 5) (ra : BitVec 5) (rb : BitVec 5)
  /-- AND (R288). -/
  | and (p : Pfx) (w : BitVec 2) (rd : BitVec 5) (ra : BitVec 5) (rb : BitVec 5)
  /-- OR (R288). -/
  | or (p : Pfx) (w : BitVec 2) (rd : BitVec 5) (ra : BitVec 5) (rb : BitVec 5)
  /-- XOR (R288). -/
  | xor (p : Pfx) (w : BitVec 2) (rd : BitVec 5) (ra : BitVec 5) (rb : BitVec 5)
  /-- ANDN (R288). -/
  | andn (p : Pfx) (w : BitVec 2) (rd : BitVec 5) (ra : BitVec 5) (rb : BitVec 5)
  /-- ORN (R288). -/
  | orn (p : Pfx) (w : BitVec 2) (rd : BitVec 5) (ra : BitVec 5) (rb : BitVec 5)
  /-- XNOR (R288). -/
  | xnor (p : Pfx) (w : BitVec 2) (rd : BitVec 5) (ra : BitVec 5) (rb : BitVec 5)
  /-- SHL (R288). -/
  | shl (p : Pfx) (w : BitVec 2) (rd : BitVec 5) (ra : BitVec 5) (rb : BitVec 5)
  /-- SHR (R288). -/
  | shr (p : Pfx) (w : BitVec 2) (rd : BitVec 5) (ra : BitVec 5) (rb : BitVec 5)
  /-- SAR (R288). -/
  | sar (p : Pfx) (w : BitVec 2) (rd : BitVec 5) (ra : BitVec 5) (rb : BitVec 5)
  /-- ROT (R288). -/
  | rot (p : Pfx) (w : BitVec 2) (rd : BitVec 5) (ra : BitVec 5) (rb : BitVec 5)
  /-- MIN (R288). -/
  | min (p : Pfx) (w : BitVec 2) (rd : BitVec 5) (ra : BitVec 5) (rb : BitVec 5)
  /-- MAX (R288). -/
  | max (p : Pfx) (w : BitVec 2) (rd : BitVec 5) (ra : BitVec 5) (rb : BitVec 5)
  /-- MINU (R288). -/
  | minu (p : Pfx) (w : BitVec 2) (rd : BitVec 5) (ra : BitVec 5) (rb : BitVec 5)
  /-- MAXU (R288). -/
  | maxu (p : Pfx) (w : BitVec 2) (rd : BitVec 5) (ra : BitVec 5) (rb : BitVec 5)
  /-- ADD_IMM (R288). -/
  | addImm (p : Pfx) (w : BitVec 2) (rd : BitVec 5) (ra : BitVec 5) (imm : BitVec 32)
  /-- SUB_IMM (R288). -/
  | subImm (p : Pfx) (w : BitVec 2) (rd : BitVec 5) (ra : BitVec 5) (imm : BitVec 32)
  /-- MUL_IMM (R288). -/
  | mulImm (p : Pfx) (w : BitVec 2) (rd : BitVec 5) (ra : BitVec 5) (imm : BitVec 32)
  /-- MULH_IMM (R288). -/
  | mulhImm (p : Pfx) (w : BitVec 2) (rd : BitVec 5) (ra : BitVec 5) (imm : BitVec 32)
  /-- MULHU_IMM (R288). -/
  | mulhuImm (p : Pfx) (w : BitVec 2) (rd : BitVec 5) (ra : BitVec 5) (imm : BitVec 32)
  /-- DIV_IMM (R288). -/
  | divImm (p : Pfx) (w : BitVec 2) (rd : BitVec 5) (ra : BitVec 5) (imm : BitVec 32)
  /-- DIVU_IMM (R288). -/
  | divuImm (p : Pfx) (w : BitVec 2) (rd : BitVec 5) (ra : BitVec 5) (imm : BitVec 32)
  /-- REM_IMM (R288). -/
  | remImm (p : Pfx) (w : BitVec 2) (rd : BitVec 5) (ra : BitVec 5) (imm : BitVec 32)
  /-- REMU_IMM (R288). -/
  | remuImm (p : Pfx) (w : BitVec 2) (rd : BitVec 5) (ra : BitVec 5) (imm : BitVec 32)
  /-- AND_IMM (R288). -/
  | andImm (p : Pfx) (w : BitVec 2) (rd : BitVec 5) (ra : BitVec 5) (imm : BitVec 32)
  /-- OR_IMM (R288). -/
  | orImm (p : Pfx) (w : BitVec 2) (rd : BitVec 5) (ra : BitVec 5) (imm : BitVec 32)
  /-- XOR_IMM (R288). -/
  | xorImm (p : Pfx) (w : BitVec 2) (rd : BitVec 5) (ra : BitVec 5) (imm : BitVec 32)
  /-- ANDN_IMM (R288). -/
  | andnImm (p : Pfx) (w : BitVec 2) (rd : BitVec 5) (ra : BitVec 5) (imm : BitVec 32)
  /-- ORN_IMM (R288). -/
  | ornImm (p : Pfx) (w : BitVec 2) (rd : BitVec 5) (ra : BitVec 5) (imm : BitVec 32)
  /-- XNOR_IMM (R288). -/
  | xnorImm (p : Pfx) (w : BitVec 2) (rd : BitVec 5) (ra : BitVec 5) (imm : BitVec 32)
  /-- SHL_IMM (R288). -/
  | shlImm (p : Pfx) (w : BitVec 2) (rd : BitVec 5) (ra : BitVec 5) (imm : BitVec 32)
  /-- SHR_IMM (R288). -/
  | shrImm (p : Pfx) (w : BitVec 2) (rd : BitVec 5) (ra : BitVec 5) (imm : BitVec 32)
  /-- SAR_IMM (R288). -/
  | sarImm (p : Pfx) (w : BitVec 2) (rd : BitVec 5) (ra : BitVec 5) (imm : BitVec 32)
  /-- ROT_IMM (R288). -/
  | rotImm (p : Pfx) (w : BitVec 2) (rd : BitVec 5) (ra : BitVec 5) (imm : BitVec 32)
  /-- MIN_IMM (R288). -/
  | minImm (p : Pfx) (w : BitVec 2) (rd : BitVec 5) (ra : BitVec 5) (imm : BitVec 32)
  /-- MAX_IMM (R288). -/
  | maxImm (p : Pfx) (w : BitVec 2) (rd : BitVec 5) (ra : BitVec 5) (imm : BitVec 32)
  /-- MINU_IMM (R288). -/
  | minuImm (p : Pfx) (w : BitVec 2) (rd : BitVec 5) (ra : BitVec 5) (imm : BitVec 32)
  /-- MAXU_IMM (R288). -/
  | maxuImm (p : Pfx) (w : BitVec 2) (rd : BitVec 5) (ra : BitVec 5) (imm : BitVec 32)
  /-- ADDI (R291). -/
  | addi (p : Pfx) (rd : BitVec 5) (ra : BitVec 5) (imm : BitVec 7)
  /-- ADDI_LONG (R291). -/
  | addiLong (p : Pfx) (rd : BitVec 5) (ra : BitVec 5) (imm : BitVec 32)
  /-- FSHL (R292). -/
  | fshl (p : Pfx) (rd : BitVec 5) (ra : BitVec 5) (rb : BitVec 5) (k : BitVec 6)
  /-- FSHR (R292). -/
  | fshr (p : Pfx) (rd : BitVec 5) (ra : BitVec 5) (rb : BitVec 5) (k : BitVec 6)
  /-- FSHL_REG (R292). -/
  | fshlReg (p : Pfx) (rd : BitVec 5) (ra : BitVec 5) (rb : BitVec 5) (rc : BitVec 5)
  /-- FSHR_REG (R292). -/
  | fshrReg (p : Pfx) (rd : BitVec 5) (ra : BitVec 5) (rb : BitVec 5) (rc : BitVec 5)
  /-- LOGT (R293). -/
  | logt (p : Pfx) (rd : BitVec 5) (ra : BitVec 5) (rb : BitVec 5) (rc : BitVec 5) (table : BitVec 8)
  /-- CLZ (R294). -/
  | clz (p : Pfx) (w : BitVec 2) (rd : BitVec 5) (ra : BitVec 5)
  /-- CTZ (R294). -/
  | ctz (p : Pfx) (w : BitVec 2) (rd : BitVec 5) (ra : BitVec 5)
  /-- POPC (R294). -/
  | popc (p : Pfx) (w : BitVec 2) (rd : BitVec 5) (ra : BitVec 5)
  /-- BREV (R294). -/
  | brev (p : Pfx) (w : BitVec 2) (rd : BitVec 5) (ra : BitVec 5)
  /-- BSWAP (R294). -/
  | bswap (p : Pfx) (w : BitVec 2) (rd : BitVec 5) (ra : BitVec 5)
  /-- SEXT (R294). -/
  | sext (p : Pfx) (w : BitVec 2) (rd : BitVec 5) (ra : BitVec 5)
  /-- ZEXT (R294). -/
  | zext (p : Pfx) (w : BitVec 2) (rd : BitVec 5) (ra : BitVec 5)
  /-- BFX (R295). -/
  | bfx (p : Pfx) (rd : BitVec 5) (ra : BitVec 5) (len : BitVec 7) (lsb : BitVec 6)
  /-- BFXU (R295). -/
  | bfxu (p : Pfx) (rd : BitVec 5) (ra : BitVec 5) (len : BitVec 7) (lsb : BitVec 6)
  /-- BFI (R295). -/
  | bfi (p : Pfx) (rd : BitVec 5) (ra : BitVec 5) (len : BitVec 7) (lsb : BitVec 6)
  /-- LI (R296). -/
  | li (p : Pfx) (rd : BitVec 5) (imm : BitVec 7)
  /-- LI_LONG (R296). -/
  | liLong (p : Pfx) (rd : BitVec 5) (imm : BitVec 32)
  /-- LIH (R296). -/
  | lih (rd : BitVec 5) (ra : BitVec 5) (imm : BitVec 32)
  /-- MOV (R297). -/
  | mov (p : Pfx) (rd : BitVec 5) (ra : BitVec 5)
  /-- SEL (R297). -/
  | sel (p : Pfx) (rd : BitVec 5) (ra : BitVec 5) (rb : BitVec 5) (neg : BitVec 1) (pn : BitVec 3)
  /-- CMP (R298). -/
  | cmp (p : Pfx) (cond : BitVec 3) (w : BitVec 2) (rd : BitVec 5) (ra : BitVec 5) (rb : BitVec 5)
  /-- CMP_IMM (R298). -/
  | cmpImm (p : Pfx) (cond : BitVec 3) (w : BitVec 2) (rd : BitVec 5) (ra : BitVec 5) (imm : BitVec 32)
  /-- PAND (R299). -/
  | pand (p : Pfx) (rd : BitVec 5) (ra : BitVec 5) (rb : BitVec 5)
  /-- POR (R299). -/
  | por (p : Pfx) (rd : BitVec 5) (ra : BitVec 5) (rb : BitVec 5)
  /-- PXOR (R299). -/
  | pxor (p : Pfx) (rd : BitVec 5) (ra : BitVec 5) (rb : BitVec 5)
  /-- PNOT (R299). -/
  | pnot (p : Pfx) (rd : BitVec 5) (ra : BitVec 5)
  /-- LEA (R300). -/
  | lea (p : Pfx) (rd : BitVec 5) (ra : BitVec 5) (rb : BitVec 5) (imm : BitVec 7)
  /-- LEA_LONG (R300). -/
  | leaLong (p : Pfx) (rd : BitVec 5) (ra : BitVec 5) (rb : BitVec 5) (imm : BitVec 32)
  /-- ADDP (R300). -/
  | addp (p : Pfx) (rd : BitVec 5) (ra : BitVec 5) (rb : BitVec 5) (sh : BitVec 2)
  /-- TAGS_IMM (R300). -/
  | tagsImm (p : Pfx) (rd : BitVec 5) (ra : BitVec 5) (tag : BitVec 4)
  /-- TAGS_REG (R300). -/
  | tagsReg (p : Pfx) (rd : BitVec 5) (ra : BitVec 5) (rb : BitVec 5)
  /-- BR (R301). -/
  | br (ext : Option (BitVec 26)) (neg : BitVec 1) (pn : BitVec 3) (imm : BitVec 17)
  /-- BR_LONG (R301). -/
  | brLong (ext : Option (BitVec 26)) (neg : BitVec 1) (pn : BitVec 3) (imm : BitVec 32)
  /-- J (R301). -/
  | j (ext : Option (BitVec 26)) (imm : BitVec 17)
  /-- J_LONG (R301). -/
  | jLong (ext : Option (BitVec 26)) (imm : BitVec 32)
  /-- JL (R301). -/
  | jl (ext : Option (BitVec 26)) (rd : BitVec 5) (imm : BitVec 17)
  /-- JL_LONG (R301). -/
  | jlLong (ext : Option (BitVec 26)) (rd : BitVec 5) (imm : BitVec 32)
  /-- JLR (R301). -/
  | jlr (ext : Option (BitVec 26)) (rd : BitVec 5) (ra : BitVec 5) (imm : BitVec 7)
  /-- JLR_LONG (R301). -/
  | jlrLong (ext : Option (BitVec 26)) (rd : BitVec 5) (ra : BitVec 5) (imm : BitVec 32)
  /-- RET (R301). -/
  | ret (ra : BitVec 5)
  /-- LOOP (R302). -/
  | loop (ext : Option (BitVec 26)) (rd : BitVec 5) (imm : BitVec 17)
  /-- LOOP_LONG (R302). -/
  | loopLong (ext : Option (BitVec 26)) (rd : BitVec 5) (imm : BitVec 32)
  /-- REP (R303). -/
  | rep (cnt : BitVec 5) (adv0 : BitVec 5) (adv1 : BitVec 5) (step : BitVec 11) (body : Instr)
  /-- MCPY (R304). -/
  | mcpy (p : Pfx) (rd : BitVec 5) (ra : BitVec 5) (rb : BitVec 5)
  /-- MSET (R304). -/
  | mset (p : Pfx) (rd : BitVec 5) (ra : BitVec 5) (rb : BitVec 5)
  /-- NOP (R306). -/
  | nop
  /-- CSRR (R278). -/
  | csrr (p : Pfx) (rd : BitVec 5) (csr : BitVec 12)
  /-- CSRW (R278). -/
  | csrw (p : Pfx) (ra : BitVec 5) (csr : BitVec 12)
  /-- CSRX (R278). -/
  | csrx (p : Pfx) (rd : BitVec 5) (ra : BitVec 5) (csr : BitVec 12)
  /-- LD (R311). -/
  | ld (p : Pfx) (post : BitVec 1) (zx : BitVec 1) (w : BitVec 2) (rd : BitVec 5) (ra : BitVec 5) (imm : BitVec 7)
  /-- LD_LONG (R311). -/
  | ldLong (p : Pfx) (post : BitVec 1) (zx : BitVec 1) (w : BitVec 2) (rd : BitVec 5) (ra : BitVec 5) (imm : BitVec 32)
  /-- ST (R311). -/
  | st (p : Pfx) (post : BitVec 1) (w : BitVec 2) (rd : BitVec 5) (ra : BitVec 5) (imm : BitVec 7)
  /-- ST_LONG (R311). -/
  | stLong (p : Pfx) (post : BitVec 1) (w : BitVec 2) (rd : BitVec 5) (ra : BitVec 5) (imm : BitVec 32)
  /-- LDV (R311). -/
  | ldv (p : Pfx) (post : BitVec 1) (rd : BitVec 5) (ra : BitVec 5) (imm : BitVec 7)
  /-- LDV_LONG (R311). -/
  | ldvLong (p : Pfx) (post : BitVec 1) (rd : BitVec 5) (ra : BitVec 5) (imm : BitVec 32)
  /-- STV (R311). -/
  | stv (p : Pfx) (post : BitVec 1) (rd : BitVec 5) (ra : BitVec 5) (imm : BitVec 7)
  /-- STV_LONG (R311). -/
  | stvLong (p : Pfx) (post : BitVec 1) (rd : BitVec 5) (ra : BitVec 5) (imm : BitVec 32)
  /-- LDG (R312). -/
  | ldg (p : Pfx) (pred : BitVec 3) (ty : BitVec 4) (rd : BitVec 5) (ra : BitVec 5) (rb : BitVec 5)
  /-- STX (R312). -/
  | stx (p : Pfx) (pred : BitVec 3) (ty : BitVec 4) (rd : BitVec 5) (ra : BitVec 5) (rb : BitVec 5)
  /-- LDB (R314). -/
  | ldb (p : Pfx) (zx : BitVec 1) (rd : BitVec 5) (ra : BitVec 5) (rb : BitVec 5)
  /-- STB (R314). -/
  | stb (p : Pfx) (rd : BitVec 5) (ra : BitVec 5) (rb : BitVec 5)
  /-- LDA (R315). -/
  | lda (p : Pfx) (scope : BitVec 3) (w : BitVec 2) (rd : BitVec 5) (ra : BitVec 5) (imm : BitVec 7)
  /-- LDA_LONG (R315). -/
  | ldaLong (p : Pfx) (scope : BitVec 3) (w : BitVec 2) (rd : BitVec 5) (ra : BitVec 5) (imm : BitVec 32)
  /-- STL (R315). -/
  | stl (p : Pfx) (scope : BitVec 3) (w : BitVec 2) (rd : BitVec 5) (ra : BitVec 5) (imm : BitVec 7)
  /-- STL_LONG (R315). -/
  | stlLong (p : Pfx) (scope : BitVec 3) (w : BitVec 2) (rd : BitVec 5) (ra : BitVec 5) (imm : BitVec 32)
  /-- LDE (R317). -/
  | lde (p : Pfx) (rd : BitVec 5) (ra : BitVec 5) (imm : BitVec 7)
  /-- LDE_LONG (R317). -/
  | ldeLong (p : Pfx) (rd : BitVec 5) (ra : BitVec 5) (imm : BitVec 32)
  /-- STF (R317). -/
  | stf (p : Pfx) (rd : BitVec 5) (ra : BitVec 5) (imm : BitVec 7)
  /-- STF_LONG (R317). -/
  | stfLong (p : Pfx) (rd : BitVec 5) (ra : BitVec 5) (imm : BitVec 32)
  /-- FEW (R317). -/
  | few (p : Pfx) (rd : BitVec 5) (ra : BitVec 5) (imm : BitVec 7)
  /-- FEW_LONG (R317). -/
  | fewLong (p : Pfx) (rd : BitVec 5) (ra : BitVec 5) (imm : BitVec 32)
  /-- FER (R317). -/
  | fer (p : Pfx) (rd : BitVec 5) (ra : BitVec 5) (imm : BitVec 7)
  /-- FER_LONG (R317). -/
  | ferLong (p : Pfx) (rd : BitVec 5) (ra : BitVec 5) (imm : BitVec 32)
  /-- TOUCH (R321). -/
  | touch (p : Pfx) (rd : BitVec 5) (ra : BitVec 5) (imm : BitVec 7)
  /-- TOUCH_LONG (R321). -/
  | touchLong (p : Pfx) (rd : BitVec 5) (ra : BitVec 5) (imm : BitVec 32)
  /-- TAGLD (R322). -/
  | tagld (p : Pfx) (rd : BitVec 5) (ra : BitVec 5) (imm : BitVec 7)
  /-- TAGLD_LONG (R322). -/
  | tagldLong (p : Pfx) (rd : BitVec 5) (ra : BitVec 5) (imm : BitVec 32)
  /-- TAGST (R322). -/
  | tagst (p : Pfx) (rd : BitVec 5) (ra : BitVec 5) (imm : BitVec 7)
  /-- TAGST_LONG (R322). -/
  | tagstLong (p : Pfx) (rd : BitVec 5) (ra : BitVec 5) (imm : BitVec 32)
  /-- AMO (R325). -/
  | amo (p : Pfx) (scope : BitVec 3) (aop : BitVec 4) (rd : BitVec 5) (ra : BitVec 5) (rb : BitVec 5)
  /-- CAS (R325). -/
  | cas (p : Pfx) (scope : BitVec 3) (rd : BitVec 5) (ra : BitVec 5) (rb : BitVec 5)
  /-- RED (R325). -/
  | red (p : Pfx) (scope : BitVec 3) (aop : BitVec 4) (ra : BitVec 5) (rb : BitVec 5)
  /-- AMO_I32 (R323). -/
  | amoI32 (p : Pfx) (scope : BitVec 3) (aop : BitVec 4) (rd : BitVec 5) (ra : BitVec 5) (rb : BitVec 5)
  /-- CAS_I32 (R323). -/
  | casI32 (p : Pfx) (scope : BitVec 3) (rd : BitVec 5) (ra : BitVec 5) (rb : BitVec 5)
  /-- RED_I32 (R323). -/
  | redI32 (p : Pfx) (scope : BitVec 3) (aop : BitVec 4) (ra : BitVec 5) (rb : BitVec 5)
  /-- CAS_Q (R325). -/
  | casQ (p : Pfx) (scope : BitVec 3) (rd : BitVec 5) (ra : BitVec 5) (rb : BitVec 5)
  /-- FENCE (R328). -/
  | fence (p : Pfx) (scope : BitVec 3) (kinds : BitVec 6)
  /-- BAR (R330). -/
  | bar (p : Pfx) (num : BitVec 4) (level : BitVec 3)
  /-- BAR_ARM (R330). -/
  | barArm (p : Pfx) (num : BitVec 4) (level : BitVec 3) (ra : BitVec 5)
  /-- BARA (R330). -/
  | bara (p : Pfx) (num : BitVec 4) (level : BitVec 3) (rd : BitVec 5)
  /-- BARW (R330). -/
  | barw (p : Pfx) (num : BitVec 4) (level : BitVec 3) (ra : BitVec 5)
  /-- TBI (R332). -/
  | tbi (p : Pfx) (ra : BitVec 5) (rb : BitVec 5)
  /-- TBA (R332). -/
  | tba (p : Pfx) (rd : BitVec 5) (ra : BitVec 5) (rb : BitVec 5)
  /-- TBW (R332). -/
  | tbw (p : Pfx) (rd : BitVec 5) (ra : BitVec 5) (rb : BitVec 5)
  /-- TBT (R332). -/
  | tbt (p : Pfx) (rd : BitVec 5) (ra : BitVec 5) (rb : BitVec 5)
  /-- WAITC (R333). -/
  | waitc (p : Pfx) (t : BitVec 6) (c : BitVec 6) (st : BitVec 6) (l : BitVec 6)
  /-- MSND (R335). -/
  | msnd (p : Pfx) (ra : BitVec 5) (rb : BitVec 5)
  /-- MRCV (R335). -/
  | mrcv (p : Pfx) (rd : BitVec 5) (ra : BitVec 5)
  /-- MRCV_FROM (R335). -/
  | mrcvFrom (p : Pfx) (rd : BitVec 5) (ra : BitVec 5)
  /-- FILL (R337). -/
  | fill (p : Pfx) (rd : BitVec 5) (ra : BitVec 5) (rb : BitVec 5) (force : BitVec 1) (cls : BitVec 2)
  /-- VADD (R342). -/
  | vadd (p : Pfx) (pred : BitVec 3) (ty : BitVec 4) (rd : BitVec 5) (ra : BitVec 5) (rb : BitVec 5)
  /-- VSUB (R342). -/
  | vsub (p : Pfx) (pred : BitVec 3) (ty : BitVec 4) (rd : BitVec 5) (ra : BitVec 5) (rb : BitVec 5)
  /-- VMUL (R342). -/
  | vmul (p : Pfx) (pred : BitVec 3) (ty : BitVec 4) (rd : BitVec 5) (ra : BitVec 5) (rb : BitVec 5)
  /-- VMULH (R342). -/
  | vmulh (p : Pfx) (pred : BitVec 3) (ty : BitVec 4) (rd : BitVec 5) (ra : BitVec 5) (rb : BitVec 5)
  /-- VFMA (R342). -/
  | vfma (p : Pfx) (pred : BitVec 3) (ty : BitVec 4) (rd : BitVec 5) (ra : BitVec 5) (rb : BitVec 5)
  /-- VFMS (R342). -/
  | vfms (p : Pfx) (pred : BitVec 3) (ty : BitVec 4) (rd : BitVec 5) (ra : BitVec 5) (rb : BitVec 5)
  /-- VFNMA (R342). -/
  | vfnma (p : Pfx) (pred : BitVec 3) (ty : BitVec 4) (rd : BitVec 5) (ra : BitVec 5) (rb : BitVec 5)
  /-- VMIN (R342). -/
  | vmin (p : Pfx) (pred : BitVec 3) (ty : BitVec 4) (rd : BitVec 5) (ra : BitVec 5) (rb : BitVec 5)
  /-- VMAX (R342). -/
  | vmax (p : Pfx) (pred : BitVec 3) (ty : BitVec 4) (rd : BitVec 5) (ra : BitVec 5) (rb : BitVec 5)
  /-- VABS (R343). -/
  | vabs (p : Pfx) (pred : BitVec 3) (ty : BitVec 4) (rd : BitVec 5) (ra : BitVec 5)
  /-- VNEG (R343). -/
  | vneg (p : Pfx) (pred : BitVec 3) (ty : BitVec 4) (rd : BitVec 5) (ra : BitVec 5)
  /-- VRCP (R344). -/
  | vrcp (p : Pfx) (pred : BitVec 3) (ty : BitVec 4) (rd : BitVec 5) (ra : BitVec 5)
  /-- VRSQ (R344). -/
  | vrsq (p : Pfx) (pred : BitVec 3) (ty : BitVec 4) (rd : BitVec 5) (ra : BitVec 5)
  /-- VEXP2 (R344). -/
  | vexp2 (p : Pfx) (pred : BitVec 3) (ty : BitVec 4) (rd : BitVec 5) (ra : BitVec 5)
  /-- VLOG2 (R344). -/
  | vlog2 (p : Pfx) (pred : BitVec 3) (ty : BitVec 4) (rd : BitVec 5) (ra : BitVec 5)
  /-- VSQRT (R343). -/
  | vsqrt (p : Pfx) (pred : BitVec 3) (ty : BitVec 4) (rd : BitVec 5) (ra : BitVec 5)
  /-- VAND (R345). -/
  | vand (p : Pfx) (pred : BitVec 3) (rd : BitVec 5) (ra : BitVec 5) (rb : BitVec 5)
  /-- VOR (R345). -/
  | vor (p : Pfx) (pred : BitVec 3) (rd : BitVec 5) (ra : BitVec 5) (rb : BitVec 5)
  /-- VXOR (R345). -/
  | vxor (p : Pfx) (pred : BitVec 3) (rd : BitVec 5) (ra : BitVec 5) (rb : BitVec 5)
  /-- VLOGT (R346). -/
  | vlogt (p : Pfx) (pred : BitVec 3) (ty : BitVec 4) (rd : BitVec 5) (ra : BitVec 5) (rb : BitVec 5) (vc : BitVec 5) (table : BitVec 8)
  /-- VSHL (R347). -/
  | vshl (p : Pfx) (pred : BitVec 3) (ty : BitVec 4) (rd : BitVec 5) (ra : BitVec 5) (rb : BitVec 5)
  /-- VSHR (R347). -/
  | vshr (p : Pfx) (pred : BitVec 3) (ty : BitVec 4) (rd : BitVec 5) (ra : BitVec 5) (rb : BitVec 5)
  /-- VSAR (R347). -/
  | vsar (p : Pfx) (pred : BitVec 3) (ty : BitVec 4) (rd : BitVec 5) (ra : BitVec 5) (rb : BitVec 5)
  /-- VCMP (R348). -/
  | vcmp (p : Pfx) (pred : BitVec 3) (ty : BitVec 4) (cond : BitVec 3) (rd : BitVec 5) (ra : BitVec 5) (rb : BitVec 5) (part : BitVec 3)
  /-- VSEL (R349). -/
  | vsel (p : Pfx) (pred : BitVec 3) (ty : BitVec 4) (rd : BitVec 5) (ra : BitVec 5) (rb : BitVec 5)
  /-- VCVT (R351). -/
  | vcvt (p : Pfx) (pred : BitVec 3) (ty : BitVec 4) (rd : BitVec 5) (ra : BitVec 5) (dpart : BitVec 3) (spart : BitVec 3) (sty : BitVec 4)
  /-- VBCST (R352). -/
  | vbcst (p : Pfx) (pred : BitVec 3) (ty : BitVec 4) (rd : BitVec 5) (ra : BitVec 5)
  /-- VMOVS_TO_SCALAR (R353). -/
  | vmovsToScalar (p : Pfx) (ty : BitVec 4) (rd : BitVec 5) (ra : BitVec 5) (rb : BitVec 5)
  /-- VMOVS_TO_LANE (R353). -/
  | vmovsToLane (p : Pfx) (ty : BitVec 4) (rd : BitVec 5) (ra : BitVec 5) (rb : BitVec 5)
  /-- VPERM (R354). -/
  | vperm (p : Pfx) (pred : BitVec 3) (ty : BitVec 4) (rd : BitVec 5) (ra : BitVec 5) (rb : BitVec 5)
  /-- VSHUF (R354). -/
  | vshuf (p : Pfx) (pred : BitVec 3) (ty : BitVec 4) (rd : BitVec 5) (ra : BitVec 5) (rb : BitVec 5)
  /-- VSLD (R354). -/
  | vsld (p : Pfx) (pred : BitVec 3) (ty : BitVec 4) (rd : BitVec 5) (ra : BitVec 5) (rb : BitVec 5)
  /-- VRED (R356). -/
  | vred (p : Pfx) (pred : BitVec 3) (ty : BitVec 4) (rd : BitVec 5) (ra : BitVec 5) (rop : BitVec 3)
  /-- VSCAN (R356). -/
  | vscan (p : Pfx) (pred : BitVec 3) (ty : BitVec 4) (rd : BitVec 5) (ra : BitVec 5) (rop : BitVec 3)
  /-- VDOT4 (R357). -/
  | vdot4 (p : Pfx) (pred : BitVec 3) (ty : BitVec 4) (rd : BitVec 5) (ra : BitVec 5) (rb : BitVec 5)
  /-- VLUT (R358). -/
  | vlut (p : Pfx) (pred : BitVec 3) (ty : BitVec 4) (rd : BitVec 5) (ra : BitVec 5) (part : BitVec 5)
  /-- VQNT (R359). -/
  | vqnt (p : Pfx) (pred : BitVec 3) (ty : BitVec 4) (rd : BitVec 5) (ra : BitVec 5) (rb : BitVec 5)
  /-- VDQNT (R360). -/
  | vdqnt (p : Pfx) (pred : BitVec 3) (ty : BitVec 4) (rd : BitVec 5) (ra : BitVec 5) (rb : BitVec 5)
  /-- VDIV (R342). -/
  | vdiv (p : Pfx) (pred : BitVec 3) (ty : BitVec 4) (rd : BitVec 5) (ra : BitVec 5) (rb : BitVec 5)
  /-- FADD (R362). -/
  | fadd (p : Pfx) (ty : BitVec 4) (rd : BitVec 5) (ra : BitVec 5) (rb : BitVec 5)
  /-- FSUB (R362). -/
  | fsub (p : Pfx) (ty : BitVec 4) (rd : BitVec 5) (ra : BitVec 5) (rb : BitVec 5)
  /-- FMUL (R362). -/
  | fmul (p : Pfx) (ty : BitVec 4) (rd : BitVec 5) (ra : BitVec 5) (rb : BitVec 5)
  /-- FDIV (R362). -/
  | fdiv (p : Pfx) (ty : BitVec 4) (rd : BitVec 5) (ra : BitVec 5) (rb : BitVec 5)
  /-- FSQRT (R362). -/
  | fsqrt (p : Pfx) (ty : BitVec 4) (rd : BitVec 5) (ra : BitVec 5)
  /-- FMIN (R362). -/
  | fmin (p : Pfx) (ty : BitVec 4) (rd : BitVec 5) (ra : BitVec 5) (rb : BitVec 5)
  /-- FMAX (R362). -/
  | fmax (p : Pfx) (ty : BitVec 4) (rd : BitVec 5) (ra : BitVec 5) (rb : BitVec 5)
  /-- FCLASS (R363). -/
  | fclass (p : Pfx) (ty : BitVec 4) (rd : BitVec 5) (ra : BitVec 5)
  /-- FFMA (R364). -/
  | ffma (p : Pfx) (ty : BitVec 4) (rd : BitVec 5) (ra : BitVec 5) (rb : BitVec 5) (neg : BitVec 2) (rc : BitVec 5)
  /-- FCMP (R364). -/
  | fcmp (p : Pfx) (cond : BitVec 3) (ty : BitVec 4) (rd : BitVec 5) (ra : BitVec 5) (rb : BitVec 5)
  /-- FCVT (R365). -/
  | fcvt (p : Pfx) (rd : BitVec 5) (ra : BitVec 5) (dt : BitVec 4) (sty : BitVec 4)
  /-- TSUB (R371). -/
  | tsub (p : Pfx) (rd : BitVec 5) (ra : BitVec 5)
  /-- TSUB_COPY (R372). -/
  | tsubCopy (p : Pfx) (ra : BitVec 5)
  /-- TQRY (R373). -/
  | tqry (p : Pfx) (rd : BitVec 5) (ra : BitVec 5)
  /-- TQRY_COPY (R373). -/
  | tqryCopy (p : Pfx) (rd : BitVec 5) (ra : BitVec 5)
  /-- TCAN (R374). -/
  | tcan (p : Pfx) (rd : BitVec 5) (ra : BitVec 5)
  /-- TCAN_COPY (R374). -/
  | tcanCopy (p : Pfx) (rd : BitVec 5) (ra : BitVec 5)
  /-- LUTLD (R375). -/
  | lutld (p : Pfx) (ra : BitVec 5) (rb : BitVec 5)
  /-- LUTRD (R375). -/
  | lutrd (p : Pfx) (rd : BitVec 5) (h : BitVec 1)
  /-- RBIND (R376). -/
  | rbind (p : Pfx) (rd : BitVec 5) (ra : BitVec 5) (rb : BitVec 5)
  /-- RLOOK (R377). -/
  | rlook (p : Pfx) (rd : BitVec 5) (ra : BitVec 5)
  /-- REVICT (R378). -/
  | revict (p : Pfx) (rd : BitVec 5) (ra : BitVec 5)
  /-- RINV (R378). -/
  | rinv (p : Pfx) (rd : BitVec 5) (ra : BitVec 5)
  /-- RINV_UNBIND (R378). -/
  | rinvUnbind (p : Pfx) (rd : BitVec 5) (ra : BitVec 5)
  /-- SBIND (R379). -/
  | sbind (p : Pfx) (ra : BitVec 5) (qn : BitVec 5)
  /-- SUNB (R380). -/
  | sunb (p : Pfx) (qn : BitVec 5)
  /-- SQRY (R380). -/
  | sqry (p : Pfx) (rd : BitVec 5) (qn : BitVec 5)
  /-- SPAWN (R381). -/
  | spawn (p : Pfx) (rd : BitVec 5) (ra : BitVec 5) (rb : BitVec 5)
  /-- LAUNCH (R382). -/
  | launch (p : Pfx) (rd : BitVec 5) (ra : BitVec 5) (rb : BitVec 5)
  /-- EXIT (R383). -/
  | exit (p : Pfx)
  /-- YIELD (R384). -/
  | yield (p : Pfx)
  /-- PARK (R384). -/
  | park (p : Pfx) (rd : BitVec 5) (ra : BitVec 5)
  /-- SWAPCTX (R385). -/
  | swapctx (p : Pfx) (ra : BitVec 5)
  /-- MIGR (R386). -/
  | migr (p : Pfx) (rd : BitVec 5) (ra : BitVec 5)
  /-- MIGR_ADDR (R386). -/
  | migrAddr (p : Pfx) (rd : BitVec 5) (ra : BitVec 5)
  /-- HOME (R386). -/
  | home (p : Pfx) (rd : BitVec 5) (ra : BitVec 5)
  /-- POLICY (R387). -/
  | policy (p : Pfx) (rd : BitVec 5) (ra : BitVec 5)
  /-- LEASE (R388). -/
  | lease (p : Pfx) (rd : BitVec 5) (ra : BitVec 5) (rb : BitVec 5)
  /-- LREL (R388). -/
  | lrel (p : Pfx) (rd : BitVec 5)
  /-- DNEXT (R383). -/
  | dnext (p : Pfx)
  /-- TRAP (R389). -/
  | trap (p : Pfx) (imm : BitVec 15)
  /-- ERET (R390). -/
  | eret (p : Pfx) (ra : BitVec 5) (disp : BitVec 2)
  /-- BKPT (R389). -/
  | bkpt (p : Pfx)
  /-- TLBI (R391). -/
  | tlbi (p : Pfx) (scope : BitVec 3) (ra : BitVec 5) (rb : BitVec 5) (page : BitVec 1)
  /-- IDLE (R384). -/
  | idle (p : Pfx) (rd : BitVec 5) (ra : BitVec 5)
  /-- GALLERY_85C_CROSSING (R43). -/
  | gallery85cCrossing
  /-- GALLERY_80C_RELEASE (R43). -/
  | gallery80cRelease
  /-- GALLERY_95C_THROTTLE (R19). -/
  | gallery95cThrottle
  /-- GALLERY_90C_RELEASE (R19). -/
  | gallery90cRelease
  /-- EMERGENCY_SAVE (R84). -/
  | emergencySave
  /-- SAVE_COMPLETE (R84). -/
  | saveComplete
  /-- RAIL_CUT (R87). -/
  | railCut
  /-- SAVECTL_RESUME (R84). -/
  | savectlResume
  /-- WITHDRAWABLE_SUSPEND_BEGIN (R43). -/
  | withdrawableSuspendBegin
  /-- WITHDRAWABLE_SUSPEND_END (R43). -/
  | withdrawableSuspendEnd
  /-- POWER_SAMPLE (R78). -/
  | powerSample
  /-- ENERGY_UPDATE (R73). -/
  | energyUpdate
  /-- ENERGYSET_WRITE (R74). -/
  | energysetWrite
  /-- QADD_WRITE (R75). -/
  | qaddWrite
  /-- SPRINTMAX_WRITE (R82). -/
  | sprintmaxWrite
  /-- ISLAND_FREQ_CHANGE (R70). -/
  | islandFreqChange
  /-- MELT_UPDATE (R80). -/
  | meltUpdate
  /-- LEASE_EXPIRY (R82). -/
  | leaseExpiry
  /-- ISLAND_OWNER_WRITE (R167). -/
  | islandOwnerWrite
  /-- OWNER_CHANGE (R167). -/
  | ownerChange
  /-- SAVELIST_READ (R68). -/
  | savelistRead
  /-- FLIT_INJECT (R30). -/
  | flitInject
  /-- FLIT_HOP (R27). -/
  | flitHop
  /-- FLOOR_TRANSFER (R36). -/
  | floorTransfer
  /-- CONFIG_FLIT (R29). -/
  | configFlit
  /-- MEMORY_REQUEST_ARRIVE (R32). -/
  | memoryRequestArrive
  /-- MEMORY_SERVICE (R41). -/
  | memoryService
  /-- REFRESH_SERVICE (R41). -/
  | refreshService
  /-- MEMORY_ACCESS_DONE (R41). -/
  | memoryAccessDone
  /-- MEMORY_REPLY_INJECT (R33). -/
  | memoryReplyInject
  /-- CM_SETUP (R39). -/
  | cmSetup
  /-- CM_TEARDOWN (R40). -/
  | cmTeardown
  /-- CM_RESIZE (R40). -/
  | cmResize
  /-- CM_SET_WHEEL (R25). -/
  | cmSetWheel
  /-- CM_READ_ENTRY (R38). -/
  | cmReadEntry
  /-- CIRCUIT_ACTIVATE (R40). -/
  | circuitActivate
  /-- TEARDOWN_SUSPEND (R40). -/
  | teardownSuspend
  /-- TEARDOWN_REMOVE (R40). -/
  | teardownRemove
  /-- WHEEL_CHANGE (R25). -/
  | wheelChange
  /-- HALL_LOCK_LOSS (R45). -/
  | hallLockLoss
  /-- FLOOR_ENTRY_CLEAR (R45). -/
  | floorEntryClear
  /-- HALL_RELOCK (R45). -/
  | hallRelock
  /-- FLOOR_ENTRY_RESTORE (R45). -/
  | floorEntryRestore
  /-- POD_FLIT_RECEIVE (R46). -/
  | podFlitReceive
  /-- POD_ACK (R46). -/
  | podAck
  /-- POD_LOCK_LOSS (R47). -/
  | podLockLoss
  /-- POD_OPTICAL_LOCK (R47). -/
  | podOpticalLock
  /-- POD_RESUME (R47). -/
  | podResume
  /-- PARTITION_HOLD (R48). -/
  | partitionHold
  /-- PARTITION_RELEASE (R48). -/
  | partitionRelease
  /-- HOST_MW1_READ (R51). -/
  | hostMw1Read
  /-- HOST_MW1_WRITE (R51). -/
  | hostMw1Write
  /-- HOSTFAULT_READ (R51). -/
  | hostfaultRead
  /-- LQBASE_WRITE (R52). -/
  | lqbaseWrite
  /-- LQTAIL_WRITE (R54). -/
  | lqtailWrite
  /-- LQSTAT_ERR_CLEAR (R52). -/
  | lqstatErrClear
  /-- QUEUE_PACKET_FETCH (R53). -/
  | queuePacketFetch
  /-- INTCAUSE_CLEAR (R55). -/
  | intcauseClear
  /-- FUNCTION_LEVEL_RESET (R56). -/
  | functionLevelReset
  /-- PODID_WRITE (R63). -/
  | podidWrite
  /-- PAIRGRANT_WRITE (R63). -/
  | pairgrantWrite
  /-- PAIRING_MATCH (R63). -/
  | pairingMatch
  /-- MODULE_START (R61). -/
  | moduleStart
  /-- RECGO_WRITE (R62). -/
  | recgoWrite
  /-- RECOVERY_FLASH_DONE (R62). -/
  | recoveryFlashDone
  /-- BOOTREC_CLEAR (R63). -/
  | bootrecClear
  /-- ATTREQ_WRITE (R64). -/
  | attreqWrite
  /-- ATTESTATION_REPORT_READY (R64). -/
  | attestationReportReady
  /-- SNAPSHOT_TAKE (R66). -/
  | snapshotTake
  /-- SNAPSHOT_TAKEN (R66). -/
  | snapshotTaken
  /-- SNAPSHOT_RELEASE (R66). -/
  | snapshotRelease
  /-- SNAPSHOT_RESTORE (R67). -/
  | snapshotRestore
  /-- SNAPSHOT_RESTORED (R67). -/
  | snapshotRestored
  /-- HOST_LINK_LOSS (R66). -/
  | hostLinkLoss
  /-- DEPENDENCE_POLL (R95). -/
  | dependencePoll
  /-- DISPATCH_BEGIN (R95). -/
  | dispatchBegin
  /-- SLOT_SELECT (R99). -/
  | slotSelect
  /-- LAUNCH_RETIRE (R97). -/
  | launchRetire
  /-- DONEFAULT_READ (R97). -/
  | donefaultRead
  /-- DUE_EVICTION (R100). -/
  | dueEviction
  /-- STALL_EVICTION (R102). -/
  | stallEviction
  /-- STRAND_WAKE (R102). -/
  | strandWake
  /-- VACATE (R106). -/
  | vacate
  /-- VACATE_DONE (R106). -/
  | vacateDone
  /-- VACATE_RELEASE (R106). -/
  | vacateRelease
  /-- DPART_WRITE (R107). -/
  | dpartWrite
  /-- CLBASE_WRITE (R111). -/
  | clbaseWrite
  /-- CLCTL_MODE_WRITE (R111). -/
  | clctlModeWrite
  /-- LOG_PAUSE (R113). -/
  | logPause
  /-- CLCTL_RESUME (R113). -/
  | clctlResume
  /-- CLCTL_ABORT (R114). -/
  | clctlAbort
  /-- LINE_FETCH_DONE (R126). -/
  | lineFetchDone
  /-- KEPT_WRITEBACK_RETRY (R133). -/
  | keptWritebackRetry
  /-- TRANSIT_FLIT_SEND (R138). -/
  | transitFlitSend
  /-- TRAVEL_DEPART (R140). -/
  | travelDepart
  /-- CARRY_ARRIVE (R140). -/
  | carryArrive
  /-- LINE_REQUEST (R141). -/
  | lineRequest
  /-- LINE_REPLY (R141). -/
  | lineReply
  /-- TRANSIT_LINE_WRITEBACK (R124). -/
  | transitLineWriteback
  /-- WRITEBACK_ACK (R124). -/
  | writebackAck
  /-- REMOTE_ACCESS_REQUEST (R137). -/
  | remoteAccessRequest
  /-- REMOTE_ACCESS_REPLY (R140). -/
  | remoteAccessReply
  /-- CONTROL_DELTA (R129). -/
  | controlDelta
  /-- WALK_COMPLETE (R152). -/
  | walkComplete
  /-- WINDOW_FILL_COMPLETE (R162). -/
  | windowFillComplete
  /-- WINDOW_WRITEBACK_COMPLETE (R162). -/
  | windowWritebackComplete
  /-- MIGRATION_DECAY (R163). -/
  | migrationDecay
  /-- PAGE_MOVE_FLIP (R165). -/
  | pageMoveFlip
  /-- ZEROCTL_GO (R168). -/
  | zeroctlGo
  /-- ZERO_COMPLETE (R168). -/
  | zeroComplete
  /-- LOAD_REPLY (R194). -/
  | loadReply
  /-- STORE_ACK (R206). -/
  | storeAck
  /-- ATOMIC_REPLY (R319). -/
  | atomicReply
  /-- FE_RESEND (R318). -/
  | feResend
  /-- WITHDRAWAL (R320). -/
  | withdrawal
  /-- STREAM_MEMORY_FETCH (R198). -/
  | streamMemoryFetch
  /-- STREAM_MEMORY_WRITE (R186). -/
  | streamMemoryWrite
  /-- STREAM_FLIT_ARRIVE (R198). -/
  | streamFlitArrive
  /-- TILE_TASK_START (R200). -/
  | tileTaskStart
  /-- TILE_TASK_COMPLETE (R203). -/
  | tileTaskComplete
  /-- COPY_CHUNK (R205). -/
  | copyChunk
  /-- MESSAGE_ARRIVE (R335). -/
  | messageArrive
  /-- MSND_RESEND (R335). -/
  | msndResend
  /-- ASYNC_TRAP_TAKE (R211). -/
  | asyncTrapTake
  /-- TRAP_DELIVER (R212). -/
  | trapDeliver
  /-- HANDLER_HANDOVER (R216). -/
  | handlerHandover
  /-- THCTX_WRITE (R216). -/
  | thctxWrite
  /-- THCNT_WRITE (R216). -/
  | thcntWrite
  /-- VF_STOP (R221). -/
  | vfStop
  /-- VF_STOP_APPLY (R221). -/
  | vfStopApply
  /-- VF_RESUME (R221). -/
  | vfResume
  /-- VF_RESUME_APPLY (R221). -/
  | vfResumeApply
  /-- DBGSUB_GO (R228). -/
  | dbgsubGo
  /-- DEBUG_TOKEN_VERIFIED (R228). -/
  | debugTokenVerified
  /-- DBGSTAT_END (R228). -/
  | dbgstatEnd
  /-- DEBUG_AUTH_EXPIRE (R228). -/
  | debugAuthExpire
  /-- DBGCTL_WRITE (R227). -/
  | dbgctlWrite
  /-- DBGKEY_WRITE (R227). -/
  | dbgkeyWrite
  /-- DBGEV_READ (R227). -/
  | dbgevRead
  /-- STRCMD_STOP (R229). -/
  | strcmdStop
  /-- STRCMD_RESUME (R229). -/
  | strcmdResume
  /-- STRCMD_STEP (R229). -/
  | strcmdStep
  /-- STRCMD_RESUME_RPC (R229). -/
  | strcmdResumeRpc
  /-- STRCMD_END (R229). -/
  | strcmdEnd
  /-- HALL_HALT (R230). -/
  | hallHalt
  /-- HALL_HALT_RELEASE (R230). -/
  | hallHaltRelease
  /-- BARRIER_WATCHDOG (R231). -/
  | barrierWatchdog
  /-- REGISTER_WRITE (R5). -/
  | registerWrite
  /-- LOSS_OF_POWER (R59). -/
  | lossOfPower
  /-- FUNCTION_ENABLE (R166). -/
  | functionEnable
  /-- UNCORRECTABLE_ERROR (R23). -/
  | uncorrectableError
  /-- INSTRUCTION_CACHE_FILL (R193). -/
  | instructionCacheFill
  /-- ILLEGAL_INSTRUCTION (R270). -/
  | illegalInstruction
  deriving DecidableEq, Repr

end Sys2Proof
end

