-- ==== Sys2Proof/WellFormed.lean ====
section
/-! DEFINITION. WellFormed: the conditions on an instruction as syntax that its type does not carry: prefix codes that
R268 and R269 reserve, prefix kinds an instruction cannot hold, and a repeat that wraps a repeat.  Limits of operand
fields are checked by the decoder (Decode.lean). -/

namespace Sys2Proof

/-- No reserved rounding, saturation or flush code (R268). -/
def Arith.codesOk (a : Arith) : Bool := a.rnd != 6#3 && a.sat != 3#2 && a.flush != 3#2

/-- No reserved scope or class code (R269). -/
def MemMod.codesOk (m : MemMod) : Bool := m.scope != 7#3 && m.crd != 3#2 && m.cra != 3#2 && m.crb != 3#2

/-- The prefixes hold no reserved code. -/
def Pfx.codesOk (p : Pfx) : Bool :=
  (match p.arith with | some a => a.codesOk | none => true) && (match p.mm with | some m => m.codesOk | none => true)

/-- The prefixes of types 0 to 2 an instruction carries. -/
def Instr.pfx : Instr → Pfx
  | .gallery85cCrossing => Pfx.empty
  | .gallery80cRelease => Pfx.empty
  | .gallery95cThrottle => Pfx.empty
  | .gallery90cRelease => Pfx.empty
  | .emergencySave => Pfx.empty
  | .saveComplete => Pfx.empty
  | .railCut => Pfx.empty
  | .savectlResume => Pfx.empty
  | .withdrawableSuspendBegin => Pfx.empty
  | .withdrawableSuspendEnd => Pfx.empty
  | .powerSample => Pfx.empty
  | .energyUpdate => Pfx.empty
  | .energysetWrite => Pfx.empty
  | .qaddWrite => Pfx.empty
  | .sprintmaxWrite => Pfx.empty
  | .islandFreqChange => Pfx.empty
  | .meltUpdate => Pfx.empty
  | .leaseExpiry => Pfx.empty
  | .islandOwnerWrite => Pfx.empty
  | .ownerChange => Pfx.empty
  | .savelistRead => Pfx.empty
  | .flitInject => Pfx.empty
  | .flitHop => Pfx.empty
  | .floorTransfer => Pfx.empty
  | .configFlit => Pfx.empty
  | .memoryRequestArrive => Pfx.empty
  | .memoryService => Pfx.empty
  | .refreshService => Pfx.empty
  | .memoryAccessDone => Pfx.empty
  | .memoryReplyInject => Pfx.empty
  | .cmSetup => Pfx.empty
  | .cmTeardown => Pfx.empty
  | .cmResize => Pfx.empty
  | .cmSetWheel => Pfx.empty
  | .cmReadEntry => Pfx.empty
  | .circuitActivate => Pfx.empty
  | .teardownSuspend => Pfx.empty
  | .teardownRemove => Pfx.empty
  | .wheelChange => Pfx.empty
  | .hallLockLoss => Pfx.empty
  | .floorEntryClear => Pfx.empty
  | .hallRelock => Pfx.empty
  | .floorEntryRestore => Pfx.empty
  | .podFlitReceive => Pfx.empty
  | .podAck => Pfx.empty
  | .podLockLoss => Pfx.empty
  | .podOpticalLock => Pfx.empty
  | .podResume => Pfx.empty
  | .partitionHold => Pfx.empty
  | .partitionRelease => Pfx.empty
  | .hostMw1Read => Pfx.empty
  | .hostMw1Write => Pfx.empty
  | .hostfaultRead => Pfx.empty
  | .lqbaseWrite => Pfx.empty
  | .lqtailWrite => Pfx.empty
  | .lqstatErrClear => Pfx.empty
  | .queuePacketFetch => Pfx.empty
  | .intcauseClear => Pfx.empty
  | .functionLevelReset => Pfx.empty
  | .podidWrite => Pfx.empty
  | .pairgrantWrite => Pfx.empty
  | .pairingMatch => Pfx.empty
  | .moduleStart => Pfx.empty
  | .recgoWrite => Pfx.empty
  | .recoveryFlashDone => Pfx.empty
  | .bootrecClear => Pfx.empty
  | .attreqWrite => Pfx.empty
  | .attestationReportReady => Pfx.empty
  | .snapshotTake => Pfx.empty
  | .snapshotTaken => Pfx.empty
  | .snapshotRelease => Pfx.empty
  | .snapshotRestore => Pfx.empty
  | .snapshotRestored => Pfx.empty
  | .hostLinkLoss => Pfx.empty
  | .dependencePoll => Pfx.empty
  | .dispatchBegin => Pfx.empty
  | .slotSelect => Pfx.empty
  | .launchRetire => Pfx.empty
  | .donefaultRead => Pfx.empty
  | .dueEviction => Pfx.empty
  | .stallEviction => Pfx.empty
  | .strandWake => Pfx.empty
  | .vacate => Pfx.empty
  | .vacateDone => Pfx.empty
  | .vacateRelease => Pfx.empty
  | .dpartWrite => Pfx.empty
  | .clbaseWrite => Pfx.empty
  | .clctlModeWrite => Pfx.empty
  | .logPause => Pfx.empty
  | .clctlResume => Pfx.empty
  | .clctlAbort => Pfx.empty
  | .lineFetchDone => Pfx.empty
  | .keptWritebackRetry => Pfx.empty
  | .transitFlitSend => Pfx.empty
  | .travelDepart => Pfx.empty
  | .carryArrive => Pfx.empty
  | .lineRequest => Pfx.empty
  | .lineReply => Pfx.empty
  | .transitLineWriteback => Pfx.empty
  | .writebackAck => Pfx.empty
  | .remoteAccessRequest => Pfx.empty
  | .remoteAccessReply => Pfx.empty
  | .controlDelta => Pfx.empty
  | .walkComplete => Pfx.empty
  | .windowFillComplete => Pfx.empty
  | .windowWritebackComplete => Pfx.empty
  | .migrationDecay => Pfx.empty
  | .pageMoveFlip => Pfx.empty
  | .zeroctlGo => Pfx.empty
  | .zeroComplete => Pfx.empty
  | .loadReply => Pfx.empty
  | .storeAck => Pfx.empty
  | .atomicReply => Pfx.empty
  | .feResend => Pfx.empty
  | .withdrawal => Pfx.empty
  | .streamMemoryFetch => Pfx.empty
  | .streamMemoryWrite => Pfx.empty
  | .streamFlitArrive => Pfx.empty
  | .tileTaskStart => Pfx.empty
  | .tileTaskComplete => Pfx.empty
  | .copyChunk => Pfx.empty
  | .messageArrive => Pfx.empty
  | .msndResend => Pfx.empty
  | .asyncTrapTake => Pfx.empty
  | .trapDeliver => Pfx.empty
  | .handlerHandover => Pfx.empty
  | .thctxWrite => Pfx.empty
  | .thcntWrite => Pfx.empty
  | .vfStop => Pfx.empty
  | .vfStopApply => Pfx.empty
  | .vfResume => Pfx.empty
  | .vfResumeApply => Pfx.empty
  | .dbgsubGo => Pfx.empty
  | .debugTokenVerified => Pfx.empty
  | .dbgstatEnd => Pfx.empty
  | .debugAuthExpire => Pfx.empty
  | .dbgctlWrite => Pfx.empty
  | .dbgkeyWrite => Pfx.empty
  | .dbgevRead => Pfx.empty
  | .strcmdStop => Pfx.empty
  | .strcmdResume => Pfx.empty
  | .strcmdStep => Pfx.empty
  | .strcmdResumeRpc => Pfx.empty
  | .strcmdEnd => Pfx.empty
  | .hallHalt => Pfx.empty
  | .hallHaltRelease => Pfx.empty
  | .barrierWatchdog => Pfx.empty
  | .registerWrite => Pfx.empty
  | .add p _ _ _ _ => p
  | .sub p _ _ _ _ => p
  | .mul p _ _ _ _ => p
  | .mulh p _ _ _ _ => p
  | .mulhu p _ _ _ _ => p
  | .div p _ _ _ _ => p
  | .divu p _ _ _ _ => p
  | .rem p _ _ _ _ => p
  | .remu p _ _ _ _ => p
  | .and p _ _ _ _ => p
  | .or p _ _ _ _ => p
  | .xor p _ _ _ _ => p
  | .andn p _ _ _ _ => p
  | .orn p _ _ _ _ => p
  | .xnor p _ _ _ _ => p
  | .shl p _ _ _ _ => p
  | .shr p _ _ _ _ => p
  | .sar p _ _ _ _ => p
  | .rot p _ _ _ _ => p
  | .min p _ _ _ _ => p
  | .max p _ _ _ _ => p
  | .minu p _ _ _ _ => p
  | .maxu p _ _ _ _ => p
  | .addImm p _ _ _ _ => p
  | .subImm p _ _ _ _ => p
  | .mulImm p _ _ _ _ => p
  | .mulhImm p _ _ _ _ => p
  | .mulhuImm p _ _ _ _ => p
  | .divImm p _ _ _ _ => p
  | .divuImm p _ _ _ _ => p
  | .remImm p _ _ _ _ => p
  | .remuImm p _ _ _ _ => p
  | .andImm p _ _ _ _ => p
  | .orImm p _ _ _ _ => p
  | .xorImm p _ _ _ _ => p
  | .andnImm p _ _ _ _ => p
  | .ornImm p _ _ _ _ => p
  | .xnorImm p _ _ _ _ => p
  | .shlImm p _ _ _ _ => p
  | .shrImm p _ _ _ _ => p
  | .sarImm p _ _ _ _ => p
  | .rotImm p _ _ _ _ => p
  | .minImm p _ _ _ _ => p
  | .maxImm p _ _ _ _ => p
  | .minuImm p _ _ _ _ => p
  | .maxuImm p _ _ _ _ => p
  | .addi p _ _ _ => p
  | .addiLong p _ _ _ => p
  | .fshl p _ _ _ _ => p
  | .fshr p _ _ _ _ => p
  | .fshlReg p _ _ _ _ => p
  | .fshrReg p _ _ _ _ => p
  | .logt p _ _ _ _ _ => p
  | .clz p _ _ _ => p
  | .ctz p _ _ _ => p
  | .popc p _ _ _ => p
  | .brev p _ _ _ => p
  | .bswap p _ _ _ => p
  | .sext p _ _ _ => p
  | .zext p _ _ _ => p
  | .bfx p _ _ _ _ => p
  | .bfxu p _ _ _ _ => p
  | .bfi p _ _ _ _ => p
  | .li p _ _ => p
  | .liLong p _ _ => p
  | .lih _ _ _ => Pfx.empty
  | .mov p _ _ => p
  | .sel p _ _ _ _ _ => p
  | .cmp p _ _ _ _ _ => p
  | .cmpImm p _ _ _ _ _ => p
  | .pand p _ _ _ => p
  | .por p _ _ _ => p
  | .pxor p _ _ _ => p
  | .pnot p _ _ => p
  | .lea p _ _ _ _ => p
  | .leaLong p _ _ _ _ => p
  | .addp p _ _ _ _ => p
  | .tagsImm p _ _ _ => p
  | .tagsReg p _ _ _ => p
  | .br ext _ _ _ => ⟨ext, none, none⟩
  | .brLong ext _ _ _ => ⟨ext, none, none⟩
  | .j ext _ => ⟨ext, none, none⟩
  | .jLong ext _ => ⟨ext, none, none⟩
  | .jl ext _ _ => ⟨ext, none, none⟩
  | .jlLong ext _ _ => ⟨ext, none, none⟩
  | .jlr ext _ _ _ => ⟨ext, none, none⟩
  | .jlrLong ext _ _ _ => ⟨ext, none, none⟩
  | .ret _ => Pfx.empty
  | .loop ext _ _ => ⟨ext, none, none⟩
  | .loopLong ext _ _ => ⟨ext, none, none⟩
  | .rep _ _ _ _ body => body.pfx
  | .mcpy p _ _ _ => p
  | .mset p _ _ _ => p
  | .nop => Pfx.empty
  | .csrr p _ _ => p
  | .csrw p _ _ => p
  | .csrx p _ _ _ => p
  | .ld p _ _ _ _ _ _ => p
  | .ldLong p _ _ _ _ _ _ => p
  | .st p _ _ _ _ _ => p
  | .stLong p _ _ _ _ _ => p
  | .ldv p _ _ _ _ => p
  | .ldvLong p _ _ _ _ => p
  | .stv p _ _ _ _ => p
  | .stvLong p _ _ _ _ => p
  | .ldg p _ _ _ _ _ => p
  | .stx p _ _ _ _ _ => p
  | .ldb p _ _ _ _ => p
  | .stb p _ _ _ => p
  | .lda p _ _ _ _ _ => p
  | .ldaLong p _ _ _ _ _ => p
  | .stl p _ _ _ _ _ => p
  | .stlLong p _ _ _ _ _ => p
  | .lde p _ _ _ => p
  | .ldeLong p _ _ _ => p
  | .stf p _ _ _ => p
  | .stfLong p _ _ _ => p
  | .few p _ _ _ => p
  | .fewLong p _ _ _ => p
  | .fer p _ _ _ => p
  | .ferLong p _ _ _ => p
  | .touch p _ _ _ => p
  | .touchLong p _ _ _ => p
  | .tagld p _ _ _ => p
  | .tagldLong p _ _ _ => p
  | .tagst p _ _ _ => p
  | .tagstLong p _ _ _ => p
  | .amo p _ _ _ _ _ => p
  | .cas p _ _ _ _ => p
  | .red p _ _ _ _ => p
  | .amoI32 p _ _ _ _ _ => p
  | .casI32 p _ _ _ _ => p
  | .redI32 p _ _ _ _ => p
  | .casQ p _ _ _ _ => p
  | .fence p _ _ => p
  | .bar p _ _ => p
  | .barArm p _ _ _ => p
  | .bara p _ _ _ => p
  | .barw p _ _ _ => p
  | .tbi p _ _ => p
  | .tba p _ _ _ => p
  | .tbw p _ _ _ => p
  | .tbt p _ _ _ => p
  | .waitc p _ _ _ _ => p
  | .msnd p _ _ => p
  | .mrcv p _ _ => p
  | .mrcvFrom p _ _ => p
  | .fill p _ _ _ _ _ => p
  | .vadd p _ _ _ _ _ => p
  | .vsub p _ _ _ _ _ => p
  | .vmul p _ _ _ _ _ => p
  | .vmulh p _ _ _ _ _ => p
  | .vfma p _ _ _ _ _ => p
  | .vfms p _ _ _ _ _ => p
  | .vfnma p _ _ _ _ _ => p
  | .vmin p _ _ _ _ _ => p
  | .vmax p _ _ _ _ _ => p
  | .vabs p _ _ _ _ => p
  | .vneg p _ _ _ _ => p
  | .vrcp p _ _ _ _ => p
  | .vrsq p _ _ _ _ => p
  | .vexp2 p _ _ _ _ => p
  | .vlog2 p _ _ _ _ => p
  | .vsqrt p _ _ _ _ => p
  | .vand p _ _ _ _ => p
  | .vor p _ _ _ _ => p
  | .vxor p _ _ _ _ => p
  | .vlogt p _ _ _ _ _ _ _ => p
  | .vshl p _ _ _ _ _ => p
  | .vshr p _ _ _ _ _ => p
  | .vsar p _ _ _ _ _ => p
  | .vcmp p _ _ _ _ _ _ _ => p
  | .vsel p _ _ _ _ _ => p
  | .vcvt p _ _ _ _ _ _ _ => p
  | .vbcst p _ _ _ _ => p
  | .vmovsToScalar p _ _ _ _ => p
  | .vmovsToLane p _ _ _ _ => p
  | .vperm p _ _ _ _ _ => p
  | .vshuf p _ _ _ _ _ => p
  | .vsld p _ _ _ _ _ => p
  | .vred p _ _ _ _ _ => p
  | .vscan p _ _ _ _ _ => p
  | .vdot4 p _ _ _ _ _ => p
  | .vlut p _ _ _ _ _ => p
  | .vqnt p _ _ _ _ _ => p
  | .vdqnt p _ _ _ _ _ => p
  | .vdiv p _ _ _ _ _ => p
  | .fadd p _ _ _ _ => p
  | .fsub p _ _ _ _ => p
  | .fmul p _ _ _ _ => p
  | .fdiv p _ _ _ _ => p
  | .fsqrt p _ _ _ => p
  | .fmin p _ _ _ _ => p
  | .fmax p _ _ _ _ => p
  | .fclass p _ _ _ => p
  | .ffma p _ _ _ _ _ _ => p
  | .fcmp p _ _ _ _ _ => p
  | .fcvt p _ _ _ _ => p
  | .tsub p _ _ => p
  | .tsubCopy p _ => p
  | .tqry p _ _ => p
  | .tqryCopy p _ _ => p
  | .tcan p _ _ => p
  | .tcanCopy p _ _ => p
  | .lutld p _ _ => p
  | .lutrd p _ _ => p
  | .rbind p _ _ _ => p
  | .rlook p _ _ => p
  | .revict p _ _ => p
  | .rinv p _ _ => p
  | .rinvUnbind p _ _ => p
  | .sbind p _ _ => p
  | .sunb p _ => p
  | .sqry p _ _ => p
  | .spawn p _ _ _ => p
  | .launch p _ _ _ => p
  | .exit p => p
  | .yield p => p
  | .park p _ _ => p
  | .swapctx p _ => p
  | .migr p _ _ => p
  | .migrAddr p _ _ => p
  | .home p _ _ => p
  | .policy p _ _ => p
  | .lease p _ _ _ => p
  | .lrel p _ => p
  | .dnext p => p
  | .trap p _ => p
  | .eret p _ _ => p
  | .bkpt p => p
  | .tlbi p _ _ _ _ => p
  | .idle p _ _ => p
  | .lossOfPower => Pfx.empty
  | .functionEnable => Pfx.empty
  | .uncorrectableError => Pfx.empty
  | .instructionCacheFill => Pfx.empty
  | .illegalInstruction => Pfx.empty

/-- A repeat of a repeat is no chain: a chain holds one type-4 prefix (R270). -/
def Instr.repShapeOk : Instr → Bool
  | .rep cnt _ _ _ body => cnt != 0#5 && (match body with | .rep .. => false | _ => true)
  | _ => true

/-- Well-formedness of an instruction as syntax. -/
def Instr.wf (i : Instr) : Bool := i.pfx.codesOk && i.repShapeOk

end Sys2Proof
end

