-- ==== Sys2Proof/Decode.lean ====
section
/-! DEFINITION. Decode: the total decoder of instruction chains (spec/12_encoding.md, R261 to R277) and the encoder
written from the same formats.  The per-opcode parts list, for each instruction, the fields R265 and the instruction
chapters fix and the operands the others carry. -/

namespace Sys2Proof

/-- A type-4 prefix (R268). -/
structure Rep where
  cnt : BitVec 5
  adv0 : BitVec 5
  adv1 : BitVec 5
  step : BitVec 11
  deriving DecidableEq, Repr

/-- A chain taken apart: its prefixes, the instruction word's fields and the payload (R262, R265, R267). -/
structure Fields where
  pfx : Pfx
  rep : Option Rep
  page : Bool
  long : Bool
  op : BitVec 7
  rd : BitVec 5
  ra : BitVec 5
  rb : BitVec 5
  fn : BitVec 7
  pay : BitVec 32
  deriving DecidableEq, Repr

/-- What a register field names (R272): scalar, vector, predicate, even-odd pair; read, written or both. -/
inductive Role where
  | no | sR | sW | sRW | vR | vW | vRW | pR | pW | dR | dRW
  deriving DecidableEq, Repr

/-- The roles of rd, ra and rb, the prefix types accepted (R271), and whether the instruction accesses memory and
takes a scope from the prefix (R269). -/
structure Info where
  rd : Role
  ra : Role
  rb : Role
  acc0 : Bool
  acc1 : Bool
  acc2 : Bool
  acc4 : Bool
  mem : Bool
  takesScope : Bool
  deriving DecidableEq, Repr

/-- A machine event has no operand fields. -/
def Info.event : Info := ⟨.no, .no, .no, false, false, false, false, false, false⟩

/-- Prefixes and register fields. -/
structure Operands where
  p : Pfx
  rd : BitVec 5
  ra : BitVec 5
  rb : BitVec 5
  deriving DecidableEq, Repr

def Operands.empty : Operands := ⟨Pfx.empty, 0#5, 0#5, 0#5⟩

/-- Class codes and synchronised-read bits of the operand fields (R269); 0 without a type-2 prefix. -/
def Pfx.clsD (p : Pfx) : BitVec 2 := match p.mm with | some m => m.crd | none => 0#2
def Pfx.clsA (p : Pfx) : BitVec 2 := match p.mm with | some m => m.cra | none => 0#2
def Pfx.clsB (p : Pfx) : BitVec 2 := match p.mm with | some m => m.crb | none => 0#2
def Pfx.syncD (p : Pfx) : Bool := match p.mm with | some m => m.srd == 1#1 | none => false
def Pfx.syncA (p : Pfx) : Bool := match p.mm with | some m => m.sra == 1#1 | none => false
def Pfx.syncB (p : Pfx) : Bool := match p.mm with | some m => m.srb == 1#1 | none => false
def Pfx.notag (p : Pfx) : Bool := match p.mm with | some m => m.notag == 1#1 | none => false
def Pfx.scope (p : Pfx) : BitVec 3 := match p.mm with | some m => m.scope | none => 0#3

/-- Memory forms with post-increment read and write their base (R310). -/
def baseRole (post : BitVec 1) : Role := if post == 1#1 then .sRW else .sR
/-- The source of FILL is a vector for class 2 (R336). -/
def fillRole (cls : BitVec 2) : Role := if cls == 2#2 then .vR else .sR
/-- FILL names no s0, p0 or predicate above 7 as target (R336). -/
def fillTargetBad (cls : BitVec 2) (rd : BitVec 5) : Bool :=
  (cls == 0#2 && rd == 0#5) || (cls == 1#2 && (rd == 0#5 || 8 ≤ rd.toNat))
/-- A type code is in a list given as a mask of codes (R274). -/
def tyIn (mask : BitVec 16) (ty : BitVec 4) : Bool := mask.getLsbD ty.toNat
/-- Vector lanes of a type (R274, R338): 128, 64, 32, or 256 of FP4. -/
def laneCount (ty : BitVec 4) : Nat :=
  match ty.toNat with
  | 0 | 4 | 12 | 13 | 14 => 128
  | 1 | 5 | 10 | 11 => 64
  | 15 => 256
  | _ => 32
/-- Lanes converted by one VCVT: the smaller lane count (R351). -/
def convLanes (st dt : BitVec 4) : Nat := min (laneCount st) (laneCount dt)
/-- Lane count against which a group is judged (R351). -/
def convParts (ty : BitVec 4) : Nat := laneCount ty
/-- Parts of VLUT for a type (R358): 256 codes over the lanes. -/
def lutParts (ty : BitVec 4) : Nat := 256 / laneCount ty
/-- The control registers of R278. -/
def csrListed (csr : BitVec 12) : Bool :=
  [0x000, 0x001, 0x002, 0x010, 0x011, 0x012, 0x020, 0x021, 0x022, 0x100, 0x101, 0x102, 0x103, 0x104, 0x105, 0x106].contains csr.toNat
/-- Count and advance registers of REP shall differ (R303). -/
def repClash (cnt adv0 adv1 : BitVec 5) : Bool :=
  cnt == adv0 || cnt == adv1 || (adv0 == adv1 && adv0 != 0#5)

/-- The fields of a core instruction's words (R265, R288 to R391); none for a machine event. -/
def toFields : Instr → Option Fields
  | .gallery85cCrossing => none
  | .gallery80cRelease => none
  | .gallery95cThrottle => none
  | .gallery90cRelease => none
  | .emergencySave => none
  | .saveComplete => none
  | .railCut => none
  | .savectlResume => none
  | .withdrawableSuspendBegin => none
  | .withdrawableSuspendEnd => none
  | .powerSample => none
  | .energyUpdate => none
  | .energysetWrite => none
  | .qaddWrite => none
  | .sprintmaxWrite => none
  | .islandFreqChange => none
  | .meltUpdate => none
  | .leaseExpiry => none
  | .islandOwnerWrite => none
  | .ownerChange => none
  | .savelistRead => none
  | .flitInject => none
  | .flitHop => none
  | .floorTransfer => none
  | .configFlit => none
  | .memoryRequestArrive => none
  | .memoryService => none
  | .refreshService => none
  | .memoryAccessDone => none
  | .memoryReplyInject => none
  | .cmSetup => none
  | .cmTeardown => none
  | .cmResize => none
  | .cmSetWheel => none
  | .cmReadEntry => none
  | .circuitActivate => none
  | .teardownSuspend => none
  | .teardownRemove => none
  | .wheelChange => none
  | .hallLockLoss => none
  | .floorEntryClear => none
  | .hallRelock => none
  | .floorEntryRestore => none
  | .podFlitReceive => none
  | .podAck => none
  | .podLockLoss => none
  | .podOpticalLock => none
  | .podResume => none
  | .partitionHold => none
  | .partitionRelease => none
  | .hostMw1Read => none
  | .hostMw1Write => none
  | .hostfaultRead => none
  | .lqbaseWrite => none
  | .lqtailWrite => none
  | .lqstatErrClear => none
  | .queuePacketFetch => none
  | .intcauseClear => none
  | .functionLevelReset => none
  | .podidWrite => none
  | .pairgrantWrite => none
  | .pairingMatch => none
  | .moduleStart => none
  | .recgoWrite => none
  | .recoveryFlashDone => none
  | .bootrecClear => none
  | .attreqWrite => none
  | .attestationReportReady => none
  | .snapshotTake => none
  | .snapshotTaken => none
  | .snapshotRelease => none
  | .snapshotRestore => none
  | .snapshotRestored => none
  | .hostLinkLoss => none
  | .dependencePoll => none
  | .dispatchBegin => none
  | .slotSelect => none
  | .launchRetire => none
  | .donefaultRead => none
  | .dueEviction => none
  | .stallEviction => none
  | .strandWake => none
  | .vacate => none
  | .vacateDone => none
  | .vacateRelease => none
  | .dpartWrite => none
  | .clbaseWrite => none
  | .clctlModeWrite => none
  | .logPause => none
  | .clctlResume => none
  | .clctlAbort => none
  | .lineFetchDone => none
  | .keptWritebackRetry => none
  | .transitFlitSend => none
  | .travelDepart => none
  | .carryArrive => none
  | .lineRequest => none
  | .lineReply => none
  | .transitLineWriteback => none
  | .writebackAck => none
  | .remoteAccessRequest => none
  | .remoteAccessReply => none
  | .controlDelta => none
  | .walkComplete => none
  | .windowFillComplete => none
  | .windowWritebackComplete => none
  | .migrationDecay => none
  | .pageMoveFlip => none
  | .zeroctlGo => none
  | .zeroComplete => none
  | .loadReply => none
  | .storeAck => none
  | .atomicReply => none
  | .feResend => none
  | .withdrawal => none
  | .streamMemoryFetch => none
  | .streamMemoryWrite => none
  | .streamFlitArrive => none
  | .tileTaskStart => none
  | .tileTaskComplete => none
  | .copyChunk => none
  | .messageArrive => none
  | .msndResend => none
  | .asyncTrapTake => none
  | .trapDeliver => none
  | .handlerHandover => none
  | .thctxWrite => none
  | .thcntWrite => none
  | .vfStop => none
  | .vfStopApply => none
  | .vfResume => none
  | .vfResumeApply => none
  | .dbgsubGo => none
  | .debugTokenVerified => none
  | .dbgstatEnd => none
  | .debugAuthExpire => none
  | .dbgctlWrite => none
  | .dbgkeyWrite => none
  | .dbgevRead => none
  | .strcmdStop => none
  | .strcmdResume => none
  | .strcmdStep => none
  | .strcmdResumeRpc => none
  | .strcmdEnd => none
  | .hallHalt => none
  | .hallHaltRelease => none
  | .barrierWatchdog => none
  | .registerWrite => none
  | .add p w rd ra rb => some ⟨p, none, false, false, 0#7, rd, ra, rb, (1#5 ++ w), 0#32⟩
  | .sub p w rd ra rb => some ⟨p, none, false, false, 0#7, rd, ra, rb, (2#5 ++ w), 0#32⟩
  | .mul p w rd ra rb => some ⟨p, none, false, false, 0#7, rd, ra, rb, (3#5 ++ w), 0#32⟩
  | .mulh p w rd ra rb => some ⟨p, none, false, false, 0#7, rd, ra, rb, (4#5 ++ w), 0#32⟩
  | .mulhu p w rd ra rb => some ⟨p, none, false, false, 0#7, rd, ra, rb, (5#5 ++ w), 0#32⟩
  | .div p w rd ra rb => some ⟨p, none, false, false, 0#7, rd, ra, rb, (6#5 ++ w), 0#32⟩
  | .divu p w rd ra rb => some ⟨p, none, false, false, 0#7, rd, ra, rb, (7#5 ++ w), 0#32⟩
  | .rem p w rd ra rb => some ⟨p, none, false, false, 0#7, rd, ra, rb, (8#5 ++ w), 0#32⟩
  | .remu p w rd ra rb => some ⟨p, none, false, false, 0#7, rd, ra, rb, (9#5 ++ w), 0#32⟩
  | .and p w rd ra rb => some ⟨p, none, false, false, 0#7, rd, ra, rb, (10#5 ++ w), 0#32⟩
  | .or p w rd ra rb => some ⟨p, none, false, false, 0#7, rd, ra, rb, (11#5 ++ w), 0#32⟩
  | .xor p w rd ra rb => some ⟨p, none, false, false, 0#7, rd, ra, rb, (12#5 ++ w), 0#32⟩
  | .andn p w rd ra rb => some ⟨p, none, false, false, 0#7, rd, ra, rb, (13#5 ++ w), 0#32⟩
  | .orn p w rd ra rb => some ⟨p, none, false, false, 0#7, rd, ra, rb, (14#5 ++ w), 0#32⟩
  | .xnor p w rd ra rb => some ⟨p, none, false, false, 0#7, rd, ra, rb, (15#5 ++ w), 0#32⟩
  | .shl p w rd ra rb => some ⟨p, none, false, false, 0#7, rd, ra, rb, (16#5 ++ w), 0#32⟩
  | .shr p w rd ra rb => some ⟨p, none, false, false, 0#7, rd, ra, rb, (17#5 ++ w), 0#32⟩
  | .sar p w rd ra rb => some ⟨p, none, false, false, 0#7, rd, ra, rb, (18#5 ++ w), 0#32⟩
  | .rot p w rd ra rb => some ⟨p, none, false, false, 0#7, rd, ra, rb, (19#5 ++ w), 0#32⟩
  | .min p w rd ra rb => some ⟨p, none, false, false, 0#7, rd, ra, rb, (20#5 ++ w), 0#32⟩
  | .max p w rd ra rb => some ⟨p, none, false, false, 0#7, rd, ra, rb, (21#5 ++ w), 0#32⟩
  | .minu p w rd ra rb => some ⟨p, none, false, false, 0#7, rd, ra, rb, (22#5 ++ w), 0#32⟩
  | .maxu p w rd ra rb => some ⟨p, none, false, false, 0#7, rd, ra, rb, (23#5 ++ w), 0#32⟩
  | .addImm p w rd ra imm => some ⟨p, none, false, true, 1#7, rd, ra, (0#5), (1#5 ++ w), (imm)⟩
  | .subImm p w rd ra imm => some ⟨p, none, false, true, 1#7, rd, ra, (0#5), (2#5 ++ w), (imm)⟩
  | .mulImm p w rd ra imm => some ⟨p, none, false, true, 1#7, rd, ra, (0#5), (3#5 ++ w), (imm)⟩
  | .mulhImm p w rd ra imm => some ⟨p, none, false, true, 1#7, rd, ra, (0#5), (4#5 ++ w), (imm)⟩
  | .mulhuImm p w rd ra imm => some ⟨p, none, false, true, 1#7, rd, ra, (0#5), (5#5 ++ w), (imm)⟩
  | .divImm p w rd ra imm => some ⟨p, none, false, true, 1#7, rd, ra, (0#5), (6#5 ++ w), (imm)⟩
  | .divuImm p w rd ra imm => some ⟨p, none, false, true, 1#7, rd, ra, (0#5), (7#5 ++ w), (imm)⟩
  | .remImm p w rd ra imm => some ⟨p, none, false, true, 1#7, rd, ra, (0#5), (8#5 ++ w), (imm)⟩
  | .remuImm p w rd ra imm => some ⟨p, none, false, true, 1#7, rd, ra, (0#5), (9#5 ++ w), (imm)⟩
  | .andImm p w rd ra imm => some ⟨p, none, false, true, 1#7, rd, ra, (0#5), (10#5 ++ w), (imm)⟩
  | .orImm p w rd ra imm => some ⟨p, none, false, true, 1#7, rd, ra, (0#5), (11#5 ++ w), (imm)⟩
  | .xorImm p w rd ra imm => some ⟨p, none, false, true, 1#7, rd, ra, (0#5), (12#5 ++ w), (imm)⟩
  | .andnImm p w rd ra imm => some ⟨p, none, false, true, 1#7, rd, ra, (0#5), (13#5 ++ w), (imm)⟩
  | .ornImm p w rd ra imm => some ⟨p, none, false, true, 1#7, rd, ra, (0#5), (14#5 ++ w), (imm)⟩
  | .xnorImm p w rd ra imm => some ⟨p, none, false, true, 1#7, rd, ra, (0#5), (15#5 ++ w), (imm)⟩
  | .shlImm p w rd ra imm => some ⟨p, none, false, true, 1#7, rd, ra, (0#5), (16#5 ++ w), (imm)⟩
  | .shrImm p w rd ra imm => some ⟨p, none, false, true, 1#7, rd, ra, (0#5), (17#5 ++ w), (imm)⟩
  | .sarImm p w rd ra imm => some ⟨p, none, false, true, 1#7, rd, ra, (0#5), (18#5 ++ w), (imm)⟩
  | .rotImm p w rd ra imm => some ⟨p, none, false, true, 1#7, rd, ra, (0#5), (19#5 ++ w), (imm)⟩
  | .minImm p w rd ra imm => some ⟨p, none, false, true, 1#7, rd, ra, (0#5), (20#5 ++ w), (imm)⟩
  | .maxImm p w rd ra imm => some ⟨p, none, false, true, 1#7, rd, ra, (0#5), (21#5 ++ w), (imm)⟩
  | .minuImm p w rd ra imm => some ⟨p, none, false, true, 1#7, rd, ra, (0#5), (22#5 ++ w), (imm)⟩
  | .maxuImm p w rd ra imm => some ⟨p, none, false, true, 1#7, rd, ra, (0#5), (23#5 ++ w), (imm)⟩
  | .addi p rd ra imm => some ⟨p, none, false, false, 2#7, rd, ra, (0#5), (imm), 0#32⟩
  | .addiLong p rd ra imm => some ⟨p, none, false, true, 2#7, rd, ra, (0#5), (0#7), (imm)⟩
  | .fshl p rd ra rb k => some ⟨p, none, false, false, 3#7, rd, ra, rb, (0#1 ++ k), 0#32⟩
  | .fshr p rd ra rb k => some ⟨p, none, false, false, 3#7, rd, ra, rb, (1#1 ++ k), 0#32⟩
  | .fshlReg p rd ra rb rc => some ⟨p, none, false, true, 3#7, rd, ra, rb, (0#1 ++ 0#6), (0#27 ++ rc)⟩
  | .fshrReg p rd ra rb rc => some ⟨p, none, false, true, 3#7, rd, ra, rb, (1#1 ++ 0#6), (0#27 ++ rc)⟩
  | .logt p rd ra rb rc table => some ⟨p, none, false, true, 4#7, rd, ra, rb, (0#7), (0#19 ++ rc ++ table)⟩
  | .clz p w rd ra => some ⟨p, none, false, false, 5#7, rd, ra, (0#5), (1#5 ++ w), 0#32⟩
  | .ctz p w rd ra => some ⟨p, none, false, false, 5#7, rd, ra, (0#5), (2#5 ++ w), 0#32⟩
  | .popc p w rd ra => some ⟨p, none, false, false, 5#7, rd, ra, (0#5), (3#5 ++ w), 0#32⟩
  | .brev p w rd ra => some ⟨p, none, false, false, 5#7, rd, ra, (0#5), (4#5 ++ w), 0#32⟩
  | .bswap p w rd ra => some ⟨p, none, false, false, 5#7, rd, ra, (0#5), (5#5 ++ w), 0#32⟩
  | .sext p w rd ra => some ⟨p, none, false, false, 5#7, rd, ra, (0#5), (6#5 ++ w), 0#32⟩
  | .zext p w rd ra => some ⟨p, none, false, false, 5#7, rd, ra, (0#5), (7#5 ++ w), 0#32⟩
  | .bfx p rd ra len lsb => some ⟨p, none, false, true, 6#7, rd, ra, (0#5), (0#5 ++ 1#2), (0#19 ++ len ++ lsb)⟩
  | .bfxu p rd ra len lsb => some ⟨p, none, false, true, 6#7, rd, ra, (0#5), (0#5 ++ 2#2), (0#19 ++ len ++ lsb)⟩
  | .bfi p rd ra len lsb => some ⟨p, none, false, true, 6#7, rd, ra, (0#5), (0#5 ++ 3#2), (0#19 ++ len ++ lsb)⟩
  | .li p rd imm => some ⟨p, none, false, false, 7#7, rd, (0#5), (0#5), (imm), 0#32⟩
  | .liLong p rd imm => some ⟨p, none, false, true, 7#7, rd, (0#5), (0#5), (0#7), (imm)⟩
  | .lih rd ra imm => some ⟨Pfx.empty, none, false, true, 8#7, rd, ra, (0#5), (0#7), (imm)⟩
  | .mov p rd ra => some ⟨p, none, false, false, 9#7, rd, ra, (0#5), (0#7), 0#32⟩
  | .sel p rd ra rb neg pn => some ⟨p, none, false, false, 10#7, rd, ra, rb, (0#3 ++ neg ++ pn), 0#32⟩
  | .cmp p cond w rd ra rb => some ⟨p, none, false, false, 11#7, rd, ra, rb, (0#2 ++ cond ++ w), 0#32⟩
  | .cmpImm p cond w rd ra imm => some ⟨p, none, false, true, 11#7, rd, ra, (0#5), (0#2 ++ cond ++ w), (imm)⟩
  | .pand p rd ra rb => some ⟨p, none, false, false, 12#7, rd, ra, rb, (0#5 ++ 0#2), 0#32⟩
  | .por p rd ra rb => some ⟨p, none, false, false, 12#7, rd, ra, rb, (0#5 ++ 1#2), 0#32⟩
  | .pxor p rd ra rb => some ⟨p, none, false, false, 12#7, rd, ra, rb, (0#5 ++ 2#2), 0#32⟩
  | .pnot p rd ra => some ⟨p, none, false, false, 12#7, rd, ra, (0#5), (0#5 ++ 3#2), 0#32⟩
  | .lea p rd ra rb imm => some ⟨p, none, false, false, 13#7, rd, ra, rb, (imm), 0#32⟩
  | .leaLong p rd ra rb imm => some ⟨p, none, false, true, 13#7, rd, ra, rb, (0#7), (imm)⟩
  | .addp p rd ra rb sh => some ⟨p, none, false, false, 14#7, rd, ra, rb, (0#5 ++ sh), 0#32⟩
  | .tagsImm p rd ra tag => some ⟨p, none, false, false, 15#7, rd, ra, (0#5), (0#2 ++ 0#1 ++ tag), 0#32⟩
  | .tagsReg p rd ra rb => some ⟨p, none, false, false, 15#7, rd, ra, rb, (0#2 ++ 1#1 ++ 0#4), 0#32⟩
  | .br ext neg pn imm => some ⟨⟨ext, none, none⟩, none, false, false, 16#7, (0#1 ++ neg ++ pn), imm.extractLsb' 12 5, imm.extractLsb' 7 5, imm.extractLsb' 0 7, 0#32⟩
  | .brLong ext neg pn imm => some ⟨⟨ext, none, none⟩, none, false, true, 16#7, (0#1 ++ neg ++ pn), 0#5, 0#5, 0#7, (imm)⟩
  | .j ext imm => some ⟨⟨ext, none, none⟩, none, false, false, 17#7, (0#5), imm.extractLsb' 12 5, imm.extractLsb' 7 5, imm.extractLsb' 0 7, 0#32⟩
  | .jLong ext imm => some ⟨⟨ext, none, none⟩, none, false, true, 17#7, (0#5), 0#5, 0#5, 0#7, (imm)⟩
  | .jl ext rd imm => some ⟨⟨ext, none, none⟩, none, false, false, 18#7, rd, imm.extractLsb' 12 5, imm.extractLsb' 7 5, imm.extractLsb' 0 7, 0#32⟩
  | .jlLong ext rd imm => some ⟨⟨ext, none, none⟩, none, false, true, 18#7, rd, 0#5, 0#5, 0#7, (imm)⟩
  | .jlr ext rd ra imm => some ⟨⟨ext, none, none⟩, none, false, false, 19#7, rd, ra, (0#5), (imm), 0#32⟩
  | .jlrLong ext rd ra imm => some ⟨⟨ext, none, none⟩, none, false, true, 19#7, rd, ra, (0#5), (0#7), (imm)⟩
  | .ret ra => some ⟨Pfx.empty, none, false, false, 20#7, (0#5), ra, (0#5), (0#7), 0#32⟩
  | .loop ext rd imm => some ⟨⟨ext, none, none⟩, none, false, false, 21#7, rd, imm.extractLsb' 12 5, imm.extractLsb' 7 5, imm.extractLsb' 0 7, 0#32⟩
  | .loopLong ext rd imm => some ⟨⟨ext, none, none⟩, none, false, true, 21#7, rd, 0#5, 0#5, 0#7, (imm)⟩
  | .rep cnt adv0 adv1 step body =>
    match toFields body with
    | some f => if f.rep.isNone then some { f with rep := some ⟨cnt, adv0, adv1, step⟩ } else none
    | none => none
  | .mcpy p rd ra rb => some ⟨p, none, false, false, 22#7, rd, ra, rb, (0#7), 0#32⟩
  | .mset p rd ra rb => some ⟨p, none, false, false, 23#7, rd, ra, rb, (0#7), 0#32⟩
  | .nop => some ⟨Pfx.empty, none, false, false, 24#7, (0#5), (0#5), (0#5), (0#7), 0#32⟩
  | .csrr p rd csr => some ⟨p, none, false, false, 25#7, rd, (0#5), csr.extractLsb' 7 5, csr.extractLsb' 0 7, 0#32⟩
  | .csrw p ra csr => some ⟨p, none, false, false, 26#7, (0#5), ra, csr.extractLsb' 7 5, csr.extractLsb' 0 7, 0#32⟩
  | .csrx p rd ra csr => some ⟨p, none, false, false, 27#7, rd, ra, csr.extractLsb' 7 5, csr.extractLsb' 0 7, 0#32⟩
  | .ld p post zx w rd ra imm => some ⟨p, none, false, false, 32#7, rd, ra, (0#1 ++ post ++ zx ++ w), (imm), 0#32⟩
  | .ldLong p post zx w rd ra imm => some ⟨p, none, false, true, 32#7, rd, ra, (0#1 ++ post ++ zx ++ w), (0#7), (imm)⟩
  | .st p post w rd ra imm => some ⟨p, none, false, false, 33#7, rd, ra, (0#1 ++ post ++ 0#1 ++ w), (imm), 0#32⟩
  | .stLong p post w rd ra imm => some ⟨p, none, false, true, 33#7, rd, ra, (0#1 ++ post ++ 0#1 ++ w), (0#7), (imm)⟩
  | .ldv p post rd ra imm => some ⟨p, none, false, false, 34#7, rd, ra, (0#1 ++ post ++ 0#3), (imm), 0#32⟩
  | .ldvLong p post rd ra imm => some ⟨p, none, false, true, 34#7, rd, ra, (0#1 ++ post ++ 0#3), (0#7), (imm)⟩
  | .stv p post rd ra imm => some ⟨p, none, false, false, 35#7, rd, ra, (0#1 ++ post ++ 0#3), (imm), 0#32⟩
  | .stvLong p post rd ra imm => some ⟨p, none, false, true, 35#7, rd, ra, (0#1 ++ post ++ 0#3), (0#7), (imm)⟩
  | .ldg p pred ty rd ra rb => some ⟨p, none, false, false, 36#7, rd, ra, rb, (pred ++ ty), 0#32⟩
  | .stx p pred ty rd ra rb => some ⟨p, none, false, false, 37#7, rd, ra, rb, (pred ++ ty), 0#32⟩
  | .ldb p zx rd ra rb => some ⟨p, none, false, false, 38#7, rd, ra, rb, (0#6 ++ zx), 0#32⟩
  | .stb p rd ra rb => some ⟨p, none, false, false, 39#7, rd, ra, rb, (0#7), 0#32⟩
  | .lda p scope w rd ra imm => some ⟨p, none, false, false, 40#7, rd, ra, (scope ++ w), (imm), 0#32⟩
  | .ldaLong p scope w rd ra imm => some ⟨p, none, false, true, 40#7, rd, ra, (scope ++ w), (0#7), (imm)⟩
  | .stl p scope w rd ra imm => some ⟨p, none, false, false, 41#7, rd, ra, (scope ++ w), (imm), 0#32⟩
  | .stlLong p scope w rd ra imm => some ⟨p, none, false, true, 41#7, rd, ra, (scope ++ w), (0#7), (imm)⟩
  | .lde p rd ra imm => some ⟨p, none, false, false, 42#7, rd, ra, (0#5), (imm), 0#32⟩
  | .ldeLong p rd ra imm => some ⟨p, none, false, true, 42#7, rd, ra, (0#5), (0#7), (imm)⟩
  | .stf p rd ra imm => some ⟨p, none, false, false, 43#7, rd, ra, (0#5), (imm), 0#32⟩
  | .stfLong p rd ra imm => some ⟨p, none, false, true, 43#7, rd, ra, (0#5), (0#7), (imm)⟩
  | .few p rd ra imm => some ⟨p, none, false, false, 44#7, rd, ra, (0#5), (imm), 0#32⟩
  | .fewLong p rd ra imm => some ⟨p, none, false, true, 44#7, rd, ra, (0#5), (0#7), (imm)⟩
  | .fer p rd ra imm => some ⟨p, none, false, false, 45#7, rd, ra, (0#5), (imm), 0#32⟩
  | .ferLong p rd ra imm => some ⟨p, none, false, true, 45#7, rd, ra, (0#5), (0#7), (imm)⟩
  | .touch p rd ra imm => some ⟨p, none, false, false, 46#7, rd, ra, (0#5), (imm), 0#32⟩
  | .touchLong p rd ra imm => some ⟨p, none, false, true, 46#7, rd, ra, (0#5), (0#7), (imm)⟩
  | .tagld p rd ra imm => some ⟨p, none, false, false, 47#7, rd, ra, (0#5), (imm), 0#32⟩
  | .tagldLong p rd ra imm => some ⟨p, none, false, true, 47#7, rd, ra, (0#5), (0#7), (imm)⟩
  | .tagst p rd ra imm => some ⟨p, none, false, false, 48#7, rd, ra, (0#5), (imm), 0#32⟩
  | .tagstLong p rd ra imm => some ⟨p, none, false, true, 48#7, rd, ra, (0#5), (0#7), (imm)⟩
  | .amo p scope aop rd ra rb => some ⟨p, none, false, false, 49#7, rd, ra, rb, (scope ++ aop), 0#32⟩
  | .cas p scope rd ra rb => some ⟨p, none, false, false, 50#7, rd, ra, rb, (scope ++ 0#4), 0#32⟩
  | .red p scope aop ra rb => some ⟨p, none, false, false, 51#7, (0#5), ra, rb, (scope ++ aop), 0#32⟩
  | .amoI32 p scope aop rd ra rb => some ⟨p, none, true, false, 49#7, rd, ra, rb, (scope ++ aop), 0#32⟩
  | .casI32 p scope rd ra rb => some ⟨p, none, true, false, 50#7, rd, ra, rb, (scope ++ 0#4), 0#32⟩
  | .redI32 p scope aop ra rb => some ⟨p, none, true, false, 51#7, (0#5), ra, rb, (scope ++ aop), 0#32⟩
  | .casQ p scope rd ra rb => some ⟨p, none, true, false, 52#7, rd, ra, rb, (scope ++ 0#4), 0#32⟩
  | .fence p scope kinds => some ⟨p, none, false, false, 52#7, (0#2 ++ scope), (0#5), (0#5), (0#1 ++ kinds), 0#32⟩
  | .bar p num level => some ⟨p, none, false, false, 53#7, (0#5), (0#5), (0#5), (num ++ level), 0#32⟩
  | .barArm p num level ra => some ⟨p, none, false, false, 53#7, (0#5), ra, (1#5), (num ++ level), 0#32⟩
  | .bara p num level rd => some ⟨p, none, false, false, 54#7, rd, (0#5), (0#5), (num ++ level), 0#32⟩
  | .barw p num level ra => some ⟨p, none, false, false, 55#7, (0#5), ra, (0#5), (num ++ level), 0#32⟩
  | .tbi p ra rb => some ⟨p, none, false, false, 56#7, (0#5), ra, rb, (0#7), 0#32⟩
  | .tba p rd ra rb => some ⟨p, none, false, false, 57#7, rd, ra, rb, (0#7), 0#32⟩
  | .tbw p rd ra rb => some ⟨p, none, false, false, 58#7, rd, ra, rb, (0#7), 0#32⟩
  | .tbt p rd ra rb => some ⟨p, none, false, false, 59#7, rd, ra, rb, (0#7), 0#32⟩
  | .waitc p t c st l => some ⟨p, none, false, true, 60#7, (0#5), (0#5), (0#5), (0#7), (0#8 ++ t ++ c ++ st ++ l)⟩
  | .msnd p ra rb => some ⟨p, none, false, false, 61#7, (0#5), ra, rb, (0#7), 0#32⟩
  | .mrcv p rd ra => some ⟨p, none, false, false, 62#7, rd, ra, (0#5), (0#7), 0#32⟩
  | .mrcvFrom p rd ra => some ⟨p, none, false, false, 62#7, rd, ra, (0#5), (1#7), 0#32⟩
  | .fill p rd ra rb force cls => some ⟨p, none, false, false, 63#7, rd, ra, rb, (0#4 ++ force ++ cls), 0#32⟩
  | .vadd p pred ty rd ra rb => some ⟨p, none, false, false, 64#7, rd, ra, rb, (pred ++ ty), 0#32⟩
  | .vsub p pred ty rd ra rb => some ⟨p, none, false, false, 65#7, rd, ra, rb, (pred ++ ty), 0#32⟩
  | .vmul p pred ty rd ra rb => some ⟨p, none, false, false, 66#7, rd, ra, rb, (pred ++ ty), 0#32⟩
  | .vmulh p pred ty rd ra rb => some ⟨p, none, false, false, 67#7, rd, ra, rb, (pred ++ ty), 0#32⟩
  | .vfma p pred ty rd ra rb => some ⟨p, none, false, false, 68#7, rd, ra, rb, (pred ++ ty), 0#32⟩
  | .vfms p pred ty rd ra rb => some ⟨p, none, false, false, 69#7, rd, ra, rb, (pred ++ ty), 0#32⟩
  | .vfnma p pred ty rd ra rb => some ⟨p, none, false, false, 70#7, rd, ra, rb, (pred ++ ty), 0#32⟩
  | .vmin p pred ty rd ra rb => some ⟨p, none, false, false, 71#7, rd, ra, rb, (pred ++ ty), 0#32⟩
  | .vmax p pred ty rd ra rb => some ⟨p, none, false, false, 72#7, rd, ra, rb, (pred ++ ty), 0#32⟩
  | .vabs p pred ty rd ra => some ⟨p, none, false, false, 73#7, rd, ra, (0#5), (pred ++ ty), 0#32⟩
  | .vneg p pred ty rd ra => some ⟨p, none, false, false, 73#7, rd, ra, (1#5), (pred ++ ty), 0#32⟩
  | .vrcp p pred ty rd ra => some ⟨p, none, false, false, 73#7, rd, ra, (2#5), (pred ++ ty), 0#32⟩
  | .vrsq p pred ty rd ra => some ⟨p, none, false, false, 73#7, rd, ra, (3#5), (pred ++ ty), 0#32⟩
  | .vexp2 p pred ty rd ra => some ⟨p, none, false, false, 73#7, rd, ra, (4#5), (pred ++ ty), 0#32⟩
  | .vlog2 p pred ty rd ra => some ⟨p, none, false, false, 73#7, rd, ra, (5#5), (pred ++ ty), 0#32⟩
  | .vsqrt p pred ty rd ra => some ⟨p, none, false, false, 73#7, rd, ra, (6#5), (pred ++ ty), 0#32⟩
  | .vand p pred rd ra rb => some ⟨p, none, false, false, 74#7, rd, ra, rb, (pred ++ 0#4), 0#32⟩
  | .vor p pred rd ra rb => some ⟨p, none, false, false, 74#7, rd, ra, rb, (pred ++ 1#4), 0#32⟩
  | .vxor p pred rd ra rb => some ⟨p, none, false, false, 74#7, rd, ra, rb, (pred ++ 2#4), 0#32⟩
  | .vlogt p pred ty rd ra rb vc table => some ⟨p, none, false, true, 75#7, rd, ra, rb, (pred ++ ty), (0#19 ++ vc ++ table)⟩
  | .vshl p pred ty rd ra rb => some ⟨p, none, false, false, 76#7, rd, ra, rb, (pred ++ ty), 0#32⟩
  | .vshr p pred ty rd ra rb => some ⟨p, none, false, false, 77#7, rd, ra, rb, (pred ++ ty), 0#32⟩
  | .vsar p pred ty rd ra rb => some ⟨p, none, false, false, 78#7, rd, ra, rb, (pred ++ ty), 0#32⟩
  | .vcmp p pred ty cond rd ra rb part => some ⟨p, none, false, true, 79#7, rd, ra, rb, (pred ++ ty), (0#26 ++ part ++ cond)⟩
  | .vsel p pred ty rd ra rb => some ⟨p, none, false, false, 80#7, rd, ra, rb, (pred ++ ty), 0#32⟩
  | .vcvt p pred ty rd ra dpart spart sty => some ⟨p, none, false, true, 81#7, rd, ra, (0#5), (pred ++ ty), (0#22 ++ dpart ++ spart ++ sty)⟩
  | .vbcst p pred ty rd ra => some ⟨p, none, false, false, 82#7, rd, ra, (0#5), (pred ++ ty), 0#32⟩
  | .vmovsToScalar p ty rd ra rb => some ⟨p, none, false, false, 83#7, rd, ra, rb, (0#2 ++ 0#1 ++ ty), 0#32⟩
  | .vmovsToLane p ty rd ra rb => some ⟨p, none, false, false, 83#7, rd, ra, rb, (0#2 ++ 1#1 ++ ty), 0#32⟩
  | .vperm p pred ty rd ra rb => some ⟨p, none, false, false, 84#7, rd, ra, rb, (pred ++ ty), 0#32⟩
  | .vshuf p pred ty rd ra rb => some ⟨p, none, false, false, 85#7, rd, ra, rb, (pred ++ ty), 0#32⟩
  | .vsld p pred ty rd ra rb => some ⟨p, none, false, false, 86#7, rd, ra, rb, (pred ++ ty), 0#32⟩
  | .vred p pred ty rd ra rop => some ⟨p, none, false, false, 87#7, rd, ra, (0#2 ++ rop), (pred ++ ty), 0#32⟩
  | .vscan p pred ty rd ra rop => some ⟨p, none, false, false, 88#7, rd, ra, (0#2 ++ rop), (pred ++ ty), 0#32⟩
  | .vdot4 p pred ty rd ra rb => some ⟨p, none, false, false, 89#7, rd, ra, rb, (pred ++ ty), 0#32⟩
  | .vlut p pred ty rd ra part => some ⟨p, none, false, false, 90#7, rd, ra, (part), (pred ++ ty), 0#32⟩
  | .vqnt p pred ty rd ra rb => some ⟨p, none, false, false, 91#7, rd, ra, rb, (pred ++ ty), 0#32⟩
  | .vdqnt p pred ty rd ra rb => some ⟨p, none, false, false, 92#7, rd, ra, rb, (pred ++ ty), 0#32⟩
  | .vdiv p pred ty rd ra rb => some ⟨p, none, false, false, 93#7, rd, ra, rb, (pred ++ ty), 0#32⟩
  | .fadd p ty rd ra rb => some ⟨p, none, false, false, 94#7, rd, ra, rb, (0#3 ++ ty), 0#32⟩
  | .fsub p ty rd ra rb => some ⟨p, none, false, false, 94#7, rd, ra, rb, (1#3 ++ ty), 0#32⟩
  | .fmul p ty rd ra rb => some ⟨p, none, false, false, 94#7, rd, ra, rb, (2#3 ++ ty), 0#32⟩
  | .fdiv p ty rd ra rb => some ⟨p, none, false, false, 94#7, rd, ra, rb, (3#3 ++ ty), 0#32⟩
  | .fsqrt p ty rd ra => some ⟨p, none, false, false, 94#7, rd, ra, (0#5), (4#3 ++ ty), 0#32⟩
  | .fmin p ty rd ra rb => some ⟨p, none, false, false, 94#7, rd, ra, rb, (5#3 ++ ty), 0#32⟩
  | .fmax p ty rd ra rb => some ⟨p, none, false, false, 94#7, rd, ra, rb, (6#3 ++ ty), 0#32⟩
  | .fclass p ty rd ra => some ⟨p, none, false, false, 94#7, rd, ra, (0#5), (7#3 ++ ty), 0#32⟩
  | .ffma p ty rd ra rb neg rc => some ⟨p, none, false, true, 95#7, rd, ra, rb, (0#7), (0#21 ++ neg ++ rc ++ ty)⟩
  | .fcmp p cond ty rd ra rb => some ⟨p, none, false, true, 95#7, rd, ra, rb, (1#7), (0#25 ++ cond ++ ty)⟩
  | .fcvt p rd ra dt sty => some ⟨p, none, false, true, 95#7, rd, ra, (0#5), (2#7), (0#24 ++ dt ++ sty)⟩
  | .tsub p rd ra => some ⟨p, none, false, false, 96#7, rd, ra, (0#5), (0#7), 0#32⟩
  | .tsubCopy p ra => some ⟨p, none, false, false, 96#7, (0#5), ra, (0#5), (1#7), 0#32⟩
  | .tqry p rd ra => some ⟨p, none, false, false, 97#7, rd, ra, (0#5), (0#7), 0#32⟩
  | .tqryCopy p rd ra => some ⟨p, none, false, false, 97#7, rd, ra, (0#5), (1#7), 0#32⟩
  | .tcan p rd ra => some ⟨p, none, false, false, 98#7, rd, ra, (0#5), (0#7), 0#32⟩
  | .tcanCopy p rd ra => some ⟨p, none, false, false, 98#7, rd, ra, (0#5), (1#7), 0#32⟩
  | .lutld p ra rb => some ⟨p, none, false, false, 99#7, (0#5), ra, rb, (0#7), 0#32⟩
  | .lutrd p rd h => some ⟨p, none, false, false, 100#7, rd, (0#5), (0#5), (0#6 ++ h), 0#32⟩
  | .rbind p rd ra rb => some ⟨p, none, false, false, 101#7, rd, ra, rb, (0#7), 0#32⟩
  | .rlook p rd ra => some ⟨p, none, false, false, 102#7, rd, ra, (0#5), (0#7), 0#32⟩
  | .revict p rd ra => some ⟨p, none, false, false, 103#7, rd, ra, (0#5), (0#7), 0#32⟩
  | .rinv p rd ra => some ⟨p, none, false, false, 104#7, rd, ra, (0#5), (0#7), 0#32⟩
  | .rinvUnbind p rd ra => some ⟨p, none, false, false, 104#7, rd, ra, (0#5), (1#7), 0#32⟩
  | .sbind p ra qn => some ⟨p, none, false, false, 105#7, (qn), ra, (0#5), (0#7), 0#32⟩
  | .sunb p qn => some ⟨p, none, false, false, 106#7, (qn), (0#5), (0#5), (0#7), 0#32⟩
  | .sqry p rd qn => some ⟨p, none, false, false, 107#7, rd, (qn), (0#5), (0#7), 0#32⟩
  | .spawn p rd ra rb => some ⟨p, none, false, false, 108#7, rd, ra, rb, (0#7), 0#32⟩
  | .launch p rd ra rb => some ⟨p, none, false, false, 109#7, rd, ra, rb, (0#7), 0#32⟩
  | .exit p => some ⟨p, none, false, false, 110#7, (0#5), (0#5), (0#5), (0#7), 0#32⟩
  | .yield p => some ⟨p, none, false, false, 111#7, (0#5), (0#5), (0#5), (0#7), 0#32⟩
  | .park p rd ra => some ⟨p, none, false, false, 112#7, rd, ra, (0#5), (0#7), 0#32⟩
  | .swapctx p ra => some ⟨p, none, false, false, 113#7, (0#5), ra, (0#5), (0#7), 0#32⟩
  | .migr p rd ra => some ⟨p, none, false, false, 114#7, rd, ra, (0#5), (0#7), 0#32⟩
  | .migrAddr p rd ra => some ⟨p, none, false, false, 114#7, rd, ra, (0#5), (1#7), 0#32⟩
  | .home p rd ra => some ⟨p, none, false, false, 115#7, rd, ra, (0#5), (0#7), 0#32⟩
  | .policy p rd ra => some ⟨p, none, false, false, 116#7, rd, ra, (0#5), (0#7), 0#32⟩
  | .lease p rd ra rb => some ⟨p, none, false, false, 117#7, rd, ra, rb, (0#7), 0#32⟩
  | .lrel p rd => some ⟨p, none, false, false, 117#7, rd, (0#5), (0#5), (1#7), 0#32⟩
  | .dnext p => some ⟨p, none, false, false, 118#7, (0#5), (0#5), (0#5), (0#7), 0#32⟩
  | .trap p imm => some ⟨p, none, false, false, 119#7, imm.extractLsb' 10 5, imm.extractLsb' 5 5, imm.extractLsb' 0 5, (0#7), 0#32⟩
  | .eret p ra disp => some ⟨p, none, false, false, 119#7, (0#5), ra, (0#5), (0#2 ++ disp ++ 1#3), 0#32⟩
  | .bkpt p => some ⟨p, none, false, false, 119#7, (0#5), (0#5), (0#5), (2#7), 0#32⟩
  | .tlbi p scope ra rb page => some ⟨p, none, false, false, 119#7, (0#5), ra, rb, (page ++ scope ++ 3#3), 0#32⟩
  | .idle p rd ra => some ⟨p, none, false, false, 119#7, rd, ra, (0#5), (4#7), 0#32⟩
  | .lossOfPower => none
  | .functionEnable => none
  | .uncorrectableError => none
  | .instructionCacheFill => none
  | .illegalInstruction => none

/-- Opcodes of the short kind, 0x00 to 0x1F (R275): the instruction whose fixed fields the word holds. -/
def ofShortA (f : Fields) : Option Instr :=
  if f.op == 0#7 then
    if f.fn.extractLsb' 2 5 == 1#5 then some (.add f.pfx (f.fn.extractLsb' 0 2) f.rd f.ra f.rb)
    else if f.fn.extractLsb' 2 5 == 2#5 then some (.sub f.pfx (f.fn.extractLsb' 0 2) f.rd f.ra f.rb)
    else if f.fn.extractLsb' 2 5 == 3#5 then some (.mul f.pfx (f.fn.extractLsb' 0 2) f.rd f.ra f.rb)
    else if f.fn.extractLsb' 2 5 == 4#5 then some (.mulh f.pfx (f.fn.extractLsb' 0 2) f.rd f.ra f.rb)
    else if f.fn.extractLsb' 2 5 == 5#5 then some (.mulhu f.pfx (f.fn.extractLsb' 0 2) f.rd f.ra f.rb)
    else if f.fn.extractLsb' 2 5 == 6#5 then some (.div f.pfx (f.fn.extractLsb' 0 2) f.rd f.ra f.rb)
    else if f.fn.extractLsb' 2 5 == 7#5 then some (.divu f.pfx (f.fn.extractLsb' 0 2) f.rd f.ra f.rb)
    else if f.fn.extractLsb' 2 5 == 8#5 then some (.rem f.pfx (f.fn.extractLsb' 0 2) f.rd f.ra f.rb)
    else if f.fn.extractLsb' 2 5 == 9#5 then some (.remu f.pfx (f.fn.extractLsb' 0 2) f.rd f.ra f.rb)
    else if f.fn.extractLsb' 2 5 == 10#5 then some (.and f.pfx (f.fn.extractLsb' 0 2) f.rd f.ra f.rb)
    else if f.fn.extractLsb' 2 5 == 11#5 then some (.or f.pfx (f.fn.extractLsb' 0 2) f.rd f.ra f.rb)
    else if f.fn.extractLsb' 2 5 == 12#5 then some (.xor f.pfx (f.fn.extractLsb' 0 2) f.rd f.ra f.rb)
    else if f.fn.extractLsb' 2 5 == 13#5 then some (.andn f.pfx (f.fn.extractLsb' 0 2) f.rd f.ra f.rb)
    else if f.fn.extractLsb' 2 5 == 14#5 then some (.orn f.pfx (f.fn.extractLsb' 0 2) f.rd f.ra f.rb)
    else if f.fn.extractLsb' 2 5 == 15#5 then some (.xnor f.pfx (f.fn.extractLsb' 0 2) f.rd f.ra f.rb)
    else if f.fn.extractLsb' 2 5 == 16#5 then some (.shl f.pfx (f.fn.extractLsb' 0 2) f.rd f.ra f.rb)
    else if f.fn.extractLsb' 2 5 == 17#5 then some (.shr f.pfx (f.fn.extractLsb' 0 2) f.rd f.ra f.rb)
    else if f.fn.extractLsb' 2 5 == 18#5 then some (.sar f.pfx (f.fn.extractLsb' 0 2) f.rd f.ra f.rb)
    else if f.fn.extractLsb' 2 5 == 19#5 then some (.rot f.pfx (f.fn.extractLsb' 0 2) f.rd f.ra f.rb)
    else if f.fn.extractLsb' 2 5 == 20#5 then some (.min f.pfx (f.fn.extractLsb' 0 2) f.rd f.ra f.rb)
    else if f.fn.extractLsb' 2 5 == 21#5 then some (.max f.pfx (f.fn.extractLsb' 0 2) f.rd f.ra f.rb)
    else if f.fn.extractLsb' 2 5 == 22#5 then some (.minu f.pfx (f.fn.extractLsb' 0 2) f.rd f.ra f.rb)
    else if f.fn.extractLsb' 2 5 == 23#5 then some (.maxu f.pfx (f.fn.extractLsb' 0 2) f.rd f.ra f.rb)
    else none
  else if f.op == 2#7 then
    if f.rb == 0#5 then some (.addi f.pfx f.rd f.ra f.fn)
    else none
  else if f.op == 3#7 then
    if f.fn.extractLsb' 6 1 == 0#1 then some (.fshl f.pfx f.rd f.ra f.rb (f.fn.extractLsb' 0 6))
    else if f.fn.extractLsb' 6 1 == 1#1 then some (.fshr f.pfx f.rd f.ra f.rb (f.fn.extractLsb' 0 6))
    else none
  else if f.op == 5#7 then
    if f.rb == 0#5 && f.fn.extractLsb' 2 5 == 1#5 then some (.clz f.pfx (f.fn.extractLsb' 0 2) f.rd f.ra)
    else if f.rb == 0#5 && f.fn.extractLsb' 2 5 == 2#5 then some (.ctz f.pfx (f.fn.extractLsb' 0 2) f.rd f.ra)
    else if f.rb == 0#5 && f.fn.extractLsb' 2 5 == 3#5 then some (.popc f.pfx (f.fn.extractLsb' 0 2) f.rd f.ra)
    else if f.rb == 0#5 && f.fn.extractLsb' 2 5 == 4#5 then some (.brev f.pfx (f.fn.extractLsb' 0 2) f.rd f.ra)
    else if f.rb == 0#5 && f.fn.extractLsb' 2 5 == 5#5 then some (.bswap f.pfx (f.fn.extractLsb' 0 2) f.rd f.ra)
    else if f.rb == 0#5 && f.fn.extractLsb' 2 5 == 6#5 then some (.sext f.pfx (f.fn.extractLsb' 0 2) f.rd f.ra)
    else if f.rb == 0#5 && f.fn.extractLsb' 2 5 == 7#5 then some (.zext f.pfx (f.fn.extractLsb' 0 2) f.rd f.ra)
    else none
  else if f.op == 7#7 then
    if f.ra == 0#5 && f.rb == 0#5 then some (.li f.pfx f.rd f.fn)
    else none
  else if f.op == 9#7 then
    if f.rb == 0#5 && f.fn == 0#7 then some (.mov f.pfx f.rd f.ra)
    else none
  else if f.op == 10#7 then
    if f.fn.extractLsb' 4 3 == 0#3 then some (.sel f.pfx f.rd f.ra f.rb (f.fn.extractLsb' 3 1) (f.fn.extractLsb' 0 3))
    else none
  else if f.op == 11#7 then
    if f.fn.extractLsb' 5 2 == 0#2 then some (.cmp f.pfx (f.fn.extractLsb' 2 3) (f.fn.extractLsb' 0 2) f.rd f.ra f.rb)
    else none
  else if f.op == 12#7 then
    if f.fn.extractLsb' 2 5 == 0#5 && f.fn.extractLsb' 0 2 == 0#2 then some (.pand f.pfx f.rd f.ra f.rb)
    else if f.fn.extractLsb' 2 5 == 0#5 && f.fn.extractLsb' 0 2 == 1#2 then some (.por f.pfx f.rd f.ra f.rb)
    else if f.fn.extractLsb' 2 5 == 0#5 && f.fn.extractLsb' 0 2 == 2#2 then some (.pxor f.pfx f.rd f.ra f.rb)
    else if f.rb == 0#5 && f.fn.extractLsb' 2 5 == 0#5 && f.fn.extractLsb' 0 2 == 3#2 then some (.pnot f.pfx f.rd f.ra)
    else none
  else if f.op == 13#7 then
    some (.lea f.pfx f.rd f.ra f.rb f.fn)
  else if f.op == 14#7 then
    if f.fn.extractLsb' 2 5 == 0#5 then some (.addp f.pfx f.rd f.ra f.rb (f.fn.extractLsb' 0 2))
    else none
  else if f.op == 15#7 then
    if f.rb == 0#5 && f.fn.extractLsb' 5 2 == 0#2 && f.fn.extractLsb' 4 1 == 0#1 then some (.tagsImm f.pfx f.rd f.ra (f.fn.extractLsb' 0 4))
    else if f.fn.extractLsb' 5 2 == 0#2 && f.fn.extractLsb' 4 1 == 1#1 && f.fn.extractLsb' 0 4 == 0#4 then some (.tagsReg f.pfx f.rd f.ra f.rb)
    else none
  else if f.op == 16#7 then
    if f.rd.extractLsb' 4 1 == 0#1 then some (.br f.pfx.ext (f.rd.extractLsb' 3 1) (f.rd.extractLsb' 0 3) (f.ra ++ f.rb ++ f.fn))
    else none
  else if f.op == 17#7 then
    if f.rd == 0#5 then some (.j f.pfx.ext (f.ra ++ f.rb ++ f.fn))
    else none
  else if f.op == 18#7 then
    some (.jl f.pfx.ext f.rd (f.ra ++ f.rb ++ f.fn))
  else if f.op == 19#7 then
    if f.rb == 0#5 then some (.jlr f.pfx.ext f.rd f.ra f.fn)
    else none
  else if f.op == 20#7 then
    if f.rd == 0#5 && f.rb == 0#5 && f.fn == 0#7 then some (.ret f.ra)
    else none
  else if f.op == 21#7 then
    some (.loop f.pfx.ext f.rd (f.ra ++ f.rb ++ f.fn))
  else if f.op == 22#7 then
    if f.fn == 0#7 then some (.mcpy f.pfx f.rd f.ra f.rb)
    else none
  else if f.op == 23#7 then
    if f.fn == 0#7 then some (.mset f.pfx f.rd f.ra f.rb)
    else none
  else if f.op == 24#7 then
    if f.rd == 0#5 && f.ra == 0#5 && f.rb == 0#5 && f.fn == 0#7 then some (.nop)
    else none
  else if f.op == 25#7 then
    if f.ra == 0#5 then some (.csrr f.pfx f.rd (f.rb ++ f.fn))
    else none
  else if f.op == 26#7 then
    if f.rd == 0#5 then some (.csrw f.pfx f.ra (f.rb ++ f.fn))
    else none
  else if f.op == 27#7 then
    some (.csrx f.pfx f.rd f.ra (f.rb ++ f.fn))
  else none

/-- Opcodes of the short kind, 0x20 to 0x3F (R275): the instruction whose fixed fields the word holds. -/
def ofShortB (f : Fields) : Option Instr :=
  if f.op == 32#7 then
    if f.rb.extractLsb' 4 1 == 0#1 then some (.ld f.pfx (f.rb.extractLsb' 3 1) (f.rb.extractLsb' 2 1) (f.rb.extractLsb' 0 2) f.rd f.ra f.fn)
    else none
  else if f.op == 33#7 then
    if f.rb.extractLsb' 4 1 == 0#1 && f.rb.extractLsb' 2 1 == 0#1 then some (.st f.pfx (f.rb.extractLsb' 3 1) (f.rb.extractLsb' 0 2) f.rd f.ra f.fn)
    else none
  else if f.op == 34#7 then
    if f.rb.extractLsb' 4 1 == 0#1 && f.rb.extractLsb' 0 3 == 0#3 then some (.ldv f.pfx (f.rb.extractLsb' 3 1) f.rd f.ra f.fn)
    else none
  else if f.op == 35#7 then
    if f.rb.extractLsb' 4 1 == 0#1 && f.rb.extractLsb' 0 3 == 0#3 then some (.stv f.pfx (f.rb.extractLsb' 3 1) f.rd f.ra f.fn)
    else none
  else if f.op == 36#7 then
    some (.ldg f.pfx (f.fn.extractLsb' 4 3) (f.fn.extractLsb' 0 4) f.rd f.ra f.rb)
  else if f.op == 37#7 then
    some (.stx f.pfx (f.fn.extractLsb' 4 3) (f.fn.extractLsb' 0 4) f.rd f.ra f.rb)
  else if f.op == 38#7 then
    if f.fn.extractLsb' 1 6 == 0#6 then some (.ldb f.pfx (f.fn.extractLsb' 0 1) f.rd f.ra f.rb)
    else none
  else if f.op == 39#7 then
    if f.fn == 0#7 then some (.stb f.pfx f.rd f.ra f.rb)
    else none
  else if f.op == 40#7 then
    some (.lda f.pfx (f.rb.extractLsb' 2 3) (f.rb.extractLsb' 0 2) f.rd f.ra f.fn)
  else if f.op == 41#7 then
    some (.stl f.pfx (f.rb.extractLsb' 2 3) (f.rb.extractLsb' 0 2) f.rd f.ra f.fn)
  else if f.op == 42#7 then
    if f.rb == 0#5 then some (.lde f.pfx f.rd f.ra f.fn)
    else none
  else if f.op == 43#7 then
    if f.rb == 0#5 then some (.stf f.pfx f.rd f.ra f.fn)
    else none
  else if f.op == 44#7 then
    if f.rb == 0#5 then some (.few f.pfx f.rd f.ra f.fn)
    else none
  else if f.op == 45#7 then
    if f.rb == 0#5 then some (.fer f.pfx f.rd f.ra f.fn)
    else none
  else if f.op == 46#7 then
    if f.rb == 0#5 then some (.touch f.pfx f.rd f.ra f.fn)
    else none
  else if f.op == 47#7 then
    if f.rb == 0#5 then some (.tagld f.pfx f.rd f.ra f.fn)
    else none
  else if f.op == 48#7 then
    if f.rb == 0#5 then some (.tagst f.pfx f.rd f.ra f.fn)
    else none
  else if f.op == 49#7 then
    some (.amo f.pfx (f.fn.extractLsb' 4 3) (f.fn.extractLsb' 0 4) f.rd f.ra f.rb)
  else if f.op == 50#7 then
    if f.fn.extractLsb' 0 4 == 0#4 then some (.cas f.pfx (f.fn.extractLsb' 4 3) f.rd f.ra f.rb)
    else none
  else if f.op == 51#7 then
    if f.rd == 0#5 then some (.red f.pfx (f.fn.extractLsb' 4 3) (f.fn.extractLsb' 0 4) f.ra f.rb)
    else none
  else if f.op == 52#7 then
    if f.rd.extractLsb' 3 2 == 0#2 && f.ra == 0#5 && f.rb == 0#5 && f.fn.extractLsb' 6 1 == 0#1 then some (.fence f.pfx (f.rd.extractLsb' 0 3) (f.fn.extractLsb' 0 6))
    else none
  else if f.op == 53#7 then
    if f.rd == 0#5 && f.ra == 0#5 && f.rb == 0#5 then some (.bar f.pfx (f.fn.extractLsb' 3 4) (f.fn.extractLsb' 0 3))
    else if f.rd == 0#5 && f.rb == 1#5 then some (.barArm f.pfx (f.fn.extractLsb' 3 4) (f.fn.extractLsb' 0 3) f.ra)
    else none
  else if f.op == 54#7 then
    if f.ra == 0#5 && f.rb == 0#5 then some (.bara f.pfx (f.fn.extractLsb' 3 4) (f.fn.extractLsb' 0 3) f.rd)
    else none
  else if f.op == 55#7 then
    if f.rd == 0#5 && f.rb == 0#5 then some (.barw f.pfx (f.fn.extractLsb' 3 4) (f.fn.extractLsb' 0 3) f.ra)
    else none
  else if f.op == 56#7 then
    if f.rd == 0#5 && f.fn == 0#7 then some (.tbi f.pfx f.ra f.rb)
    else none
  else if f.op == 57#7 then
    if f.fn == 0#7 then some (.tba f.pfx f.rd f.ra f.rb)
    else none
  else if f.op == 58#7 then
    if f.fn == 0#7 then some (.tbw f.pfx f.rd f.ra f.rb)
    else none
  else if f.op == 59#7 then
    if f.fn == 0#7 then some (.tbt f.pfx f.rd f.ra f.rb)
    else none
  else if f.op == 61#7 then
    if f.rd == 0#5 && f.fn == 0#7 then some (.msnd f.pfx f.ra f.rb)
    else none
  else if f.op == 62#7 then
    if f.rb == 0#5 && f.fn == 0#7 then some (.mrcv f.pfx f.rd f.ra)
    else if f.rb == 0#5 && f.fn == 1#7 then some (.mrcvFrom f.pfx f.rd f.ra)
    else none
  else if f.op == 63#7 then
    if f.fn.extractLsb' 3 4 == 0#4 then some (.fill f.pfx f.rd f.ra f.rb (f.fn.extractLsb' 2 1) (f.fn.extractLsb' 0 2))
    else none
  else none

/-- Opcodes of the short kind, 0x40 to 0x5F (R275): the instruction whose fixed fields the word holds. -/
def ofShortC (f : Fields) : Option Instr :=
  if f.op == 64#7 then
    some (.vadd f.pfx (f.fn.extractLsb' 4 3) (f.fn.extractLsb' 0 4) f.rd f.ra f.rb)
  else if f.op == 65#7 then
    some (.vsub f.pfx (f.fn.extractLsb' 4 3) (f.fn.extractLsb' 0 4) f.rd f.ra f.rb)
  else if f.op == 66#7 then
    some (.vmul f.pfx (f.fn.extractLsb' 4 3) (f.fn.extractLsb' 0 4) f.rd f.ra f.rb)
  else if f.op == 67#7 then
    some (.vmulh f.pfx (f.fn.extractLsb' 4 3) (f.fn.extractLsb' 0 4) f.rd f.ra f.rb)
  else if f.op == 68#7 then
    some (.vfma f.pfx (f.fn.extractLsb' 4 3) (f.fn.extractLsb' 0 4) f.rd f.ra f.rb)
  else if f.op == 69#7 then
    some (.vfms f.pfx (f.fn.extractLsb' 4 3) (f.fn.extractLsb' 0 4) f.rd f.ra f.rb)
  else if f.op == 70#7 then
    some (.vfnma f.pfx (f.fn.extractLsb' 4 3) (f.fn.extractLsb' 0 4) f.rd f.ra f.rb)
  else if f.op == 71#7 then
    some (.vmin f.pfx (f.fn.extractLsb' 4 3) (f.fn.extractLsb' 0 4) f.rd f.ra f.rb)
  else if f.op == 72#7 then
    some (.vmax f.pfx (f.fn.extractLsb' 4 3) (f.fn.extractLsb' 0 4) f.rd f.ra f.rb)
  else if f.op == 73#7 then
    if f.rb == 0#5 then some (.vabs f.pfx (f.fn.extractLsb' 4 3) (f.fn.extractLsb' 0 4) f.rd f.ra)
    else if f.rb == 1#5 then some (.vneg f.pfx (f.fn.extractLsb' 4 3) (f.fn.extractLsb' 0 4) f.rd f.ra)
    else if f.rb == 2#5 then some (.vrcp f.pfx (f.fn.extractLsb' 4 3) (f.fn.extractLsb' 0 4) f.rd f.ra)
    else if f.rb == 3#5 then some (.vrsq f.pfx (f.fn.extractLsb' 4 3) (f.fn.extractLsb' 0 4) f.rd f.ra)
    else if f.rb == 4#5 then some (.vexp2 f.pfx (f.fn.extractLsb' 4 3) (f.fn.extractLsb' 0 4) f.rd f.ra)
    else if f.rb == 5#5 then some (.vlog2 f.pfx (f.fn.extractLsb' 4 3) (f.fn.extractLsb' 0 4) f.rd f.ra)
    else if f.rb == 6#5 then some (.vsqrt f.pfx (f.fn.extractLsb' 4 3) (f.fn.extractLsb' 0 4) f.rd f.ra)
    else none
  else if f.op == 74#7 then
    if f.fn.extractLsb' 0 4 == 0#4 then some (.vand f.pfx (f.fn.extractLsb' 4 3) f.rd f.ra f.rb)
    else if f.fn.extractLsb' 0 4 == 1#4 then some (.vor f.pfx (f.fn.extractLsb' 4 3) f.rd f.ra f.rb)
    else if f.fn.extractLsb' 0 4 == 2#4 then some (.vxor f.pfx (f.fn.extractLsb' 4 3) f.rd f.ra f.rb)
    else none
  else if f.op == 76#7 then
    some (.vshl f.pfx (f.fn.extractLsb' 4 3) (f.fn.extractLsb' 0 4) f.rd f.ra f.rb)
  else if f.op == 77#7 then
    some (.vshr f.pfx (f.fn.extractLsb' 4 3) (f.fn.extractLsb' 0 4) f.rd f.ra f.rb)
  else if f.op == 78#7 then
    some (.vsar f.pfx (f.fn.extractLsb' 4 3) (f.fn.extractLsb' 0 4) f.rd f.ra f.rb)
  else if f.op == 80#7 then
    some (.vsel f.pfx (f.fn.extractLsb' 4 3) (f.fn.extractLsb' 0 4) f.rd f.ra f.rb)
  else if f.op == 82#7 then
    if f.rb == 0#5 then some (.vbcst f.pfx (f.fn.extractLsb' 4 3) (f.fn.extractLsb' 0 4) f.rd f.ra)
    else none
  else if f.op == 83#7 then
    if f.fn.extractLsb' 5 2 == 0#2 && f.fn.extractLsb' 4 1 == 0#1 then some (.vmovsToScalar f.pfx (f.fn.extractLsb' 0 4) f.rd f.ra f.rb)
    else if f.fn.extractLsb' 5 2 == 0#2 && f.fn.extractLsb' 4 1 == 1#1 then some (.vmovsToLane f.pfx (f.fn.extractLsb' 0 4) f.rd f.ra f.rb)
    else none
  else if f.op == 84#7 then
    some (.vperm f.pfx (f.fn.extractLsb' 4 3) (f.fn.extractLsb' 0 4) f.rd f.ra f.rb)
  else if f.op == 85#7 then
    some (.vshuf f.pfx (f.fn.extractLsb' 4 3) (f.fn.extractLsb' 0 4) f.rd f.ra f.rb)
  else if f.op == 86#7 then
    some (.vsld f.pfx (f.fn.extractLsb' 4 3) (f.fn.extractLsb' 0 4) f.rd f.ra f.rb)
  else if f.op == 87#7 then
    if f.rb.extractLsb' 3 2 == 0#2 then some (.vred f.pfx (f.fn.extractLsb' 4 3) (f.fn.extractLsb' 0 4) f.rd f.ra (f.rb.extractLsb' 0 3))
    else none
  else if f.op == 88#7 then
    if f.rb.extractLsb' 3 2 == 0#2 then some (.vscan f.pfx (f.fn.extractLsb' 4 3) (f.fn.extractLsb' 0 4) f.rd f.ra (f.rb.extractLsb' 0 3))
    else none
  else if f.op == 89#7 then
    some (.vdot4 f.pfx (f.fn.extractLsb' 4 3) (f.fn.extractLsb' 0 4) f.rd f.ra f.rb)
  else if f.op == 90#7 then
    some (.vlut f.pfx (f.fn.extractLsb' 4 3) (f.fn.extractLsb' 0 4) f.rd f.ra f.rb)
  else if f.op == 91#7 then
    some (.vqnt f.pfx (f.fn.extractLsb' 4 3) (f.fn.extractLsb' 0 4) f.rd f.ra f.rb)
  else if f.op == 92#7 then
    some (.vdqnt f.pfx (f.fn.extractLsb' 4 3) (f.fn.extractLsb' 0 4) f.rd f.ra f.rb)
  else if f.op == 93#7 then
    some (.vdiv f.pfx (f.fn.extractLsb' 4 3) (f.fn.extractLsb' 0 4) f.rd f.ra f.rb)
  else if f.op == 94#7 then
    if f.fn.extractLsb' 4 3 == 0#3 then some (.fadd f.pfx (f.fn.extractLsb' 0 4) f.rd f.ra f.rb)
    else if f.fn.extractLsb' 4 3 == 1#3 then some (.fsub f.pfx (f.fn.extractLsb' 0 4) f.rd f.ra f.rb)
    else if f.fn.extractLsb' 4 3 == 2#3 then some (.fmul f.pfx (f.fn.extractLsb' 0 4) f.rd f.ra f.rb)
    else if f.fn.extractLsb' 4 3 == 3#3 then some (.fdiv f.pfx (f.fn.extractLsb' 0 4) f.rd f.ra f.rb)
    else if f.rb == 0#5 && f.fn.extractLsb' 4 3 == 4#3 then some (.fsqrt f.pfx (f.fn.extractLsb' 0 4) f.rd f.ra)
    else if f.fn.extractLsb' 4 3 == 5#3 then some (.fmin f.pfx (f.fn.extractLsb' 0 4) f.rd f.ra f.rb)
    else if f.fn.extractLsb' 4 3 == 6#3 then some (.fmax f.pfx (f.fn.extractLsb' 0 4) f.rd f.ra f.rb)
    else if f.rb == 0#5 && f.fn.extractLsb' 4 3 == 7#3 then some (.fclass f.pfx (f.fn.extractLsb' 0 4) f.rd f.ra)
    else none
  else none

/-- Opcodes of the short kind, 0x60 to 0x7F (R275): the instruction whose fixed fields the word holds. -/
def ofShortD (f : Fields) : Option Instr :=
  if f.op == 96#7 then
    if f.rb == 0#5 && f.fn == 0#7 then some (.tsub f.pfx f.rd f.ra)
    else if f.rd == 0#5 && f.rb == 0#5 && f.fn == 1#7 then some (.tsubCopy f.pfx f.ra)
    else none
  else if f.op == 97#7 then
    if f.rb == 0#5 && f.fn == 0#7 then some (.tqry f.pfx f.rd f.ra)
    else if f.rb == 0#5 && f.fn == 1#7 then some (.tqryCopy f.pfx f.rd f.ra)
    else none
  else if f.op == 98#7 then
    if f.rb == 0#5 && f.fn == 0#7 then some (.tcan f.pfx f.rd f.ra)
    else if f.rb == 0#5 && f.fn == 1#7 then some (.tcanCopy f.pfx f.rd f.ra)
    else none
  else if f.op == 99#7 then
    if f.rd == 0#5 && f.fn == 0#7 then some (.lutld f.pfx f.ra f.rb)
    else none
  else if f.op == 100#7 then
    if f.ra == 0#5 && f.rb == 0#5 && f.fn.extractLsb' 1 6 == 0#6 then some (.lutrd f.pfx f.rd (f.fn.extractLsb' 0 1))
    else none
  else if f.op == 101#7 then
    if f.fn == 0#7 then some (.rbind f.pfx f.rd f.ra f.rb)
    else none
  else if f.op == 102#7 then
    if f.rb == 0#5 && f.fn == 0#7 then some (.rlook f.pfx f.rd f.ra)
    else none
  else if f.op == 103#7 then
    if f.rb == 0#5 && f.fn == 0#7 then some (.revict f.pfx f.rd f.ra)
    else none
  else if f.op == 104#7 then
    if f.rb == 0#5 && f.fn == 0#7 then some (.rinv f.pfx f.rd f.ra)
    else if f.rb == 0#5 && f.fn == 1#7 then some (.rinvUnbind f.pfx f.rd f.ra)
    else none
  else if f.op == 105#7 then
    if f.rb == 0#5 && f.fn == 0#7 then some (.sbind f.pfx f.ra f.rd)
    else none
  else if f.op == 106#7 then
    if f.ra == 0#5 && f.rb == 0#5 && f.fn == 0#7 then some (.sunb f.pfx f.rd)
    else none
  else if f.op == 107#7 then
    if f.rb == 0#5 && f.fn == 0#7 then some (.sqry f.pfx f.rd f.ra)
    else none
  else if f.op == 108#7 then
    if f.fn == 0#7 then some (.spawn f.pfx f.rd f.ra f.rb)
    else none
  else if f.op == 109#7 then
    if f.fn == 0#7 then some (.launch f.pfx f.rd f.ra f.rb)
    else none
  else if f.op == 110#7 then
    if f.rd == 0#5 && f.ra == 0#5 && f.rb == 0#5 && f.fn == 0#7 then some (.exit f.pfx)
    else none
  else if f.op == 111#7 then
    if f.rd == 0#5 && f.ra == 0#5 && f.rb == 0#5 && f.fn == 0#7 then some (.yield f.pfx)
    else none
  else if f.op == 112#7 then
    if f.rb == 0#5 && f.fn == 0#7 then some (.park f.pfx f.rd f.ra)
    else none
  else if f.op == 113#7 then
    if f.rd == 0#5 && f.rb == 0#5 && f.fn == 0#7 then some (.swapctx f.pfx f.ra)
    else none
  else if f.op == 114#7 then
    if f.rb == 0#5 && f.fn == 0#7 then some (.migr f.pfx f.rd f.ra)
    else if f.rb == 0#5 && f.fn == 1#7 then some (.migrAddr f.pfx f.rd f.ra)
    else none
  else if f.op == 115#7 then
    if f.rb == 0#5 && f.fn == 0#7 then some (.home f.pfx f.rd f.ra)
    else none
  else if f.op == 116#7 then
    if f.rb == 0#5 && f.fn == 0#7 then some (.policy f.pfx f.rd f.ra)
    else none
  else if f.op == 117#7 then
    if f.fn == 0#7 then some (.lease f.pfx f.rd f.ra f.rb)
    else if f.ra == 0#5 && f.rb == 0#5 && f.fn == 1#7 then some (.lrel f.pfx f.rd)
    else none
  else if f.op == 118#7 then
    if f.rd == 0#5 && f.ra == 0#5 && f.rb == 0#5 && f.fn == 0#7 then some (.dnext f.pfx)
    else none
  else if f.op == 119#7 then
    if f.fn == 0#7 then some (.trap f.pfx (f.rd ++ f.ra ++ f.rb))
    else if f.rd == 0#5 && f.rb == 0#5 && f.fn.extractLsb' 5 2 == 0#2 && f.fn.extractLsb' 0 3 == 1#3 then some (.eret f.pfx f.ra (f.fn.extractLsb' 3 2))
    else if f.rd == 0#5 && f.ra == 0#5 && f.rb == 0#5 && f.fn == 2#7 then some (.bkpt f.pfx)
    else if f.rd == 0#5 && f.fn.extractLsb' 0 3 == 3#3 then some (.tlbi f.pfx (f.fn.extractLsb' 3 3) f.ra f.rb (f.fn.extractLsb' 6 1))
    else if f.rb == 0#5 && f.fn == 4#7 then some (.idle f.pfx f.rd f.ra)
    else none
  else none

/-- Opcodes of the long kind (R275): the instruction whose fixed fields the word holds. -/
def ofLong (f : Fields) : Option Instr :=
  if f.op == 1#7 then
    if f.rb == 0#5 && f.fn.extractLsb' 2 5 == 1#5 then some (.addImm f.pfx (f.fn.extractLsb' 0 2) f.rd f.ra f.pay)
    else if f.rb == 0#5 && f.fn.extractLsb' 2 5 == 2#5 then some (.subImm f.pfx (f.fn.extractLsb' 0 2) f.rd f.ra f.pay)
    else if f.rb == 0#5 && f.fn.extractLsb' 2 5 == 3#5 then some (.mulImm f.pfx (f.fn.extractLsb' 0 2) f.rd f.ra f.pay)
    else if f.rb == 0#5 && f.fn.extractLsb' 2 5 == 4#5 then some (.mulhImm f.pfx (f.fn.extractLsb' 0 2) f.rd f.ra f.pay)
    else if f.rb == 0#5 && f.fn.extractLsb' 2 5 == 5#5 then some (.mulhuImm f.pfx (f.fn.extractLsb' 0 2) f.rd f.ra f.pay)
    else if f.rb == 0#5 && f.fn.extractLsb' 2 5 == 6#5 then some (.divImm f.pfx (f.fn.extractLsb' 0 2) f.rd f.ra f.pay)
    else if f.rb == 0#5 && f.fn.extractLsb' 2 5 == 7#5 then some (.divuImm f.pfx (f.fn.extractLsb' 0 2) f.rd f.ra f.pay)
    else if f.rb == 0#5 && f.fn.extractLsb' 2 5 == 8#5 then some (.remImm f.pfx (f.fn.extractLsb' 0 2) f.rd f.ra f.pay)
    else if f.rb == 0#5 && f.fn.extractLsb' 2 5 == 9#5 then some (.remuImm f.pfx (f.fn.extractLsb' 0 2) f.rd f.ra f.pay)
    else if f.rb == 0#5 && f.fn.extractLsb' 2 5 == 10#5 then some (.andImm f.pfx (f.fn.extractLsb' 0 2) f.rd f.ra f.pay)
    else if f.rb == 0#5 && f.fn.extractLsb' 2 5 == 11#5 then some (.orImm f.pfx (f.fn.extractLsb' 0 2) f.rd f.ra f.pay)
    else if f.rb == 0#5 && f.fn.extractLsb' 2 5 == 12#5 then some (.xorImm f.pfx (f.fn.extractLsb' 0 2) f.rd f.ra f.pay)
    else if f.rb == 0#5 && f.fn.extractLsb' 2 5 == 13#5 then some (.andnImm f.pfx (f.fn.extractLsb' 0 2) f.rd f.ra f.pay)
    else if f.rb == 0#5 && f.fn.extractLsb' 2 5 == 14#5 then some (.ornImm f.pfx (f.fn.extractLsb' 0 2) f.rd f.ra f.pay)
    else if f.rb == 0#5 && f.fn.extractLsb' 2 5 == 15#5 then some (.xnorImm f.pfx (f.fn.extractLsb' 0 2) f.rd f.ra f.pay)
    else if f.rb == 0#5 && f.fn.extractLsb' 2 5 == 16#5 then some (.shlImm f.pfx (f.fn.extractLsb' 0 2) f.rd f.ra f.pay)
    else if f.rb == 0#5 && f.fn.extractLsb' 2 5 == 17#5 then some (.shrImm f.pfx (f.fn.extractLsb' 0 2) f.rd f.ra f.pay)
    else if f.rb == 0#5 && f.fn.extractLsb' 2 5 == 18#5 then some (.sarImm f.pfx (f.fn.extractLsb' 0 2) f.rd f.ra f.pay)
    else if f.rb == 0#5 && f.fn.extractLsb' 2 5 == 19#5 then some (.rotImm f.pfx (f.fn.extractLsb' 0 2) f.rd f.ra f.pay)
    else if f.rb == 0#5 && f.fn.extractLsb' 2 5 == 20#5 then some (.minImm f.pfx (f.fn.extractLsb' 0 2) f.rd f.ra f.pay)
    else if f.rb == 0#5 && f.fn.extractLsb' 2 5 == 21#5 then some (.maxImm f.pfx (f.fn.extractLsb' 0 2) f.rd f.ra f.pay)
    else if f.rb == 0#5 && f.fn.extractLsb' 2 5 == 22#5 then some (.minuImm f.pfx (f.fn.extractLsb' 0 2) f.rd f.ra f.pay)
    else if f.rb == 0#5 && f.fn.extractLsb' 2 5 == 23#5 then some (.maxuImm f.pfx (f.fn.extractLsb' 0 2) f.rd f.ra f.pay)
    else none
  else if f.op == 2#7 then
    if f.rb == 0#5 && f.fn == 0#7 then some (.addiLong f.pfx f.rd f.ra f.pay)
    else none
  else if f.op == 3#7 then
    if f.fn.extractLsb' 6 1 == 0#1 && f.fn.extractLsb' 0 6 == 0#6 && f.pay.extractLsb' 5 27 == 0#27 then some (.fshlReg f.pfx f.rd f.ra f.rb (f.pay.extractLsb' 0 5))
    else if f.fn.extractLsb' 6 1 == 1#1 && f.fn.extractLsb' 0 6 == 0#6 && f.pay.extractLsb' 5 27 == 0#27 then some (.fshrReg f.pfx f.rd f.ra f.rb (f.pay.extractLsb' 0 5))
    else none
  else if f.op == 4#7 then
    if f.fn == 0#7 && f.pay.extractLsb' 13 19 == 0#19 then some (.logt f.pfx f.rd f.ra f.rb (f.pay.extractLsb' 8 5) (f.pay.extractLsb' 0 8))
    else none
  else if f.op == 6#7 then
    if f.rb == 0#5 && f.fn.extractLsb' 2 5 == 0#5 && f.fn.extractLsb' 0 2 == 1#2 && f.pay.extractLsb' 13 19 == 0#19 then some (.bfx f.pfx f.rd f.ra (f.pay.extractLsb' 6 7) (f.pay.extractLsb' 0 6))
    else if f.rb == 0#5 && f.fn.extractLsb' 2 5 == 0#5 && f.fn.extractLsb' 0 2 == 2#2 && f.pay.extractLsb' 13 19 == 0#19 then some (.bfxu f.pfx f.rd f.ra (f.pay.extractLsb' 6 7) (f.pay.extractLsb' 0 6))
    else if f.rb == 0#5 && f.fn.extractLsb' 2 5 == 0#5 && f.fn.extractLsb' 0 2 == 3#2 && f.pay.extractLsb' 13 19 == 0#19 then some (.bfi f.pfx f.rd f.ra (f.pay.extractLsb' 6 7) (f.pay.extractLsb' 0 6))
    else none
  else if f.op == 7#7 then
    if f.ra == 0#5 && f.rb == 0#5 && f.fn == 0#7 then some (.liLong f.pfx f.rd f.pay)
    else none
  else if f.op == 8#7 then
    if f.rb == 0#5 && f.fn == 0#7 then some (.lih f.rd f.ra f.pay)
    else none
  else if f.op == 11#7 then
    if f.rb == 0#5 && f.fn.extractLsb' 5 2 == 0#2 then some (.cmpImm f.pfx (f.fn.extractLsb' 2 3) (f.fn.extractLsb' 0 2) f.rd f.ra f.pay)
    else none
  else if f.op == 13#7 then
    if f.fn == 0#7 then some (.leaLong f.pfx f.rd f.ra f.rb f.pay)
    else none
  else if f.op == 16#7 then
    if f.rd.extractLsb' 4 1 == 0#1 && f.ra == 0#5 && f.rb == 0#5 && f.fn == 0#7 then some (.brLong f.pfx.ext (f.rd.extractLsb' 3 1) (f.rd.extractLsb' 0 3) f.pay)
    else none
  else if f.op == 17#7 then
    if f.rd == 0#5 && f.ra == 0#5 && f.rb == 0#5 && f.fn == 0#7 then some (.jLong f.pfx.ext f.pay)
    else none
  else if f.op == 18#7 then
    if f.ra == 0#5 && f.rb == 0#5 && f.fn == 0#7 then some (.jlLong f.pfx.ext f.rd f.pay)
    else none
  else if f.op == 19#7 then
    if f.rb == 0#5 && f.fn == 0#7 then some (.jlrLong f.pfx.ext f.rd f.ra f.pay)
    else none
  else if f.op == 21#7 then
    if f.ra == 0#5 && f.rb == 0#5 && f.fn == 0#7 then some (.loopLong f.pfx.ext f.rd f.pay)
    else none
  else if f.op == 32#7 then
    if f.rb.extractLsb' 4 1 == 0#1 && f.fn == 0#7 then some (.ldLong f.pfx (f.rb.extractLsb' 3 1) (f.rb.extractLsb' 2 1) (f.rb.extractLsb' 0 2) f.rd f.ra f.pay)
    else none
  else if f.op == 33#7 then
    if f.rb.extractLsb' 4 1 == 0#1 && f.rb.extractLsb' 2 1 == 0#1 && f.fn == 0#7 then some (.stLong f.pfx (f.rb.extractLsb' 3 1) (f.rb.extractLsb' 0 2) f.rd f.ra f.pay)
    else none
  else if f.op == 34#7 then
    if f.rb.extractLsb' 4 1 == 0#1 && f.rb.extractLsb' 0 3 == 0#3 && f.fn == 0#7 then some (.ldvLong f.pfx (f.rb.extractLsb' 3 1) f.rd f.ra f.pay)
    else none
  else if f.op == 35#7 then
    if f.rb.extractLsb' 4 1 == 0#1 && f.rb.extractLsb' 0 3 == 0#3 && f.fn == 0#7 then some (.stvLong f.pfx (f.rb.extractLsb' 3 1) f.rd f.ra f.pay)
    else none
  else if f.op == 40#7 then
    if f.fn == 0#7 then some (.ldaLong f.pfx (f.rb.extractLsb' 2 3) (f.rb.extractLsb' 0 2) f.rd f.ra f.pay)
    else none
  else if f.op == 41#7 then
    if f.fn == 0#7 then some (.stlLong f.pfx (f.rb.extractLsb' 2 3) (f.rb.extractLsb' 0 2) f.rd f.ra f.pay)
    else none
  else if f.op == 42#7 then
    if f.rb == 0#5 && f.fn == 0#7 then some (.ldeLong f.pfx f.rd f.ra f.pay)
    else none
  else if f.op == 43#7 then
    if f.rb == 0#5 && f.fn == 0#7 then some (.stfLong f.pfx f.rd f.ra f.pay)
    else none
  else if f.op == 44#7 then
    if f.rb == 0#5 && f.fn == 0#7 then some (.fewLong f.pfx f.rd f.ra f.pay)
    else none
  else if f.op == 45#7 then
    if f.rb == 0#5 && f.fn == 0#7 then some (.ferLong f.pfx f.rd f.ra f.pay)
    else none
  else if f.op == 46#7 then
    if f.rb == 0#5 && f.fn == 0#7 then some (.touchLong f.pfx f.rd f.ra f.pay)
    else none
  else if f.op == 47#7 then
    if f.rb == 0#5 && f.fn == 0#7 then some (.tagldLong f.pfx f.rd f.ra f.pay)
    else none
  else if f.op == 48#7 then
    if f.rb == 0#5 && f.fn == 0#7 then some (.tagstLong f.pfx f.rd f.ra f.pay)
    else none
  else if f.op == 60#7 then
    if f.rd == 0#5 && f.ra == 0#5 && f.rb == 0#5 && f.fn == 0#7 && f.pay.extractLsb' 24 8 == 0#8 then some (.waitc f.pfx (f.pay.extractLsb' 18 6) (f.pay.extractLsb' 12 6) (f.pay.extractLsb' 6 6) (f.pay.extractLsb' 0 6))
    else none
  else if f.op == 75#7 then
    if f.pay.extractLsb' 13 19 == 0#19 then some (.vlogt f.pfx (f.fn.extractLsb' 4 3) (f.fn.extractLsb' 0 4) f.rd f.ra f.rb (f.pay.extractLsb' 8 5) (f.pay.extractLsb' 0 8))
    else none
  else if f.op == 79#7 then
    if f.pay.extractLsb' 6 26 == 0#26 then some (.vcmp f.pfx (f.fn.extractLsb' 4 3) (f.fn.extractLsb' 0 4) (f.pay.extractLsb' 0 3) f.rd f.ra f.rb (f.pay.extractLsb' 3 3))
    else none
  else if f.op == 81#7 then
    if f.rb == 0#5 && f.pay.extractLsb' 10 22 == 0#22 then some (.vcvt f.pfx (f.fn.extractLsb' 4 3) (f.fn.extractLsb' 0 4) f.rd f.ra (f.pay.extractLsb' 7 3) (f.pay.extractLsb' 4 3) (f.pay.extractLsb' 0 4))
    else none
  else if f.op == 95#7 then
    if f.fn == 0#7 && f.pay.extractLsb' 11 21 == 0#21 then some (.ffma f.pfx (f.pay.extractLsb' 0 4) f.rd f.ra f.rb (f.pay.extractLsb' 9 2) (f.pay.extractLsb' 4 5))
    else if f.fn == 1#7 && f.pay.extractLsb' 7 25 == 0#25 then some (.fcmp f.pfx (f.pay.extractLsb' 4 3) (f.pay.extractLsb' 0 4) f.rd f.ra f.rb)
    else if f.rb == 0#5 && f.fn == 2#7 && f.pay.extractLsb' 8 24 == 0#24 then some (.fcvt f.pfx f.rd f.ra (f.pay.extractLsb' 4 4) (f.pay.extractLsb' 0 4))
    else none
  else none

/-- Opcodes of page 1 (R276) (R275): the instruction whose fixed fields the word holds. -/
def ofPage1 (f : Fields) : Option Instr :=
  if f.op == 49#7 then
    some (.amoI32 f.pfx (f.fn.extractLsb' 4 3) (f.fn.extractLsb' 0 4) f.rd f.ra f.rb)
  else if f.op == 50#7 then
    if f.fn.extractLsb' 0 4 == 0#4 then some (.casI32 f.pfx (f.fn.extractLsb' 4 3) f.rd f.ra f.rb)
    else none
  else if f.op == 51#7 then
    if f.rd == 0#5 then some (.redI32 f.pfx (f.fn.extractLsb' 4 3) (f.fn.extractLsb' 0 4) f.ra f.rb)
    else none
  else if f.op == 52#7 then
    if f.fn.extractLsb' 0 4 == 0#4 then some (.casQ f.pfx (f.fn.extractLsb' 4 3) f.rd f.ra f.rb)
    else none
  else none

/-- The instruction a well-formed set of fields names (R275 to R277); none for a code point that is not one. -/
def ofFields (f : Fields) : Option Instr :=
  let base : Option Instr :=
    if f.page then (if f.long then none else ofPage1 f)
    else if f.long then ofLong f
    else if f.op.toNat < 32 then ofShortA f
    else if f.op.toNat < 64 then ofShortB f
    else if f.op.toNat < 96 then ofShortC f
    else ofShortD f
  match base, f.rep with
  | some i, some r => some (.rep r.cnt r.adv0 r.adv1 r.step i)
  | b, none => b
  | none, _ => none

/-- What each instruction's register fields name and which prefix types it accepts (R271, R275, R287 to R391). -/
def info : Instr → Info
  | .gallery85cCrossing => Info.event
  | .gallery80cRelease => Info.event
  | .gallery95cThrottle => Info.event
  | .gallery90cRelease => Info.event
  | .emergencySave => Info.event
  | .saveComplete => Info.event
  | .railCut => Info.event
  | .savectlResume => Info.event
  | .withdrawableSuspendBegin => Info.event
  | .withdrawableSuspendEnd => Info.event
  | .powerSample => Info.event
  | .energyUpdate => Info.event
  | .energysetWrite => Info.event
  | .qaddWrite => Info.event
  | .sprintmaxWrite => Info.event
  | .islandFreqChange => Info.event
  | .meltUpdate => Info.event
  | .leaseExpiry => Info.event
  | .islandOwnerWrite => Info.event
  | .ownerChange => Info.event
  | .savelistRead => Info.event
  | .flitInject => Info.event
  | .flitHop => Info.event
  | .floorTransfer => Info.event
  | .configFlit => Info.event
  | .memoryRequestArrive => Info.event
  | .memoryService => Info.event
  | .refreshService => Info.event
  | .memoryAccessDone => Info.event
  | .memoryReplyInject => Info.event
  | .cmSetup => Info.event
  | .cmTeardown => Info.event
  | .cmResize => Info.event
  | .cmSetWheel => Info.event
  | .cmReadEntry => Info.event
  | .circuitActivate => Info.event
  | .teardownSuspend => Info.event
  | .teardownRemove => Info.event
  | .wheelChange => Info.event
  | .hallLockLoss => Info.event
  | .floorEntryClear => Info.event
  | .hallRelock => Info.event
  | .floorEntryRestore => Info.event
  | .podFlitReceive => Info.event
  | .podAck => Info.event
  | .podLockLoss => Info.event
  | .podOpticalLock => Info.event
  | .podResume => Info.event
  | .partitionHold => Info.event
  | .partitionRelease => Info.event
  | .hostMw1Read => Info.event
  | .hostMw1Write => Info.event
  | .hostfaultRead => Info.event
  | .lqbaseWrite => Info.event
  | .lqtailWrite => Info.event
  | .lqstatErrClear => Info.event
  | .queuePacketFetch => Info.event
  | .intcauseClear => Info.event
  | .functionLevelReset => Info.event
  | .podidWrite => Info.event
  | .pairgrantWrite => Info.event
  | .pairingMatch => Info.event
  | .moduleStart => Info.event
  | .recgoWrite => Info.event
  | .recoveryFlashDone => Info.event
  | .bootrecClear => Info.event
  | .attreqWrite => Info.event
  | .attestationReportReady => Info.event
  | .snapshotTake => Info.event
  | .snapshotTaken => Info.event
  | .snapshotRelease => Info.event
  | .snapshotRestore => Info.event
  | .snapshotRestored => Info.event
  | .hostLinkLoss => Info.event
  | .dependencePoll => Info.event
  | .dispatchBegin => Info.event
  | .slotSelect => Info.event
  | .launchRetire => Info.event
  | .donefaultRead => Info.event
  | .dueEviction => Info.event
  | .stallEviction => Info.event
  | .strandWake => Info.event
  | .vacate => Info.event
  | .vacateDone => Info.event
  | .vacateRelease => Info.event
  | .dpartWrite => Info.event
  | .clbaseWrite => Info.event
  | .clctlModeWrite => Info.event
  | .logPause => Info.event
  | .clctlResume => Info.event
  | .clctlAbort => Info.event
  | .lineFetchDone => Info.event
  | .keptWritebackRetry => Info.event
  | .transitFlitSend => Info.event
  | .travelDepart => Info.event
  | .carryArrive => Info.event
  | .lineRequest => Info.event
  | .lineReply => Info.event
  | .transitLineWriteback => Info.event
  | .writebackAck => Info.event
  | .remoteAccessRequest => Info.event
  | .remoteAccessReply => Info.event
  | .controlDelta => Info.event
  | .walkComplete => Info.event
  | .windowFillComplete => Info.event
  | .windowWritebackComplete => Info.event
  | .migrationDecay => Info.event
  | .pageMoveFlip => Info.event
  | .zeroctlGo => Info.event
  | .zeroComplete => Info.event
  | .loadReply => Info.event
  | .storeAck => Info.event
  | .atomicReply => Info.event
  | .feResend => Info.event
  | .withdrawal => Info.event
  | .streamMemoryFetch => Info.event
  | .streamMemoryWrite => Info.event
  | .streamFlitArrive => Info.event
  | .tileTaskStart => Info.event
  | .tileTaskComplete => Info.event
  | .copyChunk => Info.event
  | .messageArrive => Info.event
  | .msndResend => Info.event
  | .asyncTrapTake => Info.event
  | .trapDeliver => Info.event
  | .handlerHandover => Info.event
  | .thctxWrite => Info.event
  | .thcntWrite => Info.event
  | .vfStop => Info.event
  | .vfStopApply => Info.event
  | .vfResume => Info.event
  | .vfResumeApply => Info.event
  | .dbgsubGo => Info.event
  | .debugTokenVerified => Info.event
  | .dbgstatEnd => Info.event
  | .debugAuthExpire => Info.event
  | .dbgctlWrite => Info.event
  | .dbgkeyWrite => Info.event
  | .dbgevRead => Info.event
  | .strcmdStop => Info.event
  | .strcmdResume => Info.event
  | .strcmdStep => Info.event
  | .strcmdResumeRpc => Info.event
  | .strcmdEnd => Info.event
  | .hallHalt => Info.event
  | .hallHaltRelease => Info.event
  | .barrierWatchdog => Info.event
  | .registerWrite => Info.event
  | .add _ _ _ _ _ => ⟨.sW, .sR, .sR, false, true, true, true, false, false⟩
  | .sub _ _ _ _ _ => ⟨.sW, .sR, .sR, false, true, true, true, false, false⟩
  | .mul _ _ _ _ _ => ⟨.sW, .sR, .sR, false, true, true, true, false, false⟩
  | .mulh _ _ _ _ _ => ⟨.sW, .sR, .sR, false, true, true, true, false, false⟩
  | .mulhu _ _ _ _ _ => ⟨.sW, .sR, .sR, false, true, true, true, false, false⟩
  | .div _ _ _ _ _ => ⟨.sW, .sR, .sR, false, true, true, true, false, false⟩
  | .divu _ _ _ _ _ => ⟨.sW, .sR, .sR, false, true, true, true, false, false⟩
  | .rem _ _ _ _ _ => ⟨.sW, .sR, .sR, false, true, true, true, false, false⟩
  | .remu _ _ _ _ _ => ⟨.sW, .sR, .sR, false, true, true, true, false, false⟩
  | .and _ _ _ _ _ => ⟨.sW, .sR, .sR, false, true, true, true, false, false⟩
  | .or _ _ _ _ _ => ⟨.sW, .sR, .sR, false, true, true, true, false, false⟩
  | .xor _ _ _ _ _ => ⟨.sW, .sR, .sR, false, true, true, true, false, false⟩
  | .andn _ _ _ _ _ => ⟨.sW, .sR, .sR, false, true, true, true, false, false⟩
  | .orn _ _ _ _ _ => ⟨.sW, .sR, .sR, false, true, true, true, false, false⟩
  | .xnor _ _ _ _ _ => ⟨.sW, .sR, .sR, false, true, true, true, false, false⟩
  | .shl _ _ _ _ _ => ⟨.sW, .sR, .sR, false, true, true, true, false, false⟩
  | .shr _ _ _ _ _ => ⟨.sW, .sR, .sR, false, true, true, true, false, false⟩
  | .sar _ _ _ _ _ => ⟨.sW, .sR, .sR, false, true, true, true, false, false⟩
  | .rot _ _ _ _ _ => ⟨.sW, .sR, .sR, false, true, true, true, false, false⟩
  | .min _ _ _ _ _ => ⟨.sW, .sR, .sR, false, true, true, true, false, false⟩
  | .max _ _ _ _ _ => ⟨.sW, .sR, .sR, false, true, true, true, false, false⟩
  | .minu _ _ _ _ _ => ⟨.sW, .sR, .sR, false, true, true, true, false, false⟩
  | .maxu _ _ _ _ _ => ⟨.sW, .sR, .sR, false, true, true, true, false, false⟩
  | .addImm _ _ _ _ _ => ⟨.sW, .sR, .no, true, true, true, true, false, false⟩
  | .subImm _ _ _ _ _ => ⟨.sW, .sR, .no, true, true, true, true, false, false⟩
  | .mulImm _ _ _ _ _ => ⟨.sW, .sR, .no, true, true, true, true, false, false⟩
  | .mulhImm _ _ _ _ _ => ⟨.sW, .sR, .no, true, true, true, true, false, false⟩
  | .mulhuImm _ _ _ _ _ => ⟨.sW, .sR, .no, true, true, true, true, false, false⟩
  | .divImm _ _ _ _ _ => ⟨.sW, .sR, .no, true, true, true, true, false, false⟩
  | .divuImm _ _ _ _ _ => ⟨.sW, .sR, .no, true, true, true, true, false, false⟩
  | .remImm _ _ _ _ _ => ⟨.sW, .sR, .no, true, true, true, true, false, false⟩
  | .remuImm _ _ _ _ _ => ⟨.sW, .sR, .no, true, true, true, true, false, false⟩
  | .andImm _ _ _ _ _ => ⟨.sW, .sR, .no, true, true, true, true, false, false⟩
  | .orImm _ _ _ _ _ => ⟨.sW, .sR, .no, true, true, true, true, false, false⟩
  | .xorImm _ _ _ _ _ => ⟨.sW, .sR, .no, true, true, true, true, false, false⟩
  | .andnImm _ _ _ _ _ => ⟨.sW, .sR, .no, true, true, true, true, false, false⟩
  | .ornImm _ _ _ _ _ => ⟨.sW, .sR, .no, true, true, true, true, false, false⟩
  | .xnorImm _ _ _ _ _ => ⟨.sW, .sR, .no, true, true, true, true, false, false⟩
  | .shlImm _ _ _ _ _ => ⟨.sW, .sR, .no, true, true, true, true, false, false⟩
  | .shrImm _ _ _ _ _ => ⟨.sW, .sR, .no, true, true, true, true, false, false⟩
  | .sarImm _ _ _ _ _ => ⟨.sW, .sR, .no, true, true, true, true, false, false⟩
  | .rotImm _ _ _ _ _ => ⟨.sW, .sR, .no, true, true, true, true, false, false⟩
  | .minImm _ _ _ _ _ => ⟨.sW, .sR, .no, true, true, true, true, false, false⟩
  | .maxImm _ _ _ _ _ => ⟨.sW, .sR, .no, true, true, true, true, false, false⟩
  | .minuImm _ _ _ _ _ => ⟨.sW, .sR, .no, true, true, true, true, false, false⟩
  | .maxuImm _ _ _ _ _ => ⟨.sW, .sR, .no, true, true, true, true, false, false⟩
  | .addi _ _ _ _ => ⟨.sW, .sR, .no, true, true, true, true, false, false⟩
  | .addiLong _ _ _ _ => ⟨.sW, .sR, .no, true, true, true, true, false, false⟩
  | .fshl _ _ _ _ _ => ⟨.sW, .sR, .sR, false, false, true, true, false, false⟩
  | .fshr _ _ _ _ _ => ⟨.sW, .sR, .sR, false, false, true, true, false, false⟩
  | .fshlReg _ _ _ _ _ => ⟨.sW, .sR, .sR, false, false, true, true, false, false⟩
  | .fshrReg _ _ _ _ _ => ⟨.sW, .sR, .sR, false, false, true, true, false, false⟩
  | .logt _ _ _ _ _ _ => ⟨.sW, .sR, .sR, false, false, true, true, false, false⟩
  | .clz _ _ _ _ => ⟨.sW, .sR, .no, false, false, true, true, false, false⟩
  | .ctz _ _ _ _ => ⟨.sW, .sR, .no, false, false, true, true, false, false⟩
  | .popc _ _ _ _ => ⟨.sW, .sR, .no, false, false, true, true, false, false⟩
  | .brev _ _ _ _ => ⟨.sW, .sR, .no, false, false, true, true, false, false⟩
  | .bswap _ _ _ _ => ⟨.sW, .sR, .no, false, false, true, true, false, false⟩
  | .sext _ _ _ _ => ⟨.sW, .sR, .no, false, false, true, true, false, false⟩
  | .zext _ _ _ _ => ⟨.sW, .sR, .no, false, false, true, true, false, false⟩
  | .bfx _ _ _ _ _ => ⟨.sW, .sR, .no, false, false, true, true, false, false⟩
  | .bfxu _ _ _ _ _ => ⟨.sW, .sR, .no, false, false, true, true, false, false⟩
  | .bfi _ _ _ _ _ => ⟨.sRW, .sR, .no, false, false, true, true, false, false⟩
  | .li _ _ _ => ⟨.sW, .no, .no, true, false, true, false, false, false⟩
  | .liLong _ _ _ => ⟨.sW, .no, .no, true, false, true, false, false, false⟩
  | .lih _ _ _ => ⟨.sW, .sR, .no, false, false, false, false, false, false⟩
  | .mov _ _ _ => ⟨.sW, .sR, .no, false, false, true, true, false, false⟩
  | .sel _ _ _ _ _ _ => ⟨.sW, .sR, .sR, false, false, true, true, false, false⟩
  | .cmp _ _ _ _ _ _ => ⟨.pW, .sR, .sR, false, false, true, false, false, false⟩
  | .cmpImm _ _ _ _ _ _ => ⟨.pW, .sR, .no, true, false, true, false, false, false⟩
  | .pand _ _ _ _ => ⟨.pW, .pR, .pR, false, false, true, false, false, false⟩
  | .por _ _ _ _ => ⟨.pW, .pR, .pR, false, false, true, false, false, false⟩
  | .pxor _ _ _ _ => ⟨.pW, .pR, .pR, false, false, true, false, false, false⟩
  | .pnot _ _ _ => ⟨.pW, .pR, .no, false, false, true, false, false, false⟩
  | .lea _ _ _ _ _ => ⟨.sW, .sR, .sR, true, false, true, false, false, false⟩
  | .leaLong _ _ _ _ _ => ⟨.sW, .sR, .sR, true, false, true, false, false, false⟩
  | .addp _ _ _ _ _ => ⟨.sW, .sR, .sR, false, false, true, true, false, false⟩
  | .tagsImm _ _ _ _ => ⟨.sW, .sR, .no, false, false, true, true, false, false⟩
  | .tagsReg _ _ _ _ => ⟨.sW, .sR, .sR, false, false, true, true, false, false⟩
  | .br _ _ _ _ => ⟨.no, .no, .no, true, false, false, false, false, false⟩
  | .brLong _ _ _ _ => ⟨.no, .no, .no, true, false, false, false, false, false⟩
  | .j _ _ => ⟨.no, .no, .no, true, false, false, false, false, false⟩
  | .jLong _ _ => ⟨.no, .no, .no, true, false, false, false, false, false⟩
  | .jl _ _ _ => ⟨.sW, .no, .no, true, false, false, false, false, false⟩
  | .jlLong _ _ _ => ⟨.sW, .no, .no, true, false, false, false, false, false⟩
  | .jlr _ _ _ _ => ⟨.sW, .sR, .no, true, false, false, false, false, false⟩
  | .jlrLong _ _ _ _ => ⟨.sW, .sR, .no, true, false, false, false, false, false⟩
  | .ret _ => ⟨.no, .sR, .no, false, false, false, false, false, false⟩
  | .loop _ _ _ => ⟨.sRW, .no, .no, true, false, false, false, false, false⟩
  | .loopLong _ _ _ => ⟨.sRW, .no, .no, true, false, false, false, false, false⟩
  | .rep _ _ _ _ body => info body
  | .mcpy _ _ _ _ => ⟨.no, .no, .no, false, false, true, false, true, false⟩
  | .mset _ _ _ _ => ⟨.no, .no, .no, false, false, true, false, true, false⟩
  | .nop => ⟨.no, .no, .no, false, false, false, false, false, false⟩
  | .csrr _ _ _ => ⟨.sW, .no, .no, false, false, true, false, false, false⟩
  | .csrw _ _ _ => ⟨.no, .sR, .no, false, false, true, false, false, false⟩
  | .csrx _ _ _ _ => ⟨.sW, .sR, .no, false, false, true, false, false, false⟩
  | .ld _ post _ _ _ _ _ => ⟨.sW, (baseRole post), .no, true, false, true, true, true, false⟩
  | .ldLong _ post _ _ _ _ _ => ⟨.sW, (baseRole post), .no, true, false, true, true, true, false⟩
  | .st _ post _ _ _ _ => ⟨.sR, (baseRole post), .no, true, false, true, true, true, false⟩
  | .stLong _ post _ _ _ _ => ⟨.sR, (baseRole post), .no, true, false, true, true, true, false⟩
  | .ldv _ post _ _ _ => ⟨.vW, (baseRole post), .no, true, false, true, true, true, false⟩
  | .ldvLong _ post _ _ _ => ⟨.vW, (baseRole post), .no, true, false, true, true, true, false⟩
  | .stv _ post _ _ _ => ⟨.vR, (baseRole post), .no, true, false, true, true, true, false⟩
  | .stvLong _ post _ _ _ => ⟨.vR, (baseRole post), .no, true, false, true, true, true, false⟩
  | .ldg _ _ _ _ _ _ => ⟨.vW, .sR, .vR, false, false, true, true, true, false⟩
  | .stx _ _ _ _ _ _ => ⟨.vR, .sR, .vR, false, false, true, true, true, false⟩
  | .ldb _ _ _ _ _ => ⟨.sW, .dR, .sR, false, false, true, true, true, false⟩
  | .stb _ _ _ _ => ⟨.sR, .dR, .sR, false, false, true, true, true, false⟩
  | .lda _ _ _ _ _ _ => ⟨.sW, .sR, .no, true, false, true, false, true, false⟩
  | .ldaLong _ _ _ _ _ _ => ⟨.sW, .sR, .no, true, false, true, false, true, false⟩
  | .stl _ _ _ _ _ _ => ⟨.sR, .sR, .no, true, false, true, false, true, false⟩
  | .stlLong _ _ _ _ _ _ => ⟨.sR, .sR, .no, true, false, true, false, true, false⟩
  | .lde _ _ _ _ => ⟨.sW, .sR, .no, true, false, true, false, true, true⟩
  | .ldeLong _ _ _ _ => ⟨.sW, .sR, .no, true, false, true, false, true, true⟩
  | .stf _ _ _ _ => ⟨.sR, .sR, .no, true, false, true, false, true, true⟩
  | .stfLong _ _ _ _ => ⟨.sR, .sR, .no, true, false, true, false, true, true⟩
  | .few _ _ _ _ => ⟨.sR, .sR, .no, true, false, true, false, true, true⟩
  | .fewLong _ _ _ _ => ⟨.sR, .sR, .no, true, false, true, false, true, true⟩
  | .fer _ _ _ _ => ⟨.sW, .sR, .no, true, false, true, false, true, true⟩
  | .ferLong _ _ _ _ => ⟨.sW, .sR, .no, true, false, true, false, true, true⟩
  | .touch _ _ _ _ => ⟨.sW, .sR, .no, true, false, true, false, false, false⟩
  | .touchLong _ _ _ _ => ⟨.sW, .sR, .no, true, false, true, false, false, false⟩
  | .tagld _ _ _ _ => ⟨.sW, .sR, .no, true, false, true, true, true, false⟩
  | .tagldLong _ _ _ _ => ⟨.sW, .sR, .no, true, false, true, true, true, false⟩
  | .tagst _ _ _ _ => ⟨.sR, .sR, .no, true, false, true, true, true, false⟩
  | .tagstLong _ _ _ _ => ⟨.sR, .sR, .no, true, false, true, true, true, false⟩
  | .amo _ _ _ _ _ _ => ⟨.sW, .sR, .sR, false, false, true, false, true, false⟩
  | .cas _ _ _ _ _ => ⟨.sRW, .sR, .sR, false, false, true, false, true, false⟩
  | .red _ _ _ _ _ => ⟨.no, .sR, .sR, false, false, true, false, true, false⟩
  | .amoI32 _ _ _ _ _ _ => ⟨.sW, .sR, .sR, false, false, true, false, true, false⟩
  | .casI32 _ _ _ _ _ => ⟨.sRW, .sR, .sR, false, false, true, false, true, false⟩
  | .redI32 _ _ _ _ _ => ⟨.no, .sR, .sR, false, false, true, false, true, false⟩
  | .casQ _ _ _ _ _ => ⟨.dRW, .sR, .dR, false, false, true, false, true, false⟩
  | .fence _ _ _ => ⟨.no, .no, .no, false, false, true, false, false, false⟩
  | .bar _ _ _ => ⟨.no, .no, .no, false, false, true, false, false, false⟩
  | .barArm _ _ _ _ => ⟨.no, .sR, .no, false, false, true, false, false, false⟩
  | .bara _ _ _ _ => ⟨.sW, .no, .no, false, false, true, false, false, false⟩
  | .barw _ _ _ _ => ⟨.no, .sR, .no, false, false, true, false, false, false⟩
  | .tbi _ _ _ => ⟨.no, .sR, .sR, false, false, true, false, true, false⟩
  | .tba _ _ _ _ => ⟨.sW, .sR, .sR, false, false, true, false, true, false⟩
  | .tbw _ _ _ _ => ⟨.sW, .sR, .sR, false, false, true, false, true, false⟩
  | .tbt _ _ _ _ => ⟨.sW, .sR, .sR, false, false, true, false, true, false⟩
  | .waitc _ _ _ _ _ => ⟨.no, .no, .no, false, false, true, false, false, false⟩
  | .msnd _ _ _ => ⟨.no, .sR, .sR, false, false, true, false, false, false⟩
  | .mrcv _ _ _ => ⟨.sW, .sW, .no, false, false, true, false, false, false⟩
  | .mrcvFrom _ _ _ => ⟨.sW, .sR, .no, false, false, true, false, false, false⟩
  | .fill _ _ _ _ _ cls => ⟨.no, .sR, (fillRole cls), false, false, true, false, false, false⟩
  | .vadd _ _ _ _ _ _ => ⟨.vW, .vR, .vR, false, true, true, true, false, false⟩
  | .vsub _ _ _ _ _ _ => ⟨.vW, .vR, .vR, false, true, true, true, false, false⟩
  | .vmul _ _ _ _ _ _ => ⟨.vW, .vR, .vR, false, true, true, true, false, false⟩
  | .vmulh _ _ _ _ _ _ => ⟨.vW, .vR, .vR, false, true, true, true, false, false⟩
  | .vfma _ _ _ _ _ _ => ⟨.vRW, .vR, .vR, false, true, true, true, false, false⟩
  | .vfms _ _ _ _ _ _ => ⟨.vRW, .vR, .vR, false, true, true, true, false, false⟩
  | .vfnma _ _ _ _ _ _ => ⟨.vRW, .vR, .vR, false, true, true, true, false, false⟩
  | .vmin _ _ _ _ _ _ => ⟨.vW, .vR, .vR, false, true, true, true, false, false⟩
  | .vmax _ _ _ _ _ _ => ⟨.vW, .vR, .vR, false, true, true, true, false, false⟩
  | .vabs _ _ _ _ _ => ⟨.vW, .vR, .no, false, true, true, true, false, false⟩
  | .vneg _ _ _ _ _ => ⟨.vW, .vR, .no, false, true, true, true, false, false⟩
  | .vrcp _ _ _ _ _ => ⟨.vW, .vR, .no, false, true, true, true, false, false⟩
  | .vrsq _ _ _ _ _ => ⟨.vW, .vR, .no, false, true, true, true, false, false⟩
  | .vexp2 _ _ _ _ _ => ⟨.vW, .vR, .no, false, true, true, true, false, false⟩
  | .vlog2 _ _ _ _ _ => ⟨.vW, .vR, .no, false, true, true, true, false, false⟩
  | .vsqrt _ _ _ _ _ => ⟨.vW, .vR, .no, false, true, true, true, false, false⟩
  | .vand _ _ _ _ _ => ⟨.vW, .vR, .vR, false, false, true, true, false, false⟩
  | .vor _ _ _ _ _ => ⟨.vW, .vR, .vR, false, false, true, true, false, false⟩
  | .vxor _ _ _ _ _ => ⟨.vW, .vR, .vR, false, false, true, true, false, false⟩
  | .vlogt _ _ _ _ _ _ _ _ => ⟨.vW, .vR, .vR, false, false, true, true, false, false⟩
  | .vshl _ _ _ _ _ _ => ⟨.vW, .vR, .vR, false, true, true, true, false, false⟩
  | .vshr _ _ _ _ _ _ => ⟨.vW, .vR, .vR, false, true, true, true, false, false⟩
  | .vsar _ _ _ _ _ _ => ⟨.vW, .vR, .vR, false, true, true, true, false, false⟩
  | .vcmp _ _ _ _ _ _ _ _ => ⟨.pW, .vR, .vR, false, false, true, true, false, false⟩
  | .vsel _ _ _ _ _ _ => ⟨.vW, .vR, .vR, false, false, true, true, false, false⟩
  | .vcvt _ _ _ _ _ _ _ _ => ⟨.vW, .vR, .no, false, true, true, true, false, false⟩
  | .vbcst _ _ _ _ _ => ⟨.vW, .sR, .no, false, false, true, true, false, false⟩
  | .vmovsToScalar _ _ _ _ _ => ⟨.sW, .vR, .sR, false, false, true, true, false, false⟩
  | .vmovsToLane _ _ _ _ _ => ⟨.vW, .sR, .sR, false, false, true, true, false, false⟩
  | .vperm _ _ _ _ _ _ => ⟨.vW, .vR, .vR, false, false, true, true, false, false⟩
  | .vshuf _ _ _ _ _ _ => ⟨.vRW, .vR, .vR, false, false, true, true, false, false⟩
  | .vsld _ _ _ _ _ _ => ⟨.vRW, .vR, .sR, false, false, true, true, false, false⟩
  | .vred _ _ _ _ _ _ => ⟨.sW, .vR, .no, false, true, true, true, false, false⟩
  | .vscan _ _ _ _ _ _ => ⟨.vW, .vR, .no, false, true, true, true, false, false⟩
  | .vdot4 _ _ _ _ _ _ => ⟨.vRW, .vR, .vR, false, true, true, true, false, false⟩
  | .vlut _ _ _ _ _ _ => ⟨.vW, .vR, .no, false, false, true, true, false, false⟩
  | .vqnt _ _ _ _ _ _ => ⟨.vW, .vR, .sW, false, true, true, true, false, false⟩
  | .vdqnt _ _ _ _ _ _ => ⟨.vW, .vR, .sR, false, true, true, true, false, false⟩
  | .vdiv _ _ _ _ _ _ => ⟨.vW, .vR, .vR, false, true, true, true, false, false⟩
  | .fadd _ _ _ _ _ => ⟨.sW, .sR, .sR, false, true, true, false, false, false⟩
  | .fsub _ _ _ _ _ => ⟨.sW, .sR, .sR, false, true, true, false, false, false⟩
  | .fmul _ _ _ _ _ => ⟨.sW, .sR, .sR, false, true, true, false, false, false⟩
  | .fdiv _ _ _ _ _ => ⟨.sW, .sR, .sR, false, true, true, false, false, false⟩
  | .fsqrt _ _ _ _ => ⟨.sW, .sR, .no, false, true, true, false, false, false⟩
  | .fmin _ _ _ _ _ => ⟨.sW, .sR, .sR, false, true, true, false, false, false⟩
  | .fmax _ _ _ _ _ => ⟨.sW, .sR, .sR, false, true, true, false, false, false⟩
  | .fclass _ _ _ _ => ⟨.sW, .sR, .no, false, true, true, false, false, false⟩
  | .ffma _ _ _ _ _ _ _ => ⟨.sW, .sR, .sR, false, true, true, false, false, false⟩
  | .fcmp _ _ _ _ _ _ => ⟨.pW, .sR, .sR, false, true, true, false, false, false⟩
  | .fcvt _ _ _ _ _ => ⟨.sW, .sR, .no, false, true, true, false, false, false⟩
  | .tsub _ _ _ => ⟨.sW, .sR, .no, false, false, true, false, false, false⟩
  | .tsubCopy _ _ => ⟨.no, .sR, .no, false, false, true, false, false, false⟩
  | .tqry _ _ _ => ⟨.sW, .sR, .no, false, false, true, false, false, false⟩
  | .tqryCopy _ _ _ => ⟨.sW, .sR, .no, false, false, true, false, false, false⟩
  | .tcan _ _ _ => ⟨.sW, .sR, .no, false, false, true, false, false, false⟩
  | .tcanCopy _ _ _ => ⟨.sW, .sR, .no, false, false, true, false, false, false⟩
  | .lutld _ _ _ => ⟨.no, .sR, .sR, false, false, true, false, false, false⟩
  | .lutrd _ _ _ => ⟨.sW, .no, .no, false, false, true, false, false, false⟩
  | .rbind _ _ _ _ => ⟨.sRW, .sR, .sR, false, false, true, false, false, false⟩
  | .rlook _ _ _ => ⟨.sW, .sR, .no, false, false, true, false, false, false⟩
  | .revict _ _ _ => ⟨.sW, .sR, .no, false, false, true, false, false, false⟩
  | .rinv _ _ _ => ⟨.sW, .sR, .no, false, false, true, false, false, false⟩
  | .rinvUnbind _ _ _ => ⟨.sW, .sR, .no, false, false, true, false, false, false⟩
  | .sbind _ _ _ => ⟨.no, .sR, .no, false, false, true, false, false, false⟩
  | .sunb _ _ => ⟨.no, .no, .no, false, false, true, false, false, false⟩
  | .sqry _ _ _ => ⟨.sW, .no, .no, false, false, true, false, false, false⟩
  | .spawn _ _ _ _ => ⟨.sRW, .sR, .sR, false, false, true, false, false, false⟩
  | .launch _ _ _ _ => ⟨.sW, .sR, .sR, false, false, true, false, false, false⟩
  | .exit _ => ⟨.no, .no, .no, false, false, true, false, false, false⟩
  | .yield _ => ⟨.no, .no, .no, false, false, true, false, false, false⟩
  | .park _ _ _ => ⟨.sW, .sR, .no, false, false, true, false, false, false⟩
  | .swapctx _ _ => ⟨.no, .sR, .no, false, false, true, false, false, false⟩
  | .migr _ _ _ => ⟨.sW, .sR, .no, false, false, true, false, false, false⟩
  | .migrAddr _ _ _ => ⟨.sW, .sR, .no, false, false, true, false, false, false⟩
  | .home _ _ _ => ⟨.sW, .sR, .no, false, false, true, false, false, false⟩
  | .policy _ _ _ => ⟨.sW, .sR, .no, false, false, true, false, false, false⟩
  | .lease _ _ _ _ => ⟨.sW, .sR, .sR, false, false, true, false, false, false⟩
  | .lrel _ _ => ⟨.sW, .no, .no, false, false, true, false, false, false⟩
  | .dnext _ => ⟨.no, .no, .no, false, false, true, false, false, false⟩
  | .trap _ _ => ⟨.no, .no, .no, false, false, true, false, false, false⟩
  | .eret _ _ _ => ⟨.no, .sR, .no, false, false, true, false, false, false⟩
  | .bkpt _ => ⟨.no, .no, .no, false, false, true, false, false, false⟩
  | .tlbi _ _ _ _ _ => ⟨.no, .sR, .sR, false, false, true, false, false, false⟩
  | .idle _ _ _ => ⟨.sW, .sR, .no, false, false, true, false, false, false⟩
  | .lossOfPower => Info.event
  | .functionEnable => Info.event
  | .uncorrectableError => Info.event
  | .instructionCacheFill => Info.event
  | .illegalInstruction => Info.event

/-- The prefixes and register fields of an instruction, as its words carry them. -/
def operands : Instr → Operands
  | .gallery85cCrossing => Operands.empty
  | .gallery80cRelease => Operands.empty
  | .gallery95cThrottle => Operands.empty
  | .gallery90cRelease => Operands.empty
  | .emergencySave => Operands.empty
  | .saveComplete => Operands.empty
  | .railCut => Operands.empty
  | .savectlResume => Operands.empty
  | .withdrawableSuspendBegin => Operands.empty
  | .withdrawableSuspendEnd => Operands.empty
  | .powerSample => Operands.empty
  | .energyUpdate => Operands.empty
  | .energysetWrite => Operands.empty
  | .qaddWrite => Operands.empty
  | .sprintmaxWrite => Operands.empty
  | .islandFreqChange => Operands.empty
  | .meltUpdate => Operands.empty
  | .leaseExpiry => Operands.empty
  | .islandOwnerWrite => Operands.empty
  | .ownerChange => Operands.empty
  | .savelistRead => Operands.empty
  | .flitInject => Operands.empty
  | .flitHop => Operands.empty
  | .floorTransfer => Operands.empty
  | .configFlit => Operands.empty
  | .memoryRequestArrive => Operands.empty
  | .memoryService => Operands.empty
  | .refreshService => Operands.empty
  | .memoryAccessDone => Operands.empty
  | .memoryReplyInject => Operands.empty
  | .cmSetup => Operands.empty
  | .cmTeardown => Operands.empty
  | .cmResize => Operands.empty
  | .cmSetWheel => Operands.empty
  | .cmReadEntry => Operands.empty
  | .circuitActivate => Operands.empty
  | .teardownSuspend => Operands.empty
  | .teardownRemove => Operands.empty
  | .wheelChange => Operands.empty
  | .hallLockLoss => Operands.empty
  | .floorEntryClear => Operands.empty
  | .hallRelock => Operands.empty
  | .floorEntryRestore => Operands.empty
  | .podFlitReceive => Operands.empty
  | .podAck => Operands.empty
  | .podLockLoss => Operands.empty
  | .podOpticalLock => Operands.empty
  | .podResume => Operands.empty
  | .partitionHold => Operands.empty
  | .partitionRelease => Operands.empty
  | .hostMw1Read => Operands.empty
  | .hostMw1Write => Operands.empty
  | .hostfaultRead => Operands.empty
  | .lqbaseWrite => Operands.empty
  | .lqtailWrite => Operands.empty
  | .lqstatErrClear => Operands.empty
  | .queuePacketFetch => Operands.empty
  | .intcauseClear => Operands.empty
  | .functionLevelReset => Operands.empty
  | .podidWrite => Operands.empty
  | .pairgrantWrite => Operands.empty
  | .pairingMatch => Operands.empty
  | .moduleStart => Operands.empty
  | .recgoWrite => Operands.empty
  | .recoveryFlashDone => Operands.empty
  | .bootrecClear => Operands.empty
  | .attreqWrite => Operands.empty
  | .attestationReportReady => Operands.empty
  | .snapshotTake => Operands.empty
  | .snapshotTaken => Operands.empty
  | .snapshotRelease => Operands.empty
  | .snapshotRestore => Operands.empty
  | .snapshotRestored => Operands.empty
  | .hostLinkLoss => Operands.empty
  | .dependencePoll => Operands.empty
  | .dispatchBegin => Operands.empty
  | .slotSelect => Operands.empty
  | .launchRetire => Operands.empty
  | .donefaultRead => Operands.empty
  | .dueEviction => Operands.empty
  | .stallEviction => Operands.empty
  | .strandWake => Operands.empty
  | .vacate => Operands.empty
  | .vacateDone => Operands.empty
  | .vacateRelease => Operands.empty
  | .dpartWrite => Operands.empty
  | .clbaseWrite => Operands.empty
  | .clctlModeWrite => Operands.empty
  | .logPause => Operands.empty
  | .clctlResume => Operands.empty
  | .clctlAbort => Operands.empty
  | .lineFetchDone => Operands.empty
  | .keptWritebackRetry => Operands.empty
  | .transitFlitSend => Operands.empty
  | .travelDepart => Operands.empty
  | .carryArrive => Operands.empty
  | .lineRequest => Operands.empty
  | .lineReply => Operands.empty
  | .transitLineWriteback => Operands.empty
  | .writebackAck => Operands.empty
  | .remoteAccessRequest => Operands.empty
  | .remoteAccessReply => Operands.empty
  | .controlDelta => Operands.empty
  | .walkComplete => Operands.empty
  | .windowFillComplete => Operands.empty
  | .windowWritebackComplete => Operands.empty
  | .migrationDecay => Operands.empty
  | .pageMoveFlip => Operands.empty
  | .zeroctlGo => Operands.empty
  | .zeroComplete => Operands.empty
  | .loadReply => Operands.empty
  | .storeAck => Operands.empty
  | .atomicReply => Operands.empty
  | .feResend => Operands.empty
  | .withdrawal => Operands.empty
  | .streamMemoryFetch => Operands.empty
  | .streamMemoryWrite => Operands.empty
  | .streamFlitArrive => Operands.empty
  | .tileTaskStart => Operands.empty
  | .tileTaskComplete => Operands.empty
  | .copyChunk => Operands.empty
  | .messageArrive => Operands.empty
  | .msndResend => Operands.empty
  | .asyncTrapTake => Operands.empty
  | .trapDeliver => Operands.empty
  | .handlerHandover => Operands.empty
  | .thctxWrite => Operands.empty
  | .thcntWrite => Operands.empty
  | .vfStop => Operands.empty
  | .vfStopApply => Operands.empty
  | .vfResume => Operands.empty
  | .vfResumeApply => Operands.empty
  | .dbgsubGo => Operands.empty
  | .debugTokenVerified => Operands.empty
  | .dbgstatEnd => Operands.empty
  | .debugAuthExpire => Operands.empty
  | .dbgctlWrite => Operands.empty
  | .dbgkeyWrite => Operands.empty
  | .dbgevRead => Operands.empty
  | .strcmdStop => Operands.empty
  | .strcmdResume => Operands.empty
  | .strcmdStep => Operands.empty
  | .strcmdResumeRpc => Operands.empty
  | .strcmdEnd => Operands.empty
  | .hallHalt => Operands.empty
  | .hallHaltRelease => Operands.empty
  | .barrierWatchdog => Operands.empty
  | .registerWrite => Operands.empty
  | .add p _ rd ra rb => ⟨p, rd, ra, rb⟩
  | .sub p _ rd ra rb => ⟨p, rd, ra, rb⟩
  | .mul p _ rd ra rb => ⟨p, rd, ra, rb⟩
  | .mulh p _ rd ra rb => ⟨p, rd, ra, rb⟩
  | .mulhu p _ rd ra rb => ⟨p, rd, ra, rb⟩
  | .div p _ rd ra rb => ⟨p, rd, ra, rb⟩
  | .divu p _ rd ra rb => ⟨p, rd, ra, rb⟩
  | .rem p _ rd ra rb => ⟨p, rd, ra, rb⟩
  | .remu p _ rd ra rb => ⟨p, rd, ra, rb⟩
  | .and p _ rd ra rb => ⟨p, rd, ra, rb⟩
  | .or p _ rd ra rb => ⟨p, rd, ra, rb⟩
  | .xor p _ rd ra rb => ⟨p, rd, ra, rb⟩
  | .andn p _ rd ra rb => ⟨p, rd, ra, rb⟩
  | .orn p _ rd ra rb => ⟨p, rd, ra, rb⟩
  | .xnor p _ rd ra rb => ⟨p, rd, ra, rb⟩
  | .shl p _ rd ra rb => ⟨p, rd, ra, rb⟩
  | .shr p _ rd ra rb => ⟨p, rd, ra, rb⟩
  | .sar p _ rd ra rb => ⟨p, rd, ra, rb⟩
  | .rot p _ rd ra rb => ⟨p, rd, ra, rb⟩
  | .min p _ rd ra rb => ⟨p, rd, ra, rb⟩
  | .max p _ rd ra rb => ⟨p, rd, ra, rb⟩
  | .minu p _ rd ra rb => ⟨p, rd, ra, rb⟩
  | .maxu p _ rd ra rb => ⟨p, rd, ra, rb⟩
  | .addImm p _ rd ra _ => ⟨p, rd, ra, 0#5⟩
  | .subImm p _ rd ra _ => ⟨p, rd, ra, 0#5⟩
  | .mulImm p _ rd ra _ => ⟨p, rd, ra, 0#5⟩
  | .mulhImm p _ rd ra _ => ⟨p, rd, ra, 0#5⟩
  | .mulhuImm p _ rd ra _ => ⟨p, rd, ra, 0#5⟩
  | .divImm p _ rd ra _ => ⟨p, rd, ra, 0#5⟩
  | .divuImm p _ rd ra _ => ⟨p, rd, ra, 0#5⟩
  | .remImm p _ rd ra _ => ⟨p, rd, ra, 0#5⟩
  | .remuImm p _ rd ra _ => ⟨p, rd, ra, 0#5⟩
  | .andImm p _ rd ra _ => ⟨p, rd, ra, 0#5⟩
  | .orImm p _ rd ra _ => ⟨p, rd, ra, 0#5⟩
  | .xorImm p _ rd ra _ => ⟨p, rd, ra, 0#5⟩
  | .andnImm p _ rd ra _ => ⟨p, rd, ra, 0#5⟩
  | .ornImm p _ rd ra _ => ⟨p, rd, ra, 0#5⟩
  | .xnorImm p _ rd ra _ => ⟨p, rd, ra, 0#5⟩
  | .shlImm p _ rd ra _ => ⟨p, rd, ra, 0#5⟩
  | .shrImm p _ rd ra _ => ⟨p, rd, ra, 0#5⟩
  | .sarImm p _ rd ra _ => ⟨p, rd, ra, 0#5⟩
  | .rotImm p _ rd ra _ => ⟨p, rd, ra, 0#5⟩
  | .minImm p _ rd ra _ => ⟨p, rd, ra, 0#5⟩
  | .maxImm p _ rd ra _ => ⟨p, rd, ra, 0#5⟩
  | .minuImm p _ rd ra _ => ⟨p, rd, ra, 0#5⟩
  | .maxuImm p _ rd ra _ => ⟨p, rd, ra, 0#5⟩
  | .addi p rd ra _ => ⟨p, rd, ra, 0#5⟩
  | .addiLong p rd ra _ => ⟨p, rd, ra, 0#5⟩
  | .fshl p rd ra rb _ => ⟨p, rd, ra, rb⟩
  | .fshr p rd ra rb _ => ⟨p, rd, ra, rb⟩
  | .fshlReg p rd ra rb _ => ⟨p, rd, ra, rb⟩
  | .fshrReg p rd ra rb _ => ⟨p, rd, ra, rb⟩
  | .logt p rd ra rb _ _ => ⟨p, rd, ra, rb⟩
  | .clz p _ rd ra => ⟨p, rd, ra, 0#5⟩
  | .ctz p _ rd ra => ⟨p, rd, ra, 0#5⟩
  | .popc p _ rd ra => ⟨p, rd, ra, 0#5⟩
  | .brev p _ rd ra => ⟨p, rd, ra, 0#5⟩
  | .bswap p _ rd ra => ⟨p, rd, ra, 0#5⟩
  | .sext p _ rd ra => ⟨p, rd, ra, 0#5⟩
  | .zext p _ rd ra => ⟨p, rd, ra, 0#5⟩
  | .bfx p rd ra _ _ => ⟨p, rd, ra, 0#5⟩
  | .bfxu p rd ra _ _ => ⟨p, rd, ra, 0#5⟩
  | .bfi p rd ra _ _ => ⟨p, rd, ra, 0#5⟩
  | .li p rd _ => ⟨p, rd, 0#5, 0#5⟩
  | .liLong p rd _ => ⟨p, rd, 0#5, 0#5⟩
  | .lih rd ra _ => ⟨Pfx.empty, rd, ra, 0#5⟩
  | .mov p rd ra => ⟨p, rd, ra, 0#5⟩
  | .sel p rd ra rb _ _ => ⟨p, rd, ra, rb⟩
  | .cmp p _ _ rd ra rb => ⟨p, rd, ra, rb⟩
  | .cmpImm p _ _ rd ra _ => ⟨p, rd, ra, 0#5⟩
  | .pand p rd ra rb => ⟨p, rd, ra, rb⟩
  | .por p rd ra rb => ⟨p, rd, ra, rb⟩
  | .pxor p rd ra rb => ⟨p, rd, ra, rb⟩
  | .pnot p rd ra => ⟨p, rd, ra, 0#5⟩
  | .lea p rd ra rb _ => ⟨p, rd, ra, rb⟩
  | .leaLong p rd ra rb _ => ⟨p, rd, ra, rb⟩
  | .addp p rd ra rb _ => ⟨p, rd, ra, rb⟩
  | .tagsImm p rd ra _ => ⟨p, rd, ra, 0#5⟩
  | .tagsReg p rd ra rb => ⟨p, rd, ra, rb⟩
  | .br ext _ _ _ => ⟨⟨ext, none, none⟩, 0#5, 0#5, 0#5⟩
  | .brLong ext _ _ _ => ⟨⟨ext, none, none⟩, 0#5, 0#5, 0#5⟩
  | .j ext _ => ⟨⟨ext, none, none⟩, 0#5, 0#5, 0#5⟩
  | .jLong ext _ => ⟨⟨ext, none, none⟩, 0#5, 0#5, 0#5⟩
  | .jl ext rd _ => ⟨⟨ext, none, none⟩, rd, 0#5, 0#5⟩
  | .jlLong ext rd _ => ⟨⟨ext, none, none⟩, rd, 0#5, 0#5⟩
  | .jlr ext rd ra _ => ⟨⟨ext, none, none⟩, rd, ra, 0#5⟩
  | .jlrLong ext rd ra _ => ⟨⟨ext, none, none⟩, rd, ra, 0#5⟩
  | .ret ra => ⟨Pfx.empty, 0#5, ra, 0#5⟩
  | .loop ext rd _ => ⟨⟨ext, none, none⟩, rd, 0#5, 0#5⟩
  | .loopLong ext rd _ => ⟨⟨ext, none, none⟩, rd, 0#5, 0#5⟩
  | .rep _ _ _ _ body => operands body
  | .mcpy p rd ra rb => ⟨p, rd, ra, rb⟩
  | .mset p rd ra rb => ⟨p, rd, ra, rb⟩
  | .nop => ⟨Pfx.empty, 0#5, 0#5, 0#5⟩
  | .csrr p rd _ => ⟨p, rd, 0#5, 0#5⟩
  | .csrw p ra _ => ⟨p, 0#5, ra, 0#5⟩
  | .csrx p rd ra _ => ⟨p, rd, ra, 0#5⟩
  | .ld p _ _ _ rd ra _ => ⟨p, rd, ra, 0#5⟩
  | .ldLong p _ _ _ rd ra _ => ⟨p, rd, ra, 0#5⟩
  | .st p _ _ rd ra _ => ⟨p, rd, ra, 0#5⟩
  | .stLong p _ _ rd ra _ => ⟨p, rd, ra, 0#5⟩
  | .ldv p _ rd ra _ => ⟨p, rd, ra, 0#5⟩
  | .ldvLong p _ rd ra _ => ⟨p, rd, ra, 0#5⟩
  | .stv p _ rd ra _ => ⟨p, rd, ra, 0#5⟩
  | .stvLong p _ rd ra _ => ⟨p, rd, ra, 0#5⟩
  | .ldg p _ _ rd ra rb => ⟨p, rd, ra, rb⟩
  | .stx p _ _ rd ra rb => ⟨p, rd, ra, rb⟩
  | .ldb p _ rd ra rb => ⟨p, rd, ra, rb⟩
  | .stb p rd ra rb => ⟨p, rd, ra, rb⟩
  | .lda p _ _ rd ra _ => ⟨p, rd, ra, 0#5⟩
  | .ldaLong p _ _ rd ra _ => ⟨p, rd, ra, 0#5⟩
  | .stl p _ _ rd ra _ => ⟨p, rd, ra, 0#5⟩
  | .stlLong p _ _ rd ra _ => ⟨p, rd, ra, 0#5⟩
  | .lde p rd ra _ => ⟨p, rd, ra, 0#5⟩
  | .ldeLong p rd ra _ => ⟨p, rd, ra, 0#5⟩
  | .stf p rd ra _ => ⟨p, rd, ra, 0#5⟩
  | .stfLong p rd ra _ => ⟨p, rd, ra, 0#5⟩
  | .few p rd ra _ => ⟨p, rd, ra, 0#5⟩
  | .fewLong p rd ra _ => ⟨p, rd, ra, 0#5⟩
  | .fer p rd ra _ => ⟨p, rd, ra, 0#5⟩
  | .ferLong p rd ra _ => ⟨p, rd, ra, 0#5⟩
  | .touch p rd ra _ => ⟨p, rd, ra, 0#5⟩
  | .touchLong p rd ra _ => ⟨p, rd, ra, 0#5⟩
  | .tagld p rd ra _ => ⟨p, rd, ra, 0#5⟩
  | .tagldLong p rd ra _ => ⟨p, rd, ra, 0#5⟩
  | .tagst p rd ra _ => ⟨p, rd, ra, 0#5⟩
  | .tagstLong p rd ra _ => ⟨p, rd, ra, 0#5⟩
  | .amo p _ _ rd ra rb => ⟨p, rd, ra, rb⟩
  | .cas p _ rd ra rb => ⟨p, rd, ra, rb⟩
  | .red p _ _ ra rb => ⟨p, 0#5, ra, rb⟩
  | .amoI32 p _ _ rd ra rb => ⟨p, rd, ra, rb⟩
  | .casI32 p _ rd ra rb => ⟨p, rd, ra, rb⟩
  | .redI32 p _ _ ra rb => ⟨p, 0#5, ra, rb⟩
  | .casQ p _ rd ra rb => ⟨p, rd, ra, rb⟩
  | .fence p _ _ => ⟨p, 0#5, 0#5, 0#5⟩
  | .bar p _ _ => ⟨p, 0#5, 0#5, 0#5⟩
  | .barArm p _ _ ra => ⟨p, 0#5, ra, 0#5⟩
  | .bara p _ _ rd => ⟨p, rd, 0#5, 0#5⟩
  | .barw p _ _ ra => ⟨p, 0#5, ra, 0#5⟩
  | .tbi p ra rb => ⟨p, 0#5, ra, rb⟩
  | .tba p rd ra rb => ⟨p, rd, ra, rb⟩
  | .tbw p rd ra rb => ⟨p, rd, ra, rb⟩
  | .tbt p rd ra rb => ⟨p, rd, ra, rb⟩
  | .waitc p _ _ _ _ => ⟨p, 0#5, 0#5, 0#5⟩
  | .msnd p ra rb => ⟨p, 0#5, ra, rb⟩
  | .mrcv p rd ra => ⟨p, rd, ra, 0#5⟩
  | .mrcvFrom p rd ra => ⟨p, rd, ra, 0#5⟩
  | .fill p rd ra rb _ _ => ⟨p, rd, ra, rb⟩
  | .vadd p _ _ rd ra rb => ⟨p, rd, ra, rb⟩
  | .vsub p _ _ rd ra rb => ⟨p, rd, ra, rb⟩
  | .vmul p _ _ rd ra rb => ⟨p, rd, ra, rb⟩
  | .vmulh p _ _ rd ra rb => ⟨p, rd, ra, rb⟩
  | .vfma p _ _ rd ra rb => ⟨p, rd, ra, rb⟩
  | .vfms p _ _ rd ra rb => ⟨p, rd, ra, rb⟩
  | .vfnma p _ _ rd ra rb => ⟨p, rd, ra, rb⟩
  | .vmin p _ _ rd ra rb => ⟨p, rd, ra, rb⟩
  | .vmax p _ _ rd ra rb => ⟨p, rd, ra, rb⟩
  | .vabs p _ _ rd ra => ⟨p, rd, ra, 0#5⟩
  | .vneg p _ _ rd ra => ⟨p, rd, ra, 0#5⟩
  | .vrcp p _ _ rd ra => ⟨p, rd, ra, 0#5⟩
  | .vrsq p _ _ rd ra => ⟨p, rd, ra, 0#5⟩
  | .vexp2 p _ _ rd ra => ⟨p, rd, ra, 0#5⟩
  | .vlog2 p _ _ rd ra => ⟨p, rd, ra, 0#5⟩
  | .vsqrt p _ _ rd ra => ⟨p, rd, ra, 0#5⟩
  | .vand p _ rd ra rb => ⟨p, rd, ra, rb⟩
  | .vor p _ rd ra rb => ⟨p, rd, ra, rb⟩
  | .vxor p _ rd ra rb => ⟨p, rd, ra, rb⟩
  | .vlogt p _ _ rd ra rb _ _ => ⟨p, rd, ra, rb⟩
  | .vshl p _ _ rd ra rb => ⟨p, rd, ra, rb⟩
  | .vshr p _ _ rd ra rb => ⟨p, rd, ra, rb⟩
  | .vsar p _ _ rd ra rb => ⟨p, rd, ra, rb⟩
  | .vcmp p _ _ _ rd ra rb _ => ⟨p, rd, ra, rb⟩
  | .vsel p _ _ rd ra rb => ⟨p, rd, ra, rb⟩
  | .vcvt p _ _ rd ra _ _ _ => ⟨p, rd, ra, 0#5⟩
  | .vbcst p _ _ rd ra => ⟨p, rd, ra, 0#5⟩
  | .vmovsToScalar p _ rd ra rb => ⟨p, rd, ra, rb⟩
  | .vmovsToLane p _ rd ra rb => ⟨p, rd, ra, rb⟩
  | .vperm p _ _ rd ra rb => ⟨p, rd, ra, rb⟩
  | .vshuf p _ _ rd ra rb => ⟨p, rd, ra, rb⟩
  | .vsld p _ _ rd ra rb => ⟨p, rd, ra, rb⟩
  | .vred p _ _ rd ra _ => ⟨p, rd, ra, 0#5⟩
  | .vscan p _ _ rd ra _ => ⟨p, rd, ra, 0#5⟩
  | .vdot4 p _ _ rd ra rb => ⟨p, rd, ra, rb⟩
  | .vlut p _ _ rd ra _ => ⟨p, rd, ra, 0#5⟩
  | .vqnt p _ _ rd ra rb => ⟨p, rd, ra, rb⟩
  | .vdqnt p _ _ rd ra rb => ⟨p, rd, ra, rb⟩
  | .vdiv p _ _ rd ra rb => ⟨p, rd, ra, rb⟩
  | .fadd p _ rd ra rb => ⟨p, rd, ra, rb⟩
  | .fsub p _ rd ra rb => ⟨p, rd, ra, rb⟩
  | .fmul p _ rd ra rb => ⟨p, rd, ra, rb⟩
  | .fdiv p _ rd ra rb => ⟨p, rd, ra, rb⟩
  | .fsqrt p _ rd ra => ⟨p, rd, ra, 0#5⟩
  | .fmin p _ rd ra rb => ⟨p, rd, ra, rb⟩
  | .fmax p _ rd ra rb => ⟨p, rd, ra, rb⟩
  | .fclass p _ rd ra => ⟨p, rd, ra, 0#5⟩
  | .ffma p _ rd ra rb _ _ => ⟨p, rd, ra, rb⟩
  | .fcmp p _ _ rd ra rb => ⟨p, rd, ra, rb⟩
  | .fcvt p rd ra _ _ => ⟨p, rd, ra, 0#5⟩
  | .tsub p rd ra => ⟨p, rd, ra, 0#5⟩
  | .tsubCopy p ra => ⟨p, 0#5, ra, 0#5⟩
  | .tqry p rd ra => ⟨p, rd, ra, 0#5⟩
  | .tqryCopy p rd ra => ⟨p, rd, ra, 0#5⟩
  | .tcan p rd ra => ⟨p, rd, ra, 0#5⟩
  | .tcanCopy p rd ra => ⟨p, rd, ra, 0#5⟩
  | .lutld p ra rb => ⟨p, 0#5, ra, rb⟩
  | .lutrd p rd _ => ⟨p, rd, 0#5, 0#5⟩
  | .rbind p rd ra rb => ⟨p, rd, ra, rb⟩
  | .rlook p rd ra => ⟨p, rd, ra, 0#5⟩
  | .revict p rd ra => ⟨p, rd, ra, 0#5⟩
  | .rinv p rd ra => ⟨p, rd, ra, 0#5⟩
  | .rinvUnbind p rd ra => ⟨p, rd, ra, 0#5⟩
  | .sbind p ra _ => ⟨p, 0#5, ra, 0#5⟩
  | .sunb p _ => ⟨p, 0#5, 0#5, 0#5⟩
  | .sqry p rd _ => ⟨p, rd, 0#5, 0#5⟩
  | .spawn p rd ra rb => ⟨p, rd, ra, rb⟩
  | .launch p rd ra rb => ⟨p, rd, ra, rb⟩
  | .exit p => ⟨p, 0#5, 0#5, 0#5⟩
  | .yield p => ⟨p, 0#5, 0#5, 0#5⟩
  | .park p rd ra => ⟨p, rd, ra, 0#5⟩
  | .swapctx p ra => ⟨p, 0#5, ra, 0#5⟩
  | .migr p rd ra => ⟨p, rd, ra, 0#5⟩
  | .migrAddr p rd ra => ⟨p, rd, ra, 0#5⟩
  | .home p rd ra => ⟨p, rd, ra, 0#5⟩
  | .policy p rd ra => ⟨p, rd, ra, 0#5⟩
  | .lease p rd ra rb => ⟨p, rd, ra, rb⟩
  | .lrel p rd => ⟨p, rd, 0#5, 0#5⟩
  | .dnext p => ⟨p, 0#5, 0#5, 0#5⟩
  | .trap p _ => ⟨p, 0#5, 0#5, 0#5⟩
  | .eret p ra _ => ⟨p, 0#5, ra, 0#5⟩
  | .bkpt p => ⟨p, 0#5, 0#5, 0#5⟩
  | .tlbi p _ ra rb _ => ⟨p, 0#5, ra, rb⟩
  | .idle p rd ra => ⟨p, rd, ra, 0#5⟩
  | .lossOfPower => Operands.empty
  | .functionEnable => Operands.empty
  | .uncorrectableError => Operands.empty
  | .instructionCacheFill => Operands.empty
  | .illegalInstruction => Operands.empty

/-- A field value the instruction leaves unassigned: illegal instruction, cause 0 (R265, R277). -/
def reservedField : Instr → Bool
  | .gallery85cCrossing => false
  | .gallery80cRelease => false
  | .gallery95cThrottle => false
  | .gallery90cRelease => false
  | .emergencySave => false
  | .saveComplete => false
  | .railCut => false
  | .savectlResume => false
  | .withdrawableSuspendBegin => false
  | .withdrawableSuspendEnd => false
  | .powerSample => false
  | .energyUpdate => false
  | .energysetWrite => false
  | .qaddWrite => false
  | .sprintmaxWrite => false
  | .islandFreqChange => false
  | .meltUpdate => false
  | .leaseExpiry => false
  | .islandOwnerWrite => false
  | .ownerChange => false
  | .savelistRead => false
  | .flitInject => false
  | .flitHop => false
  | .floorTransfer => false
  | .configFlit => false
  | .memoryRequestArrive => false
  | .memoryService => false
  | .refreshService => false
  | .memoryAccessDone => false
  | .memoryReplyInject => false
  | .cmSetup => false
  | .cmTeardown => false
  | .cmResize => false
  | .cmSetWheel => false
  | .cmReadEntry => false
  | .circuitActivate => false
  | .teardownSuspend => false
  | .teardownRemove => false
  | .wheelChange => false
  | .hallLockLoss => false
  | .floorEntryClear => false
  | .hallRelock => false
  | .floorEntryRestore => false
  | .podFlitReceive => false
  | .podAck => false
  | .podLockLoss => false
  | .podOpticalLock => false
  | .podResume => false
  | .partitionHold => false
  | .partitionRelease => false
  | .hostMw1Read => false
  | .hostMw1Write => false
  | .hostfaultRead => false
  | .lqbaseWrite => false
  | .lqtailWrite => false
  | .lqstatErrClear => false
  | .queuePacketFetch => false
  | .intcauseClear => false
  | .functionLevelReset => false
  | .podidWrite => false
  | .pairgrantWrite => false
  | .pairingMatch => false
  | .moduleStart => false
  | .recgoWrite => false
  | .recoveryFlashDone => false
  | .bootrecClear => false
  | .attreqWrite => false
  | .attestationReportReady => false
  | .snapshotTake => false
  | .snapshotTaken => false
  | .snapshotRelease => false
  | .snapshotRestore => false
  | .snapshotRestored => false
  | .hostLinkLoss => false
  | .dependencePoll => false
  | .dispatchBegin => false
  | .slotSelect => false
  | .launchRetire => false
  | .donefaultRead => false
  | .dueEviction => false
  | .stallEviction => false
  | .strandWake => false
  | .vacate => false
  | .vacateDone => false
  | .vacateRelease => false
  | .dpartWrite => false
  | .clbaseWrite => false
  | .clctlModeWrite => false
  | .logPause => false
  | .clctlResume => false
  | .clctlAbort => false
  | .lineFetchDone => false
  | .keptWritebackRetry => false
  | .transitFlitSend => false
  | .travelDepart => false
  | .carryArrive => false
  | .lineRequest => false
  | .lineReply => false
  | .transitLineWriteback => false
  | .writebackAck => false
  | .remoteAccessRequest => false
  | .remoteAccessReply => false
  | .controlDelta => false
  | .walkComplete => false
  | .windowFillComplete => false
  | .windowWritebackComplete => false
  | .migrationDecay => false
  | .pageMoveFlip => false
  | .zeroctlGo => false
  | .zeroComplete => false
  | .loadReply => false
  | .storeAck => false
  | .atomicReply => false
  | .feResend => false
  | .withdrawal => false
  | .streamMemoryFetch => false
  | .streamMemoryWrite => false
  | .streamFlitArrive => false
  | .tileTaskStart => false
  | .tileTaskComplete => false
  | .copyChunk => false
  | .messageArrive => false
  | .msndResend => false
  | .asyncTrapTake => false
  | .trapDeliver => false
  | .handlerHandover => false
  | .thctxWrite => false
  | .thcntWrite => false
  | .vfStop => false
  | .vfStopApply => false
  | .vfResume => false
  | .vfResumeApply => false
  | .dbgsubGo => false
  | .debugTokenVerified => false
  | .dbgstatEnd => false
  | .debugAuthExpire => false
  | .dbgctlWrite => false
  | .dbgkeyWrite => false
  | .dbgevRead => false
  | .strcmdStop => false
  | .strcmdResume => false
  | .strcmdStep => false
  | .strcmdResumeRpc => false
  | .strcmdEnd => false
  | .hallHalt => false
  | .hallHaltRelease => false
  | .barrierWatchdog => false
  | .registerWrite => false
  | .add _ _ _ _ _ => false
  | .sub _ _ _ _ _ => false
  | .mul _ _ _ _ _ => false
  | .mulh _ _ _ _ _ => false
  | .mulhu _ _ _ _ _ => false
  | .div _ _ _ _ _ => false
  | .divu _ _ _ _ _ => false
  | .rem _ _ _ _ _ => false
  | .remu _ _ _ _ _ => false
  | .and _ _ _ _ _ => false
  | .or _ _ _ _ _ => false
  | .xor _ _ _ _ _ => false
  | .andn _ _ _ _ _ => false
  | .orn _ _ _ _ _ => false
  | .xnor _ _ _ _ _ => false
  | .shl _ _ _ _ _ => false
  | .shr _ _ _ _ _ => false
  | .sar _ _ _ _ _ => false
  | .rot _ _ _ _ _ => false
  | .min _ _ _ _ _ => false
  | .max _ _ _ _ _ => false
  | .minu _ _ _ _ _ => false
  | .maxu _ _ _ _ _ => false
  | .addImm _ _ _ _ _ => false
  | .subImm _ _ _ _ _ => false
  | .mulImm _ _ _ _ _ => false
  | .mulhImm _ _ _ _ _ => false
  | .mulhuImm _ _ _ _ _ => false
  | .divImm _ _ _ _ _ => false
  | .divuImm _ _ _ _ _ => false
  | .remImm _ _ _ _ _ => false
  | .remuImm _ _ _ _ _ => false
  | .andImm _ _ _ _ _ => false
  | .orImm _ _ _ _ _ => false
  | .xorImm _ _ _ _ _ => false
  | .andnImm _ _ _ _ _ => false
  | .ornImm _ _ _ _ _ => false
  | .xnorImm _ _ _ _ _ => false
  | .shlImm _ _ _ _ _ => false
  | .shrImm _ _ _ _ _ => false
  | .sarImm _ _ _ _ _ => false
  | .rotImm _ _ _ _ _ => false
  | .minImm _ _ _ _ _ => false
  | .maxImm _ _ _ _ _ => false
  | .minuImm _ _ _ _ _ => false
  | .maxuImm _ _ _ _ _ => false
  | .addi _ _ _ _ => false
  | .addiLong _ _ _ _ => false
  | .fshl _ _ _ _ _ => false
  | .fshr _ _ _ _ _ => false
  | .fshlReg _ _ _ _ _ => false
  | .fshrReg _ _ _ _ _ => false
  | .logt _ _ _ _ _ _ => false
  | .clz _ _ _ _ => false
  | .ctz _ _ _ _ => false
  | .popc _ _ _ _ => false
  | .brev _ _ _ _ => false
  | .bswap _ _ _ _ => false
  | .sext _ _ _ _ => false
  | .zext _ _ _ _ => false
  | .bfx _ _ _ _ _ => false
  | .bfxu _ _ _ _ _ => false
  | .bfi _ _ _ _ _ => false
  | .li _ _ _ => false
  | .liLong _ _ _ => false
  | .lih _ _ _ => false
  | .mov _ _ _ => false
  | .sel _ _ _ _ _ _ => false
  | .cmp _ _ _ _ _ _ => false
  | .cmpImm _ _ _ _ _ _ => false
  | .pand _ _ _ _ => false
  | .por _ _ _ _ => false
  | .pxor _ _ _ _ => false
  | .pnot _ _ _ => false
  | .lea _ _ _ _ _ => false
  | .leaLong _ _ _ _ _ => false
  | .addp _ _ _ _ _ => false
  | .tagsImm _ _ _ _ => false
  | .tagsReg _ _ _ _ => false
  | .br _ _ _ _ => false
  | .brLong _ _ _ _ => false
  | .j _ _ => false
  | .jLong _ _ => false
  | .jl _ _ _ => false
  | .jlLong _ _ _ => false
  | .jlr _ _ _ _ => false
  | .jlrLong _ _ _ _ => false
  | .ret _ => false
  | .loop _ _ _ => false
  | .loopLong _ _ _ => false
  | .rep _ _ _ _ body => reservedField body
  | .mcpy _ _ _ _ => false
  | .mset _ _ _ _ => false
  | .nop => false
  | .csrr _ _ _ => false
  | .csrw _ _ _ => false
  | .csrx _ _ _ _ => false
  | .ld _ _ _ _ _ _ _ => false
  | .ldLong _ _ _ _ _ _ _ => false
  | .st _ _ _ _ _ _ => false
  | .stLong _ _ _ _ _ _ => false
  | .ldv _ _ _ _ _ => false
  | .ldvLong _ _ _ _ _ => false
  | .stv _ _ _ _ _ => false
  | .stvLong _ _ _ _ _ => false
  | .ldg _ _ _ _ _ _ => false
  | .stx _ _ _ _ _ _ => false
  | .ldb _ _ _ _ _ => false
  | .stb _ _ _ _ => false
  | .lda _ scope _ _ _ _ => scope == 7#3
  | .ldaLong _ scope _ _ _ _ => scope == 7#3
  | .stl _ scope _ _ _ _ => scope == 7#3
  | .stlLong _ scope _ _ _ _ => scope == 7#3
  | .lde _ _ _ _ => false
  | .ldeLong _ _ _ _ => false
  | .stf _ _ _ _ => false
  | .stfLong _ _ _ _ => false
  | .few _ _ _ _ => false
  | .fewLong _ _ _ _ => false
  | .fer _ _ _ _ => false
  | .ferLong _ _ _ _ => false
  | .touch _ _ _ _ => false
  | .touchLong _ _ _ _ => false
  | .tagld _ _ _ _ => false
  | .tagldLong _ _ _ _ => false
  | .tagst _ _ _ _ => false
  | .tagstLong _ _ _ _ => false
  | .amo _ scope aop _ _ _ => scope == 7#3 || 10 ≤ aop.toNat
  | .cas _ scope _ _ _ => scope == 7#3
  | .red _ scope aop _ _ => scope == 7#3 || aop == 0#4 || 10 ≤ aop.toNat
  | .amoI32 _ scope aop _ _ _ => scope == 7#3 || 10 ≤ aop.toNat
  | .casI32 _ scope _ _ _ => scope == 7#3
  | .redI32 _ scope aop _ _ => scope == 7#3 || aop == 0#4 || 10 ≤ aop.toNat
  | .casQ _ scope _ _ _ => scope == 7#3
  | .fence _ scope _ => scope == 7#3
  | .bar _ _ level => level == 7#3
  | .barArm _ _ level _ => level == 7#3
  | .bara _ _ level _ => level == 7#3
  | .barw _ _ level _ => level == 7#3
  | .tbi _ _ _ => false
  | .tba _ _ _ _ => false
  | .tbw _ _ _ _ => false
  | .tbt _ _ _ _ => false
  | .waitc _ _ _ _ _ => false
  | .msnd _ _ _ => false
  | .mrcv _ _ _ => false
  | .mrcvFrom _ _ _ => false
  | .fill _ _ _ _ _ cls => cls == 3#2
  | .vadd _ _ _ _ _ _ => false
  | .vsub _ _ _ _ _ _ => false
  | .vmul _ _ _ _ _ _ => false
  | .vmulh _ _ _ _ _ _ => false
  | .vfma _ _ _ _ _ _ => false
  | .vfms _ _ _ _ _ _ => false
  | .vfnma _ _ _ _ _ _ => false
  | .vmin _ _ _ _ _ _ => false
  | .vmax _ _ _ _ _ _ => false
  | .vabs _ _ _ _ _ => false
  | .vneg _ _ _ _ _ => false
  | .vrcp _ _ _ _ _ => false
  | .vrsq _ _ _ _ _ => false
  | .vexp2 _ _ _ _ _ => false
  | .vlog2 _ _ _ _ _ => false
  | .vsqrt _ _ _ _ _ => false
  | .vand _ _ _ _ _ => false
  | .vor _ _ _ _ _ => false
  | .vxor _ _ _ _ _ => false
  | .vlogt _ _ _ _ _ _ _ _ => false
  | .vshl _ _ _ _ _ _ => false
  | .vshr _ _ _ _ _ _ => false
  | .vsar _ _ _ _ _ _ => false
  | .vcmp _ _ _ cond _ _ _ _ => cond == 7#3
  | .vsel _ _ _ _ _ _ => false
  | .vcvt _ _ _ _ _ _ _ _ => false
  | .vbcst _ _ _ _ _ => false
  | .vmovsToScalar _ _ _ _ _ => false
  | .vmovsToLane _ _ _ _ _ => false
  | .vperm _ _ _ _ _ _ => false
  | .vshuf _ _ _ _ _ _ => false
  | .vsld _ _ _ _ _ _ => false
  | .vred _ _ _ _ _ rop => 6 ≤ rop.toNat
  | .vscan _ _ _ _ _ rop => 6 ≤ rop.toNat
  | .vdot4 _ _ _ _ _ _ => false
  | .vlut _ _ _ _ _ _ => false
  | .vqnt _ _ _ _ _ _ => false
  | .vdqnt _ _ _ _ _ _ => false
  | .vdiv _ _ _ _ _ _ => false
  | .fadd _ _ _ _ _ => false
  | .fsub _ _ _ _ _ => false
  | .fmul _ _ _ _ _ => false
  | .fdiv _ _ _ _ _ => false
  | .fsqrt _ _ _ _ => false
  | .fmin _ _ _ _ _ => false
  | .fmax _ _ _ _ _ => false
  | .fclass _ _ _ _ => false
  | .ffma _ _ _ _ _ _ _ => false
  | .fcmp _ cond _ _ _ _ => cond == 7#3
  | .fcvt _ _ _ _ _ => false
  | .tsub _ _ _ => false
  | .tsubCopy _ _ => false
  | .tqry _ _ _ => false
  | .tqryCopy _ _ _ => false
  | .tcan _ _ _ => false
  | .tcanCopy _ _ _ => false
  | .lutld _ _ _ => false
  | .lutrd _ _ _ => false
  | .rbind _ _ _ _ => false
  | .rlook _ _ _ => false
  | .revict _ _ _ => false
  | .rinv _ _ _ => false
  | .rinvUnbind _ _ _ => false
  | .sbind _ _ _ => false
  | .sunb _ _ => false
  | .sqry _ _ _ => false
  | .spawn _ _ _ _ => false
  | .launch _ _ _ _ => false
  | .exit _ => false
  | .yield _ => false
  | .park _ _ _ => false
  | .swapctx _ _ => false
  | .migr _ _ _ => false
  | .migrAddr _ _ _ => false
  | .home _ _ _ => false
  | .policy _ _ _ => false
  | .lease _ _ _ _ => false
  | .lrel _ _ => false
  | .dnext _ => false
  | .trap _ _ => false
  | .eret _ _ _ => false
  | .bkpt _ => false
  | .tlbi _ scope ra _ page => scope == 7#3 || (page == 0#1 && ra != 0#5)
  | .idle _ _ _ => false
  | .lossOfPower => false
  | .functionEnable => false
  | .uncorrectableError => false
  | .instructionCacheFill => false
  | .illegalInstruction => false

/-- The base register a post-increment form advances (R310, R311). -/
def selfAdvancing : Instr → Option (BitVec 5)
  | .ld p post _ _ _ ra _ => if post == 1#1 && p.clsA == 0#2 then some ra else none
  | .ldLong p post _ _ _ ra _ => if post == 1#1 && p.clsA == 0#2 then some ra else none
  | .st p post _ _ ra _ => if post == 1#1 && p.clsA == 0#2 then some ra else none
  | .stLong p post _ _ ra _ => if post == 1#1 && p.clsA == 0#2 then some ra else none
  | .ldv p post _ ra _ => if post == 1#1 && p.clsA == 0#2 then some ra else none
  | .ldvLong p post _ ra _ => if post == 1#1 && p.clsA == 0#2 then some ra else none
  | .stv p post _ ra _ => if post == 1#1 && p.clsA == 0#2 then some ra else none
  | .stvLong p post _ ra _ => if post == 1#1 && p.clsA == 0#2 then some ra else none
  | _ => none

/-- A repeated instruction names, as count or advance, a register it advances itself (R303). -/
def selfAdvances (rs : List (BitVec 5)) (i : Instr) : Bool :=
  match selfAdvancing i with
  | some r => r != 0#5 && rs.contains r
  | none => false

/-- An operand outside the limits its instruction states: illegal instruction, cause 1. -/
def outsideLimits : Instr → Bool
  | .gallery85cCrossing => false
  | .gallery80cRelease => false
  | .gallery95cThrottle => false
  | .gallery90cRelease => false
  | .emergencySave => false
  | .saveComplete => false
  | .railCut => false
  | .savectlResume => false
  | .withdrawableSuspendBegin => false
  | .withdrawableSuspendEnd => false
  | .powerSample => false
  | .energyUpdate => false
  | .energysetWrite => false
  | .qaddWrite => false
  | .sprintmaxWrite => false
  | .islandFreqChange => false
  | .meltUpdate => false
  | .leaseExpiry => false
  | .islandOwnerWrite => false
  | .ownerChange => false
  | .savelistRead => false
  | .flitInject => false
  | .flitHop => false
  | .floorTransfer => false
  | .configFlit => false
  | .memoryRequestArrive => false
  | .memoryService => false
  | .refreshService => false
  | .memoryAccessDone => false
  | .memoryReplyInject => false
  | .cmSetup => false
  | .cmTeardown => false
  | .cmResize => false
  | .cmSetWheel => false
  | .cmReadEntry => false
  | .circuitActivate => false
  | .teardownSuspend => false
  | .teardownRemove => false
  | .wheelChange => false
  | .hallLockLoss => false
  | .floorEntryClear => false
  | .hallRelock => false
  | .floorEntryRestore => false
  | .podFlitReceive => false
  | .podAck => false
  | .podLockLoss => false
  | .podOpticalLock => false
  | .podResume => false
  | .partitionHold => false
  | .partitionRelease => false
  | .hostMw1Read => false
  | .hostMw1Write => false
  | .hostfaultRead => false
  | .lqbaseWrite => false
  | .lqtailWrite => false
  | .lqstatErrClear => false
  | .queuePacketFetch => false
  | .intcauseClear => false
  | .functionLevelReset => false
  | .podidWrite => false
  | .pairgrantWrite => false
  | .pairingMatch => false
  | .moduleStart => false
  | .recgoWrite => false
  | .recoveryFlashDone => false
  | .bootrecClear => false
  | .attreqWrite => false
  | .attestationReportReady => false
  | .snapshotTake => false
  | .snapshotTaken => false
  | .snapshotRelease => false
  | .snapshotRestore => false
  | .snapshotRestored => false
  | .hostLinkLoss => false
  | .dependencePoll => false
  | .dispatchBegin => false
  | .slotSelect => false
  | .launchRetire => false
  | .donefaultRead => false
  | .dueEviction => false
  | .stallEviction => false
  | .strandWake => false
  | .vacate => false
  | .vacateDone => false
  | .vacateRelease => false
  | .dpartWrite => false
  | .clbaseWrite => false
  | .clctlModeWrite => false
  | .logPause => false
  | .clctlResume => false
  | .clctlAbort => false
  | .lineFetchDone => false
  | .keptWritebackRetry => false
  | .transitFlitSend => false
  | .travelDepart => false
  | .carryArrive => false
  | .lineRequest => false
  | .lineReply => false
  | .transitLineWriteback => false
  | .writebackAck => false
  | .remoteAccessRequest => false
  | .remoteAccessReply => false
  | .controlDelta => false
  | .walkComplete => false
  | .windowFillComplete => false
  | .windowWritebackComplete => false
  | .migrationDecay => false
  | .pageMoveFlip => false
  | .zeroctlGo => false
  | .zeroComplete => false
  | .loadReply => false
  | .storeAck => false
  | .atomicReply => false
  | .feResend => false
  | .withdrawal => false
  | .streamMemoryFetch => false
  | .streamMemoryWrite => false
  | .streamFlitArrive => false
  | .tileTaskStart => false
  | .tileTaskComplete => false
  | .copyChunk => false
  | .messageArrive => false
  | .msndResend => false
  | .asyncTrapTake => false
  | .trapDeliver => false
  | .handlerHandover => false
  | .thctxWrite => false
  | .thcntWrite => false
  | .vfStop => false
  | .vfStopApply => false
  | .vfResume => false
  | .vfResumeApply => false
  | .dbgsubGo => false
  | .debugTokenVerified => false
  | .dbgstatEnd => false
  | .debugAuthExpire => false
  | .dbgctlWrite => false
  | .dbgkeyWrite => false
  | .dbgevRead => false
  | .strcmdStop => false
  | .strcmdResume => false
  | .strcmdStep => false
  | .strcmdResumeRpc => false
  | .strcmdEnd => false
  | .hallHalt => false
  | .hallHaltRelease => false
  | .barrierWatchdog => false
  | .registerWrite => false
  | .add _ _ _ _ _ => false
  | .sub _ _ _ _ _ => false
  | .mul _ _ _ _ _ => false
  | .mulh _ _ _ _ _ => false
  | .mulhu _ _ _ _ _ => false
  | .div _ _ _ _ _ => false
  | .divu _ _ _ _ _ => false
  | .rem _ _ _ _ _ => false
  | .remu _ _ _ _ _ => false
  | .and _ _ _ _ _ => false
  | .or _ _ _ _ _ => false
  | .xor _ _ _ _ _ => false
  | .andn _ _ _ _ _ => false
  | .orn _ _ _ _ _ => false
  | .xnor _ _ _ _ _ => false
  | .shl _ _ _ _ _ => false
  | .shr _ _ _ _ _ => false
  | .sar _ _ _ _ _ => false
  | .rot _ _ _ _ _ => false
  | .min _ _ _ _ _ => false
  | .max _ _ _ _ _ => false
  | .minu _ _ _ _ _ => false
  | .maxu _ _ _ _ _ => false
  | .addImm _ _ _ _ _ => false
  | .subImm _ _ _ _ _ => false
  | .mulImm _ _ _ _ _ => false
  | .mulhImm _ _ _ _ _ => false
  | .mulhuImm _ _ _ _ _ => false
  | .divImm _ _ _ _ _ => false
  | .divuImm _ _ _ _ _ => false
  | .remImm _ _ _ _ _ => false
  | .remuImm _ _ _ _ _ => false
  | .andImm _ _ _ _ _ => false
  | .orImm _ _ _ _ _ => false
  | .xorImm _ _ _ _ _ => false
  | .andnImm _ _ _ _ _ => false
  | .ornImm _ _ _ _ _ => false
  | .xnorImm _ _ _ _ _ => false
  | .shlImm _ _ _ _ _ => false
  | .shrImm _ _ _ _ _ => false
  | .sarImm _ _ _ _ _ => false
  | .rotImm _ _ _ _ _ => false
  | .minImm _ _ _ _ _ => false
  | .maxImm _ _ _ _ _ => false
  | .minuImm _ _ _ _ _ => false
  | .maxuImm _ _ _ _ _ => false
  | .addi _ _ _ _ => false
  | .addiLong _ _ _ _ => false
  | .fshl _ _ _ _ _ => false
  | .fshr _ _ _ _ _ => false
  | .fshlReg _ _ _ _ _ => false
  | .fshrReg _ _ _ _ _ => false
  | .logt _ _ _ _ _ _ => false
  | .clz _ _ _ _ => false
  | .ctz _ _ _ _ => false
  | .popc _ _ _ _ => false
  | .brev _ _ _ _ => false
  | .bswap _ _ _ _ => false
  | .sext _ _ _ _ => false
  | .zext _ _ _ _ => false
  | .bfx _ _ _ len lsb => len == 0#7 || 64 < lsb.toNat + len.toNat
  | .bfxu _ _ _ len lsb => len == 0#7 || 64 < lsb.toNat + len.toNat
  | .bfi _ _ _ len lsb => len == 0#7 || 64 < lsb.toNat + len.toNat
  | .li _ _ _ => false
  | .liLong _ _ _ => false
  | .lih _ _ _ => false
  | .mov _ _ _ => false
  | .sel _ _ _ _ _ _ => false
  | .cmp _ _ _ _ _ _ => false
  | .cmpImm _ _ _ _ _ _ => false
  | .pand _ _ _ _ => false
  | .por _ _ _ _ => false
  | .pxor _ _ _ _ => false
  | .pnot _ _ _ => false
  | .lea _ _ _ _ _ => false
  | .leaLong _ _ _ _ _ => false
  | .addp _ _ _ _ _ => false
  | .tagsImm _ _ _ _ => false
  | .tagsReg _ _ _ _ => false
  | .br _ _ _ _ => false
  | .brLong _ _ _ _ => false
  | .j _ _ => false
  | .jLong _ _ => false
  | .jl _ _ _ => false
  | .jlLong _ _ _ => false
  | .jlr _ _ _ _ => false
  | .jlrLong _ _ _ _ => false
  | .ret _ => false
  | .loop _ rd _ => rd == 0#5
  | .loopLong _ rd _ => rd == 0#5
  | .rep cnt adv0 adv1 _ body => outsideLimits body || repClash cnt adv0 adv1 || selfAdvances [cnt, adv0, adv1] body
  | .mcpy _ rd ra rb => rd == 0#5 || ra == 0#5 || rb == 0#5 || rd == ra || rd == rb || ra == rb
  | .mset _ rd ra rb => rd == 0#5 || rb == 0#5 || rd == ra || rd == rb || ra == rb
  | .nop => false
  | .csrr _ _ csr => !csrListed csr
  | .csrw _ _ csr => !csrListed csr
  | .csrx _ _ _ csr => !csrListed csr
  | .ld p post _ _ rd ra _ => post == 1#1 && rd == ra && rd != 0#5 && (p.clsD == 0#2 && p.clsA == 0#2)
  | .ldLong p post _ _ rd ra _ => post == 1#1 && rd == ra && rd != 0#5 && (p.clsD == 0#2 && p.clsA == 0#2)
  | .st _ _ _ _ _ _ => false
  | .stLong _ _ _ _ _ _ => false
  | .ldv _ _ _ _ _ => false
  | .ldvLong _ _ _ _ _ => false
  | .stv _ _ _ _ _ => false
  | .stvLong _ _ _ _ _ => false
  | .ldg _ _ ty _ _ _ => !tyIn 0x0244#16 ty
  | .stx _ _ ty _ _ _ => !tyIn 0x0244#16 ty
  | .ldb _ _ _ _ _ => false
  | .stb _ _ _ _ => false
  | .lda _ _ _ _ _ _ => false
  | .ldaLong _ _ _ _ _ _ => false
  | .stl _ _ _ _ _ _ => false
  | .stlLong _ _ _ _ _ _ => false
  | .lde _ _ _ _ => false
  | .ldeLong _ _ _ _ => false
  | .stf _ _ _ _ => false
  | .stfLong _ _ _ _ => false
  | .few _ _ _ _ => false
  | .fewLong _ _ _ _ => false
  | .fer _ _ _ _ => false
  | .ferLong _ _ _ _ => false
  | .touch _ _ _ _ => false
  | .touchLong _ _ _ _ => false
  | .tagld _ _ _ _ => false
  | .tagldLong _ _ _ _ => false
  | .tagst _ _ _ _ => false
  | .tagstLong _ _ _ _ => false
  | .amo _ _ _ _ _ _ => false
  | .cas _ _ _ _ _ => false
  | .red _ _ _ _ _ => false
  | .amoI32 _ _ _ _ _ _ => false
  | .casI32 _ _ _ _ _ => false
  | .redI32 _ _ _ _ _ => false
  | .casQ _ _ _ _ _ => false
  | .fence _ _ kinds => kinds == 0#6
  | .bar _ _ level => level == 0#3
  | .barArm _ _ level _ => level == 0#3
  | .bara _ _ level _ => level == 0#3
  | .barw _ _ level _ => level == 0#3
  | .tbi _ _ _ => false
  | .tba _ _ _ _ => false
  | .tbw _ _ _ _ => false
  | .tbt _ _ _ _ => false
  | .waitc _ _ _ _ _ => false
  | .msnd _ _ _ => false
  | .mrcv _ _ _ => false
  | .mrcvFrom _ _ _ => false
  | .fill _ rd _ _ _ cls => fillTargetBad cls rd
  | .vadd _ _ ty _ _ _ => !tyIn 0x0E77#16 ty
  | .vsub _ _ ty _ _ _ => !tyIn 0x0E77#16 ty
  | .vmul _ _ ty _ _ _ => !tyIn 0x0E77#16 ty
  | .vmulh _ _ ty _ _ _ => !tyIn 0x0077#16 ty
  | .vfma _ _ ty _ _ _ => !tyIn 0x0E00#16 ty
  | .vfms _ _ ty _ _ _ => !tyIn 0x0E00#16 ty
  | .vfnma _ _ ty _ _ _ => !tyIn 0x0E00#16 ty
  | .vmin _ _ ty _ _ _ => !tyIn 0x7E77#16 ty
  | .vmax _ _ ty _ _ _ => !tyIn 0x7E77#16 ty
  | .vabs _ _ ty _ _ => !tyIn 0x7E77#16 ty
  | .vneg _ _ ty _ _ => !tyIn 0x7E77#16 ty
  | .vrcp _ _ ty _ _ => !tyIn 0x0E00#16 ty
  | .vrsq _ _ ty _ _ => !tyIn 0x0E00#16 ty
  | .vexp2 _ _ ty _ _ => !tyIn 0x0E00#16 ty
  | .vlog2 _ _ ty _ _ => !tyIn 0x0E00#16 ty
  | .vsqrt _ _ ty _ _ => !tyIn 0x0E00#16 ty
  | .vand _ _ _ _ _ => false
  | .vor _ _ _ _ _ => false
  | .vxor _ _ _ _ _ => false
  | .vlogt _ _ ty _ _ _ _ _ => !tyIn 0x0007#16 ty
  | .vshl _ _ ty _ _ _ => !tyIn 0x0077#16 ty
  | .vshr _ _ ty _ _ _ => !tyIn 0x0077#16 ty
  | .vsar _ _ ty _ _ _ => !tyIn 0x0077#16 ty
  | .vcmp _ _ ty cond _ _ _ part => !tyIn 0x7E77#16 ty || laneCount ty ≤ 32 * part.toNat || (cond == 6#3 && ty.toNat < 8)
  | .vsel _ _ ty _ _ _ => !tyIn 0x7E77#16 ty
  | .vcvt _ _ ty _ _ dpart spart sty => !tyIn 0xFE77#16 ty || !tyIn 0xFE77#16 sty || ty == sty || convParts sty ≤ spart.toNat * convLanes sty ty || convParts ty ≤ dpart.toNat * convLanes sty ty
  | .vbcst _ _ ty _ _ => !tyIn 0x7E77#16 ty
  | .vmovsToScalar _ ty _ _ _ => !tyIn 0x7E77#16 ty
  | .vmovsToLane _ ty _ _ _ => !tyIn 0x7E77#16 ty
  | .vperm _ _ ty _ _ _ => !tyIn 0x7E77#16 ty
  | .vshuf _ _ ty _ _ _ => !tyIn 0x7E77#16 ty
  | .vsld _ _ ty _ _ _ => !tyIn 0x7E77#16 ty
  | .vred _ _ ty _ _ rop => !tyIn 0x0E77#16 ty || (3 ≤ rop.toNat && 8 ≤ ty.toNat)
  | .vscan _ _ ty _ _ rop => !tyIn 0x0E77#16 ty || (3 ≤ rop.toNat && 8 ≤ ty.toNat)
  | .vdot4 _ _ ty _ _ _ => !tyIn 0x7011#16 ty
  | .vlut _ _ ty _ _ part => !tyIn 0x7007#16 ty || lutParts ty ≤ part.toNat
  | .vqnt _ _ ty _ _ _ => !tyIn 0xF000#16 ty
  | .vdqnt _ _ ty _ _ _ => !tyIn 0xF000#16 ty
  | .vdiv _ _ ty _ _ _ => !tyIn 0x0E00#16 ty
  | .fadd _ ty _ _ _ => !tyIn 0x0F00#16 ty
  | .fsub _ ty _ _ _ => !tyIn 0x0F00#16 ty
  | .fmul _ ty _ _ _ => !tyIn 0x0F00#16 ty
  | .fdiv _ ty _ _ _ => !tyIn 0x0F00#16 ty
  | .fsqrt _ ty _ _ => !tyIn 0x0F00#16 ty
  | .fmin _ ty _ _ _ => !tyIn 0x0F00#16 ty
  | .fmax _ ty _ _ _ => !tyIn 0x0F00#16 ty
  | .fclass _ ty _ _ => !tyIn 0x0F00#16 ty
  | .ffma _ ty _ _ _ _ _ => !tyIn 0x0F00#16 ty
  | .fcmp _ _ ty _ _ _ => !tyIn 0x0F00#16 ty
  | .fcvt _ _ _ dt sty => dt == sty || (dt.toNat < 8 && sty.toNat < 8)
  | .tsub _ _ _ => false
  | .tsubCopy _ _ => false
  | .tqry _ _ _ => false
  | .tqryCopy _ _ _ => false
  | .tcan _ _ _ => false
  | .tcanCopy _ _ _ => false
  | .lutld _ _ _ => false
  | .lutrd _ _ _ => false
  | .rbind _ _ _ _ => false
  | .rlook _ _ _ => false
  | .revict _ _ _ => false
  | .rinv _ _ _ => false
  | .rinvUnbind _ _ _ => false
  | .sbind _ _ qn => 8 ≤ qn.toNat
  | .sunb _ qn => 8 ≤ qn.toNat
  | .sqry _ _ qn => 8 ≤ qn.toNat
  | .spawn _ _ _ _ => false
  | .launch _ _ _ _ => false
  | .exit _ => false
  | .yield _ => false
  | .park _ _ _ => false
  | .swapctx _ _ => false
  | .migr _ _ _ => false
  | .migrAddr _ _ _ => false
  | .home _ _ _ => false
  | .policy _ _ _ => false
  | .lease _ _ _ _ => false
  | .lrel _ _ => false
  | .dnext _ => false
  | .trap _ _ => false
  | .eret _ _ _ => false
  | .bkpt _ => false
  | .tlbi _ scope _ _ _ => scope == 1#3 || scope == 6#3
  | .idle _ _ _ => false
  | .lossOfPower => false
  | .functionEnable => false
  | .uncorrectableError => false
  | .instructionCacheFill => false
  | .illegalInstruction => false

/-- One register field's class and synchronised-read bit against its role (R269, R272): the cause of the
illegal-instruction trap, if any.  DEDUCED (log 7): a field both read and written admits no stream class. -/
def fieldFault (r : Role) (v : BitVec 5) (cls : BitVec 2) (sync : Bool) : Option (BitVec 8) :=
  let reads := match r with | .sR | .sRW | .vR | .vRW | .pR | .dR | .dRW => true | _ => false
  let plain := match r with | .sR | .sW | .sRW | .vR | .vW | .vRW => true | _ => false
  let vec := match r with | .vR | .vW | .vRW => true | _ => false
  let readOnly := match r with | .sR | .vR => true | _ => false
  if sync && (!reads || cls == 1#2) then some 1#8
  else if cls == 0#2 then
    match r with
    | .pR | .pW => if 8 ≤ v.toNat then some 1#8 else none
    | .dR | .dRW => if v.toNat % 2 = 1 then some 1#8 else none
    | _ => none
  else if !plain || 8 ≤ v.toNat then some 1#8
  else if cls == 1#2 then
    match r with
    | .sR | .vR => if 4 ≤ v.toNat then some 1#8 else none
    | .sW | .vW => if v.toNat < 4 then some 1#8 else none
    | _ => some 1#8
  else if vec then some 1#8
  else if readOnly then none
  else some 2#8

/-- The first fault among rd, ra and rb. -/
def operandFault (i : Instr) : Option (BitVec 8) :=
  let n := info i
  let o := operands i
  match fieldFault n.ra o.ra o.p.clsA o.p.syncA with
  | some c => some c
  | none =>
    match fieldFault n.rb o.rb o.p.clsB o.p.syncB with
    | some c => some c
    | none => fieldFault n.rd o.rd o.p.clsD o.p.syncD

/-- Prefix types present are accepted (R271). -/
def prefixesAccepted (i : Instr) : Bool :=
  let n := info i
  let p := (operands i).p
  (p.ext.isNone || n.acc0) && (p.arith.isNone || n.acc1) && (p.mm.isNone || n.acc2) &&
  (match i with | .rep _ _ _ _ body => n.acc4 && (match body with | .rep .. => false | _ => true) | _ => true)

/-- The illegal-instruction cause of a decoded instruction, in the order of R270: prefix acceptance and unassigned
fields (cause 0), then operand classes and limits (causes 1 and 2). -/
def decodeFault (i : Instr) : Option (BitVec 8) :=
  let n := info i
  let p := (operands i).p
  if !prefixesAccepted i then some 0#8
  else if reservedField i then some 0#8
  else if p.scope != 0#3 && !n.takesScope then some 1#8
  else if p.notag && !n.mem then some 1#8
  else
    match operandFault i with
    | some c => some c
    | none => if outsideLimits i then some 1#8 else none

/-- An instruction that has words and that the decoder accepts. -/
def encodable (i : Instr) : Bool :=
  i.wf && (toFields i).isSome && (decodeFault i).isNone

/-- Prefix words (R267, R268, R269): the chain bit is 0 in the first word only. -/
def prefixWord (c : BitVec 1) (ty : BitVec 3) (body : BitVec 26) : Code := 2#2 ++ c ++ ty ++ body

def Arith.body (a : Arith) : BitVec 26 := 0#19 ++ a.flush ++ a.sat ++ a.rnd
def MemMod.body (m : MemMod) : BitVec 26 :=
  0#13 ++ m.notag ++ m.crb ++ m.cra ++ m.crd ++ m.srd ++ m.srb ++ m.sra ++ m.scope
def Rep.body (r : Rep) : BitVec 26 := r.step ++ r.adv1 ++ r.adv0 ++ r.cnt

/-- The prefix bodies of a chain, in ascending type order (R270, R283). -/
def Fields.bodies (f : Fields) : List (BitVec 3 × BitVec 26) :=
  (match f.pfx.ext with | some e => [(0#3, e)] | none => []) ++
  (match f.pfx.arith with | some a => [(1#3, a.body)] | none => []) ++
  (match f.pfx.mm with | some m => [(2#3, m.body)] | none => []) ++
  (if f.page then [(3#3, 1#26)] else []) ++
  (match f.rep with | some r => [(4#3, r.body)] | none => [])

/-- The prefix words of a chain: the first holds C = 0 (R261). -/
def prefixWords : BitVec 1 → List (BitVec 3 × BitVec 26) → List Code
  | _, [] => []
  | c, (ty, body) :: rest => prefixWord c ty body :: prefixWords 1#1 rest

/-- The words of a chain (R262). -/
def Fields.words (f : Fields) : List Code :=
  let bs := f.bodies
  let c : BitVec 1 := if bs.isEmpty then 0#1 else 1#1
  let k : BitVec 2 := if f.long then 1#2 else 0#2
  prefixWords 0#1 bs ++ [k ++ c ++ f.op ++ f.rd ++ f.ra ++ f.rb ++ f.fn] ++ (if f.long then [f.pay] else [])

/-- The words of an instruction; a machine event has none. -/
def encode (i : Instr) : List Code :=
  match toFields i with
  | some f => f.words
  | none => []

/-- What reading the words of a chain gives (R270): more words are needed, a trap (kind, cause, chain length), or the
prefix bodies, the instruction word, its payload and the chain length. -/
inductive Scan where
  | need
  | bad (kind cause : BitVec 8) (len : Nat)
  | ok (bodies : List (BitVec 3 × BitVec 26)) (w : Code) (pay : BitVec 32) (len : Nat)
  deriving DecidableEq, Repr

def wordKind (w : Code) : BitVec 2 := w.extractLsb' 30 2
def wordC (w : Code) : BitVec 1 := w.extractLsb' 29 1
def wordType (w : Code) : BitVec 3 := w.extractLsb' 26 3
def wordBody (w : Code) : BitVec 26 := w.extractLsb' 0 26
def wordOp (w : Code) : BitVec 7 := w.extractLsb' 22 7

/-- Control transfers accept only a type-0 prefix (R270). -/
def transferClash (bodies : List (BitVec 3 × BitVec 26)) (w : Code) : Bool :=
  bodies.any (fun b => b.1 != 0#3) && bodies.all (fun b => b.1 != 3#3) &&
  (16 ≤ (wordOp w).toNat && (wordOp w).toNat ≤ 21)

/-- The loop of R270 from word w, the n-th of the chain; `last` is the last prefix type plus one. -/
def scanFrom (w : Code) (rest : List Code) (n last count : Nat) (bodies : List (BitVec 3 × BitVec 26)) : Scan :=
  if wordKind w == 2#2 then
    if count = 4 ∨ (wordType w).toNat < last then .bad 2#8 1#8 n
    else
      match rest with
      | [] => .need
      | v :: rest' =>
        if wordC v == 0#1 || wordKind v == 3#2 then .bad 2#8 1#8 (n + 1)
        else scanFrom v rest' (n + 1) ((wordType w).toNat + 1) (count + 1) (bodies ++ [(wordType w, wordBody w)])
  else if wordKind w == 3#2 then .bad 1#8 0#8 n
  else if transferClash bodies w then .bad 2#8 1#8 n
  else if wordKind w == 1#2 then
    match rest with
    | [] => .need
    | v :: _ => .ok bodies w v (n + 1)
  else .ok bodies w 0#32 n
termination_by structural rest

/-- The scan of a chain from its first word. -/
def scan : List Code → Scan
  | [] => .need
  | w :: rest => if wordC w == 1#1 then .bad 2#8 0#8 1 else scanFrom w rest 1 0 0 []

/-- The fields of the type-1, type-2 and type-4 bodies (R268, R269). -/
def arithOf (b : BitVec 26) : Arith := ⟨b.extractLsb' 0 3, b.extractLsb' 3 2, b.extractLsb' 5 2⟩
def memModOf (b : BitVec 26) : MemMod :=
  ⟨b.extractLsb' 0 3, b.extractLsb' 3 1, b.extractLsb' 4 1, b.extractLsb' 5 1, b.extractLsb' 6 2, b.extractLsb' 8 2,
   b.extractLsb' 10 2, b.extractLsb' 12 1⟩
def repOf (b : BitVec 26) : Rep := ⟨b.extractLsb' 0 5, b.extractLsb' 5 5, b.extractLsb' 10 5, b.extractLsb' 15 11⟩

/-- A reserved code or bit of one prefix body: the cause, if any (R267, R268, R269).  DEDUCED (log 7): the codes are
checked prefix by prefix in chain order. -/
def bodyFault (ty : BitVec 3) (b : BitVec 26) : Option (BitVec 8) :=
  match ty.toNat with
  | 0 => none
  | 1 =>
    let a := arithOf b
    if b.extractLsb' 7 19 != 0#19 || !a.codesOk then some 0#8 else none
  | 2 =>
    let m := memModOf b
    if b.extractLsb' 13 13 != 0#13 || !m.codesOk then some 0#8 else none
  | 3 => if b != 1#26 then some 0#8 else none
  | 4 => if b.extractLsb' 0 5 == 0#5 then some 1#8 else none
  | _ => some 0#8

def bodiesFault : List (BitVec 3 × BitVec 26) → Option (BitVec 8)
  | [] => none
  | (ty, b) :: rest => match bodyFault ty b with | some c => some c | none => bodiesFault rest

def bodyOf (ty : BitVec 3) : List (BitVec 3 × BitVec 26) → Option (BitVec 26)
  | [] => none
  | (t, b) :: rest => if t == ty then some b else bodyOf ty rest

/-- The fields of a scanned chain. -/
def fieldsOf (bodies : List (BitVec 3 × BitVec 26)) (w : Code) (pay : BitVec 32) : Fields :=
  { pfx := ⟨bodyOf 0#3 bodies, (bodyOf 1#3 bodies).map arithOf, (bodyOf 2#3 bodies).map memModOf⟩
    rep := (bodyOf 4#3 bodies).map repOf
    page := (bodyOf 3#3 bodies).isSome
    long := wordKind w == 1#2
    op := wordOp w
    rd := w.extractLsb' 17 5
    ra := w.extractLsb' 12 5
    rb := w.extractLsb' 7 5
    fn := w.extractLsb' 0 7
    pay := pay }

/-- The outcome of decoding: more words needed, a trap with its kind, cause and chain length, or an instruction and
its length in words. -/
inductive Decoded where
  | need
  | trap (kind cause : BitVec 8) (len : Nat)
  | ok (i : Instr) (len : Nat)
  deriving DecidableEq, Repr

/-- The decoder of R270 on the words at hand, in chain order; privilege is checked where the instruction runs. -/
def decode (ws : List Code) : Decoded :=
  match scan ws with
  | .need => .need
  | .bad k c n => .trap k c n
  | .ok bodies w pay n =>
    match bodiesFault bodies with
    | some c => .trap 1#8 c n
    | none =>
      match ofFields (fieldsOf bodies w pay) with
      | none => .trap 1#8 0#8 n
      | some i =>
        match decodeFault i with
        | some c => .trap 1#8 c n
        | none => .ok i n

/-- The bytes of a word in memory order (R261). -/
def wordBytes (w : Code) : List Byte :=
  [w.extractLsb' 0 8, w.extractLsb' 8 8, w.extractLsb' 16 8, w.extractLsb' 24 8]

/-- The words of an instruction of the opcode table: bit 0 of `w` is bit 0 of the first word, bits above `nbits` are
0, and the chain is padded to the longest one, six words (R262). -/
def tableWords (nbits w : Nat) : List Code :=
  let v := w % 2 ^ nbits
  [BitVec.ofNat 32 v, BitVec.ofNat 32 (v / 2 ^ 32), BitVec.ofNat 32 (v / 2 ^ 64), BitVec.ofNat 32 (v / 2 ^ 96),
   BitVec.ofNat 32 (v / 2 ^ 128), BitVec.ofNat 32 (v / 2 ^ 160)]

/-- The instruction the decoder reads from an opcode-table word. -/
def decodeTableWord (nbits w : Nat) : Option Instr :=
  match decode (tableWords nbits w) with
  | .ok i _ => some i
  | _ => none

end Sys2Proof
end

