-- ==== Sys2Proof/Machine/State.lean ====
section
/-! DEFINITION. State: everything the manual gives the module, as plain data (INVENTORY.md lists each piece with its
rule), the reasons a step can stop, and the state at reset release.  Tables are keyed by numbers: a core is
256·hall + core, a quad 64·hall + quad, a strand vf·2^56 + context address, a context line vf·2^56 + line address, a
register of MW0 page memory vf·2^20 + offset. -/

namespace Sys2Proof.Machine

/-- Why the machine stops: it never does.  Every event the manual gives has an effect, and what a program does wrong is
trapped, answered, or confined to its function (R7). -/
inductive Fault where
  deriving DecidableEq, Repr

/-- Why an instruction has no meaning. -/
inductive Refusal where
  /-- Raised by an arm of exec whose meaning is not written yet.  Safe. -/
  | notModelled (mnemonic : String)
  deriving DecidableEq, Repr

/-- Operands of a machine event: each event reads the fields its meaning names. -/
structure EvArgs where
  vf : BitVec 7
  ctx : BitVec 56
  id : Nat
  core : BitVec 12
  hall : BitVec 4
  stack : Bool
  q : BitVec 6
  n : BitVec 8
  v : BitVec 64
  w : BitVec 64
  wide : BitVec 384
  flag : Bool
  pairs : List (Nat × Nat)
  deriving DecidableEq, Repr

/-- No operands. -/
def EvArgs.none : EvArgs := ⟨0, 0, 0, 0, 0, false, 0, 0, 0, 0, 0, false, []⟩

/-- An event to come: its wheel slot, the event and its operands. -/
structure Due where
  slot : Nat
  ev : Instr
  args : EvArgs
  deriving DecidableEq, Repr

/-- One copy of a context line in a register cache (place: core) or a hall context cache (place: hall) (R122): `kept` after a
write-back whose translation failed (R132), `held` while its page moves (R135). -/
structure Copy where
  place : Nat
  mask : BitVec 8
  dirty : Bool
  kept : Bool
  held : Bool
  stamp : Nat
  data : BitVec 512
  deriving DecidableEq, Repr

/-- The cached copies of one context line: the register cache's, and those of hall context caches, newest first (R122,
R124). -/
structure Line where
  rc : Option Copy
  hc : List Copy
  deriving DecidableEq, Repr

/-- States of a strand as the device keeps them (R118). -/
inductive Run where
  | unborn | resident | ready | held | transit | trapped | exited | suspended | lost
  deriving DecidableEq, Repr

/-- What an instruction in progress waits for. -/
inductive Wait where
  | none
  /-- the reply of request `id` (R319) -/
  | reply (id : Nat)
  /-- the reply of `id` has come: value, status code -/
  | answered (id : Nat) (value : BitVec 256) (status : BitVec 8)
  /-- a level barrier's phase to leave the token (R330): barrier key, token -/
  | barrier (key : Nat) (tok : BitVec 4)
  /-- a message sent, not yet accepted (R335) -/
  | message (id : Nat)
  /-- lines of remote lanes being fetched (R313): requests left -/
  | lanes (grp : Nat)
  deriving DecidableEq, Repr

/-- A trap about to be delivered (R208, R213). -/
structure Trap where
  kind : BitVec 8
  cause : BitVec 8
  epc : BitVec 56
  npc : BitVec 56
  addr : BitVec 64
  info1 : BitVec 64
  info2 : BitVec 64
  chain : List Code
  pf : Bool
  deriving DecidableEq, Repr

/-- A register marked errored by a deferred memory error (R210): register code, load address, load pc. -/
structure Errored where
  reg : Nat
  addr : BitVec 64
  pc : BitVec 56
  deriving DecidableEq, Repr

/-- What the device keeps of a strand beside its record; `unstarted` marks one spawned while its function's submissions were held
(R76), `touching` is the window its access waits for (R162), `mid` the pc and the next word of a repeating instruction between two of
its steps (R209). -/
structure Strand where
  launch : Nat
  index : Nat
  pos : Nat
  core : Nat
  slot : Option Nat
  run : Run
  hold : BitVec 4
  hobj : BitVec 56
  readyTime : Nat
  turn : Nat
  issued : Nat
  dMiss : Nat
  dMissM : Nat
  dMigr : Nat
  loads : Nat
  stores : Nat
  pending : List Nat
  errored : List Errored
  stall : Option Nat
  wait : Wait
  leaving : Bool
  suppress : Bool
  stepped : Bool
  stopReq : Bool
  busyTurns : Nat
  fault : Option Trap
  trap : Option Trap
  trapTo : BitVec 2
  trapTime : Nat
  trapAt : BitVec 56
  fetching : List Nat
  wakeBits : BitVec 5
  goal : Option Nat
  goalReg : BitVec 5
  goalStream : Bool
  early : Bool
  entry : Option Nat
  unstarted : Bool
  touching : Option Nat
  mid : Option (BitVec 56 × BitVec 56)
  deriving DecidableEq, Repr

/-- The issue in progress: the strand at its turn, the chain fetched, what the instruction has done, and
whether a load it makes waits for its data before it retires (R303). -/
structure Issue where
  vf : BitVec 7
  ctx : BitVec 56
  core : Nat
  slot : Nat
  pc : BitVec 56
  npc : BitVec 56
  words : List Code
  retired : Bool
  await : Bool
  deriving DecidableEq, Repr

/-- A window of a region table (R161); `again`: a store dirtied it while its write-back ran (R162). -/
structure Window where
  spoff : BitVec 13
  lsize : BitVec 5
  state : BitVec 2
  err : Bool
  bound : Bool
  key : BitVec 56
  desc : BitVec 56
  owner : BitVec 56
  vf : BitVec 7
  busy : Bool
  waiters : List Nat
  again : Bool
  deriving DecidableEq, Repr

/-- A translation: page base, size (log2), leaf entry (R152). -/
structure Xlat where
  vf : BitVec 7
  base : BitVec 56
  lsize : Nat
  leaf : BitVec 64
  deriving DecidableEq, Repr

/-- A message in a core's buffer (R335). -/
structure Msg where
  launch : Nat
  src : Nat
  dst : Nat
  seq : Nat
  value : BitVec 64
  deriving DecidableEq, Repr

/-- An instruction-cache line (R193): function, address, leaf entry of its page, its sixteen words. -/
structure ILine where
  vf : BitVec 7
  addr : BitVec 56
  leaf : BitVec 64
  words : List Code
  deriving DecidableEq, Repr

/-- What a page walk or an instruction-cache fill could not give: the trap the page or line takes at its next use. -/
structure IFault where
  vf : BitVec 7
  addr : BitVec 56
  kind : BitVec 8
  cause : BitVec 8
  deriving DecidableEq, Repr

/-- State of a core outside its caches of lines; `barred` are the functions vacated from it (R106). -/
structure Core where
  windows : Table Window
  codebook : BitVec 128
  rng : BitVec 32
  msgs : List Msg
  icache : List ILine
  ifaults : List IFault
  filling : List (Nat × Nat)
  tlb : List Xlat
  dlist : List (Nat × Nat)
  dnext : Table Nat
  epochs : Table Nat
  barred : List Nat
  deriving DecidableEq, Repr

/-- A tile task in a queue or running (R200, R371): the copy of its record, the row counts of its groups, and, once it
runs, the scratchpad and codebook as they stood at its start (R202). -/
structure Task where
  vf : BitVec 7
  ctx : BitVec 56
  launch : Nat
  addr : BitVec 64
  record : BitVec 1024
  prio : Nat
  core : Nat
  order : Nat
  priv : BitVec 2
  groups : List Nat
  pad : List Host.Cell
  book : BitVec 128
  deriving DecidableEq, Repr

/-- A copy in a queue or active (R204, R205). -/
structure CopyJob where
  vf : BitVec 7
  ctx : BitVec 56
  launch : Nat
  addr : BitVec 64
  desc : BitVec 1024
  done : Nat
  priv : BitVec 2
  core : Nat
  win : Option Nat
  back : Bool
  paused : Bool
  order : Nat
  deriving DecidableEq, Repr

/-- State of a quad's engines: the last B of the weight buffer is named in `lastB`, its contents read in `buf` (R370). -/
structure Quad where
  tiles : List Task
  running : Option Task
  copies : List CopyJob
  active : List CopyJob
  lastB : Option (List Nat)
  buf : List Host.Cell
  turn : Nat
  deriving DecidableEq, Repr

/-- A non-leaf entry in a hall's walk cache (R152): function, level, index path, entry. -/
structure WEntry where
  vf : BitVec 7
  level : Nat
  path : Nat
  entry : BitVec 64
  deriving DecidableEq, Repr

/-- A bank (vault or HBM4E channel): its last service position given to unowned service, and the requests waiting in
its list, in order of arrival (R41, R318). -/
structure Bank where
  last : Nat
  waits : List Nat
  deriving DecidableEq, Repr

/-- Lock of a hall's wheel (R45). -/
inductive Lock where
  | locked | lost | relocking
  deriving DecidableEq, Repr

/-- A page walk in progress or waiting (R152): function, page address, walker held. -/
structure Walk where
  vf : BitVec 7
  va : BitVec 56
  core : Nat
  walker : Option Nat
  since : Nat
  deriving DecidableEq, Repr

/-- State of a hall; `bases` are the PTBASE of each function (and, at 128, the OWNMAP) its walks use (R151). -/
structure Hall where
  w : Nat
  lock : Lock
  holdUntil : Nat
  savedFloor : List (Nat × Nat)
  halts : List (Nat × Bool)
  lastServed : Table Nat
  lastWalk : Nat
  wcache : List WEntry
  migr : List (Nat × List Nat)
  transmap : Option (List (BitVec 8))
  bases : Table Word
  deriving DecidableEq, Repr

/-- A debug event (R227). -/
structure DbgEvent where
  ev : BitVec 4
  hall : BitVec 4
  bar : BitVec 4
  lvl : BitVec 3
  addr : BitVec 56
  deriving DecidableEq, Repr

/-- State of a function; `faulted` says that HOSTFAULT holds an offset not yet read; `aperture` is the size of MW1 as a
power of two (R50); `keySet` marks the words of DBGKEY already written (R227). -/
structure Fn where
  enabled : Bool
  kgen : Nat
  stopped : Bool
  busy : List Nat
  waiting : List (Nat × Trap)
  lost : List (BitVec 64)
  gcur : BitVec 64
  token : BitVec 2304
  tokenUntil : Nat
  nonces : Nat
  keySet : BitVec 6
  events : List DbgEvent
  moved : Nat
  resetting : Bool
  faulted : Bool
  aperture : Nat
  deriving DecidableEq, Repr

/-- A launch (R91 to R97). -/
structure Launch where
  vf : BitVec 7
  q : Nat
  head : BitVec 32
  packet : BitVec 1024
  orig : List Nat
  places : List Nat
  cursor : Table Nat
  offered : Table Nat
  spawnNext : Nat
  live : Nat
  engine : Nat
  used : Nat
  quota : Nat
  exhausted : Bool
  suspended : Bool
  seqs : Table Nat
  taken : Table Nat
  deriving DecidableEq, Repr

/-- A queue's packet that waits to begin dispatch (R95), and the packets of its ring that LAUNCH wrote while the function's
submissions were held (R76). -/
structure LQueue where
  packet : Option (BitVec 1024)
  table : List Nat
  last : Nat
  held : List Nat
  deriving DecidableEq, Repr

/-- A level barrier (R90): `since` is the slot its pending count last reached zero or was loaded (R231), `took` the
(core, launch) pairs whose strands took part in this phase (R110). -/
structure Barrier where
  armed : Bool
  vf : BitVec 7
  launch : Nat
  initial : Nat
  pending : Nat
  phase : BitVec 4
  since : Nat
  took : List (Nat × Nat)
  deriving DecidableEq, Repr

/-- A D-mode partition (R107 to R114); `taken` are entries past the head that a replay has consumed. -/
structure Part where
  held : Bool
  cause : BitVec 3
  heldAt : Nat
  heldSlots : Nat
  enabledAt : Nat
  paused : Bool
  diverged : Bool
  aborting : Bool
  waitingLog : List (List (BitVec 64))
  taken : List Nat
  deriving DecidableEq, Repr

/-- Where an injection slot of a circuit stands (R40): set up for a later turn, in use, suspended for good by a
teardown, its entries removed.  `ending` in Path marks an accepted teardown or resize. -/
inductive Stage where
  | pending | live | closing | gone
  deriving DecidableEq, Repr

/-- The two ends of a circuit (R34, R38). -/
structure Ends where
  srcHall : Nat
  srcCore : Nat
  dstHall : Nat
  dstCore : Nat
  dstKind : Nat
  chan : Nat
  deriving DecidableEq, Repr

/-- One way of a path (R26, R35): the local input link, the link of each hop, the floor channels (transmit, receive) if it
crosses the floor, the links of the hops after it, the local output link. -/
structure Way where
  inl : Nat
  links : List Nat
  floorCh : Option (Nat × Nat)
  links2 : List Nat
  outl : Nat
  deriving DecidableEq, Repr

/-- One injection slot of a circuit with what it is paired with (R34, R35): its ends, the way out, the service position, the
reply slot and the way back.  A path keeps the ends it was set up with, whatever a resize gives its circuit (R40). -/
structure Path where
  ends : Ends
  inj : Nat
  out : Way
  pos : Option Nat
  reply : Nat
  back : Way
  withdrawable : Bool
  susp : Bool
  stage : Stage
  ending : Bool
  deriving DecidableEq, Repr

/-- What makes a circuit this module's half of a pod circuit (R57): its grant, its pod port, and whether flits leave by the
port at the half's destination or come from the port to the half's source (log 40). -/
structure PodHalf where
  grant : Nat
  port : Nat
  outward : Bool
  deriving DecidableEq, Repr

/-- A dedicated circuit (R34): `ending` once its teardown has been accepted, `last` one more than the slot of its latest
injection. -/
structure Circ where
  vf : BitVec 7
  ends : Ends
  q : Nat
  shared : Bool
  paths : List Path
  ending : Bool
  pod : Option PodHalf
  last : Nat
  deriving DecidableEq, Repr

/-- What a flit carries: an element flit has its bytes in use; a continuation is the second flit of a CAS.q (R326). -/
inductive Load where
  | request (r : Nat)
  | continuation (r : Nat)
  | reply (r : Nat)
  | element (data : BitVec 256) (n : Nat)
  | message (m : Nat)
  deriving DecidableEq, Repr

/-- A flit in flight (R27): where it is, the router it was injected at, the port and link it came in on, the (port, link)
outputs still to take, the last of them a local or floor one, its load. -/
structure Flit where
  vf : BitVec 7
  hall : Nat
  node : Nat
  origin : Nat
  circ : Option Nat
  inj : Nat
  standing : Bool
  inp : Nat × Nat
  hops : List (Nat × Nat)
  floor : Option (Nat × List (Nat × Nat))
  dstCore : Nat
  load : Load
  deriving DecidableEq, Repr

/-- How a memory access reaches its bank (R156). -/
inductive Route where
  | near | standing | circuit (c : Nat) | remote
  deriving DecidableEq, Repr

/-- A memory request of a strand, or of a peer by a pod circuit (`peer`) (R32, R326): `tagop` marks the requests of TAGLD and
TAGST, `sent` one that has left its port, `parts` counts the flits of a CAS.q that have arrived. -/
structure Req where
  vf : BitVec 7
  ctx : BitVec 56
  core : Nat
  grp : Nat
  kind : BitVec 4
  op : BitVec 6
  scope : BitVec 3
  w32 : Bool
  pa : BitVec 52
  va : BitVec 64
  size : Nat
  tagchk : Bool
  data : BitVec 128
  compare : BitVec 128
  reg : Nat
  off : Nat
  sext : Bool
  pc : BitVec 56
  route : Route
  slotIdx : Nat
  served : Nat
  value : BitVec 256
  status : BitVec 8
  waiting : Bool
  arrived : Bool
  seq : BitVec 9
  tagop : Bool
  sent : Bool
  parts : Nat
  peer : Option Nat
  deriving DecidableEq, Repr

/-- Messages of the transit channel (R137). -/
inductive TKind where
  | carry | lineRequest | lineReply | lineWriteback | writebackAck | remoteRequest | remoteReply | controlDelta
  | mail
  deriving DecidableEq, Repr

/-- A transit message, queued or under way. -/
structure TMsg where
  kind : TKind
  src : Nat
  dst : Nat
  vf : BitVec 7
  ctx : BitVec 56
  line : BitVec 56
  id : Nat
  flits : Nat
  sent : Nat
  present : Bool
  mask : BitVec 8
  dirty : Bool
  data : List (BitVec 64)
  deriving DecidableEq, Repr

/-- A stream binding's running part (R196, R197): the buffer in bytes, oldest first, and the elements counted. -/
structure Stream where
  desc : BitVec 512
  core : Nat
  priv : BitVec 2
  buf : List (BitVec 8)
  count : Nat
  order : Nat
  deriving DecidableEq, Repr

/-- States of a pod port (R47). -/
inductive PortState where
  | locked | lost | retrain | slew | resume
  deriving DecidableEq, Repr

/-- A pod port (R46, R47): `delay` is L_p, set at link training. -/
structure Port where
  state : PortState
  offset : Nat
  delay : Nat
  replay : List (Nat × BitVec 256)
  nextSeq : BitVec 16
  expect : BitVec 16
  fails : List Nat
  reference : Bool
  deriving DecidableEq, Repr

/-- The power side of a quadrant (R43, R70 to R82): whether its withdrawable positions serve refresh (`susp`; for the
hall's HBM4E stack, `stackDbl` and `stackSusp`, kept with the hall's first quadrant), whether its gallery holds the
throttle of R19 (`hot`). -/
structure Island where
  holders : List Nat
  leaseEnd : Nat
  leaseStart : Nat
  leaseJ : Nat
  raised : Nat
  newOwner : Option (BitVec 7)
  lowered : Nat
  stackDbl : Bool
  susp : Bool
  stackSusp : Bool
  hot : Bool
  deriving DecidableEq, Repr

/-- Save and rail state (R84, R87). -/
inductive Power where
  | on | saving | saved | cut
  deriving DecidableEq, Repr

/-- The power controller (R78); `removed` is how many barrel slots step 4 has taken from every core. -/
structure PowerCtl where
  step : Nat
  amps : Nat
  watts : Nat
  sinceGrant : Nat
  okSince : Option Nat
  refuse : Bool
  removed : Nat
  deriving DecidableEq, Repr

/-- Phases of the module (R60 to R62). -/
inductive Phase where
  | off | running | recovery
  deriving DecidableEq, Repr

/-- Boot and security state (R58 to R65): `checked` is the image the recovery's check accepted, being written to flash. -/
structure Boot where
  phase : Phase
  flash : List (BitVec 8)
  staging : List Host.Cell
  minSvn : Nat
  log : List (BitVec 8 × BitVec 384)
  flashing : Bool
  checked : List (BitVec 8)
  deriving DecidableEq, Repr

/-- Race shadow of a scratchpad word (R110): last writer and reader with their epochs. -/
structure Shadow where
  writer : Option (Nat × Nat)
  reader : Option (Nat × Nat)
  deriving DecidableEq, Repr

/-- A snapshot image (R66): memory with its keys, tags, empty words and error map, the scratchpads, the device-state area,
what the device keeps of strands, launches and barriers, and the key generation counts.  What R66 stores as ciphertext or
under the snapshot key is held as what it deciphers to, with the number of that key, the key wrapped under the device
identity, and each function's key wrapped under the snapshot key. -/
structure Image where
  mem : List Host.Cell
  memKey : Table Nat
  tags : Table (BitVec 4)
  empty : List Nat
  err : List Nat
  spad : List Host.Cell
  spadEmpty : List Nat
  shadow : Table Shadow
  lines : Table Line
  cores : Table Core
  streams : Table Stream
  quads : Table Quad
  strands : Table Strand
  launches : Table Launch
  barriers : Table Barrier
  kgens : Table Nat
  config : List Nat
  snapKey : Nat
  wrapped : BitVec 256
  keys : Table (BitVec 256)
  deriving DecidableEq, Repr

/-- The snapshot operation in progress and the images stored outside the module, by destination (R66, R67): `place` is the
key of the operation's image, `mine` and `intact` what a restore finds, `chunk` the first 1 MiB that fails, `since` and
`span` the slots in which the bytes move. -/
structure Snap where
  busy : Bool
  host : Bool
  held : Bool
  place : Nat
  mine : Bool
  intact : Bool
  chunk : Nat
  since : Nat
  span : Nat
  keys : Nat
  images : Table Image
  deriving DecidableEq, Repr

/-- A page move of the migration engine (R165). -/
structure Move where
  vf : BitVec 7
  va : BitVec 56
  lsize : Nat
  src : Nat
  dst : Nat
  leafPa : Nat
  leaf : BitVec 64
  oldPa : Nat
  newPa : Nat
  entry : Nat
  deriving DecidableEq, Repr

/-- What leaves the module (R51, R55, R57). -/
inductive Out where
  | interrupt (vf : BitVec 7) (vec : BitVec 7)
  | hostData (vf : BitVec 7) (data : BitVec 64)
  | podFlit (port : BitVec 3) (seq : BitVec 16) (data : BitVec 256)
  | podTag (port : BitVec 3) (tag : BitVec 128)
  deriving DecidableEq, Repr

/-- The module; `meter` holds the charges in pJ that no update has taken yet, of function v at 2·v and of launch l at 2·l + 1
(R73, R75). -/
structure State where
  wheel : Nat
  agenda : List Due
  ev : EvArgs
  issue : Issue
  phase : Boot
  power : Power
  ctl : PowerCtl
  mw0 : Table (BitVec 64)
  mem : List Host.Cell
  memTags : Table (BitVec 4)
  memEmpty : List Nat
  memErr : List Nat
  memKey : Table Nat
  spad : List Host.Cell
  spadEmpty : List Nat
  spadErr : List Nat
  lineErr : List Nat
  shadow : Table Shadow
  cores : Table Core
  quads : Table Quad
  halls : Table Hall
  fns : Table Fn
  strands : Table Strand
  lines : Table Line
  streams : Table Stream
  launches : Table Launch
  queues : Table LQueue
  barriers : Table Barrier
  parts : Table Part
  circs : Table Circ
  banks : Table Bank
  entries : Table (BitVec 32)
  floor : Table Nat
  owned : Table Nat
  flits : Table Flit
  reqs : Table Req
  tmsgs : Table TMsg
  walks : Table Walk
  drops : Table Nat
  ports : Table Port
  peerMax : Table Nat
  islands : Table Island
  newel : Nat
  moves : Table Move
  lastMove : Table Nat
  snap : Snap
  zeroing : Option (Nat × Nat × Nat)
  outbox : List Out
  nextId : Nat
  fresh : Nat
  meter : Table Nat
  deriving DecidableEq, Repr

/-- The state at reset release: nothing resident, memory as boot step 11 leaves it, the boot not yet run (R15, R25,
R59 to R61, R80, R247).  Table entries not listed read as the defaults of Ops.lean, which hold the reset values. -/
def State.reset : State where
  wheel := 0
  agenda := [⟨0, .moduleStart, EvArgs.none⟩]
  ev := EvArgs.none
  issue := ⟨0, 0, 0, 0, 0, 0, [], false, false⟩
  phase := ⟨.off, [], [], 0, [], false, []⟩
  power := .on
  ctl := ⟨0, 0, 0, 0, none, false, 0⟩
  mw0 := []
  mem := []
  memTags := []
  memEmpty := []
  memErr := []
  memKey := []
  spad := []
  spadEmpty := []
  spadErr := []
  lineErr := []
  shadow := []
  cores := []
  quads := []
  halls := []
  fns := []
  strands := []
  lines := []
  streams := []
  launches := []
  queues := []
  barriers := []
  parts := []
  circs := []
  banks := []
  entries := []
  floor := []
  owned := []
  flits := []
  reqs := []
  tmsgs := []
  walks := []
  drops := []
  ports := []
  peerMax := []
  islands := []
  newel := 0
  moves := []
  lastMove := []
  snap := ⟨false, false, false, 0, true, true, 0, 0, 0, 0, []⟩
  zeroing := none
  outbox := []
  nextId := 1
  fresh := 0
  meter := []

end Sys2Proof.Machine
end

