-- ==== Sys2Proof/Machine/Bits.lean ====
section
/-! DEFINITION. Bits: tables and sets keyed by numbers, sparse bytes in canonical form, bit fields, sign extension and
byte order (R3). -/

namespace Sys2Proof.Machine

variable {α : Type}

/-- The entry of a table at a key. -/
def tfind : Table α → Nat → Option α
  | [], _ => none
  | (j, v) :: t, k => if k = j then some v else tfind t k

/-- The entry of a table at a key, or the default. -/
def tget (t : Table α) (k : Nat) (d : α) : α := (tfind t k).getD d

/-- Sets an entry, keeping the keys strictly rising. -/
def tput : Table α → Nat → α → Table α
  | [], k, v => [(k, v)]
  | (j, w) :: t, k, v =>
    if k < j then (k, v) :: (j, w) :: t
    else if k = j then (k, v) :: t
    else (j, w) :: tput t k v

/-- Removes an entry. -/
def tdel (t : Table α) (k : Nat) : Table α := t.filter (fun e => e.1 != k)

/-- Adds a number to a rising list. -/
def sadd : List Nat → Nat → List Nat
  | [], k => [k]
  | j :: t, k => if k < j then k :: j :: t else if k = j then j :: t else j :: sadd t k

/-- Removes a number from a list. -/
def sdel (t : List Nat) (k : Nat) : List Nat := t.filter (fun e => e != k)

/-- A byte of sparse storage; unlisted addresses read as zero. -/
def cellGet : List Host.Cell → Nat → Byte
  | [], _ => 0#8
  | (j, b) :: t, k => if k < j then 0#8 else if k = j then b else cellGet t k

/-- Sets a byte, keeping the addresses strictly rising and no listed zero. -/
def cellPut : List Host.Cell → Nat → Byte → List Host.Cell
  | [], k, b => if b = 0#8 then [] else [(k, b)]
  | (j, c) :: t, k, b =>
    if k < j then (if b = 0#8 then (j, c) :: t else (k, b) :: (j, c) :: t)
    else if k = j then (if b = 0#8 then t else (k, b) :: t)
    else (j, c) :: cellPut t k b

/-- The canonical form of sparse storage: addresses strictly rising from `lo`, no byte zero. -/
def cellsFrom (lo : Nat) : List Host.Cell → Bool
  | [] => true
  | (j, b) :: t => decide (lo ≤ j) && b != 0#8 && cellsFrom (j + 1) t

/-- Memory in canonical form. -/
def Memory.wf (m : List Host.Cell) : Bool := cellsFrom 0 m

/-- Bits [lo + n - 1 : lo] of a word, as a number. -/
def bitsN {w : Nat} (x : BitVec w) (lo n : Nat) : Nat := x.toNat / 2 ^ lo % 2 ^ n

/-- One bit of a word. -/
def bitB {w : Nat} (x : BitVec w) (k : Nat) : Bool := x.getLsbD k

/-- A word with bits [lo + n - 1 : lo] replaced. -/
def setBits {w : Nat} (x : BitVec w) (lo n : Nat) (v : Nat) : BitVec w :=
  (x &&& ~~~(BitVec.ofNat w ((2 ^ n - 1) * 2 ^ lo))) ||| BitVec.ofNat w (v % 2 ^ n * 2 ^ lo)

/-- The 64-bit word i of a line. -/
def lineWord (d : BitVec 512) (i : Nat) : Word := d.extractLsb' (64 * i) 64

/-- A line with its 64-bit word i replaced. -/
def setLineWord (d : BitVec 512) (i : Nat) (v : Word) : BitVec 512 :=
  (d &&& ~~~((BitVec.allOnes 64).setWidth 512 <<< (64 * i))) ||| (v.setWidth 512 <<< (64 * i))

/-- The n-bit two's-complement reading of a number. -/
def sgn (n : Nat) (x : Nat) : Int := if x % 2 ^ n < 2 ^ (n - 1) then ((x % 2 ^ n : Nat) : Int) else (x % 2 ^ n : Nat) - (2 ^ n : Nat)

/-- The n-bit code of an integer. -/
def code (n : Nat) (x : Int) : Nat := (x % ((2 ^ n : Nat) : Int)).toNat

/-- An n-bit code sign-extended to a register (R233). -/
def sext64 (n : Nat) (x : Nat) : Word := BitVec.ofInt 64 (sgn n x)

/-- An n-bit code zero-extended to a register. -/
def zext64 (n : Nat) (x : Nat) : Word := BitVec.ofNat 64 (x % 2 ^ n)

/-- Little-endian bytes of a number (R3). -/
def toBytes : Nat → Nat → List Byte
  | 0, _ => []
  | n + 1, x => BitVec.ofNat 8 x :: toBytes n (x / 256)

/-- The number little-endian bytes hold (R3). -/
def ofBytes : List Byte → Nat
  | [] => 0
  | b :: t => b.toNat + 256 * ofBytes t

/-- Ceiling division. -/
def cdiv (a b : Nat) : Nat := (a + b - 1) / b

/-- log2 rounded down; 0 for 0. -/
def log2 (n : Nat) : Nat := Nat.log2 n

/-- The smallest number x at or above lo with x mod m = r (r < m). -/
def nextMod (lo m r : Nat) : Nat := lo + (r + m - lo % m) % m

/-- The first number from lo, among n tries, that passes a test. -/
def firstFrom (p : Nat → Bool) : Nat → Nat → Option Nat
  | 0, _ => none
  | n + 1, lo => if p lo then some lo else firstFrom p n (lo + 1)

end Sys2Proof.Machine
end

