-- ==== Sys2Proof/Machine/Ops.lean ====
section
/-! DEFINITION. Ops: the named operations over the module's tables, registers, records, agenda and interrupts, taking
a trap and returning from one. -/

namespace Sys2Proof.Machine

open Host

/-! ### Values of objects no table lists yet -/

/-- A core as reset leaves it: RNGSEED is 1 (R247), the rest clear. -/
def coreZero : Core := ⟨[], 0, 1, [], [], [], [], [], [], [], [], []⟩
/-- A quad as reset leaves it. -/
def quadZero : Quad := ⟨[], none, [], [], none, [], 0⟩
/-- A hall as boot step 11 releases it: W = 1,024 (R25), locked, nothing halted; every transmitter counts function
127 as last served (R138). -/
def hallZero : Hall := ⟨1024, .locked, 0, [], [], [], 127, [], [], none, []⟩
/-- A function before it is enabled (R49), its MW1 at the least size of R50 (log 44). -/
def fnZero : Fn := ⟨false, 0, false, [], [], [], 0, 0, 0, 0, 0, [], 0, false, false, 26⟩
/-- A strand the device knows nothing of: its record is unborn (R118). -/
def strandZero : Strand :=
  ⟨0, 0, 0, 0, none, .unborn, 0, 0, 0, 0, 0, 0, 0, 0, 0, 0, [], [], none, .none, false, false, false, false, 0,
   none, none, 0, 0, 0, [], 0, none, 0, false, false, none, false, none, none⟩
def islandZero : Island := ⟨[], 0, 0, 0, 0, none, 0, false, false, false, false⟩
def partZero : Part := ⟨false, 0, 0, 0, 0, false, false, false, [], []⟩
def barrierZero : Barrier := ⟨false, 0, 0, 0, 0, 0, 0, []⟩
/-- PRESUMED (log 5): a pod port is lost until boot step 10 trains it. -/
def portZero : Port := ⟨.lost, 0, 0, [], 0, 0, [], false⟩
def queueZero : LQueue := ⟨none, [], 0, []⟩
def lineZero : Line := ⟨none, []⟩
def shadowZero : Shadow := ⟨none, none⟩

def coreAt (c : Nat) (s : State) : Core := tget s.cores c coreZero
def setCore (c : Nat) (v : Core) (s : State) : State := { s with cores := tput s.cores c v }
def quadAt (q : Nat) (s : State) : Quad := tget s.quads q quadZero
def setQuad (q : Nat) (v : Quad) (s : State) : State := { s with quads := tput s.quads q v }
def hallAt (h : Nat) (s : State) : Hall := tget s.halls h hallZero
def setHall (h : Nat) (v : Hall) (s : State) : State := { s with halls := tput s.halls h v }
/-- The PF is enabled from the start (R49). -/
def fnAt (vf : BitVec 7) (s : State) : Fn :=
  tget s.fns vf.toNat (if vf = 0#7 then { fnZero with enabled := true } else fnZero)
def setFn (vf : BitVec 7) (v : Fn) (s : State) : State := { s with fns := tput s.fns vf.toNat v }
def strandAt (k : Nat) (s : State) : Strand := tget s.strands k strandZero
def setStrand (k : Nat) (v : Strand) (s : State) : State := { s with strands := tput s.strands k v }
def modStrand (k : Nat) (f : Strand → Strand) (s : State) : State := setStrand k (f (strandAt k s)) s
def islandAt (i : Nat) (s : State) : Island := tget s.islands i islandZero
def setIsland (i : Nat) (v : Island) (s : State) : State := { s with islands := tput s.islands i v }
def partAt (n : Nat) (s : State) : Part := tget s.parts n partZero
def setPart (n : Nat) (v : Part) (s : State) : State := { s with parts := tput s.parts n v }
def barrierAt (k : Nat) (s : State) : Barrier := tget s.barriers k barrierZero
def setBarrier (k : Nat) (v : Barrier) (s : State) : State := { s with barriers := tput s.barriers k v }
def portAt (n : Nat) (s : State) : Port := tget s.ports n portZero
def setPort (n : Nat) (v : Port) (s : State) : State := { s with ports := tput s.ports n v }
def queueAt (k : Nat) (s : State) : LQueue := tget s.queues k queueZero
def setQueue (k : Nat) (v : LQueue) (s : State) : State := { s with queues := tput s.queues k v }
def setLaunch (l : Nat) (v : Launch) (s : State) : State := { s with launches := tput s.launches l v }
def modLaunch (l : Nat) (f : Launch → Launch) (s : State) : State :=
  match tfind s.launches l with
  | some v => setLaunch l (f v) s
  | none => s

/-- A name for a new object. -/
def newId (s : State) : Nat × State := (s.nextId, { s with nextId := s.nextId + 1 })
/-- A fresh free word (log 3). -/
def freeWord (s : State) : Word × State := (Config.freeWord s.fresh, { s with fresh := s.fresh + 1 })
/-- A fresh free vector (log 3). -/
def freeVec (s : State) : Vec × State := (Config.freeVec s.fresh, { s with fresh := s.fresh + 1 })

/-- Charges energy to a function and to a launch, 0 for none (R73, R75): kind and datum of the calibrated model. -/
def charge (vf : BitVec 7) (lid kind datum : Nat) (s : State) : State :=
  let e := Config.energy kind datum
  let m := tput s.meter (2 * vf.toNat) (tget s.meter (2 * vf.toNat) 0 + e)
  { s with meter := if lid = 0 then m else tput m (2 * lid + 1) (tget m (2 * lid + 1) 0 + e) }

/-! ### Time and the agenda -/

/-- TIME in ticks (R15, R24). -/
def tick (s : State) : Nat := s.wheel / 2
/-- TIME as a register. -/
def timeWord (s : State) : Word := BitVec.ofNat 64 (tick s)

/-- Inserts an event after every event due no later than it. -/
def insertDue (d : Due) : List Due → List Due
  | [] => [d]
  | e :: t => if d.slot < e.slot then d :: e :: t else e :: insertDue d t

/-- Puts an event on the agenda at a wheel slot. -/
def postAt (slot : Nat) (ev : Instr) (a : EvArgs) (s : State) : State :=
  { s with agenda := insertDue ⟨slot, ev, a⟩ s.agenda }
/-- Puts an event on the agenda d slots from now. -/
def post (d : Nat) (ev : Instr) (a : EvArgs) (s : State) : State := postAt (s.wheel + d) ev a s
/-- Removes events from the agenda. -/
def unpost (p : Due → Bool) (s : State) : State := { s with agenda := s.agenda.filter (fun d => !p d) }
/-- The first 1,024-slot boundary after now (R24). -/
def nextBoundary (s : State) : Nat := (s.wheel / 1024 + 1) * 1024

def argVf (vf : BitVec 7) : EvArgs := { EvArgs.none with vf := vf }
def argStrand (k : Nat) : EvArgs :=
  { EvArgs.none with vf := BitVec.ofNat 7 (k / 2 ^ 56), ctx := BitVec.ofNat 56 k }
def argId (n : Nat) : EvArgs := { EvArgs.none with id := n }
def argCore (c : Nat) : EvArgs := { EvArgs.none with core := BitVec.ofNat 12 c }
def argQuad (q : Nat) : EvArgs := { EvArgs.none with id := q }
def argQueue (vf : BitVec 7) (q : Nat) : EvArgs := { EvArgs.none with vf := vf, q := BitVec.ofNat 6 q }
def argHall (h : Nat) : EvArgs := { EvArgs.none with hall := BitVec.ofNat 4 h }
def argPart (n : Nat) : EvArgs := { EvArgs.none with n := BitVec.ofNat 8 n }

/-! ### Places (R12, R14) -/

def coreX (c : Nat) : Nat := c % 16
def coreY (c : Nat) : Nat := c % 256 / 16
def coreHall (c : Nat) : Nat := c / 256
/-- The quad of a core, 64·hall + q (R12). -/
def coreQuad (c : Nat) : Nat := 64 * coreHall c + 8 * (coreY c / 2) + coreX c / 2
/-- The quadrant index i = 4·hall + quadrant of a core (R12, R14). -/
def coreQuadrant (c : Nat) : Nat :=
  4 * coreHall c + (if 8 ≤ coreY c then 0 else 2) + (if 8 ≤ coreX c then 1 else 0)
/-- Torus hops between two cores of a hall (R31). -/
def ringDist (a b : Nat) : Nat := min ((a + 16 - b) % 16) ((b + 16 - a) % 16)
def torusDist (a b : Nat) : Nat := ringDist (coreX a) (coreX b) + ringDist (coreY a) (coreY b)

/-! ### Control registers of MW0 (R5, R6, R50) -/

/-- Reset value of a register word that is not zero (R68, R69, R80, R164, R227); the mask bit of an MSI-X vector is 1
(PRESUMED from PCIe, log 8). -/
def regReset (vf : Nat) (off : Nat) : Word :=
  if off = 0x30008 then 1000#64
  else if 0x30020 ≤ off ∧ off < 0x30060 then 22#64
  else if vf = 0 ∧ 0x30100 ≤ off ∧ off < 0x30300 then BitVec.ofNat 64 (22 + 7 * 32)
  else if vf = 0 ∧ 0x30300 ≤ off ∧ off < 0x30380 then BitVec.ofNat 64 (0xFFFF + 0x10000)
  else if vf = 0 ∧ off = 0x3008 then BitVec.ofNat 64 (256 + 100 * 2 ^ 12 + 10 * 2 ^ 28)
  else if off = 0x40260 then 1000#64
  else if 0x20000 ≤ off ∧ off < 0x20800 ∧ off % 16 = 8 then BitVec.ofNat 64 (2 ^ 32)
  else 0#64

/-- The stored word of a register: function and byte offset in its MW0. -/
def reg (vf : BitVec 7) (off : Nat) (s : State) : Word :=
  tget s.mw0 (vf.toNat * 2 ^ 20 + off) (regReset vf.toNat off)
def setReg (vf : BitVec 7) (off : Nat) (v : Word) (s : State) : State :=
  { s with mw0 := tput s.mw0 (vf.toNat * 2 ^ 20 + off) v }
/-- A field of a register. -/
def regN (vf : BitVec 7) (off lo n : Nat) (s : State) : Nat := bitsN (reg vf off s) lo n
def setRegN (vf : BitVec 7) (off lo n v : Nat) (s : State) : State := setReg vf off (setBits (reg vf off s) lo n v) s

/-- Offset of a queue's register block (R52). -/
def qoff (q : Nat) : Nat := 64 * q
/-- Key of a queue. -/
def lqueueKey (vf : BitVec 7) (q : Nat) : Nat := 64 * vf.toNat + q

/-- Owner of a quadrant's compute island (R69). -/
def islandOwner (i : Nat) (s : State) : BitVec 7 := BitVec.ofNat 7 (regN 0 (0x30900 + 8 * i) 0 7 s)
/-- The function owns the quadrant of a core (R94); the PF owns a quadrant no VF owns. -/
def ownsCore (vf : BitVec 7) (c : Nat) (s : State) : Bool := islandOwner (coreQuadrant c) s == vf
/-- A field of an ISLAND entry (R69). -/
def islandN (i lo n : Nat) (s : State) : Nat := regN 0 (0x30100 + 8 * i) lo n s
def setIslandN (i lo n v : Nat) (s : State) : State := setRegN 0 (0x30100 + 8 * i) lo n v s
/-- MELTSEG.frac and refreeze (R80). -/
def meltFrac (h : Nat) (s : State) : Nat := regN 0 (0x30300 + 8 * h) 0 16 s
def meltRefreeze (h : Nat) (s : State) : Bool := regN 0 (0x30300 + 8 * h) 16 1 s == 1

/-- The enabled D-mode partition that holds a hall (R107). -/
def partOf (h : Nat) (s : State) : Option Nat :=
  (List.range 16).find? (fun n => regN 0 (0x2200 + 8 * n) 23 1 s == 1 && bitB (reg 0 (0x2200 + 8 * n) s) h)
def partOwner (n : Nat) (s : State) : BitVec 7 := BitVec.ofNat 7 (regN 0 (0x2200 + 8 * n) 16 7 s)
def partHas (n h : Nat) (s : State) : Bool := bitB (reg 0 (0x2200 + 8 * n) s) h

/-! ### Clocks (R14, R192) -/

/-- The clock point of a core in 100 MHz units: 20 in a D-mode partition (R71). -/
def coreFreq (c : Nat) (s : State) : Nat :=
  if (partOf (coreHall c) s).isSome && s.power == .on then 20
  else max 8 (islandN (coreQuadrant c) 0 5 s)
/-- The core cycle in which a wheel slot falls, at clock point f: 20/f slots a cycle (R14, R16, log 2). -/
def cycleAt (f w : Nat) : Nat := w * f / 20
/-- The first wheel slot at or after the start of a core cycle. -/
def cycleSlot (f t : Nat) : Nat := cdiv (20 * t) f
/-- The next issue turn of barrel slot b after now, n turns on (R192). -/
def nextTurn (c b n : Nat) (s : State) : Nat :=
  let f := coreFreq c s
  cycleSlot f (nextMod (cycleAt f s.wheel + 1) 8 b + 8 * (n - 1))
/-- Wheel slots of a number of core cycles. -/
def cyclesToSlots (c n : Nat) (s : State) : Nat := cdiv (20 * n) (coreFreq c s)

/-! ### Interrupts (R55) -/

/-- Sends the message of an MSI-X vector, or holds it pending while the vector is masked (R55, PCIe; log 8). -/
def sendVector (vf : BitVec 7) (vec : Nat) (s : State) : State :=
  if regN vf (0x20008 + 16 * vec) 32 1 s = 1 then
    let off := 0x24000 + 8 * (vec / 64)
    setReg vf off (reg vf off s ||| BitVec.ofNat 64 (2 ^ (vec % 64))) s
  else { s with outbox := s.outbox ++ [.interrupt vf (BitVec.ofNat 7 vec)] }

/-- A cause of a function rises: INTCAUSE, its message when the bit was 0, and the wake of strands in IDLE (R55,
R384). -/
def raiseCause (vf : BitVec 7) (bit : Nat) (s : State) : State :=
  let old := regN vf 0x28000 bit 1 s
  let s := setRegN vf 0x28000 bit 1 1 s
  if old = 1 then s
  else
    let s := if regN vf 0x28008 7 1 s = 1 then sendVector vf (regN vf 0x28008 0 7 s) s else s
    s.strands.foldl (fun t e =>
      if e.1 / 2 ^ 56 = vf.toNat ∧ e.2.wakeBits.getLsbD 4 then
        post 1 .strandWake { argStrand e.1 with n := 8#8 } t
      else t) s

/-- The host's accesses do not reach a function: it is being reset (R56), or it is a VF and the module, in recovery,
enumerates only the PF (R62). -/
def hostClosed (vf : BitVec 7) (s : State) : Bool :=
  (fnAt vf s).resetting || (vf != 0#7 && s.phase.phase == .recovery)
/-- What a host read answers leaves the module. -/
def hostAnswer (vf : BitVec 7) (w : Word) (s : State) : State := { s with outbox := s.outbox ++ [.hostData vf w] }
/-- A host write: discarded where it does not reach the function. -/
def hostWrite (s : State) (f : State → Outcome State Fault Refusal) : Outcome State Fault Refusal :=
  if hostClosed s.ev.vf s then .next s else f s
/-- A host read of a register that clears: it answers `w` and leaves `t`; all ones, and nothing cleared, where it does not
reach the function. -/
def hostReadClear (w : Word) (t s : State) : Outcome State Fault Refusal :=
  .next (if hostClosed s.ev.vf s then hostAnswer s.ev.vf (BitVec.allOnes 64) s else hostAnswer s.ev.vf w t)

/-- Queues a debug event (R227): 64 events. -/
def pushDbg (vf : BitVec 7) (e : DbgEvent) (s : State) : State :=
  let f := fnAt vf s
  if f.events.length < 64 then setFn vf { f with events := f.events ++ [e] } s else s

/-! ### Records and their cached lines (R117 to R124) -/

/-- The number of a strand: function and context address (R115). -/
def sid (vf : BitVec 7) (ctx : BitVec 56) : Nat := vf.toNat * 2 ^ 56 + ctx.toNat
def sidVf (k : Nat) : BitVec 7 := BitVec.ofNat 7 (k / 2 ^ 56)
def sidCtx (k : Nat) : BitVec 56 := BitVec.ofNat 56 k
/-- The strand at its turn. -/
def cur (s : State) : Nat := sid s.issue.vf s.issue.ctx
def curStrand (s : State) : Strand := strandAt (cur s) s

/-- Key of line l of a strand's record. -/
def lineKey (k l : Nat) : Nat := k + 64 * l
def lineAt (key : Nat) (s : State) : Line := tget s.lines key lineZero
def setLine (key : Nat) (v : Line) (s : State) : State := { s with lines := tput s.lines key v }

/-- The copies of a line, newest first (R122, R124). -/
def copies (ln : Line) : List Copy := ln.rc.toList ++ ln.hc
/-- The words of a line that some cache holds. -/
def haveMask (ln : Line) : BitVec 8 := (copies ln).foldl (fun m c => m ||| c.mask) 0#8
/-- No cache holds the line. -/
def lineEmpty (ln : Line) : Bool := ln.rc.isNone && ln.hc.isEmpty
/-- A hall context cache's copy of a line. -/
def hcAt (h : Nat) (ln : Line) : Option Copy := ln.hc.find? (fun c => c.place == h)
/-- A copy with nothing in it. -/
def copyNone (h : Nat) (s : State) : Copy := ⟨h, 0#8, false, false, false, s.wheel, 0#512⟩
/-- A copy takes its place in a hall context cache: words it holds are current nowhere else (R124). -/
def setHc (c : Copy) (ln : Line) : Line :=
  { ln with hc := c :: ln.hc.filterMap (fun x =>
      if x.place = c.place ∨ x.mask &&& ~~~c.mask = 0#8 then none else some { x with mask := x.mask &&& ~~~c.mask }) }

/-- The word of a record where a cache holds it: its newest copy; zero where none does (R120, R124). -/
def cachedWord (k off : Nat) (s : State) : Word :=
  let i := off % 64 / 8
  match (copies (lineAt (lineKey k (off / 64)) s)).find? (fun c => bitB c.mask i) with
  | some c => lineWord c.data i
  | none => 0#64

/-- Writes a word of a record in the register cache of a core, allocating the line in part (R122, R126). -/
def putWord (k off : Nat) (v : Word) (s : State) : State :=
  let key := lineKey k (off / 64)
  let ln := lineAt key s
  let i := off % 64 / 8
  let c : Copy := ln.rc.getD (copyNone (strandAt k s).core s)
  setLine key { ln with rc := some { c with
    mask := c.mask ||| (1#8 <<< i), dirty := true, stamp := s.wheel, data := setLineWord c.data i v } } s

/-- Writes a word of a record in the register cache, in the hall context cache that holds it, or else in hall h's. -/
def putWordAnywhere (k off h : Nat) (v : Word) (s : State) : State :=
  let key := lineKey k (off / 64)
  let ln := lineAt key s
  let i := off % 64 / 8
  match ln.rc with
  | some _ => putWord k off v s
  | none =>
    let c : Copy := ((ln.hc.find? (fun c => bitB c.mask i)).orElse (fun _ => hcAt h ln)).getD (copyNone h s)
    setLine key (setHc { c with mask := c.mask ||| (1#8 <<< i), dirty := true, data := setLineWord c.data i v } ln) s

/-- Word i of the header (R118). -/
def hdr (k i : Nat) (s : State) : Word := cachedWord k (8 * i) s
def setHdr (k i : Nat) (v : Word) (s : State) : State := putWordAnywhere k (8 * i) (coreHall (strandAt k s).core) v s
def hdrN (k i lo n : Nat) (s : State) : Nat := bitsN (hdr k i s) lo n
def setHdrN (k i lo n v : Nat) (s : State) : State := setHdr k i (setBits (hdr k i s) lo n v) s

def hdrPc (k : Nat) (s : State) : BitVec 56 := BitVec.ofNat 56 (hdr k 0 s).toNat
def hdrPriv (k : Nat) (s : State) : Nat := hdrN k 1 8 2 s
def hdrDmode (k : Nat) (s : State) : Bool := hdrN k 1 13 1 s == 1
def hdrRace (k : Nat) (s : State) : Bool := hdrN k 1 14 1 s == 1
def hdrPrio (k : Nat) (s : State) : Nat := hdrN k 1 10 3 s
def hdrRegion (k : Nat) (s : State) : BitVec 56 := BitVec.ofNat 56 (hdrN k 5 13 43 s * 2 ^ 13)
def hdrPresent (k : Nat) (s : State) : Word := hdr k 6 s

/-- Code of a strand's state in its header (R118). -/
def runCode : Run → Nat
  | .unborn => 0 | .resident => 1 | .ready => 2 | .held => 3 | .transit => 4 | .trapped => 5 | .exited => 6
  | .suspended => 7 | .lost => 8

/-- Sets a strand's state, hold and held object, and its header (R118). -/
def setRun (k : Nat) (r : Run) (hold : BitVec 4) (hobj : BitVec 56) (s : State) : State :=
  let s := modStrand k (fun t => { t with run := r, hold := hold, hobj := hobj }) s
  let s := setHdrN k 1 0 8 (runCode r + 16 * hold.toNat) s
  if hold = 1 ∨ hold = 2 ∨ hold = 3 ∨ hold = 4 ∨ hold = 5 ∨ hold = 11 then setHdrN k 7 0 56 hobj.toNat s else s

/-- Key of a level barrier: level in the codes of R273, instance, number. -/
def barrierKey (level inst num : Nat) : Nat := level * 2 ^ 20 + inst * 16 + num
/-- hobj of a wait at a barrier (R330). -/
def barrierObj (key : Nat) (tok : BitVec 4) : BitVec 56 :=
  BitVec.ofNat 56 (0xFF * 2 ^ 48 + key % 2 ^ 20 / 16 * 2 ^ 32 + key / 2 ^ 20 * 2 ^ 12 + key % 16 * 2 ^ 8 + tok.toNat)

/-! ### Scalar, predicate and vector registers (R117, R119, R272) -/

/-- Scalar register i of a strand: s0 reads zero. -/
def readS (k : Nat) (i : BitVec 5) (s : State) : Word :=
  if i = 0#5 then 0#64 else cachedWord k (0x40 + 8 * (i.toNat - 1)) s

/-- The 32-bit half words of line 5 (R119). -/
def readHalf (k j : Nat) (s : State) : BitVec 32 :=
  let w := cachedWord k (0x140 + 8 * (j / 2)) s
  if j % 2 = 0 then w.extractLsb' 0 32 else w.extractLsb' 32 32
def writeHalf (k j : Nat) (v : BitVec 32) (s : State) : State :=
  let off := 0x140 + 8 * (j / 2)
  let w := cachedWord k off s
  putWord k off (if j % 2 = 0 then w.extractLsb' 32 32 ++ v else v ++ w.extractLsb' 0 32) s

/-- Predicate register i: p0 reads all ones. -/
def readP (k : Nat) (i : Nat) (s : State) : BitVec 32 :=
  if i = 0 then BitVec.allOnes 32 else readHalf k (i - 1) s

/-- Vector register j, lane 0 at the lowest address. -/
def readV (k : Nat) (j : BitVec 5) (s : State) : Vec :=
  let b := 0x180 + 128 * j.toNat
  (List.range 16).foldr (fun i (acc : Vec) => (acc <<< 64) ||| (cachedWord k (b + 8 * i) s).setWidth 1024) 0#1024

/-- Number of a register in uses: scalars 0 to 31, vectors 32 to 63, predicates 64 to 71. -/
def codeS (i : BitVec 5) : Nat := i.toNat
def codeV (i : BitVec 5) : Nat := 32 + i.toNat
def codeP (i : Nat) : Nat := 64 + i % 8

/-- The full bit of a register (R119, R195): s0 and p0 read full. -/
def fullBit (k code : Nat) (s : State) : Bool :=
  if code = 0 ∨ code = 64 then true
  else if code < 32 then bitB (cachedWord k 0x158 s) (32 + code)
  else if code < 64 then bitB (cachedWord k 0x160 s) (8 + (code - 32))
  else bitB (cachedWord k 0x160 s) (code - 64)

/-- Sets or clears the full bit of a register; s0 and p0 stay full. -/
def setFull (k code : Nat) (full : Bool) (s : State) : State :=
  if code = 0 ∨ code = 64 then s
  else
    let off := if code < 32 then 0x158 else 0x160
    let b := if code < 32 then 32 + code else if code < 64 then 8 + (code - 32) else code - 64
    putWord k off (setBits (cachedWord k off s) b 1 (if full then 1 else 0)) s

/-- Writes a scalar register whole: the full bit is set, a write to s0 is discarded (R195, R272, R287). -/
def writeS (k : Nat) (i : BitVec 5) (v : Word) (s : State) : State :=
  if i = 0#5 then s else setFull k (codeS i) true (putWord k (0x40 + 8 * (i.toNat - 1)) v s)

/-- Writes a predicate register whole. -/
def writeP (k : Nat) (i : Nat) (v : BitVec 32) (s : State) : State :=
  if i = 0 then s else setFull k (codeP i) true (writeHalf k (i - 1) v s)

/-- Writes the bits of a vector register without touching its full bit (R195, R339). -/
def writeVBits (k : Nat) (j : BitVec 5) (v : Vec) (s : State) : State :=
  (List.range 16).foldl (fun s i => putWord k (0x180 + 128 * j.toNat + 8 * i) (v.extractLsb' (64 * i) 64) s) s

/-- Writes a vector register whole. -/
def writeV (k : Nat) (j : BitVec 5) (v : Vec) (s : State) : State :=
  setFull k (codeV j) true (writeVBits k j v s)

/-- FCSR, in bits [15:0] of line 80 (R245). -/
def readFcsr (k : Nat) (s : State) : BitVec 16 := (cachedWord k 0x1400 s).setWidth 16
def writeFcsr (k : Nat) (v : BitVec 16) (s : State) : State :=
  putWord k 0x1400 (v.setWidth 64) s

/-- A charge to a strand's function and launch. -/
def chargeStrand (k kind datum : Nat) (s : State) : State := charge (sidVf k) (strandAt k s).launch kind datum s

/-! ### Wheel of one strand: leaving notes for the step -/

/-- Marks the instruction retired with the next pc (R209), counts the issue (R100, R128) and ends its stall. -/
def retireTo (pc : BitVec 56) (s : State) : State :=
  let k := cur s
  let step := bitB (cachedWord k 0x1480 s) 0
  let s := setHdrN k 0 0 56 pc.toNat s
  let s := modStrand k (fun t => { t with
    issued := t.issued + 1, stall := none, hold := if t.stall.isSome then 0 else t.hold, wait := .none, suppress := false,
    stepped := step, fault := none, touching := none, mid := none }) s
  let s := chargeStrand k 0 (s.issue.words.foldl (fun a w => a * 2 ^ 32 + w.toNat) 0) s
  { s with issue := { s.issue with retired := true } }

/-- Retires the instruction at its next word. -/
def retire (s : State) : State := retireTo s.issue.npc s

/-- A step of a repeating instruction is done and another follows: the strand stands between them (R209). -/
def midway (s : State) : State := modStrand (cur s) (fun t => { t with mid := some (s.issue.pc, s.issue.npc) }) s

/-- Retires after n turns: the slot issues nothing in the turns between (R193). -/
def retireTurns (n : Nat) (s : State) : State :=
  let s := retire s
  modStrand (cur s) (fun t => { t with busyTurns := n }) s

/-- Begins or continues a stall of a strand counted under R102 and R194: the first refused turn is noted, and an
eviction is due at the threshold of the strand's mode. -/
def stallOf (k : Nat) (hold : BitVec 4) (hobj : BitVec 56) (s : State) : State :=
  let t := strandAt k s
  match t.stall with
  | some _ => modStrand k (fun t => { t with hold := hold, hobj := hobj }) s
  | none =>
    let s := modStrand k (fun t => { t with stall := some s.wheel, hold := hold, hobj := hobj }) s
    let mode := if hdrDmode k s then 1 else hdrN k 2 0 2 s
    let th := hdrN k 2 2 8 s
    if mode = 0 then
      post (cyclesToSlots t.core (8 * (if th = 0 then 64 else th)) s) .stallEviction (argStrand k) s
    else if mode = 2 then post 1 .stallEviction (argStrand k) s
    else s

/-- What a strand waits for may have come: held, it looks again; about to leave its slot, it will leave it ready
(R102). -/
def wakeStrand (k : Nat) (s : State) : State :=
  let t := strandAt k s
  if t.run = .held then post 1 .strandWake (argStrand k) s
  else if t.leaving = true ∧ t.stall.isSome = true then modStrand k (fun t => { t with hold := 0 }) s
  else s

/-- A stall of the strand at issue. -/
def stallWith (hold : BitVec 4) (hobj : BitVec 56) (s : State) : State := stallOf (cur s) hold hobj s

/-! ### Taking a trap and returning from one (R208 to R219) -/

/-- The strand stops at its boundary with a trap (R212 step 1): state trapped, tkind takes the code, and delivery is
due; the record names where it goes. -/
def stopWith (k : Nat) (t : Trap) (s : State) : State :=
  let x := strandAt k s
  let s := match x.wait with
    | .barrier _ _ => setRun k .trapped x.hold x.hobj s
    | _ => if t.kind = 11#8 then setRun k .trapped 7 0 s else setRun k .trapped 0 0 s
  let s := setHdrN k 7 56 8 t.kind.toNat s
  let s := modStrand k (fun x => { x with
    trap := some t, trapTo := if t.pf then 1#2 else 0#2, trapTime := tick s, trapAt := 0, stall := none, fault := none,
    stepped := false, wait := match x.wait with | .barrier b q => .barrier b q | _ => .none }) s
  post 1 .trapDeliver (argStrand k) s

/-- An asynchronous trap: epc names the next instruction, and so does npc but between the steps of a repeating one (R209). -/
def asyncTrap (k kind cause : Nat) (info1 info2 : Word) (s : State) : Trap :=
  let pc := hdrPc k s
  let npc := match (strandAt k s).mid with | some (p, n) => if p = pc then n else pc | none => pc
  ⟨BitVec.ofNat 8 kind, BitVec.ofNat 8 cause, pc, npc, 0, info1, info2, [], false⟩
/-- A strand that leaves its slot at the retirement of an instruction it stepped takes the single-step trap there (R225). -/
def stepNow (k : Nat) (s : State) : State := if (strandAt k s).stepped then stopWith k (asyncTrap k 20 0 0 0 s) s else s

/-- A synchronous trap on the instruction at issue: epc names its chain, npc the word after it (R209). -/
def trapFull (kind cause : Nat) (addr info1 info2 : Word) (s : State) : State :=
  stopWith (cur s)
    { kind := BitVec.ofNat 8 kind, cause := BitVec.ofNat 8 cause, epc := s.issue.pc, npc := s.issue.npc, addr := addr,
      info1 := info1, info2 := info2, chain := s.issue.words, pf := kind == 7 && cause == 3 || kind == 11 && cause == 3 }
    s

def trapNow (kind cause : Nat) (s : State) : State := trapFull kind cause 0 0 0 s
def trapAddr (kind cause : Nat) (addr : Word) (s : State) : State := trapFull kind cause addr 0 0 s

/-- The privilege level of the strand at issue (R207). -/
def curPriv (s : State) : Nat := hdrPriv (cur s) s

/-- A level the instruction needs, else the privilege trap (R207). -/
def needPriv (lvl : Nat) (s : State) (f : State → Outcome State Fault Refusal) : Outcome State Fault Refusal :=
  if lvl ≤ curPriv s then f s else .next (trapNow 3 0 s)

/-- The strand becomes ready in its core's run queue with a new ready time (R99); hold and hobj of a barrier wait stay
in place (R330). -/
def makeReady (k : Nat) (s : State) : State :=
  let s := match (strandAt k s).wait with
    | .barrier b tok => setRun k .ready 4 (barrierObj b tok) s
    | _ => setRun k .ready 0 0 s
  let s := setHdrN k 1 31 1 0 s
  let s := modStrand k (fun t => { t with readyTime := tick s, slot := none, stall := none }) s
  let c := (strandAt k s).core
  let s := post 1 .slotSelect (argCore c) s
  post 1000000 .dueEviction (argCore c) s

/-- Returning a trapped strand under disposition 0, 1 or 2 (R219): its pc, its level, and ready in the run queue of
its core. -/
def returnTrapped (k : Nat) (disp : Nat) (s : State) : State :=
  let w0 := cachedWord k 0x1440 s
  let w1 := cachedWord k 0x1448 s
  let w2 := cachedWord k 0x1450 s
  let pc := if disp = 0 then w0 else if disp = 1 then w1 else w2
  let s := setHdrN k 0 0 56 pc.toNat s
  let s := setHdrN k 1 8 2 (bitsN (cachedWord k 0x1458 s) 2 2) s
  let s := setHdrN k 1 36 1 0 s
  let s := modStrand k (fun t => { t with trap := none, suppress := disp == 0 }) s
  makeReady k s

/-- The requests of a group. -/
def groupReqs (g : Nat) (s : State) : List (Nat × Req) := s.reqs.filter (fun e => e.2.grp == g)

end Sys2Proof.Machine
end

