-- ==== Sys2Proof/Machine/Store.lean ====
section
/-! DEFINITION. Store: the contents of gallery, HBM4E and scratchpads, the physical map, ownership, and the service
positions of the banks (R146, R150, R158, R160, R166, R169, R316; R41). -/

namespace Sys2Proof.Machine

/-! ### The physical map (R146, R156) -/

/-- A physical address lies in memory. -/
def inMemory (pa : Nat) : Bool :=
  (pa / 2 ^ 48 == 0 && pa / 2 ^ 38 % 2 ^ 10 == 0) || (pa / 2 ^ 48 == 1 && pa / 2 ^ 40 % 2 ^ 8 == 0)
def isHbm (pa : Nat) : Bool := pa / 2 ^ 48 == 1
/-- The home hall of a physical address (R10, R156). -/
def homeOf (pa : Nat) : Nat := if isHbm pa then pa / 2 ^ 36 % 16 else pa / 2 ^ 34 % 16
/-- The bank of a physical address: vault 256·hall + c, or channel 4096 + 64·stack + k. -/
def bankOf (pa : Nat) : Nat :=
  if isHbm pa then 4096 + 64 * (pa / 2 ^ 36 % 16) + pa / 2 ^ 8 % 64
  else 256 * (pa / 2 ^ 34 % 16) + pa / 2 ^ 26 % 256
/-- The core over the bank, or of its channel's attach router (R35, R140). -/
def bankCore (b : Nat) : Nat := if b < 4096 then b else 256 * ((b - 4096) / 64) + 4 * ((b - 4096) % 64)
def bankHall (b : Nat) : Nat := if b < 4096 then b / 256 else (b - 4096) / 64
/-- Access time of a bank in slots (R41). -/
def bankA (b : Nat) : Nat := if b < 4096 then 56 else 80
/-- The memory wavelength adds 12 slots each way (R42). -/
def bankFloor (b : Nat) : Nat := if b < 4096 then 0 else 12

/-! ### Memory bytes under keys (R166) -/

/-- The key of a function in its present generation. -/
def keyOf (vf : BitVec 7) (s : State) : Nat := (fnAt vf s).kgen * 128 + vf.toNat
/-- The key a granule was written under; boot step 11 writes under the PF's first key. -/
def granKey (g : Nat) (s : State) : Nat := tget s.memKey g 0

/-- A byte of memory as read under a key. -/
def memByte (key a : Nat) (s : State) : Byte :=
  let b := cellGet s.mem a
  let ks := granKey (a / 32) s
  if ks = key then b else Config.garble ks key a b
def memBytes (key a n : Nat) (s : State) : List Byte := (List.range n).map (fun i => memByte key (a + i) s)
def memVal (key a n : Nat) (s : State) : Nat := ofBytes (memBytes key a n s)

/-- Sets bytes at rising addresses. -/
def putBytes : List Byte → Nat → List Host.Cell → List Host.Cell
  | [], _, m => m
  | b :: t, a, m => putBytes t (a + 1) (cellPut m a b)

/-- An uncorrectable error touches one of n bytes at a (R169). -/
def memErrAt (a n : Nat) (s : State) : Bool :=
  s.memErr.any (fun g => a / 32 ≤ g && g ≤ (a + n - 1) / 32)

/-- A write inside one granule: read, merged and written whole under the writer's key (R166); a partial write of a
granule with an uncorrectable error is discarded, a whole one clears it (R169). -/
def memWriteGran (key a : Nat) (bs : List Byte) (s : State) : State :=
  let g := a / 32
  if s.memErr.contains g && bs.length != 32 then s
  else
    let s := if s.memErr.contains g then { s with memErr := sdel s.memErr g } else s
    if granKey g s = key then { s with mem := putBytes bs a s.mem }
    else
      let old := memBytes key (32 * g) 32 s
      { s with
        mem := putBytes bs a (putBytes old (32 * g) s.mem)
        memKey := if key = 0 then tdel s.memKey g else tput s.memKey g key }

/-- A write of bytes, granule by granule. -/
def memWriteFuel : Nat → Nat → Nat → List Byte → State → State
  | 0, _, _, _, s => s
  | n + 1, key, a, bs, s =>
    let k := 32 - a % 32
    if bs.length ≤ k then (if bs.isEmpty then s else memWriteGran key a bs s)
    else memWriteFuel n key (a + k) (bs.drop k) (memWriteGran key a (bs.take k) s)
def memWrite (key a : Nat) (bs : List Byte) (s : State) : State := memWriteFuel (bs.length / 32 + 2) key a bs s

/-! ### Tags and full bits (R158, R316) -/

def tagAt (pa : Nat) (s : State) : BitVec 4 := tget s.memTags (pa / 32) 0#4
def setTag (pa : Nat) (t : BitVec 4) (s : State) : State :=
  { s with memTags := if t = 0#4 then tdel s.memTags (pa / 32) else tput s.memTags (pa / 32) t }
/-- The first granule of n bytes at pa whose tag differs. -/
def tagMismatch (pa n : Nat) (t : BitVec 4) (s : State) : Option (BitVec 4) :=
  let k := (pa + n - 1) / 32 - pa / 32 + 1
  match (List.range k).find? (fun i => tagAt (pa + 32 * i) s != t) with
  | some i => some (tagAt (pa + 32 * i) s)
  | none => none
def memFull (pa : Nat) (s : State) : Bool := !(s.memEmpty.contains (pa / 8))
def setMemFull (pa : Nat) (full : Bool) (s : State) : State :=
  { s with memEmpty := if full then sdel s.memEmpty (pa / 8) else sadd s.memEmpty (pa / 8) }

/-! ### Scratchpads (R160) -/

def spadKey (c off : Nat) : Nat := c * 2 ^ 21 + off % 2 ^ 21
def spadByte (c off : Nat) (s : State) : Byte := cellGet s.spad (spadKey c off)
def spadBytes (c off n : Nat) (s : State) : List Byte := (List.range n).map (fun i => spadByte c (off + i) s)
def spadVal (c off n : Nat) (s : State) : Nat := ofBytes (spadBytes c off n s)
def spadErrAt (c off n : Nat) (s : State) : Bool :=
  s.spadErr.any (fun g => spadKey c off / 8 ≤ g && g ≤ (spadKey c off + n - 1) / 8)
/-- A write inside one 8-byte word. -/
def spadWriteWord (c off : Nat) (bs : List Byte) (s : State) : State :=
  let g := spadKey c off / 8
  if s.spadErr.contains g && bs.length != 8 then s
  else { s with spad := putBytes bs (spadKey c off) s.spad, spadErr := sdel s.spadErr g }
def spadWriteFuel : Nat → Nat → Nat → List Byte → State → State
  | 0, _, _, _, s => s
  | n + 1, c, off, bs, s =>
    let k := 8 - off % 8
    if bs.length ≤ k then (if bs.isEmpty then s else spadWriteWord c off bs s)
    else spadWriteFuel n c (off + k) (bs.drop k) (spadWriteWord c off (bs.take k) s)
def spadWrite (c off : Nat) (bs : List Byte) (s : State) : State := spadWriteFuel (bs.length / 8 + 2) c off bs s
def spadFull (c off : Nat) (s : State) : Bool := !(s.spadEmpty.contains (spadKey c off / 8))
def setSpadFull (c off : Nat) (full : Bool) (s : State) : State :=
  { s with spadEmpty := if full then sdel s.spadEmpty (spadKey c off / 8) else sadd s.spadEmpty (spadKey c off / 8) }

/-! ### The ownership map (R150) -/

/-- Index of a granule's byte in the ownership map. -/
def ownIndex (pa : Nat) : Nat := if isHbm pa then 2 ^ 22 + pa % 2 ^ 40 / 2 ^ 16 else pa % 2 ^ 38 / 2 ^ 16
/-- OWNMAP.base and en (R151). -/
def ownBase (s : State) : Nat := regN 0 0x3000 16 36 s * 2 ^ 16
def ownEn (s : State) : Bool := regN 0 0x3000 0 1 s == 1
/-- The map's byte of a granule, read under the PF's key. -/
def ownByte (pa : Nat) (s : State) : Byte := memByte (keyOf 0#7 s) (ownBase s + ownIndex pa) s
/-- The map's byte of a granule has an uncorrectable error (R169). -/
def ownErr (pa : Nat) (s : State) : Bool := ownEn s && memErrAt (ownBase s + ownIndex pa) 1 s
def ownerIs (vf : BitVec 7) (pa : Nat) (s : State) : Bool :=
  if ownEn s then ownByte pa s == 1#1 ++ vf else vf == 0#7
def setOwner (vf : BitVec 7) (pa : Nat) (s : State) : State :=
  memWrite (keyOf 0#7 s) (ownBase s + ownIndex pa) [1#1 ++ vf] s
/-- Every granule of n from pa is the function's. -/
def ownsAll (vf : BitVec 7) (s : State) : Nat → Nat → Bool
  | 0, _ => true
  | n + 1, pa => ownerIs vf pa s && ownsAll vf s n (pa + 2 ^ 16)

/-! ### Service positions (R41) -/

/-- Classes of a service position. -/
inductive PosClass where
  | standing (s : Nat) | refresh | sharedKept | sharedWithdrawable | turnaround | localPos | pool
  deriving DecidableEq, Repr

/-- The hall keeps a standing schedule (R31). -/
def hasStanding (h : Nat) (s : State) : Bool := decide (256 ≤ (hallAt h s).w)

/-- Class of position p of a bank; standing positions join the pool without a standing schedule. -/
def posClass (b p : Nat) (stand : Bool) : PosClass :=
  let r := p % 64
  if r = 2 then .refresh
  else if r = 18 then .sharedKept
  else if b < 4096 then
    if p % 4 = 0 ∧ p ≠ 0 then (if stand then .standing (p / 4) else .pool)
    else if r = 34 then .sharedWithdrawable
    else if r = 50 then .localPos
    else .pool
  else
    if r = 35 then .sharedWithdrawable
    else if r = 49 then .localPos
    else if 50 ≤ r then .turnaround
    else if r % 3 = 1 ∧ r < 48 then (if stand then .standing (16 * (p / 64) + r / 3) else .pool)
    else .pool

/-- The quadrant over or serving a bank whose refresh is doubled (R43): dbl of R69, or of the stack. -/
def bankDoubled (b : Nat) (s : State) : Bool :=
  if b < 4096 then (islandAt (coreQuadrant b) s).susp else (islandAt (4 * bankHall b) s).stackSusp

/-- A position serves what this manual places in positions no circuit owns. -/
def posFree (b p : Nat) (s : State) : Bool :=
  match posClass b p (hasStanding (bankHall b) s) with
  | .standing _ | .refresh | .turnaround => false
  | .sharedWithdrawable => (tfind s.owned (b * 1024 + p)).isNone && !bankDoubled b s
  | _ => (tfind s.owned (b * 1024 + p)).isNone

def bankAt (b : Nat) (s : State) : Bank := tget s.banks b ⟨0, []⟩
def setBank (b : Nat) (v : Bank) (s : State) : State := { s with banks := tput s.banks b v }

/-- The first free service slot of a bank at or after a slot, and the bank with it taken (R41: one access a position). -/
def serveFree (b lo : Nat) (s : State) : Nat × State :=
  let k := bankAt b s
  let lo := max lo (k.last + 1)
  let p := (firstFrom (fun t => posFree b (t % 1024) s) 1100 lo).getD lo
  (p, setBank b { k with last := p } s)

/-- The first slot at or after t in which hall g transmits to hall h (R137). -/
def transitSlot (g h t : Nat) : Nat := nextMod t 15 ((h + 15 - g) % 16)

/-- Slots a device read or write of one granule takes for a hall: at an unowned position in the home hall, or by
remote access between halls (R137, R152; log 2). -/
def deviceAccess (h pa lo : Nat) (s : State) : Nat × State :=
  let b := bankOf pa
  let g := homeOf pa
  if g = h then
    let (p, s) := serveFree b (lo + bankFloor b) s
    (p + bankA b + bankFloor b, s)
  else
    let a := transitSlot h g lo + 12
    let (p, s) := serveFree b (a + bankFloor b) s
    (transitSlot g h (p + bankA b + bankFloor b) + 12, s)

end Sys2Proof.Machine
end

