-- ==== Sys2Proof/Machine/Boot.lean ====
section
/-! DEFINITION. Boot: the boot record, the check of an image, the steps of a start and what a reset keeps (R58 to R61,
R64). -/

namespace Sys2Proof.Machine

open Host

/-! ### The boot record (R59) -/

/-- The byte of a boot step: outcome, started, cons, fails. -/
def bootByte (step : Nat) (s : State) : Nat := regN 0 (0x60000 + (step - 1) / 8 * 8) (8 * ((step - 1) % 8)) 8 s
def setBoot (step v : Nat) (s : State) : State := setRegN 0 (0x60000 + (step - 1) / 8 * 8) (8 * ((step - 1) % 8)) 8 v s
def bootFails (step : Nat) (s : State) : Nat := bootByte step s / 16 % 4
def bootOutcome (step : Nat) (s : State) : Nat := bootByte step s % 4
def bootStarted (step : Nat) (s : State) : Bool := bootByte step s / 4 % 2 == 1
def bootCons (step : Nat) (s : State) : Nat := bootByte step s / 8 % 2

/-- A step begins: started is set; cons names its procedure from then on (log 45). -/
def startStep (step cons : Nat) (s : State) : State :=
  setBoot step (bootOutcome step s + 4 + 8 * cons + 16 * bootFails step s) s
/-- A step ends well: one write clears started and stores the outcome. -/
def passStep (step : Nat) (s : State) : State := setBoot step (1 + 8 * bootCons step s) s
/-- A step fails. -/
def failStep (step : Nat) (s : State) : State :=
  setBoot step (2 + 8 * bootCons step s + 16 * min 3 (bootFails step s + 1)) s
/-- An optional step is passed over: its fails are kept (R61). -/
def skipStep (step : Nat) (s : State) : State := setBoot step (3 + 8 * bootCons step s + 16 * bootFails step s) s
/-- A step found started counts as failed. -/
def startedFailed (s : State) : State :=
  (List.range 11).foldl (fun s i => if bootStarted (i + 1) s then failStep (i + 1) s else s) s

/-! ### What R61 does before a step -/

def stepOptional (step : Nat) : Bool := step == 9 || step == 10
def stepConservative (step : Nat) : Bool := decide (3 ≤ step) && decide (step ≤ 8)

inductive StepChoice where
  | recovery
  | skip
  | run (cons : Nat)
  deriving DecidableEq, Repr

def stepChoice (step : Nat) (s : State) : StepChoice :=
  if bootFails step s = 3 then .recovery
  else if bootOutcome step s = 2 then
    if stepOptional step then .skip else if stepConservative step then .run 1 else .recovery
  else .run 0

/-! ### The image (R58) -/

/-- Bytes of an image. -/
def imgBytes (img : List Byte) (off n : Nat) : List Byte := (img.drop off).take n
def imgNat (img : List Byte) (off n : Nat) : Nat := ofBytes (imgBytes img off n)
/-- The check of R58: 0, or the code of RECSTAT for the failure.  A nonzero reserved byte of the header is answered as a
bad header, code 4: R6 rejects it and R63 names no code of its own (log 45). -/
def imageCode (img : List Byte) (minSvn : Nat) : Nat :=
  let len := imgNat img 12 4
  let sigOk := toBytes 48 (Config.sha384 (toBytes 96 Config.bootKey.toNat)).toNat == toBytes 48 Config.fusedKeyHash.toNat &&
    Config.ecdsaVerify Config.bootKey (Config.sha384 (imgBytes img 0 64)) (BitVec.ofNat 768 (imgNat img 64 96))
  if img.length < 256 ∨ imgNat img 0 4 ≠ 0x39534F54 ∨ imgNat img 4 4 ≠ 0x4C455041 ∨ (imgBytes img 160 96).any (fun b => b != 0#8)
  then 4
  else if 2 ^ 25 < len then 8
  else if !sigOk then 5
  else if imgNat img 16 48 ≠ (Config.sha384 (imgBytes img 256 len)).toNat ∨ img.length < 256 + len then 6
  else if imgNat img 8 4 < minSvn then 7
  else 0

/-! ### Measurement (R64, R65) -/

/-- The chain of the measurement log grows by an item. -/
def measure (kind : Nat) (item : List Byte) (s : State) : State :=
  let last : List Byte := match s.phase.log.getLast? with | some e => toBytes 48 e.2.toNat | none => List.replicate 48 0#8
  let v := Config.sha384 (last ++ toBytes 48 (Config.sha384 item).toNat)
  { s with phase := { s.phase with log := s.phase.log ++ [(BitVec.ofNat 8 kind, v)] } }

/-- The module configuration as bytes: W per hall, enabled VFs, pod pairings (R64); their layout is the model's (log 45). -/
def moduleConfig (s : State) : List Byte :=
  (List.range 16).flatMap (fun h => toBytes 2 (hallAt h s).w) ++
  (List.range 128).map (fun v => if (fnAt (BitVec.ofNat 7 v) s).enabled then 1#8 else 0#8) ++
  (List.range 64).flatMap (fun g => toBytes 8 (reg 0 (0x60200 + 16 * g) s).toNat ++ toBytes 1 (regN 0 (0x60208 + 16 * g) 0 2 s))

/-! ### The steps (R60) -/

/-- What a passed step leaves: the fused minimum, the measurements, the sensors' calibration, the pod ports. -/
def stepPassed (step : Nat) (s : State) : State :=
  let img := s.phase.flash
  match step with
  | 1 => { s with phase := { s.phase with minSvn := max s.phase.minSvn (imgNat img 8 4) } }
  | 2 =>
    let s := measure 1 Config.romBytes s
    let s := measure 2 (imgBytes img 0 256) s
    let s := measure 3 (imgBytes img 256 (imgNat img 12 4)) s
    measure 4 (toBytes 8 (reg 0 0x60000 s).toNat ++ toBytes 8 (reg 0 0x60008 s).toNat) s
  | 9 => (List.range 16).foldl (fun s g => setRegN 0 (0x30300 + 8 * g) 17 1 1 s) s
  | 10 => (List.range 8).foldl (fun s i => setPort i { portAt i s with state := .locked, reference := i == 0, delay := Config.podDelay i } s) s
  | _ => s

/-- A step's work succeeds: the image check, and for the others what the hardware finds, told by the event. -/
def stepWorks (step : Nat) (fails : Word) (s : State) : Bool :=
  if step = 1 then imageCode s.phase.flash s.phase.minSvn == 0 else !bitB fails step

/-- The module after a reset: what lives in always-on storage and flash, the fused minimum, the images stored outside the
module and the model's own counters survive (R59, R66); `next` begins a start. -/
def resetModule (next : Option EvArgs) (s : State) : State :=
  { State.reset with
    agenda := match next with | some a => [⟨0, .moduleStart, a⟩] | none => []
    phase := { State.reset.phase with flash := s.phase.flash, minSvn := s.phase.minSvn }
    mw0 := s.mw0.filter (fun e => e.1 == 0x60000 || e.1 == 0x60008)
    snap := { State.reset.snap with keys := s.snap.keys, images := s.snap.images }
    outbox := s.outbox, nextId := s.nextId, fresh := s.fresh }

end Sys2Proof.Machine
end

