-- ==== Sys2Proof/Machine/Numbers.lean ====
section
/-! DEFINITION. Numbers: the integer and floating formats of spec/11_arithmetic.md, exact arithmetic on their values,
and the one rounding into each format (R233 to R255). -/

namespace Sys2Proof.Machine

/-! ### Integers (R233 to R235) -/

/-- An exact integer result brought into n bits: 0 wraps, 1 clamps signed, 2 clamps unsigned (R234). -/
def fitInt (n sat : Nat) (r : Int) : Nat :=
  if sat = 1 then code n (max (-(2 ^ (n - 1) : Nat)) (min r ((2 ^ (n - 1) : Nat) - 1)))
  else if sat = 2 then code n (max 0 (min r ((2 ^ n : Nat) - 1)))
  else code n r

/-- An n-bit code read as signed or unsigned. -/
def rdInt (n : Nat) (unsigned : Bool) (x : Nat) : Int := if unsigned then ((x % 2 ^ n : Nat) : Int) else sgn n x

/-- Signed quotient truncated toward zero, with the edges of R235. -/
def divS (n sat : Nat) (a b : Int) : Int :=
  if b = 0 then -1 else if a = -(2 ^ (n - 1) : Nat) ∧ b = -1 then (if sat = 1 then (2 ^ (n - 1) : Nat) - 1 else a)
  else a.tdiv b
/-- Signed remainder with the dividend's sign (R235). -/
def remS (a b : Int) : Int := if b = 0 then a else a.tmod b
/-- Unsigned quotient and remainder (R235). -/
def divU (n a b : Nat) : Nat := if b = 0 then 2 ^ n - 1 else a / b
def remU (a b : Nat) : Nat := if b = 0 then a else a % b

/-! ### Floating values -/

/-- A value: NaN (signalling or not), an infinity, or ±(m + δ)·2^e with 0 < δ < 1 where `st` is set. -/
inductive Val where
  | nan (signalling : Bool)
  | inf (neg : Bool)
  | fin (neg : Bool) (m : Nat) (e : Int) (st : Bool)
  deriving DecidableEq, Repr

/-- Flags nv, dz, of, uf, nx in bits 0 to 4, as FCSR [9:5] holds them (R245). -/
abbrev Fl := BitVec 5
def flNV : Fl := 1#5
def flDZ : Fl := 2#5
def flOF : Fl := 4#5
def flUF : Fl := 8#5
def flNX : Fl := 16#5

/-- The modifiers in force for one rounding: mode, saturation, flush, random output (R246 to R251). -/
structure Md where
  rm : Nat
  sat : Bool
  ftz : Bool
  rnd : Nat
  deriving DecidableEq, Repr

def mdNearest : Md := ⟨0, false, false, 0⟩

/-- Exponent bits, fraction bits and bias of an IEEE-shaped format by type code (R236, R274). -/
def fmtE (ty : Nat) : Nat := match ty with | 8 => 11 | 9 => 8 | 10 => 5 | 11 => 8 | 12 => 4 | 13 => 5 | _ => 2
def fmtF (ty : Nat) : Nat := match ty with | 8 => 52 | 9 => 23 | 10 => 10 | 11 => 7 | 12 => 3 | 13 => 2 | _ => 1
def fmtB (ty : Nat) : Int := match ty with | 8 => 1023 | 9 => 127 | 10 => 15 | 11 => 127 | 12 => 7 | 13 => 15 | _ => 1
/-- Width in bits of a type (R274). -/
def tyBits (ty : Nat) : Nat :=
  match ty with
  | 0 | 4 | 12 | 13 | 14 => 8
  | 1 | 5 | 10 | 11 => 16
  | 2 | 6 | 9 => 32
  | 15 => 4
  | _ => 64
/-- Integer types, and the unsigned ones among them (R274). -/
def tyInt (ty : Nat) : Bool := ty < 8
def tyUns (ty : Nat) : Bool := 4 ≤ ty && ty < 8

/-- Exponent, fraction width and fraction of a finite nonzero DYN8 body (R241). -/
def dynFields (b : Nat) : Int × Nat × Nat :=
  if 64 ≤ b then ((b / 16 % 4 : Nat) - 2, 4, b % 16)
  else if 32 ≤ b then
    let c := b / 4 % 8
    (if c < 4 then (c : Int) - 6 else (c : Int) - 2, 2, b % 4)
  else if 16 ≤ b then
    let c := b / 2 % 8
    (if c < 4 then (c : Int) - 10 else (c : Int) + 2, 1, b % 2)
  else if 8 ≤ b then
    let c := b % 8
    (if c < 4 then (c : Int) - 14 else (c : Int) + 6, 0, 0)
  else if 4 ≤ b then
    let c := b % 4
    (if c < 2 then (c : Int) - 16 else (c : Int) + 12, 0, 0)
  else (if b % 2 = 0 then -17 else 16, 0, 0)

/-- Fraction width of DYN8 at exponent e (R241). -/
def dynWidth (e : Int) : Nat :=
  if -2 ≤ e ∧ e ≤ 1 then 4
  else if -6 ≤ e ∧ e ≤ 5 then 2
  else if -10 ≤ e ∧ e ≤ 9 then 1
  else 0

/-- The DYN8 body of exponent e and fraction F (R241). -/
def dynBody (e : Int) (F : Nat) : Nat :=
  if -2 ≤ e ∧ e ≤ 1 then 64 + 16 * (e + 2).toNat + F
  else if -6 ≤ e ∧ e ≤ -3 then 32 + 4 * (e + 6).toNat + F
  else if 2 ≤ e ∧ e ≤ 5 then 32 + 4 * (e + 2).toNat + F
  else if -10 ≤ e ∧ e ≤ -7 then 16 + 2 * (e + 10).toNat + F
  else if 6 ≤ e ∧ e ≤ 9 then 16 + 2 * (e - 2).toNat + F
  else if -14 ≤ e ∧ e ≤ -11 then 8 + (e + 14).toNat
  else if 10 ≤ e ∧ e ≤ 13 then 8 + (e - 6).toNat
  else if -16 ≤ e ∧ e ≤ -15 then 4 + (e + 16).toNat
  else if 14 ≤ e ∧ e ≤ 15 then 4 + (e - 12).toNat
  else if e = 16 then 3 else 2

/-- The value of a code (R237, R240, R241).  DEDUCED (log 9): the NaN codes of E4M3 and DYN8 are quiet; a NaN of the
other formats is signalling when its highest fraction bit is 0. -/
def decodeVal (ty : Nat) (x : Nat) : Val :=
  if ty = 14 then
    let b := x % 128
    let neg := x / 128 % 2 == 1
    if b = 0 then (if neg then .nan false else .fin false 0 0 false)
    else if b = 1 then .inf neg
    else
      let (e, f, F) := dynFields b
      .fin neg (2 ^ f + F) (e - f) false
  else
    let eb := fmtE ty
    let fb := fmtF ty
    let F := x % 2 ^ fb
    let E := x / 2 ^ fb % 2 ^ eb
    let neg := x / 2 ^ (fb + eb) % 2 == 1
    if ty = 12 ∧ E = 15 ∧ F = 7 then .nan false
    else if ty ≠ 12 ∧ ty ≠ 15 ∧ E = 2 ^ eb - 1 then (if F = 0 then .inf neg else .nan (F / 2 ^ (fb - 1) == 0))
    else if E = 0 then .fin neg F (1 - fmtB ty - fb) false
    else .fin neg (2 ^ fb + F) ((E : Int) - fmtB ty - fb) false

/-- The canonical NaN of a format (R237); FP4 has none and takes +0 (R239). -/
def canonNan (ty : Nat) : Nat :=
  match ty with
  | 8 => 0x7FF8000000000000 | 9 => 0x7FC00000 | 10 => 0x7E00 | 11 => 0x7FC0 | 12 => 0x7F | 13 => 0x7E | 14 => 0x80
  | _ => 0

def signBit (ty : Nat) (neg : Bool) : Nat := if neg then 2 ^ (tyBits ty - 1) else 0

/-- Largest finite code without sign (R236, R241). -/
def maxFinite (ty : Nat) : Nat :=
  match ty with
  | 8 => 0x7FEFFFFFFFFFFFFF | 9 => 0x7F7FFFFF | 10 => 0x7BFF | 11 => 0x7F7F | 12 => 0x7E | 13 => 0x7B | 14 => 3
  | _ => 7

/-- The code of an infinity; E4M3 has none and gives NaN, FP4 gives ±6 (R239). -/
def infCode (ty : Nat) (neg : Bool) : Nat :=
  match ty with
  | 12 => 0x7F
  | 14 => (if neg then 128 else 0) + 1
  | 15 => 7 + (if neg then 8 else 0)
  | _ => signBit ty neg + (2 ^ fmtE ty - 1) * 2 ^ fmtF ty

/-- Whether rounding goes up from lo, for the discarded part rem/2^sh (plus δ where st) (R246). -/
def goesUp (md : Md) (neg odd : Bool) (rem sh : Nat) (st : Bool) : Bool :=
  let inexact := rem != 0 || st
  match md.rm with
  | 0 => decide (2 ^ sh < 2 * rem) || (2 * rem == 2 ^ sh && (st || odd))
  | 1 => false
  | 2 => inexact && !neg
  | 3 => inexact && neg
  | 4 => decide (2 ^ sh ≤ 2 * rem)
  | _ => inexact && decide (2 ^ 32 ≤ 2 ^ 32 * rem / 2 ^ sh + md.rnd)

/-- Rounding of (m + δ)·2^e to a multiple of 2^q: the multiple and whether it was inexact. -/
def roundAt (md : Md) (neg : Bool) (m : Nat) (e : Int) (st : Bool) (q : Int) : Nat × Bool :=
  if q ≤ e then (m * 2 ^ (e - q).toNat, st)
  else
    let sh := (q - e).toNat
    let lo := m / 2 ^ sh
    let rem := m % 2 ^ sh
    (lo + (if goesUp md neg (lo % 2 == 1) rem sh st then 1 else 0), rem != 0 || st)

/-- What an overflow gives: infinity or the largest finite value, by mode and saturation (R239, R246, R251). -/
def overflowCode (ty : Nat) (md : Md) (neg : Bool) : Nat :=
  let toInf := match md.rm with | 0 => true | 1 => false | 2 => !neg | 3 => neg | _ => true
  if md.sat || !toInf || ty == 15 then signBit ty neg + maxFinite ty else infCode ty neg

/-- Binade of m·2^e: floor of log2. -/
def binade (m : Nat) (e : Int) : Int := (log2 m : Int) + e

/-- a·2^p ≤ b·2^q. -/
def leScaled (a : Nat) (p : Int) (b : Nat) (q : Int) : Bool :=
  if p ≤ q then decide (a ≤ b * 2 ^ (q - p).toNat) else decide (a * 2 ^ (p - q).toNat ≤ b)

/-- Rounding a nonzero finite value into DYN8 (R243). -/
def roundDyn (md : Md) (neg : Bool) (m : Nat) (e : Int) (st : Bool) : Nat × Fl :=
  let sg := if neg then 128 else 0
  let b := binade m e
  if b < -17 then
    -- neighbours 0 and 2^-17; zero is even
    let sh := (-17 - e).toNat
    let up := goesUp md neg false (m % 2 ^ sh) sh st
    ((if up then sg + 2 else 0), flUF ||| flNX)
  else if 17 ≤ b || (md.rm == 5 && b == 16 && (m != 2 ^ (16 - e).toNat || st)) then
    (overflowCode 14 md neg, flOF ||| flNX)
  else
    let f := dynWidth b
    let q := b - f
    let (lo, rem, sh) : Nat × Nat × Nat :=
      if q ≤ e then (m * 2 ^ (e - q).toNat, 0, 0)
      else (m / 2 ^ (q - e).toNat, m % 2 ^ (q - e).toNat, (q - e).toNat)
    let odd := if f = 0 then b % 2 != 0 else lo % 2 == 1
    let inexact := rem != 0 || st
    let r := if inexact && goesUp md neg odd rem sh st then lo + 1 else lo
    let (b', F) : Int × Nat := if r = 2 ^ (f + 1) then (b + 1, 0) else (b, r - 2 ^ f)
    if b' = 17 then (overflowCode 14 md neg, flOF ||| flNX)
    else (sg + dynBody b' F, if inexact then flNX else 0#5)

/-- Flush applies to the format (R250). -/
def flushable (ty : Nat) : Bool := 8 ≤ ty && ty ≤ 13

/-- Rounding a nonzero finite value into an IEEE-shaped format (R239, R246, R249 to R251). -/
def roundIeee (ty : Nat) (md : Md) (neg : Bool) (m : Nat) (e : Int) (st : Bool) : Nat × Fl :=
  let fb := fmtF ty
  let emin := 1 - fmtB ty
  let b := binade m e
  let q := max (b - fb) (emin - fb)
  let (r, inexact) := roundAt md neg m e st q
  let (u, _) := roundAt md neg m e st (b - fb)
  let tiny := !(leScaled 1 emin u (b - fb))
  -- the largest finite magnitude, as a multiple of 2^g
  let top : Nat := match ty with | 12 => 14 | 15 => 3 | _ => 2 ^ (fb + 1) - 1
  let g : Int := match ty with | 12 => 5 | 15 => 1 | _ => fmtB ty - fb
  let above := !(leScaled r q top g)
  let above5 := md.rm == 5 && (!(leScaled m e top g) || (st && leScaled top g m e))
  if above || above5 then (overflowCode ty md neg, flOF ||| flNX)
  else if tiny && md.ftz && flushable ty then (signBit ty neg, flUF ||| flNX)
  else
    let c :=
      if r = 0 then 0
      else
        let rb := binade r q
        if rb < emin then (r * 2 ^ (q - (emin - fb)).toNat)
        else ((rb - emin + 1).toNat * 2 ^ fb) +
          (if q ≤ rb - fb then r / 2 ^ (rb - fb - q).toNat else r * 2 ^ (q - (rb - fb)).toNat) - 2 ^ fb
    (signBit ty neg + c, (if inexact then flNX else 0#5) ||| (if tiny && inexact then flUF else 0#5))

/-- Rounding a value into a format, once (R237, R239, R243, R246). -/
def roundVal (ty : Nat) (md : Md) : Val → Nat × Fl
  | .nan _ => (canonNan ty, if ty = 15 then flNV else 0#5)
  | .inf neg =>
    if md.sat && (ty == 12 || ty == 14) then (signBit ty neg + maxFinite ty, 0#5) else (infCode ty neg, 0#5)
  | .fin neg m e st =>
    if m = 0 ∧ st = false then ((if ty = 14 then 0 else signBit ty neg), 0#5)
    else if ty = 14 then roundDyn md neg m e st
    else roundIeee ty md neg m e st

/-- Reading an operand under flush: a subnormal reads as zero of its sign, with uf and nx (R249, R250). -/
def readVal (ty : Nat) (ftz : Bool) (x : Nat) : Val × Fl :=
  match decodeVal ty x with
  | .fin neg m e st =>
    if ftz && flushable ty && m != 0 && decide (m < 2 ^ fmtF ty) then (.fin neg 0 0 false, flUF ||| flNX)
    else (.fin neg m e st, 0#5)
  | v => (v, 0#5)

def Val.isNan : Val → Bool | .nan _ => true | _ => false
def Val.isSig : Val → Bool | .nan s => s | _ => false
def Val.neg : Val → Val
  | .nan s => .nan s
  | .inf n => .inf (!n)
  | .fin n m e st => .fin (!n) m e st
def Val.isZero : Val → Bool | .fin _ m _ st => m == 0 && !st | _ => false
def Val.sign : Val → Bool | .fin n _ _ _ => n | .inf n => n | .nan _ => false

/-- The flag of a signalling NaN among operands. -/
def sigFl (vs : List Val) : Fl := if vs.any Val.isSig then flNV else 0#5

/-- Exact sum of two values; the sign of an exact zero follows IEEE 754-2019 under the mode. -/
def addVal (rm : Nat) : Val → Val → Val × Fl
  | .nan s, b => (.nan false, sigFl [.nan s, b])
  | a, .nan s => (.nan false, sigFl [a, .nan s])
  | .inf x, .inf y => if x = y then (.inf x, 0#5) else (.nan false, flNV)
  | .inf x, _ => (.inf x, 0#5)
  | _, .inf y => (.inf y, 0#5)
  | .fin n1 m1 e1 _, .fin n2 m2 e2 _ =>
    let e := min e1 e2
    let a : Int := (m1 * 2 ^ (e1 - e).toNat : Nat)
    let b : Int := (m2 * 2 ^ (e2 - e).toNat : Nat)
    let r : Int := (if n1 then -a else a) + (if n2 then -b else b)
    if r = 0 then (.fin (if n1 = n2 then n1 else rm == 3) 0 0 false, 0#5)
    else (.fin (decide (r < 0)) r.natAbs e false, 0#5)

/-- Exact product. -/
def mulVal : Val → Val → Val × Fl
  | .nan s, b => (.nan false, sigFl [.nan s, b])
  | a, .nan s => (.nan false, sigFl [a, .nan s])
  | .inf x, b => if b.isZero then (.nan false, flNV) else (.inf (x != b.sign), 0#5)
  | a, .inf y => if a.isZero then (.nan false, flNV) else (.inf (a.sign != y), 0#5)
  | .fin n1 m1 e1 _, .fin n2 m2 e2 _ => (.fin (n1 != n2) (m1 * m2) (if m1 * m2 = 0 then 0 else e1 + e2) false, 0#5)

/-- Fused a·b + c: infinity times zero is NaN with nv whatever c holds (R342, R364). -/
def fmaVal (rm : Nat) (a b c : Val) : Val × Fl :=
  let p := mulVal a b
  if !a.isNan && !b.isNan && p.1.isNan then (.nan false, flNV)
  else
    let r := addVal rm p.1 c
    (r.1, p.2 ||| r.2)

/-- Quotient to 80 bits with a sticky bit. -/
def divVal : Val → Val → Val × Fl
  | .nan s, b => (.nan false, sigFl [.nan s, b])
  | a, .nan s => (.nan false, sigFl [a, .nan s])
  | .inf _, .inf _ => (.nan false, flNV)
  | .inf x, b => (.inf (x != b.sign), 0#5)
  | a, .inf y => (.fin (a.sign != y) 0 0 false, 0#5)
  | .fin n1 m1 e1 _, .fin n2 m2 e2 _ =>
    if m2 = 0 then (if m1 = 0 then (.nan false, flNV) else (.inf (n1 != n2), flDZ))
    else if m1 = 0 then (.fin (n1 != n2) 0 0 false, 0#5)
    else
      let k := 110 + log2 m2
      let q := m1 * 2 ^ k / m2
      (.fin (n1 != n2) q (e1 - e2 - k) (m1 * 2 ^ k % m2 != 0), 0#5)

/-- Newton steps of the integer square root. -/
def isqrtFrom : Nat → Nat → Nat → Nat
  | 0, _, x => x
  | f + 1, n, x =>
    let y := (x + n / x) / 2
    if y < x then isqrtFrom f n y else x

/-- Floor of the square root. -/
def isqrt (n : Nat) : Nat := if n = 0 then 0 else isqrtFrom (log2 n + 2) n (2 ^ (log2 n / 2 + 1))

/-- Square root to at least 80 bits with a sticky bit (R343). -/
def sqrtVal : Val → Val × Fl
  | .nan s => (.nan false, if s then flNV else 0#5)
  | .inf n => if n then (.nan false, flNV) else (.inf false, 0#5)
  | .fin n m e _ =>
    if m = 0 then (.fin n 0 0 false, 0#5)
    else if n then (.nan false, flNV)
    else
      let k : Nat := if e % 2 = 0 then 220 else 221
      let r := isqrt (m * 2 ^ k)
      (.fin false r ((e - k) / 2) (r * r != m * 2 ^ k), 0#5)

/-- Order of two non-NaN values, -0 below +0 when `signed0`: a < b. -/
def ltVal (signed0 : Bool) : Val → Val → Bool
  | .nan _, _ => false
  | _, .nan _ => false
  | .inf x, .inf y => x && !y
  | .inf x, _ => x
  | _, .inf y => !y
  | .fin n1 m1 e1 _, .fin n2 m2 e2 _ =>
    let e := min e1 e2
    let a : Int := (m1 * 2 ^ (e1 - e).toNat : Nat)
    let b : Int := (m2 * 2 ^ (e2 - e).toNat : Nat)
    let a := if n1 then -a else a
    let b := if n2 then -b else b
    decide (a < b) || (signed0 && a == 0 && b == 0 && n1 && !n2)

/-- minimumNumber or maximumNumber as a choice: 0 the first, 1 the second, 2 NaN (R237). -/
def pickMinMax (wantMax : Bool) (a b : Val) : Nat :=
  if a.isNan then (if b.isNan then 2 else 1)
  else if b.isNan then 0
  else if wantMax then (if ltVal true a b then 1 else 0)
  else (if ltVal true b a then 1 else 0)

/-- The comparison codes of R348: eq, ne, lt, le, gt, ge, un, with the flag they set. -/
def cmpVal (cond : Nat) (a b : Val) : Bool × Fl :=
  if a.isNan || b.isNan then
    (cond == 1 || cond == 6,
     if cond == 0 || cond == 1 || cond == 6 then sigFl [a, b] else flNV)
  else
    let lt := ltVal false a b
    let gt := ltVal false b a
    (match cond with
     | 0 => !lt && !gt | 1 => lt || gt | 2 => lt | 3 => !gt | 4 => gt | 5 => !lt | _ => false, 0#5)

/-- The integer comparison codes of R348. -/
def cmpIntV (cond : Nat) (a b : Int) : Bool :=
  match cond with
  | 0 => decide (a = b) | 1 => decide (a ≠ b) | 2 => decide (a < b) | 3 => decide (a ≤ b) | 4 => decide (a > b)
  | 5 => decide (a ≥ b) | _ => false

/-- Class mask of R363. -/
def classMask (ty : Nat) (x : Nat) : Nat :=
  match decodeVal ty x with
  | .nan s => if s then 2 ^ 8 else 2 ^ 9
  | .inf n => if n then 1 else 2 ^ 7
  | .fin n m _ _ =>
    if m = 0 then (if n then 2 ^ 3 else 2 ^ 4)
    else if m < 2 ^ fmtF ty then (if n then 2 ^ 2 else 2 ^ 5)
    else (if n then 2 ^ 1 else 2 ^ 6)

/-- Conversion of a floating value to an n-bit integer (R253). -/
def toInt (n : Nat) (uns : Bool) (md : Md) : Val → Nat × Fl
  | .nan _ => (0, flNV)
  | .inf neg =>
    (if neg then (if uns then 0 else 2 ^ (n - 1)) else (if uns then 2 ^ n - 1 else 2 ^ (n - 1) - 1), flNV)
  | .fin neg m e st =>
    let (r, inexact) := roundAt md neg m e st 0
    let v : Int := if neg then -(r : Int) else r
    let lo : Int := if uns then 0 else -(2 ^ (n - 1) : Nat)
    let hi : Int := if uns then (2 ^ n : Nat) - 1 else (2 ^ (n - 1) : Nat) - 1
    if v < lo then (code n lo, flNV)
    else if hi < v then (code n hi, flNV)
    else (code n v, if inexact then flNX else 0#5)

/-- An integer as a value. -/
def intVal (x : Int) : Val := .fin (decide (x < 0)) x.natAbs 0 false

/-- Every value of the source is a value of the destination (R252). -/
def exactPair (st dt : Nat) : Bool :=
  match st, dt with
  | 9, 8 | 10, 8 | 10, 9 | 11, 8 | 11, 9 => true
  | 12, 8 | 12, 9 | 12, 10 | 12, 11 | 13, 8 | 13, 9 | 13, 10 | 13, 11 => true
  | 15, _ => true
  | 14, 8 | 14, 9 | 14, 11 => true
  | _, _ => false

/-- Conversion of a code between any two types (R250, R252, R253, R351): the destination code and the flags. -/
def convert (st dt : Nat) (md : Md) (intSat : Nat) (x : Nat) : Nat × Fl :=
  if tyInt st then
    let v := rdInt (tyBits st) (tyUns st) x
    if tyInt dt then (fitInt (tyBits dt) intSat v, 0#5) else roundVal dt md (intVal v)
  else if tyInt dt then
    toInt (tyBits dt) (tyUns dt) md (decodeVal st x)
  else
    let (v, f) := readVal st md.ftz x
    let (r, g) := roundVal dt md v
    (r, f ||| g ||| sigFl [v])

/-! ### Scales (R254, R255) -/

/-- A value times a power of two. -/
def scaleVal (k : Int) : Val → Val
  | .fin n m e st => .fin n m (if m = 0 then 0 else e + k) st
  | v => v

/-- emax of the element formats (R255). -/
def emaxOf (ty : Nat) : Int := match ty with | 12 => 8 | 13 => 15 | 15 => 2 | _ => 0

/-- The E8M0 scale of a block of values (R255). -/
def blockScale (ty : Nat) (vs : List Val) : Nat :=
  if vs.any (fun v => match v with | .fin .. => false | _ => true) then 255
  else
    let bs := vs.filterMap (fun v => match v with | .fin _ m e _ => if m = 0 then none else some (binade m e) | _ => none)
    match bs with
    | [] => 127
    | b :: t => (min 254 (max 0 (t.foldl max b - emaxOf ty + 127))).toNat

/-! ### Approximations (R344) -/

/-- 1/√a to over 80 bits. -/
def rsqrtVal : Val → Val × Fl
  | .nan s => (.nan false, if s then flNV else 0#5)
  | .inf n => if n then (.nan false, flNV) else (.fin false 0 0 false, 0#5)
  | .fin n m e _ =>
    if m = 0 then (.inf n, flDZ)
    else if n then (.nan false, flNV)
    else
      -- 2^(2k) / (m·2^(e mod 2)) under the root
      let par : Nat := (e % 2).toNat
      let d := m * 2 ^ par
      let k : Nat := 120 + log2 d
      let r := isqrt (2 ^ (2 * k) / d)
      (.fin false r (-(k : Int) - (e - par) / 2) (r * r * d != 2 ^ (2 * k)), 0#5)

/-- 2^(i/2^40) for 0 ≤ i < 2^40, scaled by 2^120, from repeated square roots of 2: bit j of i from the top. -/
def exp2Frac : Nat → Nat → Nat → Nat → Nat
  | 0, _, _, acc => acc
  | n + 1, i, root, acc =>
    -- root = 2^(2^-(40-n)) scaled by 2^120
    let root := isqrt (root * 2 ^ 120)
    exp2Frac n i root (if i / 2 ^ n % 2 = 1 then acc * root / 2 ^ 120 else acc)

/-- 2^a to over 80 bits; integers exactly. -/
def exp2Val : Val → Val × Fl
  | .nan s => (.nan false, if s then flNV else 0#5)
  | .inf n => if n then (.fin false 0 0 false, 0#5) else (.inf false, 0#5)
  | .fin n m e _ =>
    if m = 0 then (.fin false 1 0 false, 0#5)
    else if 12 < binade m e then
      (.fin false 1 (if n then -5000 else 5000) false, 0#5)
    else
      -- a·2^40 rounded toward minus infinity
      let t : Int := if 0 ≤ e + 40 then ((m * 2 ^ (e + 40).toNat : Nat) : Int) else ((m / 2 ^ (-(e + 40)).toNat : Nat) : Int)
      let lost := decide (e + 40 < 0) && m % 2 ^ (-(e + 40)).toNat != 0
      let t : Int := if n then -t - (if lost then 1 else 0) else t
      let ip := t / (2 ^ 40 : Nat)
      let fp := (t % (2 ^ 40 : Nat)).toNat
      if fp = 0 ∧ lost = false then (.fin false 1 ip false, 0#5)
      else (.fin false (exp2Frac 40 fp (2 ^ 121) (2 ^ 120)) (ip - 120) true, 0#5)

/-- Fraction bits of log2 of y/2^250 in [1, 2) by squaring. -/
def log2Bits : Nat → Nat → Nat → Nat
  | 0, _, acc => acc
  | n + 1, y, acc =>
    let z := y * y / 2 ^ 250
    if 2 ^ 251 ≤ z then log2Bits n (z / 2) (2 * acc + 1) else log2Bits n z (2 * acc)

/-- log2 a to 90 fraction bits; powers of two exactly. -/
def log2Val : Val → Val × Fl
  | .nan s => (.nan false, if s then flNV else 0#5)
  | .inf n => if n then (.nan false, flNV) else (.inf false, 0#5)
  | .fin n m e _ =>
    if m = 0 then (.inf true, flDZ)
    else if n then (.nan false, flNV)
    else
      let b := log2 m
      if m = 2 ^ b then (intVal (b + e), 0#5)
      else
        let fr := log2Bits 90 (m * 2 ^ (250 - b)) 0
        let t : Int := (b + e) * (2 ^ 90 : Nat) + fr
        -- the exact value lies strictly between t and t + 1
        if 0 ≤ t then (.fin false t.toNat (-90) true, 0#5) else (.fin true (-t - 1).toNat (-90) true, 0#5)

/-- The exact value an approximation approaches: 2 VRCP, 3 VRSQ, 4 VEXP2, 5 VLOG2. -/
def approxExact (op : Nat) (a : Val) : Val × Fl :=
  match op with
  | 2 => divVal (.fin false 1 0 false) a
  | 3 => rsqrtVal a
  | 4 => exp2Val a
  | _ => log2Val a

/-- A candidate c lies within the FP32 bound of R344 of the exact value x (whose 80 or more bits stand for it). -/
def withinBound (op : Nat) (a c x : Val) : Bool :=
  match c, x with
  | .fin nc mc ec _, .fin nx mx ex _ =>
    let e := min ec ex
    let ci : Int := (mc * 2 ^ (ec - e).toNat : Nat)
    let xi : Int := (mx * 2 ^ (ex - e).toNat : Nat)
    let ci := if nc then -ci else ci
    let xi := if nx then -xi else xi
    let d := (ci - xi).natAbs
    let bits := if op ≤ 3 then 22 else 21
    let near1 := match a with
      | .fin _ m ea _ => leScaled 1 (-1) m ea && leScaled m ea 1 1
      | _ => false
    if op == 5 && near1 then leScaled ((d + 2) * 2 ^ bits) e 1 0 else decide ((d + 2) * 2 ^ bits < xi.natAbs)
  | _, _ => false

/-- VRCP, VRSQ, VEXP2, VLOG2 (R344): FP16 and BF16 correctly rounded to nearest even; FP32 a value of this part's own
inside the bound (free value, log 3), the correctly rounded one where the part's candidate would leave it. -/
def approxOp (op ty : Nat) (md : Md) (x : Nat) : Nat × Fl :=
  let (a, f) := readVal ty md.ftz x
  let (v, g) := approxExact op a
  let (r, h) := roundVal ty { md with rm := 0 } v
  let fl := (f ||| g ||| h) &&& ~~~flNX
  if ty = 9 then
    match v with
    | .fin _ m e st =>
      let cand := (Config.approx op (BitVec.ofNat 32 x)).toNat
      let normal := match decodeVal 9 r with | .fin _ k _ _ => decide (2 ^ 23 ≤ k) | _ => false
      if st && normal && m != 0 && withinBound op a (decodeVal 9 cand) (.fin v.sign m e st) then (cand, fl) else (r, fl)
    | _ => (r, fl)
  else (r, fl)

end Sys2Proof.Machine
end

