-- ==== Sys2Proof/Machine/Flags.lean ====
section
/-! DEFINITION. Flags: the modifiers in force for one instruction (R234, R248), the core's random generator (R247), the
flags ORed into FCSR (R245, R249), integer results of opcodes 0x00 and 0x01 (R288, R289) and the condition codes. -/

namespace Sys2Proof.Machine

/-- Integer saturation setting of the type-1 prefix, 0 without it (R234). -/
def intSat (p : Pfx) : Nat := match p.arith with | some a => a.sat.toNat | none => 0

/-- Rounding, saturation and flush in force for a floating result, from the prefix or FCSR (R248). -/
def arithMd (p : Pfx) (fcsr : BitVec 16) : Md :=
  let rm := bitsN fcsr 0 3
  let fz := bitB fcsr 3
  let fsat := bitB fcsr 4
  match p.arith with
  | none => ⟨rm, fsat, fz, 0⟩
  | some a =>
    ⟨if a.rnd = 7#3 then rm else a.rnd.toNat, a.sat != 0#2 || fsat,
     if a.flush = 1#2 then true else if a.flush = 2#2 then false else fz, 0⟩

/-- The modifiers for the strand at issue. -/
def curMd (p : Pfx) (s : State) : Md := arithMd p (readFcsr (cur s) s)

/-- One step of the generator (R247): the new state is the output. -/
def xorshift (g : BitVec 32) : BitVec 32 :=
  let g := g ^^^ (g <<< 13)
  let g := g ^^^ (g >>> 17)
  g ^^^ (g <<< 5)

/-- A core's generator. -/
def rngOf (c : Nat) (s : State) : BitVec 32 := (coreAt c s).rng
def setRng (c : Nat) (g : BitVec 32) (s : State) : State := setCore c { coreAt c s with rng := g } s

/-- The modifiers with an output drawn where the mode is stochastic (R246, R247), and the generator after it. -/
def draw (md : Md) (g : BitVec 32) : Md × BitVec 32 :=
  if md.rm = 5 then let h := xorshift g; ({ md with rnd := h.toNat }, h) else (md, g)

/-- Sets the generator of the core at issue where a draw may have been taken. -/
def keepRng (g : BitVec 32) (s : State) : State :=
  if rngOf s.issue.core s = g then s else setRng s.issue.core g s

/-- ORs flags into FCSR at retirement (R249). -/
def orFlags (fl : Fl) (s : State) : State :=
  if fl = 0#5 then s
  else
    let k := cur s
    writeFcsr k (readFcsr k s ||| (fl.setWidth 16 <<< 5)) s

/-- Width of the integer width code (R273). -/
def widthOf (w : BitVec 2) : Nat := 8 * 2 ^ w.toNat

/-- The operations of R288, by code: the register written from two 64-bit operands, at a width, under a saturation
setting (R289). -/
def aluRes (op : Nat) (w : BitVec 2) (sat : Nat) (x y : Word) : Word :=
  let n := widthOf w
  let au := x.toNat % 2 ^ n
  let bu := y.toNat % 2 ^ n
  let a := sgn n au
  let b := sgn n bu
  let sh := bu % n
  let a' : Int := if sat = 2 then au else a
  let b' : Int := if sat = 2 then bu else b
  match op with
  | 1 => sext64 n (fitInt n sat (a' + b'))
  | 2 => sext64 n (fitInt n sat (a' - b'))
  | 3 => sext64 n (fitInt n sat (a' * b'))
  | 4 => sext64 n (code n (a * b / ((2 ^ n : Nat) : Int)))
  | 5 => zext64 n (au * bu / 2 ^ n)
  | 6 => sext64 n (code n (divS n sat a b))
  | 7 => zext64 n (divU n au bu)
  | 8 => sext64 n (code n (remS a b))
  | 9 => zext64 n (remU au bu)
  | 10 => sext64 n (au &&& bu)
  | 11 => sext64 n (au ||| bu)
  | 12 => sext64 n (au ^^^ bu)
  | 13 => sext64 n (au &&& (2 ^ n - 1 - bu))
  | 14 => sext64 n (au ||| (2 ^ n - 1 - bu))
  | 15 => sext64 n (2 ^ n - 1 - (au ^^^ bu))
  | 16 => sext64 n (fitInt n sat (a' * ((2 ^ sh : Nat) : Int)))
  | 17 => sext64 n (au / 2 ^ sh)
  | 18 => sext64 n (code n (a / ((2 ^ sh : Nat) : Int)))
  | 19 => sext64 n (au * 2 ^ sh + au / 2 ^ (n - sh))
  | 20 => sext64 n (code n (min a b))
  | 21 => sext64 n (code n (max a b))
  | 22 => zext64 n (min au bu)
  | _ => zext64 n (max au bu)

/-- A truth as a predicate register: all 32 bits (R298). -/
def predOfBool (b : Bool) : BitVec 32 := if b then BitVec.allOnes 32 else 0#32

/-- The integer conditions of R298: eq, ne, lt, ge, ltu, geu, tst, ntst. -/
def cmpRes (cond : BitVec 3) (w : BitVec 2) (x y : Word) : Bool :=
  let n := widthOf w
  let au := x.toNat % 2 ^ n
  let bu := y.toNat % 2 ^ n
  match cond.toNat with
  | 0 => au == bu
  | 1 => au != bu
  | 2 => decide (sgn n au < sgn n bu)
  | 3 => decide (sgn n bu ≤ sgn n au)
  | 4 => decide (au < bu)
  | 5 => decide (bu ≤ au)
  | 6 => (au &&& bu) != 0
  | _ => (au &&& bu) == 0

/-- Reverses the low n bits. -/
def revBits : Nat → Nat → Nat
  | 0, _ => 0
  | n + 1, x => (x % 2) * 2 ^ n + revBits n (x / 2)

/-- The number of set bits among the low n. -/
def popBits : Nat → Nat → Nat
  | 0, _ => 0
  | n + 1, x => x % 2 + popBits n (x / 2)

/-- The operations of R294, by code, on the low n bits. -/
def countRes (op : Nat) (w : BitVec 2) (x : Word) : Word :=
  let n := widthOf w
  let a := x.toNat % 2 ^ n
  match op with
  | 1 => BitVec.ofNat 64 (if a = 0 then n else n - 1 - log2 a)
  | 2 => BitVec.ofNat 64 (let r := revBits n a; if r = 0 then n else n - 1 - log2 r)
  | 3 => BitVec.ofNat 64 (popBits n a)
  | 4 => sext64 n (revBits n a)
  | 5 => sext64 n (ofBytes (toBytes (n / 8) a).reverse)
  | 6 => sext64 n a
  | _ => zext64 n a

/-- The truth table of R293 and R346 on words of any width: bit i of the result is the table's entry at the three
source bits. -/
def logtBits {w : Nat} (table : BitVec 8) (a b c : BitVec w) : BitVec w :=
  let pick (k : Nat) (m : BitVec w) : BitVec w := if bitB table k then m else 0#w
  pick 0 (~~~a &&& ~~~b &&& ~~~c) ||| pick 1 (~~~a &&& ~~~b &&& c) ||| pick 2 (~~~a &&& b &&& ~~~c) |||
  pick 3 (~~~a &&& b &&& c) ||| pick 4 (a &&& ~~~b &&& ~~~c) ||| pick 5 (a &&& ~~~b &&& c) |||
  pick 6 (a &&& b &&& ~~~c) ||| pick 7 (a &&& b &&& c)

end Sys2Proof.Machine
end

