-- ==== Sys2Proof/Machine/Xlate.lean ====
section
/-! DEFINITION. Xlate: page walks, translation caches, walkers and their division among functions, and the checks of an
access (R145, R147 to R155). -/

namespace Sys2Proof.Machine

/-- Index shift and width of a level (R148). -/
def lvShift (l : Nat) : Nat := match l with | 0 => 46 | 1 => 36 | 2 => 30 | 3 => 21 | _ => 16
def lvBits (l : Nat) : Nat := match l with | 0 => 10 | 1 => 10 | 2 => 6 | 3 => 9 | _ => 5

/-- What translating gives: a page, a fault with its kind and cause, or an uncorrectable error (R149, R150, R169). -/
inductive XRes where
  | ok (x : Xlat)
  | fault (kind cause : Nat)
  | err
  deriving DecidableEq, Repr

/-- A walk's result, the addresses it read and the non-leaf entries it met. -/
structure Walked where
  res : XRes
  reads : List Nat
  found : List WEntry
  deriving DecidableEq, Repr

/-- log2 of the size of the table that a level indexes, in bytes. -/
def tableLog (l : Nat) : Nat := lvBits l + 3

/-- A leaf entry met at a level (R149, R150). -/
def leafRes (vf : BitVec 7) (va l : Nat) (e : Word) (s : State) : XRes :=
  let sh := lvShift l
  let pa := bitsN e 16 36 * 2 ^ 16
  if l = 0 ∨ bitsN e 13 3 ≠ 0 ∨ bitsN e 52 12 ≠ 0 ∨ pa % 2 ^ sh ≠ 0 ∨ !inMemory pa then .fault 7 2
  else if (List.range (2 ^ (sh - 16))).any (fun i => ownErr (pa + 2 ^ 16 * i) s) then .err
  else if !ownsAll vf s (2 ^ (sh - 16)) pa then .fault 7 3
  else .ok ⟨vf, BitVec.ofNat 56 (va / 2 ^ sh * 2 ^ sh), sh, e⟩

/-- The walk from a table of a level down (R148, R149): at most `fuel` levels. -/
def walkFrom (vf : BitVec 7) (va : Nat) (s : State) : Nat → Nat → Nat → List Nat → List WEntry → Walked
  | 0, _, _, rs, ws => ⟨.fault 7 2, rs, ws⟩
  | fuel + 1, l, table, rs, ws =>
    if !inMemory table then ⟨.fault 7 2, rs, ws⟩
    else if ownErr table s then ⟨.err, rs, ws⟩
    else if !ownerIs vf table s then ⟨.fault 7 3, rs, ws⟩
    else
      let a := table + 8 * (va / 2 ^ lvShift l % 2 ^ lvBits l)
      let rs := rs ++ [a]
      if memErrAt a 8 s then ⟨.err, rs, ws⟩
      else
        let e : Word := BitVec.ofNat 64 (memVal (keyOf vf s) a 8 s)
        if !bitB e 0 then ⟨.fault 7 0, rs, ws⟩
        else if bitB e 1 then ⟨leafRes vf va l e s, rs, ws⟩
        else
          let next := bitsN e 8 44 * 2 ^ 8
          if 4 ≤ l ∨ bitsN e 2 6 ≠ 0 ∨ bitsN e 52 12 ≠ 0 ∨ next % 2 ^ tableLog (l + 1) ≠ 0 ∨ !inMemory next then
            ⟨.fault 7 2, rs, ws⟩
          else walkFrom vf va s fuel (l + 1) next rs (ws ++ [⟨vf, l, va / 2 ^ lvShift l, e⟩])

/-- The deepest walk-cache entry of a hall on the path to an address, levels 3 down to 0. -/
def wcacheHit (h : Nat) (vf : BitVec 7) (va : Nat) (s : State) : Option WEntry :=
  let at_ (l : Nat) := (hallAt h s).wcache.find? (fun w => w.vf == vf && w.level == l && w.path == va / 2 ^ lvShift l)
  (at_ 3).orElse (fun _ => (at_ 2).orElse (fun _ => (at_ 1).orElse (fun _ => at_ 0)))

/-- The PTBASE and the OWNMAP a hall's walks use: those of the first walk that found them enabled, until a TLBI that covers them
(R151, R154; log 10). -/
def baseOf (h : Nat) (vf : BitVec 7) (s : State) : Word := (tfind (hallAt h s).bases vf.toNat).getD (reg vf 0x1010 s)
def mapOf (h : Nat) (s : State) : Word := (tfind (hallAt h s).bases 128).getD (reg 0 0x3000 s)
/-- The machine as a walk of the hall sees its translation registers. -/
def asWalked (h : Nat) (vf : BitVec 7) (s : State) : State := setReg vf 0x1010 (baseOf h vf s) (setReg 0 0x3000 (mapOf h s) s)
/-- A walk takes the enabled bases into use. -/
def latchBases (h : Nat) (vf : BitVec 7) (s : State) : State :=
  let put (i : Nat) (w : Word) (s : State) : State :=
    if bitB w 0 then setHall h { hallAt h s with bases := tput (hallAt h s).bases i w } s else s
  put vf.toNat (baseOf h vf s) (put 128 (mapOf h s) s)

/-- A walk by a walker of a hall (R148, R151, R152): table entries are read as they stand (log 10). -/
def walk (h : Nat) (vf : BitVec 7) (va : Nat) (s : State) : Walked :=
  let s := asWalked h vf s
  match wcacheHit h vf va s with
  | some w => walkFrom vf va s 5 (w.level + 1) (bitsN w.entry 8 44 * 2 ^ 8) [] []
  | none =>
    let b := reg vf 0x1010 s
    if !bitB b 0 then ⟨.fault 7 0, [], []⟩
    else walkFrom vf va s 5 0 (bitsN b 13 39 * 2 ^ 13) [] []

/-- WALKMAP's byte of walker w of a hall (R153). -/
def walkMap (h w : Nat) (s : State) : Nat := regN 0 (0xC000 + 64 * h + w / 8 * 8) (8 * (w % 8)) 8 s
def walkerFor (h w : Nat) (vf : BitVec 7) (s : State) : Bool :=
  let m := walkMap h w s
  m < 128 || m % 128 == vf.toNat
def walkersOf (h : Nat) (vf : BitVec 7) (s : State) : Nat :=
  (List.range Config.walkers).countP (fun w => walkMap h w s == 128 + vf.toNat)
def walkersReserved (h : Nat) (s : State) : Nat :=
  (List.range Config.walkers).countP (fun w => 128 ≤ walkMap h w s)

/-- What a function holds above its reserved places, n a walker reserved for it (R153). -/
def aboveShare (h n : Nat) (vfs : List (BitVec 7)) (s : State) (vf : BitVec 7) : Nat :=
  vfs.countP (fun f => f == vf) - n * walkersOf h vf s
/-- A function may take a place of a hall's queue (n = 64) or walk cache (n = 16) beside those held: one reserved for it, or a
shared one (R153). -/
def placeOpen (h n : Nat) (vfs : List (BitVec 7)) (vf : BitVec 7) (s : State) : Bool :=
  decide (vfs.countP (fun f => f == vf) < n * walkersOf h vf s) ||
  decide ((vfs.eraseDups.map (aboveShare h n vfs s)).sum + n * walkersReserved h s < n * Config.walkers)

/-- Enters entries in the walk cache; with no place open, the oldest entry of a function above its reserved places leaves, or else
the function's own oldest (R152, R153; log 10). -/
def addWcache (h : Nat) (ws : List WEntry) (s : State) : State :=
  ws.foldl (fun s w =>
    let hl := hallAt h s
    let others := hl.wcache.filter (fun e => !(e.vf == w.vf && e.level == w.level && e.path == w.path))
    let vfs := others.map WEntry.vf
    let put (l : List WEntry) : State := setHall h { hl with wcache := l ++ [w] } s
    if placeOpen h 16 vfs w.vf s then put others
    else
      match (others.findIdx? (fun e => decide (0 < aboveShare h 16 vfs s e.vf))).orElse (fun _ =>
          others.findIdx? (fun e => e.vf == w.vf)) with
      | some i => put (others.eraseIdx i)
      | none => s) s

/-- A core's cached translation of an address. -/
def tlbHit (c : Nat) (vf : BitVec 7) (va : Nat) (s : State) : Option Xlat :=
  (coreAt c s).tlb.find? (fun x => x.vf == vf && x.base.toNat / 2 ^ x.lsize == va / 2 ^ x.lsize)
/-- Enters a translation, the oldest leaving a full cache (log 10). -/
def addTlb (c : Nat) (x : Xlat) (s : State) : State :=
  let k := coreAt c s
  let t := k.tlb.filter (fun y => y != x)
  let t := if Config.tlbEntries ≤ t.length then t.drop 1 else t
  setCore c { k with tlb := t ++ [x] } s

/-- The physical address of a virtual one under a translation. -/
def Xlat.pa (x : Xlat) (va : Nat) : Nat := bitsN x.leaf 16 36 * 2 ^ 16 + va % 2 ^ x.lsize

/-- How an access uses its page. -/
inductive Use where
  | read | write | both | exec
  deriving DecidableEq, Repr

/-- The permission checks of R155: kind and cause of the first that fails. -/
def permFault (priv : Nat) (u : Use) (leaf : Word) : Option (Nat × Nat) :=
  if priv = 0 ∧ !bitB leaf 5 then some (8, 0)
  else
    match u with
    | .exec => if bitB leaf 4 then none else some (9, 0)
    | .read => if bitB leaf 2 then none else some (8, 0)
    | .write => if bitB leaf 3 then none else some (10, 0)
    | .both => if !bitB leaf 2 then some (8, 0) else if !bitB leaf 3 then some (10, 0) else none

/-- Where an address leads before translation (R145, R147). -/
inductive Where where
  | scratchpad (off : Nat)
  | vaultLocal (pa : Nat)
  | translated (va : Nat)
  | fault (kind cause : Nat)
  deriving DecidableEq, Repr

/-- The decoding of R145 and R147 for a strand on a core. -/
def whereIs (c : Nat) (vf : BitVec 7) (a : Word) (s : State) : Where :=
  if bitsN a 60 4 ≠ 0 then .fault 7 1
  else if bitsN a 48 8 = 0xFE then
    (if bitsN a 21 27 = 0 then .scratchpad (bitsN a 0 21) else .fault 7 0)
  else if bitsN a 48 8 = 0xFD then
    if bitsN a 26 22 ≠ 0 then .fault 7 0
    else
      let pa := c / 256 * 2 ^ 34 + c % 256 * 2 ^ 26 + bitsN a 0 26
      if ownErr pa s then .fault 13 1 else if ownerIs vf pa s then .vaultLocal pa else .fault 8 0
  else if bitsN a 48 8 = 0xFF then .fault 7 0
  else .translated (bitsN a 0 56)

/-- A device access by engine, stream, window or host translates at once, through the caches of hall h
(R155; log 2). -/
def xlateNow (h : Nat) (vf : BitVec 7) (priv : Nat) (u : Use) (a : Word) (s : State) : XRes :=
  if bitsN a 60 4 ≠ 0 then .fault 7 1
  else if 0xFD ≤ bitsN a 48 8 then .fault 7 0
  else
    match (walk h vf (bitsN a 0 56) s).res with
    | .ok x =>
      match permFault priv u x.leaf with
      | some (k, c) => .fault k c
      | none => .ok x
    | r => r

/-- Where n bytes of a function's memory lie for the device, which has guest-supervisor rights: the runs (address, bytes) in
one page or two, or the code of R183 of what fails. -/
def deviceRuns (h : Nat) (vf : BitVec 7) (u : Use) (a n : Nat) (s : State) : Except Nat (List (Nat × Nat)) :=
  let one (a n : Nat) : Except Nat (Nat × Nat) :=
    match xlateNow h vf 1 u (BitVec.ofNat 64 a) s with
    | .ok x => .ok (x.pa a, n)
    | .err => .error 1
    | .fault _ _ => .error 3
  let m := 2 ^ 16 - a % 2 ^ 16
  if n ≤ m then (match one a n with | .ok r => .ok [r] | .error e => .error e)
  else
    match one a m, one (a + m) (n - m) with
    | .ok r, .ok t => .ok [r, t]
    | .error e, _ => .error e
    | _, .error e => .error e

/-- The slot at which the reads of a walk end, starting after `t` (R152). -/
def walkTime (h : Nat) : List Nat → Nat → State → Nat × State
  | [], t, s => (t, s)
  | a :: rest, t, s => let (t, s) := deviceAccess h a (t + 1) s; walkTime h rest t s

/-- A walk is of the page of an address, in the hall (R152). -/
def walkOf (h : Nat) (vf : BitVec 7) (va : Nat) (k : Walk) : Bool :=
  k.vf == vf && k.va.toNat / 2 ^ 16 == va / 2 ^ 16 && coreHall k.core == h
/-- Starts a waiting walk on a free walker, which every waiting miss of its page joins: the event of their completion (R152). -/
def startWalk (id w : Nat) (k : Walk) (s : State) : State :=
  let h := coreHall k.core
  let s := latchBases h k.vf s
  let (t, s) := walkTime h (walk h k.vf k.va.toNat s).reads (s.wheel + 1) s
  let s := { s with walks := tput s.walks id { k with since := s.wheel } }
  (s.walks.filter (fun e => walkOf h k.vf k.va.toNat e.2 && e.2.walker.isNone)).foldl (fun s e =>
    postAt t .walkComplete (argId e.1) { s with walks := tput s.walks e.1 { e.2 with walker := some w } }) s

/-- The walkers of a hall that are idle. -/
def idleWalkers (h : Nat) (s : State) : List Nat :=
  (List.range Config.walkers).filter (fun w => s.walks.all (fun e => !(e.2.walker == some w && coreHall e.2.core == h)))

/-- The core has a walk of this page under way or waiting. -/
def walkPending (c : Nat) (vf : BitVec 7) (va : Nat) (s : State) : Bool :=
  s.walks.any (fun e => e.2.vf == vf && e.2.va.toNat / 2 ^ 16 == va / 2 ^ 16 && e.2.core == c)

/-- A translation miss (R152, R153): it joins the walk of its page where its hall has one, takes a free walker its
function may use, waits in the queue, or, with no place open to it, asks again at its next turn. -/
def missWalk (c : Nat) (vf : BitVec 7) (va : Nat) (s : State) : State :=
  let h := coreHall c
  if walkPending c vf va s then s
  else
    let (id, s) := newId s
    let k : Walk := ⟨vf, BitVec.ofNat 56 va, c, none, s.wheel⟩
    let same := s.walks.find? (fun e => walkOf h vf va e.2 && e.2.walker.isSome)
    match same with
    | some e =>
      -- joins: completes with the walk it joined
      let t := ((s.agenda.find? (fun d => d.ev == .walkComplete && d.args.id == e.1)).map Due.slot).getD (s.wheel + 1)
      let s := { s with walks := tput s.walks id { k with walker := e.2.walker } }
      postAt t .walkComplete (argId id) s
    | none =>
      match (idleWalkers h s).find? (fun w => walkerFor h w vf s) with
      | some w => startWalk id w k s
      | none =>
        let waiting := s.walks.filter (fun e => e.2.walker.isNone && coreHall e.2.core == h)
        if placeOpen h 64 (waiting.map (fun e => e.2.vf)) vf s then { s with walks := tput s.walks id k } else s

end Sys2Proof.Machine
end

