-- ==== Sys2Proof/Machine/Lines.lean ====
section
/-! DEFINITION. Lines: context records in the register caches, the hall context caches and memory; misses, fills,
victims, write-backs, sealing, and leaving a slot (R117 to R135, R139 to R143). -/

namespace Sys2Proof.Machine

/-- Strand and line of a line key. -/
def keySid (key : Nat) : Nat := key - key % 8192
def keyLine (key : Nat) : Nat := key % 8192 / 64

/-- Mask of words as bits 8i to 8i+7 of a line. -/
def wordMask (m : BitVec 8) : BitVec 512 :=
  (List.range 8).foldl (fun acc i =>
    if bitB m i then acc ||| ((BitVec.allOnes 64).setWidth 512 <<< (64 * i)) else acc) 0#512

/-- A newer copy's valid words over an older one (R122). -/
def mergeData (newer : BitVec 512) (m : BitVec 8) (older : BitVec 512) : BitVec 512 :=
  (newer &&& wordMask m) ||| (older &&& ~~~(wordMask m))

/-- Queues a transit message of function vf's strand (R137, R138). -/
def queueT (m : TMsg) (s : State) : State :=
  let (id, s) := newId s
  let s := { s with tmsgs := tput s.tmsgs id m }
  if s.agenda.any (fun d => d.ev == .transitFlitSend && d.args.hall.toNat == m.src) then s
  else post 1 .transitFlitSend (argHall m.src) s

/-- A message with no payload. -/
def tmsgZero : TMsg := ⟨.carry, 0, 0, 0, 0, 0, 0, 1, 0, false, 0, false, []⟩

/-- The words of a line, and a line of words. -/
def lineWords (d : BitVec 512) : List Word := (List.range 8).map (lineWord d)
def ofWords : List Word → BitVec 512
  | [] => 0#512
  | w :: t => (ofWords t <<< 64) ||| w.setWidth 512

/-! ### Reserved bits of a record (R118, R119, R121, R128, R196, R214, R224, R417) -/

/-- A whole fetched line has a nonzero reserved bit or a malformed header.  Of the bits of line 82 that no row of R224
names, [7:6] of bytes 1 and 2 are taken as reserved, [63:56] of the two addresses are not (DESIGN CHOICE, log 31). -/
def lineMalformed (k l : Nat) (d : BitVec 512) : Bool :=
  let w (i : Nat) : Word := lineWord d i
  match l with
  | 0 =>
    bitsN (w 0) 56 8 != 0 || bitsN (w 1) 37 27 != 0 || 9 ≤ bitsN (w 1) 0 4 || 12 ≤ bitsN (w 1) 4 4 ||
    bitsN (w 1) 8 2 == 3 || (bitsN (w 1) 8 2 == 2 && sidVf k != 0#7) ||
    bitsN (w 2) 11 53 != 0 || bitsN (w 2) 0 2 == 3 || bitsN (w 3) 12 52 != 0 ||
    bitsN (w 4) 0 6 != 0 || bitsN (w 4) 56 8 != 0 || bitsN (w 5) 0 13 != 0 ||
    bitsN (w 5) 56 7 != (sidVf k).toNat
  | 4 => w 7 != 0#64
  | 5 => bitsN (w 4) 40 24 != 0 || w 5 != 0#64 || w 6 != 0#64 || w 7 != 0#64
  | 80 => bitsN (w 0) 10 54 != 0 || w 6 != 0#64 || w 7 != 0#64
  | 81 => bitsN (w 3) 4 60 != 0 || w 4 != 0#64 || w 5 != 0#64 || w 6 != 0#64 || w 7 != 0#64
  | 82 => bitsN (w 0) 5 3 != 0 || bitsN (w 0) 14 2 != 0 || bitsN (w 0) 22 42 != 0 ||
    w 3 != 0#64 || w 4 != 0#64 || w 5 != 0#64 || w 6 != 0#64 || w 7 != 0#64
  | 83 => d != 0#512
  | n => 70 ≤ n && n ≤ 77 && (bitsN (w 7) 35 29 != 0)

/-! ### Reading and writing a record in memory -/

/-- Translation of a record page by the device, at supervisor level (R130, R131; log 11). -/
def recXlate (k : Nat) (u : Use) (off h : Nat) (s : State) : XRes :=
  xlateNow h (sidVf k) 1 u (BitVec.ofNat 64 ((sidCtx k).toNat + off)) s

/-- The cause of the context-page fault for a failed translation (R131). -/
def ctxCause : XRes → Nat × Nat
  | .fault 7 2 => (11, 2)
  | .fault 7 3 => (11, 3)
  | .fault 7 _ => (11, 0)
  | .fault _ _ => (11, 1)
  | .err => (13, 1)
  | .ok _ => (0, 0)

/-- Write-backs of a physical line that are on their way, oldest first (R124, R141). -/
def pendingBacks (vf : BitVec 7) (pa : Nat) (s : State) : List TMsg :=
  (s.tmsgs.filter (fun e => e.2.kind == .lineWriteback && e.2.vf == vf && e.2.id == pa)).map Prod.snd
/-- Line l of the record as memory and the write-back buffers have it, or the kind and cause of the trap (R131, R141, R169). -/
def readRecLine (k l h : Nat) (s : State) : Except (Nat × Nat) (BitVec 512) :=
  match recXlate k .read (64 * l) h s with
  | .ok x =>
    let pa := x.pa ((sidCtx k).toNat + 64 * l)
    if memErrAt pa 64 s then .error (13, 2)
    else
      let d := (pendingBacks (sidVf k) pa s).foldl (fun d m => mergeData (ofWords m.data) m.mask d)
        (BitVec.ofNat 512 (memVal (keyOf (sidVf k) s) pa 64 s))
      if lineMalformed k l d then .error (11, 2) else .ok d
  | r => .error (ctxCause r)

/-- A line of an unmaterialised pair: zeros, with every full bit set (R120). -/
def zeroLine (l : Nat) : BitVec 512 :=
  if l = 5 then setLineWord (setLineWord 0#512 3 (BitVec.ofNat 64 (2 ^ 64 - 2 ^ 32))) 4 (BitVec.ofNat 64 (2 ^ 40 - 1)) else 0#512

/-- The present bit of a line's pair (R118, R120). -/
def lineMaterial (k l : Nat) (s : State) : Bool := bitB (hdrPresent k s) (l / 2)

/-- Bytes of a line under a word mask, written to physical memory. -/
def putLineMem (key pa : Nat) (m : BitVec 8) (d : BitVec 512) (s : State) : State :=
  (List.range 8).foldl (fun s i =>
    if bitB m i then memWrite key (pa + 8 * i) (toBytes 8 (lineWord d i).toNat) s else s) s

/-- A migrating page holds the address (R165). -/
def pageMoving (vf : BitVec 7) (va : Nat) (s : State) : Bool :=
  s.moves.any (fun e => e.2.vf == vf && e.2.va.toNat / 2 ^ e.2.lsize == va / 2 ^ e.2.lsize)

/-! ### Opening a record (R85, R417) -/

/-- No cache holds a line of the record. -/
def uncached (k : Nat) (s : State) : Bool := s.lines.all (fun e => keySid e.1 != k || lineEmpty e.2)
/-- Write-backs of the strand not yet performed (R124). -/
def writeBacksOut (k : Nat) (s : State) : Bool :=
  s.tmsgs.any (fun e => (e.2.kind == .lineWriteback || e.2.kind == .writebackAck) && e.2.vf == sidVf k && e.2.ctx == sidCtx k)

/-- A line of the record is about to be the first one cached: the sealed bit of its header in memory clears, and with it rcur and
hvalid, since the sealed record is complete (R85, R417). -/
def breakSeal (k h : Nat) (s : State) : State :=
  if !uncached k s || writeBacksOut k s then s
  else
    match recXlate k .read 0 h s with
    | .ok x =>
      let pa := x.pa (sidCtx k).toNat + 8
      let key := keyOf (sidVf k) s
      let w : Word := BitVec.ofNat 64 (memVal key pa 8 s)
      if bitB w 15 then memWrite key pa (toBytes 8 (setBits (setBits (setBits w 15 1 0) 31 1 0) 36 1 0).toNat) s else s
    | _ => s

/-- lholder, level, segment and quadrant as the power controller's holder sets have them (R82, R417); those of a lease whose
expiry is pending stay. -/
def leaseBits (k : Nat) (s : State) : Nat :=
  match s.islands.find? (fun e => e.2.holders.contains k) with
  | some (i, _) => 1 + 2 * (regN 0 (0x30100 + 8 * i) 9 3 s) + 16 * (i / 4) + 256 * (i % 4)
  | none => if hdrN k 3 10 1 s = 1 then hdrN k 3 1 9 s * 2 else 0
/-- A header that has come from memory takes the lease fields of the device. -/
def fixHeader (k : Nat) (s : State) : State :=
  if hdrN k 3 0 10 s = leaseBits k s then s else setHdrN k 3 0 10 (leaseBits k s) s

/-- The words of a line that no cache holds, into hall h's context cache. -/
def fillLine (key h : Nat) (d : BitVec 512) (s : State) : State :=
  let ln := lineAt key s
  let c := (hcAt h ln).getD (copyNone h s)
  let rest := ln.hc.filter (fun x => x.place != h)
  setLine key { ln with hc := rest ++ [{ c with mask := c.mask ||| ~~~(haveMask ln), data := mergeData c.data c.mask d }] } s

/-- Opens line l of a record for the device: the words no cache holds are read from memory, or are zeros. -/
def openRaw (k l h : Nat) (s : State) : Except (Nat × Nat) State :=
  if haveMask (lineAt (lineKey k l) s) = 255#8 then .ok s
  else if l ≠ 0 ∧ !lineMaterial k l s then .ok (fillLine (lineKey k l) h (zeroLine l) s)
  else
    let s := breakSeal k h s
    match readRecLine k l h s with
    | .error e => .error e
    | .ok d =>
      let s := fillLine (lineKey k l) h d s
      .ok (if l = 0 then fixHeader k s else s)

/-! ### Writing back (R120, R124) -/

/-- What a write-back comes to. -/
inductive WB where
  /-- on its way to its home -/
  | gone
  /-- its page is moving: held (R135) -/
  | wait
  /-- its translation fails: kept (R132) -/
  | fails
  deriving DecidableEq, Repr

/-- Words written back anew are current there: earlier write-backs still on their way leave them out (R124). -/
def supersede (vf : BitVec 7) (pa : Nat) (m : BitVec 8) (s : State) : State :=
  { s with tmsgs := s.tmsgs.map (fun e =>
      if e.2.kind == .lineWriteback && e.2.vf == vf && e.2.id == pa then (e.1, { e.2 with mask := e.2.mask &&& ~~~m }) else e) }
/-- Sends a line from hall h to its home: by the transit channel, or, in the same hall, to the first service position no circuit
owns (R124). -/
def sendBack (k l h pa : Nat) (m : BitVec 8) (d : BitVec 512) (s : State) : State :=
  let msg : TMsg := { tmsgZero with
    kind := .lineWriteback, src := h, dst := homeOf pa, vf := sidVf k, ctx := sidCtx k
    line := BitVec.ofNat 56 ((sidCtx k).toNat + 64 * l), flits := 3, mask := m, data := lineWords d, id := pa }
  let s := supersede (sidVf k) pa m s
  if homeOf pa = h then
    let (id, s) := newId s
    let (t, s) := deviceAccess h pa (s.wheel + 1) { s with tmsgs := tput s.tmsgs id { msg with sent := 3 } }
    postAt t .transitLineWriteback { argId id with n := 1#8 } s
  else queueT msg s

/-- Writes valid words of a line from hall h to the record at its home: a first write-back materialises the pair, whose other
words are those of an unmaterialised line (R120; log 11). -/
def writeRecLine (k l h : Nat) (m : BitVec 8) (d : BitVec 512) (s : State) : WB × State :=
  let va := (sidCtx k).toNat + 64 * l
  if pageMoving (sidVf k) va s then (.wait, s)
  else
    match recXlate k .write (64 * l) h s with
    | .ok x =>
      let pa := x.pa va
      let s := match openRaw k 0 h s with | .ok s => s | .error _ => s
      if lineMaterial k l s then (.gone, sendBack k l h pa m d s)
      else
        let pr := setBits (hdrPresent k s) (l / 2) 1 1
        let s := setHdr k 6 pr s
        let (l2, pa2) := if l % 2 = 0 then (l + 1, pa + 64) else (l - 1, pa - 64)
        let d := mergeData d m (zeroLine l)
        let s := sendBack k l2 h pa2 255#8 (zeroLine l2) s
        (.gone, sendBack k l h pa 255#8 (if l = 0 then setLineWord d 6 pr else d) s)
    | _ => (.fails, s)

/-! ### Backing exhausted (R132) -/

/-- Queues a trap that stops no strand for a pool and has its hand-over tried (R212, R216). -/
def queueTrap (pool : BitVec 7) (k : Nat) (t : Trap) (s : State) : State :=
  let f := fnAt pool s
  let s := setFn pool { f with waiting := f.waiting ++ [(k, t)] } s
  post 1 .handlerHandover (argVf pool) s

/-- Parks a strand at its next boundary with hold 6, or at once where it holds no slot. -/
def holdBacking (k : Nat) (s : State) : State :=
  let t := strandAt k s
  match t.run with
  | .resident => modStrand k (fun t => { t with hold := 6, leaving := true }) s
  | .ready | .held => setRun k .held 6 0 s
  | _ => s

/-- The number of kept lines of a function in a core's register cache or a hall's context cache. -/
def keptCount (vf : BitVec 7) (rc : Bool) (place : Nat) (s : State) : Nat :=
  s.lines.countP (fun e => sidVf e.1 == vf &&
    (if rc then e.2.rc.toList else e.2.hc).any (fun c => c.kept && c.place == place))

/-- Changes a hall context cache's copy of a line in place. -/
def modHc (key h : Nat) (f : Copy → Copy) (s : State) : State :=
  let ln := lineAt key s
  setLine key { ln with hc := ln.hc.map (fun c => if c.place = h then f c else c) } s

/-- Marks hall h's copy of a line kept: its strand is parked, the hypervisor is told, and a function at its limit has every
strand of the hall parked (R132). -/
def keepLine (key h : Nat) (s : State) : State :=
  let k := keySid key
  let s := holdBacking k (modHc key h (fun c => { c with kept := true }) s)
  let s :=
    if Config.keptLimitHall ≤ keptCount (sidVf k) false h s then
      s.strands.foldl (fun s e => if sidVf e.1 == sidVf k && coreHall e.2.core == h then holdBacking e.1 s else s) s
    else s
  let s := post 2000000 .keptWritebackRetry (argVf (sidVf k)) s
  queueTrap 0#7 k ⟨12, 0, hdrPc k s, hdrPc k s, BitVec.ofNat 64 (key % 2 ^ 56), 0, 0, [], true⟩ s

/-! ### The caches (R122 to R124) -/

/-- The line keys of a strand that a cache holds. -/
def strandLines (k : Nat) (s : State) : List Nat := (s.lines.filter (fun e => keySid e.1 == k)).map Prod.fst

/-- A record that is complete in memory with no line cached has its header's sealed bit set there (R85). -/
def sealRecord (k : Nat) (s : State) : State :=
  if !uncached k s || writeBacksOut k s then s
  else
    match recXlate k .read 0 (coreHall (strandAt k s).core) s with
    | .ok x =>
      let pa := x.pa (sidCtx k).toNat + 9
      let key := keyOf (sidVf k) s
      memWrite key pa [memByte key pa s ||| 0x80#8] s
    | _ => s

/-- Writes hall h's copy of a line back to the record (R124): it waits while the record page moves (R135), a failure keeps it
(R132). -/
def writeBackHc (key h : Nat) (s : State) : WB × State :=
  match hcAt h (lineAt key s) with
  | none => (.gone, s)
  | some c =>
    let drop (s : State) : State :=
      let ln := lineAt key s
      sealRecord (keySid key) (setLine key { ln with hc := ln.hc.filter (fun x => x.place != h) } s)
    if !c.dirty then (.gone, drop s)
    else
      match writeRecLine (keySid key) (keyLine key) h c.mask c.data s with
      | (.gone, s) => (.gone, drop s)
      | (.wait, s) => (.wait, modHc key h (fun c => { c with held := true }) s)
      | (.fails, s) => (.fails, if c.kept then s else keepLine key h s)

/-- Makes room in a hall context cache: the oldest lines not kept go to their records, each that stays being passed over (R124,
R132). -/
def makeRoomHall (h : Nat) : Nat → List Nat → State → State
  | 0, _, s => s
  | n + 1, tried, s =>
    let here := s.lines.filterMap (fun e => (hcAt h e.2).map (fun c => (e.1, c)))
    if here.length ≤ Config.hallCacheLines then s
    else
      match here.filter (fun e => !e.2.kept && !e.2.held && !tried.contains e.1) with
      | [] => s
      | x :: t =>
        let key := (t.foldl (fun b y => if y.2.stamp < b.2.stamp then y else b) x).1
        makeRoomHall h n (key :: tried) (writeBackHc key h s).2
/-- A line has been added to a hall context cache. -/
def trimHall (h : Nat) (s : State) : State := makeRoomHall h (s.lines.length + 1) [] s

/-- Opens a line for the device (R85, R417). -/
def openLine (k l h : Nat) (s : State) : Except (Nat × Nat) State :=
  match openRaw k l h s with
  | .ok s => .ok (trimHall h s)
  | .error e => .error e
/-- The header is in a cache before the device changes it. -/
def withHeader (k : Nat) (s : State) : State :=
  match openLine k 0 (coreHall (strandAt k s).core) s with
  | .ok s => s
  | .error _ => s

/-- The register-cache copy of a line joins the entry of its hall's context cache. -/
def toHall (key : Nat) (c : Copy) (s : State) : State :=
  let ln := { lineAt key s with rc := none }
  let h := coreHall c.place
  let b := (hcAt h ln).getD (copyNone h s)
  let c : Copy := { b with
    mask := b.mask ||| c.mask, dirty := b.dirty || c.dirty, stamp := s.wheel, data := mergeData c.data c.mask b.data }
  trimHall h (setLine key (setHc c ln) (chargeStrand (keySid key) 1 (keyLine key) s))
/-- Lets a register-cache line go: a dirty one to the hall context cache, a clean one is dropped (R123). -/
def letGo (key : Nat) (s : State) : State :=
  let ln := lineAt key s
  match ln.rc with
  | none => s
  | some c =>
    if c.dirty then toHall key c s else sealRecord (keySid key) (setLine key { ln with rc := none } s)
/-- Moves the register-cache copy of a line, clean or dirty, to the hall context cache (R140 step 5). -/
def moveLine (key : Nat) (s : State) : State :=
  match (lineAt key s).rc with
  | none => s
  | some c => toHall key c s

/-- Victim class of a register-cache line at a core, lower first (R123); `none` is never a victim: a kept line, one of a D-mode
strand (R143), and lines 0, 5 and 82 of a resident strand (R122, R224). -/
def victimClass (key : Nat) (c : Copy) (s : State) : Option Nat :=
  let k := keySid key
  let t := strandAt k s
  if c.kept || (hdrDmode k s && t.run != .exited) then none
  else if t.run = .exited then some 0
  else if t.slot.isNone then (if c.dirty then some 2 else some 1)
  else if keyLine key = 0 ∨ keyLine key = 5 ∨ (keyLine key = 82 ∧ bitB (hdrPresent k s) 41) then none
  else
    let mine := s.lines.countP (fun e => keySid e.1 == k && e.2.rc.isSome)
    if 66 < mine then some 3 else none

/-- Lines in a core's register cache. -/
def cacheLoad (c : Nat) (s : State) : Nat :=
  s.lines.countP (fun e => match e.2.rc with | some r => r.place == c | none => false)
/-- Makes room for one line in a core's register cache (R123): the least recently used line of the lowest class goes; none when
there is no victim. -/
def makeRoom (c : Nat) (s : State) : Option State :=
  if cacheLoad c s < Config.registerCacheLines then some s
  else
    let cand := s.lines.filterMap (fun e => match e.2.rc with
      | some r => if r.place = c then (victimClass e.1 r s).map (fun v => (v, r.stamp, e.1)) else none
      | none => none)
    match cand with
    | [] => none
    | x :: t =>
      let b := t.foldl (fun b y => if y.1 < b.1 ∨ (y.1 = b.1 ∧ y.2.1 < b.2.1) then y else b) x
      some (letGo b.2.2 s)
/-- Marks lines of a strand used now (R123). -/
def touchLines (k : Nat) (ls : List Nat) (s : State) : State :=
  ls.foldl (fun s l =>
    let ln := lineAt (lineKey k l) s
    match ln.rc with
    | some c => setLine (lineKey k l) { ln with rc := some { c with stamp := s.wheel } } s
    | none => s) s

/-! ### Counters of the control line (R128, R129) -/

/-- Adds a strand's deltas into line 80 where a cache holds it. -/
def addDelta (k : Nat) (s : State) : State :=
  let t := strandAt k s
  let add (off n : Nat) (s : State) : State :=
    if n = 0 then s
    else putWordAnywhere k off (coreHall t.core) (cachedWord k off s + BitVec.ofNat 64 n) s
  let s := add 0x1410 t.dMiss (add 0x1418 t.dMissM (add 0x1420 t.dMigr s))
  modStrand k (fun t => { t with dMiss := 0, dMissM := 0, dMigr := 0 }) s

/-- Counts events of the strand; they enter line 80 at once where the register cache holds it. -/
def count80 (k miss missM migr : Nat) (s : State) : State :=
  let s := modStrand k (fun t => { t with dMiss := t.dMiss + miss, dMissM := t.dMissM + missM, dMigr := t.dMigr + migr }) s
  if (lineAt (lineKey k 80) s).rc.isSome then addDelta k s else s

/-- At leaving a slot, the control delta with the strand's new ready time goes where line 80 is (R129): issue count and ready
time are set, counts are added.  In memory alone, they are written at its home; where its page moves or does not translate, the
delta stays with the strand. -/
def flushDelta (k : Nat) (s : State) : State :=
  let s := modStrand k (fun t => { t with readyTime := tick s }) s
  let t := strandAt k s
  let h := coreHall t.core
  let ln := lineAt (lineKey k 80) s
  let put (s : State) : State :=
    putWordAnywhere k 0x1428 h (BitVec.ofNat 64 t.issued) (putWordAnywhere k 0x1408 h (BitVec.ofNat 64 t.readyTime) (addDelta k s))
  let gone (s : State) : State := modStrand k (fun t => { t with dMiss := 0, dMissM := 0, dMigr := 0 }) s
  match ln.rc, ln.hc with
  | some _, _ => put s
  | none, c :: _ =>
    if (hcAt h ln).isSome then put s
    else
      gone (queueT { tmsgZero with
        kind := .controlDelta, src := h, dst := c.place, vf := sidVf k, ctx := sidCtx k
        data := [BitVec.ofNat 64 t.dMiss, BitVec.ofNat 64 t.dMissM, BitVec.ofNat 64 t.dMigr, BitVec.ofNat 64 t.issued,
          BitVec.ofNat 64 t.readyTime] } s)
  | none, [] =>
    if !lineMaterial k 80 s then put (trimHall h (fillLine (lineKey k 80) h 0#512 s))
    else
      match readRecLine k 80 h s with
      | .ok d =>
        let w (i n : Nat) : Word := lineWord d i + BitVec.ofNat 64 n
        let d := setLineWord (setLineWord (setLineWord d 2 (w 2 t.dMiss)) 3 (w 3 t.dMissM)) 4 (w 4 t.dMigr)
        let d := setLineWord (setLineWord d 5 (BitVec.ofNat 64 t.issued)) 1 (BitVec.ofNat 64 t.readyTime)
        (match writeRecLine k 80 h 0x3E#8 d s with
         | (.gone, s) => gone s
         | (_, s) => s)
      | .error _ => s

/-! ### Misses (R126, R127) -/

/-- The words of a line that a register cache lacks. -/
def lackWords (key : Nat) (m : BitVec 8) (s : State) : Bool :=
  match (lineAt key s).rc with
  | some c => m &&& ~~~c.mask != 0#8
  | none => m != 0#8

/-- Where a missing line comes from (R126). -/
inductive Source where
  /-- this hall's context cache, whole with what is valid above -/
  | here
  /-- another hall -/
  | hall (g : Nat)
  | zeros
  | memory
  deriving DecidableEq, Repr
def lineSource (k l : Nat) (s : State) : Source :=
  let h := coreHall (strandAt k s).core
  let ln := lineAt (lineKey k l) s
  let have_ := ((ln.rc.map Copy.mask).getD 0#8) ||| (((hcAt h ln).map Copy.mask).getD 0#8)
  match have_ == 255#8, ln.hc.find? (fun c => c.place != h) with
  | true, _ => .here
  | false, some c => .hall c.place
  | false, none =>
    if hdrN k 1 36 1 s = 1 ∧ hdrN k 1 32 4 s ≠ h then .hall (hdrN k 1 32 4 s)
    else if !lineMaterial k l s ∧ l ≠ 0 then .zeros
    else .memory
/-- A miss of the line is served from memory or another hall (R128). -/
def servedFar (k l : Nat) (s : State) : Bool :=
  match lineSource k l s with | .hall _ => true | .memory => true | _ => false

/-- Orders one missing line (R126): when it comes depends on its source (R127, R141). -/
def fetchLine (k l : Nat) (s : State) : State :=
  let c := (strandAt k s).core
  let h := coreHall c
  let done (n : Nat) (s : State) : State := postAt n .lineFetchDone { argStrand k with n := BitVec.ofNat 8 l } s
  let src := lineSource k l s
  let s := modStrand k (fun t => { t with fetching := sadd t.fetching l }) s
  match src with
  | .here => done (s.wheel + cyclesToSlots c 40 s) s
  | .hall g =>
    queueT { tmsgZero with
      kind := .lineRequest, src := h, dst := g, vf := sidVf k, ctx := sidCtx k, id := l, present := lineMaterial k l s } s
  | .zeros => done (s.wheel + cyclesToSlots c 8 s) s
  | .memory =>
    match recXlate k .read (64 * l) h s with
    | .ok x =>
      let (t, s) := deviceAccess h (x.pa ((sidCtx k).toNat + 64 * l)) (s.wheel + 1) s
      done t s
    | _ => done (s.wheel + 2) s

/-- Orders every missing line that is not on its way yet. -/
def fetchLines (k : Nat) (ls : List Nat) (s : State) : State :=
  ls.foldl (fun s l => if (strandAt k s).fetching.contains l then s else fetchLine k l s) s

/-- The missing lines among those an instruction needs: the miss is counted once, when it cancels the issue, and once among
those served from memory or another hall if one of its lines is; all are ordered together, and the issue bubbles until they are
present (R126, R128). -/
def missLines (k : Nat) (ls : List Nat) (s : State) : State :=
  if ls.all (strandAt k s).fetching.contains then s
  else fetchLines k ls (count80 k 1 (ls.any (fun l => servedFar k l s)).toNat 0 s)

/-- Installs words of a line in the register cache below those it has (R122). -/
def installLine (k l : Nat) (m : BitVec 8) (dirty : Bool) (d : BitVec 512) (s : State) : State :=
  let key := lineKey k l
  let ln := lineAt key s
  let r := ln.rc.getD (copyNone (strandAt k s).core s)
  let c : Copy := { r with
    mask := r.mask ||| m, dirty := r.dirty || dirty, stamp := s.wheel, data := mergeData r.data r.mask d }
  let s := chargeStrand k 1 l (setLine key { ln with rc := some c } s)
  if l = 80 then addDelta k s else s

/-- The line is no longer awaited. -/
def fetched (k l : Nat) (s : State) : State := modStrand k (fun t => { t with fetching := sdel t.fetching l }) s

/-- A failed fetch: the trap waits for the instruction's next turn (R131, R211 order 11). -/
def fetchFails (k l kind cause : Nat) (s : State) : State :=
  modStrand k (fun t => { t with
    fetching := sdel t.fetching l
    fault := some ⟨BitVec.ofNat 8 kind, BitVec.ofNat 8 cause, 0, 0,
      BitVec.ofNat 64 ((sidCtx k).toNat + 64 * l), 0, 0, [], kind == 11 && cause == 3⟩ }) s

/-- A line arrives (R126): this hall's entry moves to the register cache; the words it lacks are zeros, come from the record, or
are asked for where they are.  With no victim to make room for it, it waits (R123); an uncorrectable error in a cached copy fails the
fetch (R23, R169). -/
def arriveLine (k l : Nat) (s : State) : State :=
  let c := (strandAt k s).core
  let h := coreHall c
  let key := lineKey k l
  if s.lineErr.contains key && !lineEmpty (lineAt key s) then fetchFails k l 13 2 s else
  let s := { s with lineErr := sdel s.lineErr key }
  match (if (lineAt key s).rc.isSome then some s else makeRoom c s) with
  | none => post (cyclesToSlots c 8 s) .lineFetchDone { argStrand k with n := BitVec.ofNat 8 l } s
  | some s =>
    let ln := lineAt key s
    let s := match hcAt h ln with
      | some b => installLine k l b.mask b.dirty b.data (setLine key { ln with hc := ln.hc.filter (fun x => x.place != h) } s)
      | none => s
    if !lackWords key 255#8 s then fetched k l s
    else
      match lineSource k l s with
      | .zeros => fetched k l (installLine k l 255#8 false (zeroLine l) (breakSeal k h s))
      | .memory =>
        let s := breakSeal k h s
        (match readRecLine k l h s with
         | .ok d =>
           let s := fetched k l (installLine k l 255#8 false d s)
           if l = 0 then fixHeader k s else s
         | .error (kd, ca) => fetchFails k l kd ca s)
      | _ => fetchLine k l s

/-! ### Leaving a slot (R125) and sealing (R85, R189, R212) -/

/-- A strand's name goes stale and its control delta is kept (R116, R129). -/
def staleName (k : Nat) (s : State) : State := setHdrN k 1 31 1 0 (flushDelta k s)
/-- A strand's slot is free: its core looks for another (R99). -/
def vacateSlot (k : Nat) (s : State) : State :=
  let t := strandAt k s
  match t.slot with
  | none => s
  | some _ =>
    post 1 .slotSelect (argCore t.core) (modStrand k (fun t => { t with
      slot := none, touching := none, leaving := false, stall := none, fetching := [] }) s)
/-- A strand leaves its slot: its name goes stale, its control delta is kept, its lines stay or, with retain 0, go to the
hall context cache (R116, R125, R129). -/
def leaveSlot (k : Nat) (s : State) : State :=
  let t := strandAt k s
  match t.slot with
  | none => s
  | some _ =>
    let s := staleName k s
    let s := if hdrN k 2 10 1 s = 1 ∨ hdrDmode k s then s else (strandLines k s).foldl (fun s key => letGo key s) s
    vacateSlot k s

/-- Gives lines back to the record; answers whether all are on their way. -/
def writeBackKeys (ks : List Nat) (s : State) : Bool × State :=
  let s := ks.foldl (fun s key => letGo key s) s
  ks.foldl (fun (r : Bool × State) key =>
    (lineAt key r.2).hc.foldl (fun (r : Bool × State) c =>
      match writeBackHc key c.place r.2 with
      | (.gone, s) => (r.1, s)
      | (_, s) => (false, s)) r) (true, s)

/-- Every line of a strand but its header, and the header last (R189, R212). -/
def writeBackRest (k : Nat) (s : State) : Bool × State :=
  writeBackKeys ((strandLines k s).filter (fun key => keyLine key != 0)) s
def writeBackHeader (k : Nat) (s : State) : Bool × State := writeBackKeys [lineKey k 0] s
/-- Write-backs held for a page that has moved proceed to the new copy (R135). -/
def releaseHeld (s : State) : State :=
  ((s.lines.filter (fun e => e.2.hc.any Copy.held)).map Prod.fst).foldl (fun s key =>
    (writeBackKeys [key] (setLine key (let ln := lineAt key s; { ln with hc := ln.hc.map (fun c => { c with held := false }) }) s)).2) s

end Sys2Proof.Machine
end

