-- ==== Sys2Proof/Machine/Operands.lean ====
section
/-! DEFINITION. Operands: what an instruction reads and writes, the issue checks of R126, R194, R195, R197, R207 and
R210, and every operand form: registers, stream elements, dispatch registers (R269, R272, R338, R339). -/

namespace Sys2Proof.Machine

open Host

/-- The register fields. -/
inductive Fld where
  | d | a | b
  deriving DecidableEq, Repr

def roleOf (i : Instr) : Fld → Role
  | .d => (info i).rd | .a => (info i).ra | .b => (info i).rb
def regOf (i : Instr) : Fld → BitVec 5
  | .d => (operands i).rd | .a => (operands i).ra | .b => (operands i).rb
def clsOf (i : Instr) : Fld → BitVec 2
  | .d => (operands i).p.clsD | .a => (operands i).p.clsA | .b => (operands i).p.clsB
def syncOf (i : Instr) : Fld → Bool
  | .d => (operands i).p.syncD | .a => (operands i).p.syncA | .b => (operands i).p.syncB

/-- The pred field of format V (R339). -/
def predOf : Instr → Option (BitVec 3)
  | .ldg _ pred _ _ _ _ => some pred
  | .stx _ pred _ _ _ _ => some pred
  | .vadd _ pred _ _ _ _ => some pred
  | .vsub _ pred _ _ _ _ => some pred
  | .vmul _ pred _ _ _ _ => some pred
  | .vmulh _ pred _ _ _ _ => some pred
  | .vfma _ pred _ _ _ _ => some pred
  | .vfms _ pred _ _ _ _ => some pred
  | .vfnma _ pred _ _ _ _ => some pred
  | .vmin _ pred _ _ _ _ => some pred
  | .vmax _ pred _ _ _ _ => some pred
  | .vabs _ pred _ _ _ => some pred
  | .vneg _ pred _ _ _ => some pred
  | .vrcp _ pred _ _ _ => some pred
  | .vrsq _ pred _ _ _ => some pred
  | .vexp2 _ pred _ _ _ => some pred
  | .vlog2 _ pred _ _ _ => some pred
  | .vsqrt _ pred _ _ _ => some pred
  | .vand _ pred _ _ _ => some pred
  | .vor _ pred _ _ _ => some pred
  | .vxor _ pred _ _ _ => some pred
  | .vlogt _ pred _ _ _ _ _ _ => some pred
  | .vshl _ pred _ _ _ _ => some pred
  | .vshr _ pred _ _ _ _ => some pred
  | .vsar _ pred _ _ _ _ => some pred
  | .vcmp _ pred _ _ _ _ _ _ => some pred
  | .vsel _ pred _ _ _ _ => some pred
  | .vcvt _ pred _ _ _ _ _ _ => some pred
  | .vbcst _ pred _ _ _ => some pred
  | .vperm _ pred _ _ _ _ => some pred
  | .vshuf _ pred _ _ _ _ => some pred
  | .vsld _ pred _ _ _ _ => some pred
  | .vred _ pred _ _ _ _ => some pred
  | .vscan _ pred _ _ _ _ => some pred
  | .vdot4 _ pred _ _ _ _ => some pred
  | .vlut _ pred _ _ _ _ => some pred
  | .vqnt _ pred _ _ _ _ => some pred
  | .vdqnt _ pred _ _ _ _ => some pred
  | .vdiv _ pred _ _ _ _ => some pred
  | .rep _ _ _ _ body => predOf body
  | _ => none

/-- Instructions that read FCSR or may OR flags into it (R129). -/
def usesFcsr : Instr → Bool
  | .vfma .. => true
  | .vfms .. => true
  | .vfnma .. => true
  | .vrcp .. => true
  | .vrsq .. => true
  | .vexp2 .. => true
  | .vlog2 .. => true
  | .vsqrt .. => true
  | .vdiv .. => true
  | .vqnt .. => true
  | .vdqnt .. => true
  | .fadd .. => true
  | .fsub .. => true
  | .fmul .. => true
  | .fdiv .. => true
  | .fsqrt .. => true
  | .fmin .. => true
  | .fmax .. => true
  | .ffma .. => true
  | .fcmp .. => true
  | .fcvt .. => true
  | .vadd _ _ ty _ _ _ => 8 ≤ ty.toNat
  | .vsub _ _ ty _ _ _ => 8 ≤ ty.toNat
  | .vmul _ _ ty _ _ _ => 8 ≤ ty.toNat
  | .vmin _ _ ty _ _ _ => 8 ≤ ty.toNat
  | .vmax _ _ ty _ _ _ => 8 ≤ ty.toNat
  | .vcmp _ _ ty _ _ _ _ _ => 8 ≤ ty.toNat
  | .vred _ _ ty _ _ _ => 8 ≤ ty.toNat
  | .vscan _ _ ty _ _ _ => 8 ≤ ty.toNat
  | .vdot4 _ _ ty _ _ _ => 8 ≤ ty.toNat
  | .vcvt _ _ ty _ _ _ _ sty => 8 ≤ ty.toNat || 8 ≤ sty.toNat
  | .csrr _ _ csr => csr == 0#12
  | .csrw _ _ csr => csr == 0#12
  | .csrx _ _ _ csr => csr == 0#12
  | .rep _ _ _ _ body => usesFcsr body
  | _ => false

/-- Register codes an instruction reads beside its three register fields. -/
def extraReads : Instr → List Nat
  | .fshlReg _ _ _ _ rc => [codeS rc]
  | .fshrReg _ _ _ _ rc => [codeS rc]
  | .logt _ _ _ _ rc _ => [codeS rc]
  | .ffma _ _ _ _ _ _ rc => [codeS rc]
  | .vlogt _ pred _ _ _ _ vc _ => [codeP pred.toNat, codeV vc]
  | .sel _ _ _ _ _ pn => [codeP pn.toNat]
  | .br _ _ pn _ => [codeP pn.toNat]
  | .brLong _ _ pn _ => [codeP pn.toNat]
  | .mcpy _ rd ra rb => [codeS rd, codeS ra, codeS rb]
  | .mset _ rd ra rb => [codeS rd, codeS ra, codeS rb]
  | .rep cnt adv0 adv1 _ body => [codeS cnt, codeS adv0, codeS adv1] ++ extraReads body
  | i => match predOf i with | some p => [codeP p.toNat] | none => []

/-- A vector destination is written in part (R339, R351, R353). -/
def writesPart : Instr → Bool
  | .vmovsToLane .. => true
  | .vsel .. => false
  | .vqnt .. => false
  | .vcvt _ pred ty _ _ _ _ sty => pred != 0#3 || convLanes sty ty < laneCount ty
  | .ldg _ pred _ _ _ _ => pred != 0#3
  | .rep _ _ _ _ body => writesPart body
  | i => match predOf i with | some p => p != 0#3 | none => false

/-- Register codes of one field that are read, and that are written. -/
def fieldReads (i : Instr) (f : Fld) : List Nat :=
  if clsOf i f != 0#2 then []
  else
    let r := regOf i f
    match roleOf i f with
    | .sR | .sRW => [codeS r]
    | .vR | .vRW => [codeV r]
    | .pR => [codeP r.toNat]
    | .dR | .dRW => [codeS r, codeS (r + 1#5)]
    | _ => []
def fieldWrites (i : Instr) (f : Fld) : List Nat :=
  if clsOf i f != 0#2 then []
  else
    let r := regOf i f
    match roleOf i f with
    | .sW | .sRW => [codeS r]
    | .vW | .vRW => [codeV r]
    | .pW => [codeP r.toNat]
    | .dRW => [codeS r, codeS (r + 1#5)]
    | _ => []

/-- Registers read; registers written; registers whose old contents the issue needs. -/
def readCodes (i : Instr) : List Nat := fieldReads i .a ++ fieldReads i .b ++ fieldReads i .d ++ extraReads i
def writeCodes (i : Instr) : List Nat := fieldWrites i .a ++ fieldWrites i .b ++ fieldWrites i .d
def needCodes (i : Instr) : List Nat := if writesPart i then readCodes i ++ writeCodes i else readCodes i

/-- Codes of the synchronised operands (R195). -/
def syncCodes (i : Instr) : List Nat :=
  (if syncOf i .a then fieldReads i .a else []) ++ (if syncOf i .b then fieldReads i .b else []) ++
  (if syncOf i .d then fieldReads i .d else [])

/-- Stream operands, in the order ra, rb, rd: register and whether it is a vector use (R197; log 12). -/
def isVecRole (r : Role) : Bool := r == .vR || r == .vW || r == .vRW
def isReadRole (r : Role) : Bool := r == .sR || r == .vR
def isWriteRole (r : Role) : Bool := r == .sW || r == .vW
def streamsOf (i : Instr) (want : Role → Bool) : List (Fld × Nat × Bool) :=
  [Fld.a, Fld.b, Fld.d].filterMap (fun f =>
    if clsOf i f == 1#2 && want (roleOf i f) then some (f, (regOf i f).toNat, isVecRole (roleOf i f)) else none)

/-- Line and word mask that a register's contents stand in (R117). -/
def lineOfCode (c : Nat) : List (Nat × BitVec 8) :=
  if c = 0 then []
  else if c < 32 then [(1 + (c - 1) / 8, 1#8 <<< ((c - 1) % 8))]
  else if c < 64 then [(6 + 2 * (c - 32), 255#8), (7 + 2 * (c - 32), 255#8)]
  else [(5, 255#8)]

/-- Lines an instruction needs (R126): registers, dispatch registers, bindings, the control line. -/
def needLines (i : Instr) : List (Nat × BitVec 8) :=
  (needCodes i).flatMap lineOfCode ++
  ([Fld.a, Fld.b, Fld.d].filterMap (fun f =>
    if clsOf i f == 2#2 then some (78, 1#8 <<< (regOf i f).toNat)
    else if clsOf i f == 1#2 then some (70 + (regOf i f).toNat, 255#8) else none)) ++
  (if usesFcsr i then [(80, 1#8)] else []) ++
  (match i with
   | .csrr _ _ csr => if 0x020 ≤ csr.toNat ∧ csr.toNat ≤ 0x022 then [(80, 255#8)] else []
   | .csrx _ _ _ csr => if 0x020 ≤ csr.toNat ∧ csr.toNat ≤ 0x022 then [(80, 255#8)] else []
   | _ => [])

/-- The lowest level that may issue the instruction (R207, R366). -/
def privNeeded : Instr → Nat
  | .swapctx .. => 1
  | .eret .. => 1
  | .tlbi .. => 1
  | .idle .. => 1
  | _ => 0

/-- Level at or above which a control register is read and written (R278). -/
def csrReadLevel (csr : Nat) : Nat := if 0x100 ≤ csr then 1 else 0
/-- The control register an instruction names. -/
def csrOf : Instr → Option Nat
  | .csrr _ _ csr => some csr.toNat
  | .csrw _ _ csr => some csr.toNat
  | .csrx _ _ _ csr => some csr.toNat
  | _ => none
/-- `TLBI` that names a function (R391). -/
def namesFunction : Instr → Bool
  | .tlbi _ _ _ rb _ => rb != 0#5
  | _ => false
/-- The privilege trap of an instruction below its level: cause and info1, a control register's number (R207, R208, R213, R278,
R391). -/
def privFault (i : Instr) (s : State) : Option (Nat × Nat) :=
  let priv := hdrPriv (cur s) s
  if priv < privNeeded i ∨ (namesFunction i ∧ priv < 2) then some (0, 0)
  else if (operands i).p.notag ∧ priv = 0 then some (2, 0)
  else match csrOf i with
    | some n => if priv < csrReadLevel n then some (1, n) else none
    | none => none

/-! ### Stream bindings (R196, R197) -/

def streamKey (k q : Nat) : Nat := k * 8 + q
def streamZero : Stream := ⟨0, 0, 0, [], 0, 0⟩
def streamAt (k q : Nat) (s : State) : Stream := tget s.streams (streamKey k q) streamZero
def setStream (k q : Nat) (v : Stream) (s : State) : State := { s with streams := tput s.streams (streamKey k q) v }
/-- Kind, element size and status in byte 58 (R196). -/
def Stream.kind (x : Stream) : Nat := bitsN x.desc 464 2
def Stream.esz (x : Stream) : Nat := bitsN x.desc 466 3
def Stream.status (x : Stream) : Nat := bitsN x.desc 469 3
def Stream.room (x : Stream) : Nat := (if x.kind = 2 then 4096 else 512) - x.buf.length
/-- Iterations and position of a loop of a stream descriptor (R196). -/
def sdCount (d : BitVec 512) (j : Nat) : Nat := let n := bitsN d (224 + 24 * j) 24; if n = 0 then 1 else n
def sdPos (d : BitVec 512) (j : Nat) : Nat := bitsN d (344 + 24 * j) 24
/-- Elements of the whole stream. -/
def sdTotal (d : BitVec 512) : Nat := (List.range 5).foldl (fun a j => a * sdCount d j) 1
/-- Index of the element at the descriptor's positions. -/
def sdIndex (d : BitVec 512) : Nat := (List.range 5).foldr (fun j a => sdPos d j + sdCount d j * a) 0
/-- Bytes one use takes (R197). -/
def useBytes (k q : Nat) (vec : Bool) (s : State) : Nat := if vec then 128 else 2 ^ (streamAt k q s).esz
/-- A scalar use of elements above 8 bytes (R197). -/
def scalarTooWide (k : Nat) (u : Fld × Nat × Bool) (s : State) : Bool := !u.2.2 && 3 < (streamAt k u.2.1 s).esz
/-- Bytes taken from one stream by uses. -/
def totalBytes (k q : Nat) (us : List (Fld × Nat × Bool)) (s : State) : Nat :=
  us.foldl (fun n u => if u.2.1 = q then n + useBytes k q u.2.2 s else n) 0

/-- Every element of an outbound memory stream has been produced: what comes next waits for its end (R196). -/
def atEnd (x : Stream) : Bool := x.kind == 1 && decide (sdTotal x.desc ≤ sdIndex x.desc + x.count)
/-- An operand lacks its bytes or its room. -/
def insShort (k : Nat) (us : List (Fld × Nat × Bool)) (s : State) : Option Nat :=
  (us.find? (fun u => decide ((streamAt k u.2.1 s).buf.length < totalBytes k u.2.1 us s))).map (fun u => u.2.1)
def outsShort (k : Nat) (us : List (Fld × Nat × Bool)) (s : State) : Option Nat :=
  (us.find? (fun u => (streamAt k u.2.1 s).status != 0 || (streamAt k u.2.1 s).kind == 0 ||
    decide ((streamAt k u.2.1 s).room < totalBytes k u.2.1 us s) || atEnd (streamAt k u.2.1 s))).map (fun u => u.2.1)

/-! ### The issue checks -/

/-- Trap on the instruction at issue from a fetch that failed (R131, R211 order 11). -/
def takeFault (t : Trap) (s : State) : State :=
  stopWith (cur s) { t with epc := s.issue.pc, npc := s.issue.npc, chain := s.issue.words } s

/-- The deferred memory error of a register the instruction touches (R210). -/
def erroredFor (i : Instr) (s : State) : Option Errored :=
  (curStrand s).errored.find? (fun e => (readCodes i).contains e.reg || (writeCodes i).contains e.reg)

/-- Delivers a deferred memory error: the register is no longer marked (R210). -/
def takeErrored (e : Errored) (s : State) : State :=
  let s := modStrand (cur s) (fun t => { t with errored := t.errored.filter (fun x => x != e) }) s
  trapFull 13 4 e.addr (e.pc.setWidth 64) 0 s

/-- Words of line l that loads under way will write: a register written whole is allocated, not fetched (R126). -/
def allocated (k l : Nat) (s : State) : BitVec 8 :=
  (strandAt k s).pending.foldl (fun (m : BitVec 8) c =>
    if c < 32 then (if (7 + c) / 8 = l then m ||| (1#8 <<< ((7 + c) % 8)) else m)
    else if (l - 6) / 2 = c - 32 ∧ 6 ≤ l then 255#8 else m) 0#8
/-- Lines the instruction needs that the register cache lacks. -/
def missing (i : Instr) (s : State) : List Nat :=
  ((needLines i).filter (fun n => lackWords (lineKey (cur s) n.1) (n.2 &&& ~~~allocated (cur s) n.1 s) s)).map Prod.fst

/-- Lines the instruction needs whose register-cache copy has an uncorrectable error (R23, R169). -/
def badLines (i : Instr) (s : State) : List Nat :=
  ([0, 5] ++ (needLines i).map Prod.fst).filter (fun l => s.lineErr.contains (lineKey (cur s) l))

/-- Lines the instruction touches in the register cache, and those of them it would allocate (R123, R126). -/
def usedLines (i : Instr) : List Nat :=
  ([0, 5] ++ (needLines i).map Prod.fst ++ ((writeCodes i).flatMap lineOfCode).map Prod.fst).eraseDups
def newLines (i : Instr) (s : State) : List Nat :=
  (usedLines i).filter (fun l => (lineAt (lineKey (cur s) l) s).rc.isNone)
/-- The register cache has no room for the lines the instruction would allocate: its slot bubbles while victims go (R123). -/
def crowded (i : Instr) (s : State) : Bool :=
  let n := (newLines i s).length
  decide (0 < n) && decide (Config.registerCacheLines < cacheLoad (curStrand s).core s + n)

/-- Address of a register in the strand's record, for hobj (R194). -/
def regAddr (k c : Nat) : BitVec 56 :=
  let off := if c < 32 then 0x40 + 8 * (c - 1) else if c < 64 then 0x180 + 128 * (c - 32) else 0x140 + 4 * (c - 65)
  BitVec.ofNat 56 ((sidCtx k).toNat + off)

/-- The engine-fault notification of a stopped binding (R198, R213). -/
def streamTrap (q : Nat) (s : State) : State :=
  trapFull 22 0 0 (BitVec.ofNat 64 q) (BitVec.ofNat 64 (streamAt (cur s) q s).status) s

/-- The checks that let an instruction take effect, all at once: no deferred error, the level, its lines present and room for
those it allocates, nothing pending, synchronised operands full, stream bytes and room (R126, R194, R207, R210). -/
def operable (i : Instr) (s : State) : Bool :=
  let k := cur s
  let t := strandAt k s
  (erroredFor i s).isNone && (privFault i s).isNone &&
  !((streamsOf i isReadRole).any (fun u => scalarTooWide k u s) || (streamsOf i isWriteRole).any (fun u => scalarTooWide k u s)) &&
  t.fault.isNone && (badLines i s).isEmpty && (missing i s).isEmpty && !crowded i s &&
  !((readCodes i ++ writeCodes i).any (fun c => t.pending.contains c)) &&
  (syncCodes i).all (fun c => fullBit k c s) &&
  (insShort k (streamsOf i isReadRole) s).isNone && (outsShort k (streamsOf i isWriteRole) s).isNone

/-- What an instruction that may not take effect does instead, in the order of R211 and R194: it traps, orders its
missing lines, bubbles, or stalls. -/
def refuse (i : Instr) (s : State) : State :=
  let k := cur s
  let t := strandAt k s
  match erroredFor i s with
  | some e => takeErrored e s
  | none =>
    if (streamsOf i isReadRole).any (fun u => scalarTooWide k u s) ∨ (streamsOf i isWriteRole).any (fun u => scalarTooWide k u s) then
      trapNow 1 1 s
    else
      match privFault i s, t.fault, badLines i s with
      | some (c, n), _, _ => trapFull 3 c 0 (BitVec.ofNat 64 n) 0 s
      | none, some f, _ => takeFault f s
      | none, none, l :: _ => trapAddr 13 2 (BitVec.ofNat 64 ((sidCtx k).toNat + 64 * l)) s
      | none, none, [] =>
        match missing i s with
        | l :: ls => missLines k (l :: ls) s
        | [] =>
          if crowded i s then (makeRoom t.core s).getD s
          else if (readCodes i ++ writeCodes i).any (fun c => t.pending.contains c) then s
          else
            match (syncCodes i).find? (fun c => !fullBit k c s) with
            | some c => stallWith 2 (regAddr k c) s
            | none =>
              match insShort k (streamsOf i isReadRole) s with
              | some q => if (streamAt k q s).status ≠ 0 then streamTrap q s else stallWith 1 (BitVec.ofNat 56 ((sidCtx k).toNat + 64 * (70 + q))) s
              | none =>
                match outsShort k (streamsOf i isWriteRole) s with
                | some q => if (streamAt k q s).status ≠ 0 then streamTrap q s else stallWith 1 (BitVec.ofNat 56 ((sidCtx k).toNat + 64 * (70 + q))) s
                | none => s

/-- An instruction issues: its effect `f`, or what stops it. -/
def issue (i : Instr) (s : State) (f : State → Outcome State Fault Refusal) : Outcome State Fault Refusal :=
  if operable i s then f s else .next (refuse i s)

/-! ### Reading operands -/

/-- Bytes of the stream that operands before a field take. -/
def skipBytes (i : Instr) (f : Fld) (k q : Nat) (s : State) : Nat :=
  totalBytes k q ((streamsOf i isReadRole).takeWhile (fun u => u.1 != f)) s

/-- A scalar source: a register, the next stream element zero-extended, or a dispatch register. -/
def srcS (i : Instr) (f : Fld) (s : State) : Word :=
  let k := cur s
  let r := regOf i f
  if clsOf i f = 0#2 then readS k r s
  else if clsOf i f = 1#2 then
    let x := streamAt k r.toNat s
    BitVec.ofNat 64 (ofBytes ((x.buf.drop (skipBytes i f k r.toNat s)).take (2 ^ x.esz)))
  else cachedWord k (0x1380 + 8 * r.toNat) s

/-- A vector source: a register, or elements in ascending lanes. -/
def srcV (i : Instr) (f : Fld) (s : State) : Vec :=
  let k := cur s
  let r := regOf i f
  if clsOf i f = 1#2 then
    BitVec.ofNat 1024 (ofBytes (((streamAt k r.toNat s).buf.drop (skipBytes i f k r.toNat s)).take 128))
  else readV k r s

/-- An immediate extended by a type-0 prefix, signed (R266). -/
def immS {w : Nat} (p : Option (BitVec 26)) (imm : BitVec w) : Word :=
  match p with
  | some e => ((e ++ imm : BitVec (26 + w))).signExtend 64
  | none => imm.signExtend 64

/-! ### Writing results -/

/-- Strands held on a `FILL` of a full register of strand k look again (R337). -/
def wakeFillers (k : Nat) (s : State) : State :=
  s.strands.foldl (fun t e =>
    if sidVf e.1 == sidVf k && e.2.hold == 2#4 && e.2.hobj == sidCtx k then wakeStrand e.1 t
    else t) s

/-- Empties the synchronised operands and takes the elements of inbound streams; memory streams fetch on (R195,
R197). -/
def consume (i : Instr) (s : State) : State :=
  let k := cur s
  let us := streamsOf i isReadRole
  let s := if (syncCodes i).isEmpty then s else wakeFillers k ((syncCodes i).foldl (fun s c => setFull k c false s) s)
  let taken := us.map (fun u => (u, useBytes k u.2.1 u.2.2 s))
  taken.foldl (fun s e =>
    let q := e.1.2.1
    let x := streamAt k q s
    let s := setStream k q { x with buf := x.buf.drop e.2, count := x.count + e.2 / 2 ^ x.esz } s
    if x.kind = 1 then post 1 .streamMemoryFetch { argStrand k with q := BitVec.ofNat 6 q } s else s) s

/-- Appends produced bytes to an outbound stream and has its unit send (R197). -/
def produce (k q : Nat) (bs : List Byte) (s : State) : State :=
  let x := streamAt k q s
  let s := setStream k q { x with buf := x.buf ++ bs, count := x.count + bs.length / 2 ^ x.esz } s
  if x.kind = 1 then post 1 .streamMemoryWrite { argStrand k with q := BitVec.ofNat 6 q } s
  else post 1 .flitInject { argStrand k with q := BitVec.ofNat 6 q } s

/-- Writes a scalar result to a field. -/
def dstS (i : Instr) (f : Fld) (v : Word) (s : State) : State :=
  let k := cur s
  let r := regOf i f
  if clsOf i f = 1#2 then produce k r.toNat (toBytes (2 ^ (streamAt k r.toNat s).esz) v.toNat) s
  else writeS k r v s

/-- Writes a vector result; a write in part leaves the full bit (R195, R339). -/
def dstV (i : Instr) (v : Vec) (s : State) : State :=
  let k := cur s
  let r := regOf i .d
  if clsOf i .d = 1#2 then produce k r.toNat (toBytes 128 v.toNat) s
  else if writesPart i then writeVBits k r v s
  else writeV k r v s

/-- The old contents of a vector destination; a stream destination has none, and its inactive lanes are a free value
(log 3). -/
def oldV (i : Instr) (s : State) : Vec :=
  if clsOf i .d = 1#2 then Config.freeVec s.fresh else readV (cur s) (regOf i .d) s

/-- A free value was used. -/
def useFresh (i : Instr) (s : State) : State :=
  if clsOf i .d = 1#2 ∧ writesPart i = true then { s with fresh := s.fresh + 1 } else s

/-- Writes a predicate result. -/
def dstP (i : Instr) (v : BitVec 32) (s : State) : State := writeP (cur s) (regOf i .d).toNat v s
/-- A predicate source. -/
def srcP (i : Instr) (f : Fld) (s : State) : BitVec 32 := readP (cur s) (regOf i f).toNat s

end Sys2Proof.Machine
end

