-- ==== Sys2Proof/Machine/Fetch.lean ====
section
/-! DEFINITION. Fetch: what the machine does next: the earliest event of the agenda, or the issue turn of a strand
with its boundary checks and the fetch of its chain (R100, R192, R193, R209 to R211, R264, R270). -/

namespace Sys2Proof.Machine

open Host

/-! ### Boundaries -/

/-- lexp and qexh of the header (R118). -/
def lexpPending (k : Nat) (s : State) : Bool := hdrN k 3 10 1 s == 1
def qexhPending (k : Nat) (s : State) : Bool := hdrN k 3 11 1 s == 1

/-- The strand has accesses that have not completed (R125, R210). -/
def outstanding (t : Strand) : Bool := t.loads != 0 || t.stores != 0 || !t.pending.isEmpty

/-- A strand leaves its slot at a boundary: held on what it waits for, or ready where nothing holds it (R102, R125). -/
def parkNow (k : Nat) (s : State) : State :=
  let t := strandAt k s
  let s := leaveSlot k s
  if t.hold = 0 then makeReady k s else setRun k .held t.hold t.hobj s

/-- Asks a resident strand to leave its slot at its next boundary (R125): a request waiting at a controller is
withdrawn (R320). -/
def askLeave (k : Nat) (s : State) : State :=
  let t := strandAt k s
  let s := modStrand k (fun t => { t with leaving := true }) s
  match t.wait with
  | .reply g =>
    (groupReqs g s).foldl (fun s e => if e.2.waiting then post 1 .withdrawal (argId e.1) s else s) s
  | _ => s

/-! ### Who issues -/

/-- The cores of the hall are held: a D-mode partition's hold (R48, R113), or a
snapshot (R66). -/
def coreHeld (c : Nat) (s : State) : Bool :=
  (match partOf (coreHall c) s with | some n => (partAt n s).held | none => false) ||
  s.snap.held

/-- A halt in force stops the strand (R230): a full halt, or its function's. -/
def strandHalted (k c : Nat) (s : State) : Bool :=
  (hallAt (coreHall c) s).halts.any (fun e => e.2 || e.1 == (sidVf k).toNat)

/-- The strand issues at its turns; under a halt only to finish what it has begun (R230). -/
def canIssue (k : Nat) (t : Strand) (s : State) : Bool :=
  t.run == .resident && t.slot.isSome && s.phase.phase == .running && s.power == .on &&
  (match t.wait with | .reply _ => false | .message _ => false | .lanes _ => false | _ => true) &&
  !coreHeld t.core s && (!strandHalted k t.core s || (match t.wait with | .answered _ _ _ => true | _ => false))

/-- The wheel slot of a strand's next issue turn. -/
def turnOf (t : Strand) (s : State) : Nat :=
  if t.turn < s.wheel then nextTurn t.core (t.slot.getD 0) 1 { s with wheel := s.wheel - 1 } else t.turn

/-- The earliest issue turn: its slot and strand; among equals, the lowest strand number (log 1). -/
def nextIssue (s : State) : Option (Nat × Nat) :=
  s.strands.foldl (fun best e =>
    if canIssue e.1 e.2 s then
      match best with
      | some b => if turnOf e.2 s < b.1 then some (turnOf e.2 s, e.1) else best
      | none => some (turnOf e.2 s, e.1)
    else best) none

/-! ### The chain (R193, R262, R270) -/

/-- The line address of an instruction address. -/
def iline (a : BitVec 56) : BitVec 56 := BitVec.ofNat 56 (a.toNat / 64 * 64)

/-- A word from the instruction cache of a core. -/
def icacheWord (c : Nat) (vf : BitVec 7) (a : BitVec 56) (s : State) : Option (Word × Code) :=
  match (coreAt c s).icache.find? (fun l => l.vf == vf && l.addr == iline a) with
  | some l => (l.words[a.toNat % 64 / 4]?).map (fun w => (l.leaf, w))
  | none => none

/-- What one fetched word comes to. -/
inductive FetchOne where
  | word (w : Code)
  | trap (kind cause : Nat) (s : State)
  | miss (s : State)

/-- Orders the line of a word for the instruction cache: it arrives after one memory access (R193; log 2). -/
def orderLine (c : Nat) (x : Xlat) (vf : BitVec 7) (a : BitVec 56) (s : State) : State :=
  let l := (iline a).toNat
  let key := sid vf (iline a)
  let k := coreAt c s
  if k.filling.any (fun e => e.1 == key) then s
  else
    let (t, s) := deviceAccess (coreHall c) (x.pa l) (s.wheel + 1) s
    let k := coreAt c s
    let s := setCore c { k with filling := k.filling ++ [(key, t)] } s
    postAt t .instructionCacheFill { EvArgs.none with vf := vf, ctx := iline a, core := BitVec.ofNat 12 c } s

/-- Takes a failure noted for a page or line, so that a later access tries again. -/
def takeIFault (c : Nat) (p : IFault → Bool) (s : State) : Option (IFault × State) :=
  let k := coreAt c s
  (k.ifaults.find? p).map (fun f => (f, setCore c { k with ifaults := k.ifaults.filter (fun x => !p x) } s))

/-- One word of a chain at its address, checked under R155. -/
def fetchWord (c : Nat) (vf : BitVec 7) (priv : Nat) (a : BitVec 56) (s : State) : FetchOne :=
  if 0xFD ≤ bitsN a 48 8 then (if bitsN a 48 8 = 0xFF then .trap 7 0 s else .trap 9 0 s)
  else
    match icacheWord c vf a s with
    | some (leaf, w) =>
      match permFault priv .exec leaf with
      | some (kd, ca) => .trap kd ca s
      | none => .word w
    | none =>
      match takeIFault c (fun f => f.vf == vf && f.addr == iline a && f.kind == 13#8 && f.cause == 3#8) s with
      | some (_, s) => .trap 13 3 s
      | none =>
        match tlbHit c vf a.toNat s with
        | some x =>
          match permFault priv .exec x.leaf with
          | some (kd, ca) => .trap kd ca s
          | none => .miss (orderLine c x vf a s)
        | none =>
          match takeIFault c (fun f => f.vf == vf && f.addr.toNat / 2 ^ 16 == a.toNat / 2 ^ 16 && !(f.kind == 13#8 && f.cause == 3#8)) s with
          | some (f, s) => .trap f.kind.toNat f.cause.toNat s
          | none => .miss (missWalk c vf a.toNat s)

/-- What fetching a chain comes to. -/
inductive Chain where
  | ok (i : Instr) (ws : List Code)
  /-- the chain is invalid: kind, cause, its words -/
  | invalid (kind cause : Nat) (ws : List Code)
  /-- a needed word faults: kind, cause, its address, the words before it -/
  | fault (kind cause : Nat) (a : BitVec 56) (ws : List Code) (s : State)
  /-- a needed word is on its way -/
  | wait (s : State)

/-- Fetches words of the chain at pc until decoding needs no more (R270). -/
def fetchChain (c : Nat) (vf : BitVec 7) (priv : Nat) (pc : BitVec 56) (s : State) : Nat → List Code → Chain
  | 0, ws => .invalid 2 1 ws
  | n + 1, ws =>
    match decode ws with
    | .ok i len => .ok i (ws.take len)
    | .trap kd ca len => .invalid kd.toNat ca.toNat (ws.take len)
    | .need =>
      let a := pc + BitVec.ofNat 56 (4 * ws.length)
      match fetchWord c vf priv a s with
      | .word w => fetchChain c vf priv pc s n (ws ++ [w])
      | .trap kd ca s => .fault kd ca a ws s
      | .miss s => .wait s

/-- The memory-error trap of a deferred load at a boundary: it falls on the next instruction, which is not executed (R210), with its
chain where the instruction cache holds it (log 31). -/
def deferredTrap (k : Nat) (e : Errored) (s : State) : Trap :=
  let pc := hdrPc k s
  let ws := match fetchChain (strandAt k s).core (sidVf k) (hdrPriv k s) pc s 8 [] with
    | .ok _ ws => ws
    | .invalid _ _ ws => ws
    | _ => []
  ⟨13, 4, pc, pc + BitVec.ofNat 56 (4 * ws.length), e.addr, e.pc.setWidth 64, 0, ws, false⟩

/-! ### A strand's turn -/

/-- What a step does: runs an instruction or event, or only changes the state. -/
inductive Plan where
  | run (i : Instr) (s : State)
  | rest (s : State)

/-- The chain read and the address after it, for the record (R209, R270). -/
def atWords (ws : List Code) (s : State) : State :=
  { s with issue := { s.issue with words := ws, npc := s.issue.pc + BitVec.ofNat 56 (4 * ws.length) } }

/-- The lines of the instruction count as used now (R123). -/
def touched (k : Nat) (i : Instr) (s : State) : State := touchLines k (usedLines i) s

/-- The fetch and what comes of it. -/
def fetchTurn (k : Nat) (s : State) : Plan :=
  let t := strandAt k s
  match fetchChain t.core (sidVf k) (hdrPriv k s) s.issue.pc s 8 [] with
  | .ok i ws => .run i (touched k i (atWords ws s))
  | .invalid kd ca ws =>
    .run .illegalInstruction { atWords ws s with ev := { argStrand k with n := BitVec.ofNat 8 kd, v := BitVec.ofNat 64 ca } }
  | .fault kd ca a ws s => .rest (trapAddr kd ca (a.setWidth 64) (atWords (ws ++ [0#32]) s))
  | .wait s => .rest s

/-- Lines that every issue needs: the header, line 5, and line 82 when present bit 41 is set (R122, R224); for a strand of a
D-mode partition every line of its record but line 79 (R143). -/
def baseLines (k : Nat) (s : State) : List Nat :=
  (if hdrDmode k s then (List.range 88).filter (fun l => l != 79)
   else [0, 5] ++ (if bitB (hdrPresent k s) 41 then [82] else [])).filter (fun l => lackWords (lineKey k l) 255#8 s)

/-- A barrier that a strand waits at has left the token (R330). -/
def barrierLeft (key : Nat) (tok : BitVec 4) (s : State) : Bool := (barrierAt key s).phase != tok

/-- A strand at its turn: what stops it at its boundary, then the chain; a base line that could not be fetched, but the header,
is met after them (R211). -/
def strandTurn (k : Nat) (s : State) : Plan :=
  let t := strandAt k s
  match baseLines k s, t.fault.filter (fun _ => !lackWords (lineKey k 0) 255#8 s) with
  | l :: ls, none =>
    match t.fault with
    | some f => .rest (takeFault f s)
    | none => .rest (fetchLines k (l :: ls) s)
  | _, _ =>
    match t.wait with
    | .answered _ _ _ => fetchTurn k s
    | w =>
      if t.stepped ∨ t.stopReq ∨ lexpPending k s ∨ qexhPending k s then
        if outstanding t then .rest s else .run .asyncTrapTake { s with ev := argStrand k }
      else if t.leaving then
        if outstanding t then .rest s
        else if t.errored.isEmpty then .rest (parkNow k s)
        else .run .asyncTrapTake { s with ev := argStrand k }
      else
        match w with
        | .barrier key tok =>
          if barrierLeft key tok s then fetchTurn k (modStrand k (fun t => { t with wait := .none, stall := none, hold := 0 }) s)
          else .rest (stallWith 4 (barrierObj key tok) s)
        | _ => fetchTurn k s

/-- The issue in progress at a strand's turn: a pc always has its two low bits zero (R261). -/
def beginTurn (k turn : Nat) (s : State) : State :=
  let t := strandAt k s
  let s := { s with wheel := turn }
  let s := setStrand k { t with turn := nextTurn t.core (t.slot.getD 0) 1 s, busyTurns := t.busyTurns - 1 } s
  let pc := BitVec.ofNat 56 ((hdrPc k s).toNat / 4 * 4)
  { s with issue := ⟨sidVf k, sidCtx k, t.core, t.slot.getD 0, pc, pc, [], false, false⟩ }

/-- Takes the first event of the agenda. -/
def takeDue (d : Due) (rest : List Due) (s : State) : Plan :=
  .run d.ev { s with wheel := max s.wheel d.slot, agenda := rest, ev := d.args }

/-- What the machine does next: the earliest event due, no later than the earliest issue turn; else the turn; with
neither, one slot passes. -/
def plan (s : State) : Plan :=
  match s.agenda, nextIssue s with
  | [], none => .rest { s with wheel := s.wheel + 1 }
  | d :: rest, none => takeDue d rest s
  | [], some (turn, k) =>
    if 1 < (strandAt k s).busyTurns then .rest (beginTurn k turn s) else strandTurn k (beginTurn k turn s)
  | d :: rest, some (turn, k) =>
    if d.slot ≤ turn then takeDue d rest s
    else if 1 < (strandAt k s).busyTurns then .rest (beginTurn k turn s)
    else strandTurn k (beginTurn k turn s)

/-! ### Placing one instruction (log 14) -/

/-- The record of a PF strand whose lines all stand in core 0's register cache: resident in slot 0, hypervisor level,
every register full. -/
def placedLine (l : Nat) : BitVec 512 :=
  if l = 0 then ofWords [0x10000#64, 0x201#64, 0#64, 0#64, 0#64, 0#64, 0#64, 0#64]
  else if l = 5 then ofWords [0#64, 0#64, 0#64, 0xFFFFFFFF00000000#64, 0xFFFFFFFFFF#64, 0#64, 0#64, 0#64]
  else 0#512

/-- The context address of the placed strand. -/
def placedCtx : Nat := 0x2000

/-- The state with one strand at its turn, on core 0, whose next instruction is a chain of words. -/
def placeWords (ws : List Code) (s : State) : State :=
  { s with
    agenda := []
    phase := { s.phase with phase := .running }
    power := .on
    mw0 := s.mw0.filter (fun e => !decide (0x2200 ≤ e.1 ∧ e.1 < 0x2280))
    halls := tput s.halls 0 hallZero
    strands := [(placedCtx, { strandZero with run := .resident, slot := some 0, turn := s.wheel })]
    lines := (List.range 84).map (fun l => (placedCtx + 64 * l, ⟨some ⟨0, 255#8, false, false, false, 0, placedLine l⟩, []⟩))
    cores := tput s.cores 0 { coreAt 0 s with
      icache := [⟨0#7, 0x10000#56, 0x3F#64, (ws ++ List.replicate 16 0#32).take 16⟩] } }

end Sys2Proof.Machine
end

