-- ==== Sys2Proof/Machine/Part.lean ====
section
/-! DEFINITION. Part: D-mode partitions: holding and releasing them at boundaries, their cocoon logs, pauses and
divergence (R48, R107, R111 to R114, R218). -/

namespace Sys2Proof.Machine

open Host

/-! ### Holding a partition -/

/-- A partition uses a pod port: a circuit of its halls has its half there (R48). -/
def partPort (n i : Nat) (s : State) : Bool :=
  s.circs.any (fun e => (match e.2.pod with | some h => h.port == i | none => false) &&
    e.2.paths.any (fun p => p.stage != .gone && (partHas n p.ends.srcHall s || partHas n p.ends.dstHall s)))
/-- A partition's strand is trapped (R218), a hall or pod port of it is out of lock (R48), a hall halted (R230), the cores stand still
for a save or a snapshot (R66, R72), or its log holds it (R113, R114). -/
def partBusy (n : Nat) (s : State) : Bool :=
  let p := partAt n s
  p.paused || p.diverged || p.aborting || s.power != .on || s.snap.held || s.snap.busy ||
  (List.range 16).any (fun h => partHas n h s && ((hallAt h s).lock != .locked || !(hallAt h s).halts.isEmpty)) ||
  (List.range 8).any (fun i => (portAt i s).state != .locked && partPort n i s) ||
  s.strands.any (fun e => e.2.run == .trapped && partHas n (coreHall e.2.core) s && partOf (coreHall e.2.core) s == some n)

/-- Asks for a hold of a partition at the next 1,024-slot boundary, with its cause (R112). -/
def askHold (n cause : Nat) (s : State) : State :=
  postAt (nextBoundary s) .partitionHold { argPart n with v := BitVec.ofNat 64 cause } s
/-- Asks for a release at the next 1,024-slot boundary. -/
def askRelease (n : Nat) (s : State) : State :=
  let c := (partAt n s).cause
  postAt (nextBoundary s) .partitionRelease { argPart n with v := c.setWidth 64 } s

/-- The partition wheel count: slots since enabling, held slots left out (R112). -/
def pwheel (n : Nat) (s : State) : Nat :=
  let p := partAt n s
  (if p.held then p.heldAt else s.wheel) - p.enabledAt - p.heldSlots

/-! ### The cocoon log (R111 to R114) -/

def logOff (n : Nat) : Nat := 0x4000 + 64 * n
def logMode (n : Nat) (s : State) : Nat := regN (partOwner n s) (logOff n + 8) 0 2 s
def logSize (n : Nat) (s : State) : Nat := regN (partOwner n s) (logOff n) 0 5 s
def logHead (n : Nat) (s : State) : Nat := regN (partOwner n s) (logOff n + 0x10) 0 32 s
def logTail (n : Nat) (s : State) : Nat := regN (partOwner n s) (logOff n + 0x18) 0 32 s
def logAddr (n e : Nat) (s : State) : Nat :=
  regN (partOwner n s) (logOff n) 12 44 s * 2 ^ 12 + 32 * (e % 2 ^ logSize n s)
/-- A hall of the partition through which its device accesses translate. -/
def partHall (n : Nat) (s : State) : Nat := ((List.range 16).find? (fun h => partHas n h s)).getD 0

/-- What logging an event comes to: it goes on (in replay, with the logged value), it waits with its effect, or it
differs from the log. -/
inductive LogRes where
  | go (value : Word) (s : State)
  | wait (s : State)
  | diverged (entry : Nat) (s : State)

/-- The log pauses (R113): cause 0 full, 1 empty, 2 untranslatable, with the entry and its address. -/
def pauseLog (n cause e : Nat) (s : State) : State :=
  let p := partAt n s
  if p.paused then s
  else
    let s := setPart n { p with paused := true } s
    postAt (nextBoundary s) .logPause
      { argPart n with v := BitVec.ofNat 64 e, w := BitVec.ofNat 64 (logAddr n e s), id := cause } s

/-- Physical address of a log entry. -/
def logPa (n e : Nat) (u : Use) (s : State) : Option Nat :=
  match xlateNow (partHall n s) (partOwner n s) 1 u (BitVec.ofNat 64 (logAddr n e s)) s with
  | .ok x => some (x.pa (logAddr n e s))
  | _ => none

/-- Bytes of an entry (R112). -/
def logBytes (kind : Nat) (pw : Nat) (subject value : Word) : List Byte :=
  toBytes 8 kind ++ toBytes 8 pw ++ toBytes 8 subject.toNat ++ toBytes 8 value.toNat

/-- Word i of entry e, where its page translates. -/
def logWord (n e i : Nat) (s : State) : Option Nat :=
  (logPa n e .read s).map (fun pa => memVal (keyOf (partOwner n s) s) (pa + 8 * i) 8 s)

/-- A new entry e goes before those of its pwheel with higher subjects, as far as the head (R112). -/
def sortEntry (n : Nat) : Nat → Nat → State → State
  | 0, _, s => s
  | f + 1, e, s =>
    let d := (e + 2 ^ 32 - 1) % 2 ^ 32
    if e = logHead n s then s
    else
      match logPa n d .write s, logPa n e .write s with
      | some a, some b =>
        let key := keyOf (partOwner n s) s
        if memVal key (a + 8) 8 s = memVal key (b + 8) 8 s ∧ memVal key (b + 16) 8 s < memVal key (a + 16) 8 s then
          sortEntry n f d (memWrite key a (memBytes key b 32 s) (memWrite key b (memBytes key a 32 s) s))
        else s
      | _, _ => s

/-- Appends one entry in record mode: none when the log is full or its page does not translate. -/
def recordEntry (n : Nat) (bs : List Byte) (s : State) : Option State × Nat :=
  let vf := partOwner n s
  let e := logTail n s
  if 2 ^ logSize n s ≤ (e + 2 ^ 32 - logHead n s) % 2 ^ 32 then (none, 0)
  else
    match logPa n e .write s with
    | none => (none, 2)
    | some pa =>
      (some (sortEntry n (2 ^ 16) e (setRegN vf (logOff n + 0x18) 0 32 ((e + 1) % 2 ^ 32) (memWrite (keyOf vf s) pa bs s))), 0)

/-- An entry of a hold or release with no cause of R112: a replay has none of its own to compare with it, and passes it over
(log 50). -/
def pauseEntry (n e : Nat) (s : State) : Bool :=
  match logWord n e 0 s, logWord n e 3 s with
  | some kd, some v => (kd == 7 || kd == 8) && v == 0
  | _, _ => false
/-- A replay need not look at entry e any more. -/
def entryOver (n e : Nat) (s : State) : Bool := (partAt n s).taken.contains e || pauseEntry n e s

/-- The head passes entries that are over. -/
def advanceHead (n : Nat) : Nat → State → State
  | 0, s => s
  | f + 1, s =>
    let e := logHead n s
    if e = logTail n s ∨ !entryOver n e s then s
    else
      advanceHead n f (setRegN (partOwner n s) (logOff n + 0x10) 0 32 ((e + 1) % 2 ^ 32)
        (setPart n { partAt n s with taken := (partAt n s).taken.filter (fun x => x != e) } s))

/-- What a replay finds for an event among the entries of its pwheel, whose order the processing need not follow. -/
inductive Found where
  | at_ (e : Nat)
  | empty (e : Nat)
  | unmapped (e : Nat)
  | absent
  deriving DecidableEq, Repr
/-- Looks for an event from entry e on: kind and subject with every reserved byte zero (R6). -/
def findEntry (n kind pw : Nat) (subject : Word) (s : State) : Nat → Nat → Found
  | 0, _ => .absent
  | f + 1, e =>
    if e = logTail n s then .empty e
    else
      match logWord n e 0 s, logWord n e 1 s, logWord n e 2 s with
      | some kd, some w, some su =>
        if entryOver n e s then findEntry n kind pw subject s f ((e + 1) % 2 ^ 32)
        else if w ≠ pw then .absent
        else if kd = kind ∧ su = subject.toNat then .at_ e
        else findEntry n kind pw subject s f ((e + 1) % 2 ^ 32)
      | _, _, _ => .unmapped e

/-- Compares an event with the log in replay mode: the entry it meets is consumed. -/
def replayEntry (n kind pw : Nat) (subject value : Word) (s : State) : LogRes :=
  let s := advanceHead n (2 ^ 16) s
  match findEntry n kind pw subject s (2 ^ 16) (logHead n s) with
  | .empty e => .wait (pauseLog n 1 e s)
  | .unmapped e => .wait (pauseLog n 2 e s)
  | .absent => .diverged (logHead n s) s
  | .at_ e =>
    let v := if kind = 2 ∨ kind = 3 then BitVec.ofNat 64 ((logWord n e 3 s).getD 0) else value
    .go v (advanceHead n (2 ^ 16) (setPart n { partAt n s with taken := e :: (partAt n s).taken } s))

/-- Slots until the first entry not yet consumed is due: dispatches, newel operations and deliveries of a replay wait for it
(R114). -/
def replayDue (n : Nat) (s : State) : Nat :=
  if logMode n s ≠ 2 ∨ (partAt n s).paused ∨ (partAt n s).diverged then 0
  else
    let s := advanceHead n (2 ^ 16) s
    if logHead n s = logTail n s then 0 else (logWord n (logHead n s) 1 s).getD 0 - pwheel n s

/-- Logs an event of kinds 1 to 4 of partition n, or compares it with the log: it may have to wait (R112 to R114). -/
def logEvent (n kind : Nat) (subject value : Word) (s : State) : LogRes :=
  match logMode n s with
  | 1 =>
    if (partAt n s).paused then .wait s
    else
      match recordEntry n (logBytes kind (pwheel n s) subject value) s with
      | (some s, _) => .go value s
      | (none, c) => .wait (pauseLog n c (logTail n s) s)
  | 2 => if (partAt n s).paused ∨ (partAt n s).diverged then .wait s else replayEntry n kind (pwheel n s) subject value s
  | _ => .go value s

/-- The replay-divergence trap: the partition is held, and its log reads diverged (R114).  It names the strand, or, with none, the
event's subject in addr: the core for kinds 5 and 6 (log 50). -/
def diverge (n e : Nat) (k : Option Nat) (subject : Word) (s : State) : State :=
  let vf := partOwner n s
  let s := setPart n { partAt n s with diverged := true } s
  let s := setRegN vf (logOff n + 0x20) 0 2 2 s
  let s := setReg vf (logOff n + 0x28) (BitVec.ofNat 64 e) s
  let s := postAt (nextBoundary s) .partitionHold { argPart n with v := 0#64, flag := true } s
  let t (pc : BitVec 56) (a : Word) : Trap := ⟨17, 0, pc, pc, a, BitVec.ofNat 64 e, BitVec.ofNat 64 n, [], false⟩
  match k with
  | some k => stopWith k (t (hdrPc k s) 0) s
  | none => queueTrap vf 0 (t 0 subject) s

/-- Actions of the device that waited for the log are written, or compared with it, in order, before anything later (R113). -/
def flushList (n : Nat) : List (List (BitVec 64)) → State → State
  | [], s => s
  | w :: rest, s =>
    let drop (s : State) : State := setPart n { partAt n s with waitingLog := (partAt n s).waitingLog.drop 1 } s
    let x (i : Nat) : Word := (w[i]?).getD 0#64
    match logMode n s with
    | 1 =>
      (match recordEntry n (logBytes (x 0).toNat (x 1).toNat (x 2) (x 3)) s with
       | (some s, _) => flushList n rest (drop s)
       | (none, c) => pauseLog n c (logTail n s) s)
    | 2 =>
      (match replayEntry n (x 0).toNat (x 1).toNat (x 2) (x 3) s with
       | .go _ s => flushList n rest (drop s)
       | .wait s => s
       | .diverged e s => diverge n e none (x 2) (drop s))
    | _ => s
def flushLog (n : Nat) (s : State) : State :=
  if (partAt n s).paused ∨ (partAt n s).diverged then s else flushList n (partAt n s).waitingLog s

/-- Logs a device action of kinds 5 to 8, which takes effect at once (R113). -/
def logAction (n kind : Nat) (subject value : Word) (s : State) : State :=
  if logMode n s = 0 ∨ (partAt n s).diverged then s
  else
    let p := partAt n s
    flushLog n (setPart n { p with
      waitingLog := p.waitingLog ++ [[BitVec.ofNat 64 kind, BitVec.ofNat 64 (pwheel n s), subject, value]] } s)

/-- Subject of kinds 1 to 4: a strand's logical index and its launch's queue (R112). -/
def subjectOf (k : Nat) (s : State) : Word :=
  let t := strandAt k s
  let q := match tfind s.launches t.launch with | some l => l.q | none => 0
  BitVec.ofNat 64 (t.index % 2 ^ 32 + q % 64 * 2 ^ 32)

/-- An event of a strand in the log of the partition its core lies in, if any. -/
def logStrand (k kind : Nat) (value : Word) (s : State) : LogRes :=
  match partOf (coreHall (strandAt k s).core) s with
  | some n => if hdrDmode k s then logEvent n kind (subjectOf k s) value s else .go value s
  | none => .go value s

/-- Slots a strand's event waits for its logged pwheel. -/
def strandDue (k : Nat) (s : State) : Nat :=
  match partOf (coreHall (strandAt k s).core) s with
  | some n => if hdrDmode k s then replayDue n s else 0
  | none => 0

/-- The divergence of a strand's own event. -/
def divergeStrand (k e : Nat) (s : State) : State :=
  match partOf (coreHall (strandAt k s).core) s with
  | some n => diverge n e (some k) 0 s
  | none => s

/-- A hold or a release in the log: one with no cause of R112 (a pause, a divergence, an abort) is an interval R101 wants recorded
(value 0, log 50), and no event of a replay. -/
def logHold (n kind cause : Nat) (s : State) : State :=
  if cause = 0 ∧ logMode n s ≠ 1 then s else logAction n kind 0 (BitVec.ofNat 64 cause) s
/-- A hold takes effect (R112 kind 7). -/
def holdPart (n cause : Nat) (s : State) : State :=
  let p := partAt n s
  if p.held then s
  else logHold n 7 cause (setPart n { p with held := true, heldAt := s.wheel, cause := BitVec.ofNat 3 cause } s)
/-- A release takes effect (kind 8): the cores look for work again. -/
def releasePart (n cause : Nat) (s : State) : State :=
  let p := partAt n s
  if !p.held ∨ partBusy n s then s
  else
    let s := logHold n 8 cause s
    let s := setPart n { partAt n s with held := false, heldSlots := p.heldSlots + (s.wheel - p.heldAt) } s
    (List.range 4096).foldl (fun s c => if partHas n (coreHall c) s then post 1 .slotSelect (argCore c) s else s) s

end Sys2Proof.Machine
end

