-- ==== Sys2Proof/Machine/Bank.lean ====
section
/-! DEFINITION. Bank: transaction-barrier objects, the one-step operations of a location's home controller, its wait
list, and what a change wakes (R181 to R184, R316 to R320, R324 to R332). -/

namespace Sys2Proof.Machine

open Host

/-! ### Transaction-barrier objects (R183) -/

def tbPhase (o : BitVec 128) : Nat := bitsN o 0 4
def tbOvr (o : BitVec 128) : Bool := bitB o 120

def tbCheck (o : BitVec 128) : BitVec 128 :=
  let arr := bitsN o 4 20
  let by_ := sgn 40 (bitsN o 24 40)
  if arr = 0 ∧ by_ = 0 then
    let o := setBits o 0 4 (tbPhase o + 1)
    let o := setBits o 4 20 (bitsN o 64 20)
    let o := setBits o 24 40 (bitsN o 84 36)
    setBits (setBits o 122 1 (bitsN o 121 1)) 121 1 0
  else if arr = 0 ∧ by_ < 0 then setBits o 120 1 1
  else o

/-- arrive(n, decl). -/
def tbArrive (n decl : Nat) (o : BitVec 128) : BitVec 128 :=
  if tbOvr o ∨ bitsN o 4 20 < n ∨ bitsN o 64 20 + bitsN o 84 36 = 0 then setBits o 120 1 1
  else tbCheck (setBits (setBits o 4 20 (bitsN o 4 20 - n)) 24 40 (bitsN o 24 40 + decl))

/-- complete(b, status). -/
def tbComplete (b status : Nat) (o : BitVec 128) : BitVec 128 :=
  let o := setBits o 24 40 (code 40 (sgn 40 (bitsN o 24 40) - b))
  let o := if status ≠ 0 then setBits (setBits o 121 1 1) 123 3 status else o
  if tbOvr o then o else tbCheck o

/-- The object TBI writes (R332). -/
def tbInit (rb : Word) : BitVec 128 :=
  let o : BitVec 128 := BitVec.ofNat 128 (bitsN rb 56 4)
  let o := setBits (setBits o 4 20 (bitsN rb 0 20)) 64 20 (bitsN rb 0 20)
  setBits (setBits o 24 40 (bitsN rb 20 36)) 84 36 (bitsN rb 20 36)

/-- Result of TBW (R331). -/
def tbwResult (o : BitVec 128) : Nat := tbPhase o + 16 * bitsN o 122 1 + 32 * bitsN o 123 3 + 256
/-- Result of TBT. -/
def tbtResult (p : Nat) (o : BitVec 128) : Nat :=
  tbPhase o + 16 * bitsN o 122 1 + 32 * bitsN o 123 3 + (if tbPhase o ≠ p then 256 else 0) + (if tbOvr o then 512 else 0)

/-! ### Locations at a controller -/

/-- A place at a controller: memory under a key, or a scratchpad. -/
inductive Spot where
  | mem (key pa : Nat)
  | pad (core off : Nat)
  deriving DecidableEq, Repr

def Spot.read (p : Spot) (n : Nat) (s : State) : Nat :=
  match p with | .mem k a => memVal k a n s | .pad c o => spadVal c o n s
def Spot.write (p : Spot) (n v : Nat) (s : State) : State :=
  match p with | .mem k a => memWrite k a (toBytes n v) s | .pad c o => spadWrite c o (toBytes n v) s
def Spot.full (p : Spot) (s : State) : Bool := match p with | .mem _ a => memFull a s | .pad c o => spadFull c o s
def Spot.setFull (p : Spot) (f : Bool) (s : State) : State :=
  match p with | .mem _ a => setMemFull a f s | .pad c o => setSpadFull c o f s
def Spot.err (p : Spot) (n : Nat) (s : State) : Bool :=
  match p with | .mem _ a => memErrAt a n s | .pad c o => spadErrAt c o n s

/-! ### One step at the controller (R181, R324, R325, R332) -/

/-- The new value of an atomic (R324); n is the width in bits. -/
def atomNew (op n m b : Nat) : Nat :=
  let sm := sgn n m
  let sb := sgn n b
  match op with
  | 0 => b
  | 1 => (m + b) % 2 ^ n
  | 2 => m &&& b
  | 3 => m ||| b
  | 4 => m ^^^ b
  | 5 => if sb < sm then b else m
  | 6 => if sm < sb then b else m
  | 7 => min m b
  | 8 => max m b
  | _ =>
    let ty := if n = 64 then 8 else 9
    (roundVal ty mdNearest (addVal 0 (readVal ty false m).1 (readVal ty false b).1).1).1

/-- What a step at a controller comes to. -/
inductive StepRes where
  | done (value : Nat) (s : State)
  | unmet
  | err
  deriving DecidableEq, Repr

/-- The operation codes of R326. -/
def opKnown (op : Nat) : Bool :=
  op ≤ 9 || op == 16 || op == 17 || op == 24 || op == 25 || op == 26 || op == 27 || (32 ≤ op && op ≤ 35)

/-- Width in bytes of an operation's location. -/
def opBytes (op : Nat) (w32 : Bool) : Nat := if op = 17 ∨ 32 ≤ op then 16 else if w32 then 4 else 8

/-- One operation of R326 at a place: operand, compare value. -/
def stepOp (op : Nat) (w32 : Bool) (x cmp : Nat) (p : Spot) (s : State) : StepRes :=
  let n := opBytes op w32
  if p.err n s then .err
  else
    let m := p.read n s
    if op ≤ 9 then .done m (p.write n (atomNew op (8 * n) m (x % 2 ^ (8 * n))) s)
    else if op = 16 ∨ op = 17 then .done m (if m = cmp % 2 ^ (8 * n) then p.write n x s else s)
    else if op = 24 then (if p.full s then .done m (p.setFull false s) else .unmet)
    else if op = 27 then (if p.full s then .done m s else .unmet)
    else if op = 25 then (if p.full s then .unmet else .done 0 (p.setFull true (p.write 8 x s)))
    else if op = 26 then .done 0 (p.setFull true (p.write 8 x s))
    else
      let o : BitVec 128 := BitVec.ofNat 128 m
      let rb : Word := BitVec.ofNat 64 x
      if op = 32 then .done 0 (p.write 16 (tbInit rb).toNat s)
      else if op = 33 then
        let o' := tbArrive (bitsN rb 0 20) (bitsN rb 20 36) o
        .done (tbPhase o + (if tbPhase o' ≠ tbPhase o then 16 else 0) + (if tbOvr o' then 32 else 0)) (p.write 16 o'.toNat s)
      else if op = 34 then
        if tbOvr o then .done (tbwResult o + 512) s
        else if tbPhase o = bitsN rb 0 4 then .unmet
        else .done (tbwResult o) s
      else .done (tbtResult (bitsN rb 0 4) o) s

/-! ### Wakes -/

/-- The address a strand is held on names the 8 bytes of a place; one that no longer translates may. -/
def heldAt (k : Nat) (x : Strand) (p : Spot) (s : State) : Bool :=
  match p, whereIs x.core (sidVf k) (x.hobj.setWidth 64) s with
  | .pad c o, .scratchpad off => x.core == c && off / 8 == o / 8
  | .mem _ q, .vaultLocal pa => pa / 8 == q / 8
  | .mem _ q, .translated va =>
    (match xlateNow (coreHall x.core) (sidVf k) 2 .read (x.hobj.setWidth 64) s with
      | .ok r => r.pa va / 8 == q / 8
      | _ => true)
  | _, _ => false

/-- Strands held on a full/empty word or a transaction barrier look again when it has changed (R102). -/
def wakeHeld (p : Spot) (s : State) : State :=
  s.strands.foldl (fun t e =>
    if (e.2.hold == 2#4 || e.2.hold == 4#4) && heldAt e.1 e.2 p s then wakeStrand e.1 t else t) s

/-- Launches and tile tasks that wait on a dependence look again (R95, R200). -/
def pollDeps (s : State) : State :=
  let s := s.queues.foldl (fun t e =>
    if e.2.packet.isSome then post 1 .dependencePoll (argQueue (BitVec.ofNat 7 (e.1 / 64)) (e.1 % 64)) t else t) s
  s.quads.foldl (fun t e => if e.2.tiles.isEmpty then t else post 1 .tileTaskStart (argQuad e.1) t) s

/-- What follows a change of a full bit or of a barrier object. -/
def objectChanged (p : Spot) (tb : Bool) (s : State) : State :=
  let s := wakeHeld p s
  if tb then pollDeps s else s

/-! ### Requests at a bank -/

def reqZero : Req :=
  ⟨0, 0, 0, 0, 0, 0, 0, false, 0, 0, 0, false, 0, 0, 0, 0, false, 0, .near, 0, 0, 0, 255#8, false, false, 0, false, false, 0,
   none⟩
def reqAt (id : Nat) (s : State) : Req := tget s.reqs id reqZero
def setReq (id : Nat) (r : Req) (s : State) : State := { s with reqs := tput s.reqs id r }
def dropReq (id : Nat) (s : State) : State := { s with reqs := tdel s.reqs id }
def reqSid (r : Req) : Nat := sid r.vf r.ctx

/-- The next number of the newel (R182). -/
def takeNewel (s : State) : Nat × State := (s.newel, { s with newel := s.newel + 1 })

/-- The operand of a request: 16 bytes for CAS.q. -/
def reqOperand (r : Req) : Nat := r.data.toNat

/-- The request flit of R32, and, with `second`, the continuation of a CAS.q (R326). -/
def requestFlit (r : Req) (second : Bool) (s : State) : BitVec 256 :=
  let quad := r.kind = 2#4 ∧ r.op = 17#6
  let kind : Nat := if second then 3 else r.kind.toNat
  let atom : Nat :=
    if r.kind = 2#4 then
      r.op.toNat + (if r.reg = 300 ∨ r.op = 32#6 then 0 else 2 ^ 6) + (if r.w32 then 2 ^ 7 else 0) + 2 ^ 8 * r.scope.toNat +
        (if r.op.toNat ≤ 17 ∧ (r.scope = 0#3 ∨ 5 ≤ r.scope.toNat) then 2 ^ 11 * (s.newel % 2 ^ 37) else 0)
    else 0
  let data : Nat :=
    if quad then (if second then r.compare.toNat else r.data.toNat)
    else if r.kind = 2#4 then r.data.toNat % 2 ^ 64 + 2 ^ 64 * (r.compare.toNat % 2 ^ 64)
    else r.data.toNat
  BitVec.ofNat 256 (r.pa.toNat + 2 ^ 52 * kind + 2 ^ 56 * bitsN r.va 56 4 + 2 ^ 60 * Nat.log2 r.size + 2 ^ 64 * r.vf.toNat +
    2 ^ 71 * r.seq.toNat + 2 ^ 80 * atom + 2 ^ 128 * data)

/-- Performs a request at its bank: value and status (0 done, 1 memory error, 2 tag mismatch, 3 condition not met,
4 request error); the kinds R32 does not define are request errors.  TAGLD and TAGST read and write the granule's tag; a tag
written to a granule with an uncorrectable error is discarded like any partial write (R169). -/
def performReq (r : Req) (s : State) : Nat × Nat × State :=
  let key := keyOf r.vf s
  let pa := r.pa.toNat
  let mism := if r.tagchk then tagMismatch pa r.size (BitVec.ofNat 4 (bitsN r.va 56 4)) s else none
  match mism with
  | some g => (g.toNat, 2, s)
  | none =>
    if r.tagop then
      (if memErrAt pa 1 s then (0, if r.kind = 0#4 then 1 else 0, s)
       else if r.kind = 0#4 then ((tagAt pa s).toNat, 0, s)
       else (0, 0, setTag pa (r.data.setWidth 4) s))
    else if r.kind = 0#4 then
      if memErrAt pa r.size s then (0, 1, s) else (memVal key pa r.size s, 0, s)
    else if r.kind = 1#4 then (0, 0, memWrite key pa (toBytes r.size r.data.toNat) s)
    else if r.kind = 2#4 then
      if !opKnown r.op.toNat then (0, 4, s)
      else
        match stepOp r.op.toNat r.w32 (reqOperand r) r.compare.toNat (.mem key pa) s with
        | .done v s => (v, 0, if 24 ≤ r.op.toNat then objectChanged (.mem key pa) (32 ≤ r.op.toNat) s else s)
        | .unmet => (0, 3, s)
        | .err => (0, 1, s)
    else (0, 4, s)

/-- The request has been performed: its data is ready A slots later (R41). -/
def servedReq (id : Nat) (v st : Nat) (s : State) : State :=
  let r := reqAt id s
  let b := bankOf r.pa.toNat
  let s := setReq id { r with served := s.wheel, value := BitVec.ofNat 256 v, status := BitVec.ofNat 8 st, waiting := false } s
  post (bankA b) .memoryAccessDone (argId id) s

/-- One pass over a bank's wait list, in order of arrival (R318). -/
def servePass (b : Nat) : List Nat → State → Bool × State
  | [], s => (false, s)
  | id :: t, s =>
    match performReq (reqAt id s) s with
    | (v, st, s') =>
      if st = 3 then servePass b t s
      else
        let k := bankAt b s'
        (true, servedReq id v st (setBank b { k with waits := k.waits.filter (fun x => x != id) } s'))

/-- Waiting requests are performed as long as a pass meets one. -/
def serveWaits (b : Nat) : Nat → State → State
  | 0, s => s
  | n + 1, s =>
    match servePass b (bankAt b s).waits s with
    | (true, s) => serveWaits b n s
    | (false, s) => s

/-- What an access by an engine or device changes at a bank lets its waiting requests try again. -/
def bankChanged (pa : Nat) (s : State) : State :=
  let b := bankOf pa
  serveWaits b ((bankAt b s).waits.length + 1) s

end Sys2Proof.Machine
end

