-- ==== Sys2Proof/Machine/Engine.lean ====
section
/-! DEFINITION. Engine: accesses of engines and of instructions that read structures, barrier completions, wait counts
of line 79, copies, and the windows they fill and write back (R134, R155, R158, R161, R162, R183, R204 to R206). -/

namespace Sys2Proof.Machine

open Host

/-! ### The race shadow (R110) -/

/-- The core's epoch for a launch. -/
def epochOf (c l : Nat) (s : State) : Nat := tget (coreAt c s).epochs l 0
/-- The scratchpad words a strand writes carry a shadow: its launch is in D-mode or has race set (R110). -/
def raceOn (k : Nat) (s : State) : Bool :=
  (match tfind s.launches (strandAt k s).launch with | some l => bitB l.packet 60 || bitB l.packet 62 | none => false) ||
  hdrDmode k s || hdrRace k s
def shadowAt (c off : Nat) (s : State) : Shadow := tget s.shadow (spadKey c off / 8) shadowZero

/-- The conflict an access of a word meets: cause, other party, its epoch. -/
def wordRace (k c off : Nat) (wr : Bool) (s : State) : Option (Nat × Nat × Nat) :=
  let t := strandAt k s
  let e := epochOf c t.launch s
  let sh := shadowAt c off s
  let other (p : Option (Nat × Nat)) : Option (Nat × Nat) :=
    p.bind (fun x => if x.1 ≠ t.index ∧ x.2 = e then some x else none)
  match other sh.writer with
  | some x => some (0, x.1, x.2)
  | none => if wr then (other sh.reader).map (fun x => (1, x.1, x.2)) else none

/-- The words of n bytes at an offset. -/
def wordsIn (off n : Nat) : List Nat := (List.range ((off + n - 1) / 8 - off / 8 + 1)).map (fun i => (off / 8 + i) * 8)

/-- The first word of an access with a conflict, and the conflict. -/
def raceHit (k c off n : Nat) (wr : Bool) (s : State) : Option (Nat × Nat × Nat × Nat) :=
  if !raceOn k s then none
  else (wordsIn off n).findSome? (fun o => (wordRace k c o wr s).map (fun x => (o, x.1, x.2.1, x.2.2)))

/-- Notes an access of an index in the shadow of its words. -/
def shadowNote (idx e c off n : Nat) (wr : Bool) (s : State) : State :=
  (wordsIn off n).foldl (fun s o =>
    let sh := shadowAt c o s
    let sh : Shadow :=
      if wr then ⟨some (idx, e), if (sh.reader.map Prod.fst) = some idx then none else sh.reader⟩
      else if (sh.writer.map Prod.fst) = some idx then sh
      else ⟨sh.writer, some (idx, e)⟩
    { s with shadow := tput s.shadow (spadKey c o / 8) sh }) s

/-- The shadow after a strand's access. -/
def raceNote (k c off n : Nat) (wr : Bool) (s : State) : State :=
  if !raceOn k s then s
  else
    let t := strandAt k s
    shadowNote t.index (epochOf c t.launch s) c off n wr s

/-- An engine's write at an address for a strand's launch: its index is the last writer of the words of a scratchpad (R110). -/
def noteWrite (k c : Nat) (a : Word) (n : Nat) (s : State) : State :=
  if bitsN a 48 8 = 0xFE then raceNote k c (bitsN a 0 21) n true s else s

/-! ### Accesses that never travel -/

/-- Where n bytes at an address lie for an engine, or the code of R183 why not: 2 tag mismatch, 3 translation. -/
inductive Placed where
  | at_ (p : Spot)
  | fails (status : Nat)
  /-- the kind and cause an instruction takes (R367) -/
  | traps (kind cause : Nat)
  deriving DecidableEq, Repr

/-- Places an access of core c's quad for function vf at a level: apertures reach core c; `tag` asks for the tag check. -/
def placeAt (c : Nat) (vf : BitVec 7) (priv : Nat) (u : Use) (tag : Bool) (a : Word) (n : Nat) (s : State) : Placed :=
  match whereIs c vf a s with
  | .fault kd ca => .traps kd ca
  | .scratchpad off => if 2 ^ 21 < off + n then .traps 7 0 else .at_ (.pad c off)
  | .vaultLocal pa => .at_ (.mem (keyOf vf s) pa)
  | .translated va =>
    let r : XRes := match tlbHit c vf va s with
      | some x => (match permFault priv u x.leaf with | some (kd, ca) => .fault kd ca | none => .ok x)
      | none => xlateNow (coreHall c) vf priv u a s
    match r with
    | .fault kd ca => .traps kd ca
    | .err => .traps 13 1
    | .ok x =>
      let pa := x.pa va
      if tag && bitsN x.leaf 6 1 == 1 && (tagMismatch pa n (BitVec.ofNat 4 (bitsN a 56 4)) s).isSome then .traps 5 0
      else .at_ (.mem (keyOf vf s) pa)

/-- The engine status of a failed access (R183, R169). -/
def failCode (kind : Nat) : Nat := if kind = 13 then 1 else if kind = 5 then 2 else 3

/-- Reads n bytes for an engine inside one 64 KiB range. -/
def engineReadIn (c : Nat) (vf : BitVec 7) (priv : Nat) (tag : Bool) (a : Word) (n : Nat) (s : State) : Except Nat Nat :=
  match placeAt c vf priv .read tag a n s with
  | .at_ p => if p.err n s then .error 1 else .ok (p.read n s)
  | .traps kd _ => .error (failCode kd)
  | .fails st => .error st

/-- Bytes left in the 64 KiB range of an address. -/
def rangeLeft (a : Word) : Nat := 2 ^ 16 - bitsN a 0 16

/-- Reads n bytes for an engine, across a page boundary in two parts. -/
def engineRead (c : Nat) (vf : BitVec 7) (priv : Nat) (tag : Bool) (a : Word) (n : Nat) (s : State) : Except Nat Nat :=
  let m := rangeLeft a
  if n ≤ m then engineReadIn c vf priv tag a n s
  else
    match engineReadIn c vf priv tag a m s, engineReadIn c vf priv tag (a + BitVec.ofNat 64 m) (n - m) s with
    | .ok x, .ok y => .ok (x + 2 ^ (8 * m) * y)
    | .error e, _ => .error e
    | _, .error e => .error e

/-- A scratchpad write dirties a present window; a dirty one stays so through a write-back under way (R162). -/
def dirtyWindows (c off n : Nat) (s : State) : State :=
  let k := coreAt c s
  let hit (w : Window) : Bool :=
    w.bound && 2 ≤ w.state.toNat && decide (w.spoff.toNat * 256 < off + n) && decide (off < w.spoff.toNat * 256 + 2 ^ w.lsize.toNat)
  if k.windows.any (fun e => hit e.2) then
    setCore c { k with windows := k.windows.map (fun e => if hit e.2 then (e.1, { e.2 with state := 3#2, again := e.2.busy }) else e) } s
  else s

/-- Writes n bytes for an engine inside one 64 KiB range. -/
def engineWriteIn (c : Nat) (vf : BitVec 7) (priv : Nat) (tag : Bool) (a : Word) (n v : Nat) (s : State) :
    Except Nat State :=
  match placeAt c vf priv .write tag a n s with
  | .at_ p =>
    .ok (match p with
      | .mem _ pa => bankChanged pa (p.write n v s)
      | .pad c off => dirtyWindows c off n (p.write n v s))
  | .traps kd _ => .error (failCode kd)
  | .fails st => .error st

/-- Writes n bytes for an engine. -/
def engineWrite (c : Nat) (vf : BitVec 7) (priv : Nat) (tag : Bool) (a : Word) (n v : Nat) (s : State) : Except Nat State :=
  let m := rangeLeft a
  if n ≤ m then engineWriteIn c vf priv tag a n v s
  else
    match engineWriteIn c vf priv tag a m (v % 2 ^ (8 * m)) s with
    | .ok s => engineWriteIn c vf priv tag (a + BitVec.ofNat 64 m) (n - m) (v / 2 ^ (8 * m)) s
    | .error e => .error e

/-- complete(b, status) on the barrier at an address (R183), performed at its home controller; nothing for 0. -/
def completeAt (c : Nat) (vf : BitVec 7) (priv : Nat) (a : Word) (b status : Nat) (s : State) : State :=
  if bitsN a 0 56 = 0 then s
  else
    match placeAt c vf priv .both false a 16 s with
    | .at_ p =>
      if p.err 16 s then s
      else
        let o := tbComplete b status (BitVec.ofNat 128 (p.read 16 s))
        let s := objectChanged p true (p.write 16 o.toNat s)
        (match p with | .mem _ pa => bankChanged pa s | .pad _ _ => s)
    | _ => s

/-- Reads n bytes of a function's memory for the device: under its translation with guest-supervisor rights, without tag
check, whatever the address's top byte (R53, R95). -/
def functionRead (vf : BitVec 7) (a n : Nat) (s : State) : Except Nat Nat :=
  match deviceRuns 0 vf .read a n s with
  | .error e => .error e
  | .ok rs =>
    if rs.any (fun r => memErrAt r.1 r.2 s) then .error 1
    else .ok (rs.foldr (fun r acc => memVal (keyOf vf s) r.1 r.2 s + 2 ^ (8 * r.2) * acc) 0)

/-- Writes bytes of a function's memory as the device does: none where a byte's address does not translate, and nothing is
written. -/
def deviceWrite (h : Nat) (vf : BitVec 7) (a : Nat) (bs : List Byte) (s : State) : Option State :=
  match deviceRuns h vf .write a bs.length s with
  | .error _ => none
  | .ok rs =>
    some (rs.foldl (fun (t : State × List Byte) r =>
      (bankChanged r.1 (memWrite (keyOf vf s) r.1 (t.2.take r.2) t.1), t.2.drop r.2)) (s, bs)).1

/-- A dependence is met: none where its object cannot be read, with the engine's status (R95, R200). -/
def depMet (read : Nat → Nat → Except Nat Nat) (w : Word) : Except Nat Bool :=
  if !bitB w 63 then .ok true
  else
    match read (bitsN w 4 52 * 16) 16 with
    | .ok o => .ok (o % 16 == bitsN w 56 4)
    | .error e => .error e

/-! ### Wait counts of line 79 (R134, R206) -/

/-- Physical address of line 79, or the kind and cause of the context-page fault. -/
def countPa (k : Nat) (s : State) : Except (Nat × Nat) Nat :=
  match recXlate k .both (64 * 79) (coreHall (strandAt k s).core) s with
  | .ok x => .ok (x.pa ((sidCtx k).toNat + 64 * 79))
  | r => .error (ctxCause r)

/-- The counts of copies and tiles. -/
def copyCount (k : Nat) (s : State) : Nat :=
  if !lineMaterial k 79 s then 0
  else match countPa k s with | .ok pa => memVal (keyOf (sidVf k) s) pa 1 s % 64 | .error _ => 0
def tileCount (k : Nat) (s : State) : Nat :=
  if !lineMaterial k 79 s then 0
  else match countPa k s with | .ok pa => memVal (keyOf (sidVf k) s) (pa + 1) 1 s % 64 | .error _ => 0

/-- Before the first count, lines 78 and 79 are written to memory, line 79 zero, and present bit 39 is set (R120). -/
def openCounts (k : Nat) (s : State) : Except (Nat × Nat) State :=
  if lineMaterial k 79 s then (match countPa k s with | .ok _ => .ok s | .error e => .error e)
  else
    match countPa k s with
    | .error e => .error e
    | .ok pa =>
      let key := keyOf (sidVf k) s
      let s := (List.range 8).foldl (fun s i =>
        memWrite key (pa - 64 + 8 * i) (toBytes 8 (cachedWord k (0x1380 + 8 * i) s).toNat) s) s
      let s := memWrite key pa (toBytes 64 0) s
      .ok (setHdr k 6 (setBits (hdrPresent k s) 39 1 1) s)

/-- Changes a count: byte 0 copies, byte 1 tiles. -/
def bumpCount (k byte : Nat) (up : Bool) (s : State) : State :=
  match countPa k s with
  | .error _ => s
  | .ok pa =>
    let key := keyOf (sidVf k) s
    let n := memVal key (pa + byte) 1 s % 64
    let s := memWrite key (pa + byte) (toBytes 1 (if up then n + 1 else n - 1)) s
    if !up ∧ (strandAt k s).hold = 3#4 then wakeStrand k s else s

/-! ### A register filled from outside (R195, R337) -/

/-- Opens the lines of a vector register, and line 5 with its full bits. -/
def openVec (k j : Nat) (s : State) : Except (Nat × Nat) State :=
  let h := coreHall (strandAt k s).core
  match openLine k 5 h s with
  | .error e => .error e
  | .ok s =>
    match openLine k (6 + 2 * j) h s with
    | .error e => .error e
    | .ok s => openLine k (7 + 2 * j) h s

/-- Writes a vector register where its lines are held, and sets its full bit; line 5 is open. -/
def fillVec (k : Nat) (j : Nat) (v : BitVec 1024) (s : State) : State :=
  let h := coreHall (strandAt k s).core
  let s := (List.range 16).foldl (fun s i => putWordAnywhere k (0x180 + 128 * j + 8 * i) h (v.extractLsb' (64 * i) 64) s) s
  let w := cachedWord k 0x160 s
  let s := putWordAnywhere k 0x160 h (setBits w (8 + j) 1 1) s
  let t := strandAt k s
  if t.hold = 2#4 ∧ t.hobj = regAddr k (32 + j) then wakeStrand k s else s

/-! ### Held submissions (R76, R221) -/

/-- A launch of the function is exhausted: its submissions are held (R76). -/
def submissionsHeld (vf : BitVec 7) (s : State) : Bool := s.launches.any (fun e => e.2.vf == vf && e.2.exhausted)
/-- Queued work of a function may not start. -/
def workHeld (vf : BitVec 7) (s : State) : Bool :=
  submissionsHeld vf s || (fnAt vf s).stopped || s.power != .on || s.snap.held || s.snap.busy

/-! ### Copies (R204, R205) -/

abbrev Desc := BitVec 1024

def dField (d : Desc) (byte n : Nat) : Nat := bitsN d (8 * byte) n
def dEsz (d : Desc) : Nat := dField d 86 3
def dZero (d : Desc) : Bool := bitB d (8 * 86 + 3)
def dReg (d : Desc) : Bool := bitB d (8 * 86 + 4)
def dStatus (d : Desc) : Nat := bitsN d (8 * 104 + 40) 4
def dDone (d : Desc) : Nat := bitsN d (8 * 104) 40
def dTb (d : Desc) : Word := BitVec.ofNat 64 (bitsN d (8 * 96 + 4) 52 * 16)
def orOne (n : Nat) : Nat := if n = 0 then 1 else n
def sCounts (d : Desc) : List Nat := (List.range 5).map (fun j => orOne (dField d (56 + 3 * j) 24))
def dCounts (d : Desc) : List Nat := (List.range 5).map (fun j => orOne (dField d (71 + 3 * j) 24))
def sStrides (d : Desc) : List Int := (List.range 5).map (fun j => sgn 32 (dField d (16 + 4 * j) 32))
def dStrides (d : Desc) : List Int := (List.range 5).map (fun j => sgn 32 (dField d (36 + 4 * j) 32))
def prod (l : List Nat) : Nat := l.foldl (fun a b => a * b) 1
/-- Element total E. -/
def dTotal (d : Desc) : Nat := if dZero d then 0 else prod (sCounts d)

/-- A reserved bit of a copy descriptor is nonzero; bits 3:0 and 63:56 of the tb word, which R204 lists in no row, are taken as
reserved (DESIGN CHOICE, log 31). -/
def dReserved (d : Desc) : Bool :=
  bitsN d (8 * 86 + 5) 11 != 0 || bitsN d (8 * 88 + 11) 5 != 0 || dField d 90 48 != 0 ||
  bitsN d (8 * 96) 4 != 0 || bitsN d (8 * 96 + 56) 8 != 0 || bitsN d (8 * 104 + 44) 20 != 0 || dField d 112 128 != 0

/-- Byte offset of element e on a side. -/
def sideOffset : List Nat → List Int → Nat → Int
  | n :: ns, st :: sts, e => (e % n : Nat) * st + sideOffset ns sts (e / n)
  | _, _, _ => 0

/-- An address advanced by a signed offset, its tag kept. -/
def addrOff (a : Word) (off : Int) : Word := a.extractLsb' 56 8 ++ (a.extractLsb' 0 56 + BitVec.ofInt 56 off : BitVec 56)

/-- The scratchpad range of a window as an aperture address. -/
def windowAddr (w : Window) : Word := BitVec.ofNat 64 (0xFE * 2 ^ 48 + w.spoff.toNat * 256)
def windowAt (c w : Nat) (s : State) : Window :=
  tget (coreAt c s).windows w ⟨0, 0, 0, false, false, 0, 0, 0, 0, false, [], false⟩
def setWindow (c w : Nat) (v : Window) (s : State) : State :=
  let k := coreAt c s
  setCore c { k with windows := tput k.windows w v } s

/-- Source and destination addresses of element e of a copy: a window takes the scratchpad side in one contiguous
loop, and a write-back exchanges the sides. -/
def elemSrc (j : CopyJob) (e : Nat) (s : State) : Word :=
  let g := addrOff (BitVec.ofNat 64 (dField j.desc 0 64)) (sideOffset (sCounts j.desc) (sStrides j.desc) e)
  match j.win with
  | some w => if j.back then addrOff (windowAddr (windowAt j.core w s)) (e * 2 ^ dEsz j.desc : Nat) else g
  | none => g
def elemDst (j : CopyJob) (e : Nat) (s : State) : Word :=
  match j.win with
  | some w =>
    if j.back then addrOff (BitVec.ofNat 64 (dField j.desc 0 64)) (sideOffset (sCounts j.desc) (sStrides j.desc) e)
    else addrOff (windowAddr (windowAt j.core w s)) (e * 2 ^ dEsz j.desc : Nat)
  | none => addrOff (BitVec.ofNat 64 (dField j.desc 8 64)) (sideOffset (dCounts j.desc) (dStrides j.desc) e)

/-- One element: read, then written (R205; log 15). -/
def copyElem (j : CopyJob) (e : Nat) (s : State) : Except Nat State :=
  let n := 2 ^ dEsz j.desc
  let k := sid j.vf j.ctx
  match engineRead j.core j.vf j.priv.toNat true (elemSrc j e s) n s with
  | .error c => .error c
  | .ok v =>
    if dReg j.desc && j.win.isNone then
      let r := dField j.desc 8 5
      match openVec k r s with
      | .error (kd, _) => .error (failCode kd)
      | .ok s =>
        let old := (readV k (BitVec.ofNat 5 r) s).toNat
        let lo := 8 * n * e
        let w := old % 2 ^ lo + 2 ^ lo * (v + 2 ^ (8 * n) * (old / 2 ^ (lo + 8 * n)))
        .ok (fillVec k r (BitVec.ofNat 1024 w) s)
    else (engineWrite j.core j.vf j.priv.toNat true (elemDst j e s) n v s).map (noteWrite k j.core (elemDst j e s) n)

/-- Elements lo to lo + n - 1 in order; the first failure ends the chunk with its writes in part (R205). -/
def copyElems (j : CopyJob) : Nat → Nat → State → Option Nat × State
  | 0, _, s => (none, s)
  | n + 1, e, s =>
    match copyElem j e s with
    | .ok s => copyElems j n (e + 1) s
    | .error c => (some c, s)

/-- Writes done and status into the descriptor in memory. -/
def putDesc (j : CopyJob) (done status : Nat) (s : State) : State :=
  match engineWrite j.core j.vf j.priv.toNat false (addrOff j.addr 104) 8 (done + status * 2 ^ 40) s with
  | .ok s => noteWrite (sid j.vf j.ctx) j.core (addrOff j.addr 104) 8 s
  | .error _ => s

/-- The end of a copy: complete, then the submitter's count (R205, R206), then its window (R162) and its launch. -/
def endCopy (j : CopyJob) (status : Nat) (s : State) : State :=
  let d := j.desc
  let s := completeAt j.core j.vf j.priv.toNat (dTb d) (dTotal d * 2 ^ dEsz d) status s
  let s := bumpCount (sid j.vf j.ctx) 0 false s
  let s := modLaunch j.launch (fun l => { l with engine := l.engine - 1 }) s
  let s := match tfind s.launches j.launch with
    | some l => if l.live = 0 ∧ l.engine = 0 then post 1 .launchRetire (argId j.launch) s else s
    | none => s
  match j.win with
  | some w =>
    post 0 (if j.back then .windowWritebackComplete else .windowFillComplete)
      { argCore j.core with id := w, flag := status != 0, n := BitVec.ofNat 8 status } s
  | none => s

/-- Work of a copy at a start (R205): accepted, with its first element, or refused.  `limit` is the size of a window, which takes
the place of the scratchpad side and its counts (R162, R204). -/
def copyStart (d : Desc) (limit : Option Nat) : Option Nat :=
  if dStatus d = 1 ∨ dReserved d ∨ (limit.isNone ∧ prod (sCounts d) ≠ prod (dCounts d)) then none
  else if (match limit with | some l => decide (l < dTotal d * 2 ^ dEsz d) | none => false) then none
  else if dReg d ∧ limit.isNone ∧ dTotal d * 2 ^ dEsz d ≠ 128 then none
  else some (if dStatus d = 3 ∨ 8 ≤ dStatus d then dDone d else 0)

/-- A quad's engines look for work. -/
def kickCopies (q : Nat) (s : State) : State :=
  if s.agenda.any (fun d => d.ev == .copyChunk && d.args.id == q && d.args.n == 0#8) then s else post 1 .copyChunk (argQuad q) s

/-- Enters a copy in its quad's queue, window fills ahead (R204, R205). -/
def enterCopy (j : CopyJob) (s : State) : State :=
  let q := coreQuad j.core
  let k := quadAt q s
  let (id, s) := newId s
  let j := { j with order := id }
  let s := setQuad q { k with copies := k.copies ++ [j] } s
  let s := modLaunch j.launch (fun l => { l with engine := l.engine + 1 }) s
  kickCopies q s

/-! ### Windows of a strand's access (R161, R162) -/

/-- The bound window of a core whose scratchpad range holds an offset. -/
def windowOf (c off : Nat) (s : State) : Option Nat :=
  ((coreAt c s).windows.find? (fun e =>
    e.2.bound && decide (e.2.spoff.toNat * 256 ≤ off) && decide (off < e.2.spoff.toNat * 256 + 2 ^ e.2.lsize.toNat))).map Prod.fst

/-- The strand's requests that have not been answered. -/
def openReqs (k : Nat) (s : State) : List Req :=
  (s.reqs.filter (fun e => reqSid e.2 == k && !e.2.arrived)).map Prod.snd
/-- An earlier access of the strand to these bytes has not completed (R173). -/
def overlapBusy (k pa n : Nat) (s : State) : Bool :=
  (openReqs k s).any (fun r => decide (r.pa.toNat < pa + n) && decide (pa < r.pa.toNat + r.size))

/-- What starting a window's fill comes to. -/
inductive FillRes where
  | started (s : State)
  /-- no place, a write-back of the window still under way, or an earlier access of the strand to the descriptor (R185) -/
  | full
  | refused
  /-- the descriptor or line 79 faults: kind, cause, address -/
  | traps (kind cause : Nat) (a : Word)

/-- Starts the fill of an absent window for a strand, or the write-back of a dirty one: counted in its copies count
(R162, R206). -/
def startWindow (k c w : Nat) (back : Bool) (s : State) : FillRes :=
  let v := windowAt c w s
  let vf := sidVf k
  let priv := hdrPriv k s
  let da : Word := v.desc.setWidth 64
  match placeAt c vf priv .read true da 128 s with
  | .traps kd ca => .traps kd ca da
  | .fails _ => .traps 7 0 da
  | .at_ p =>
    if v.busy || (match p with | .mem _ pa => overlapBusy k pa 128 s | .pad _ _ => false) then .full
    else if p.err 128 s then .traps 13 0 da
    else
      let d : Desc := BitVec.ofNat 1024 (p.read 128 s)
      match copyStart d (some (2 ^ v.lsize.toNat)) with
      | none => .refused
      | some done =>
        match openCounts k s with
        | .error (kd, ca) => .traps kd ca (BitVec.ofNat 64 ((sidCtx k).toNat + 64 * 79))
        | .ok s =>
          if copyCount k s = 63 ∨ 64 ≤ (quadAt (coreQuad c) s).copies.length then .full
          else
            let s := bumpCount k 0 true s
            let j : CopyJob := ⟨vf, sidCtx k, (strandAt k s).launch, da, d, done, BitVec.ofNat 2 priv, c, some w, back, false, 0⟩
            let s := putDesc j done 1 s
            let s := if back then setWindow c w { windowAt c w s with busy := true, vf := vf, again := false } s
              else setWindow c w { windowAt c w s with state := 1#2, busy := true, vf := vf, waiters := [] } s
            .started (enterCopy j s)

end Sys2Proof.Machine
end

