-- ==== Sys2Proof/Machine/Port.lean ====
section
/-! DEFINITION. Port: memory requests on their way: routes, injection, hops, service, replies, and what a reply does to
its strand (R26 to R36, R41, R42, R137, R138, R156, R157, R173, R206, R210, R319). -/

namespace Sys2Proof.Machine

open Host

/-! ### Links (R26, R31) -/

/-- Translation slot of a standing request: a + 16·b. -/
def transSlot (c v : Nat) : Nat := (coreX v + 16 - coreX c) % 16 + 16 * ((coreY v + 16 - coreY c) % 16)
/-- Slot of the reverse translation (R33). -/
def reverseSlot (n : Nat) : Nat := (16 - n % 16) % 16 + 16 * ((16 - n / 16) % 16)
/-- Hops of one translation component: ports p (forward) and q (back). -/
def ringHops (a p q link : Nat) : List (Nat × Nat) :=
  if a ≤ 8 then List.replicate a (p, link) else List.replicate (16 - a) (q, link)
/-- The standing route of a translation slot: X first, then Y, on one link number. -/
def standingHops (n : Nat) : List (Nat × Nat) :=
  ringHops (n % 16) 0 1 (n % 16) ++ ringHops (n / 16) 2 3 (n % 16)
/-- The outputs a standing flit takes: its hops, then the local port, on one link number. -/
def standingRoute (n : Nat) : List (Nat × Nat) := standingHops n ++ [(4, n % 16)]
/-- The torus ports from one core to another, X first. -/
def routePorts (c v : Nat) : List Nat :=
  (ringHops ((coreX v + 16 - coreX c) % 16) 0 1 0 ++ ringHops ((coreY v + 16 - coreY c) % 16) 2 3 0).map Prod.fst
/-- The neighbour across a port. -/
def neighbour (n port : Nat) : Nat :=
  let h := coreHall n
  let x := coreX n
  let y := coreY n
  match port with
  | 0 => 256 * h + 16 * y + (x + 1) % 16
  | 1 => 256 * h + 16 * y + (x + 15) % 16
  | 2 => 256 * h + 16 * ((y + 1) % 16) + x
  | 3 => 256 * h + 16 * ((y + 15) % 16) + x
  | _ => n
/-- The port a flit comes in on after crossing a port. -/
def oppositePort (p : Nat) : Nat := match p with | 0 => 1 | 1 => 0 | 2 => 3 | 3 => 2 | n => n
/-- The router of a hall channel (R35). -/
def attachCore (h w : Nat) : Nat := 256 * h + 16 * (2 * (w / 4) + 1) + 4 * (w % 4) + 1

/-- The hall channel attached at a router. -/
def channelOf (n : Nat) : Nat := (coreX n - 1) / 4 + 4 * ((coreY n - 1) / 2)
/-- Key of the floor connection table: hall, transmit channel, floor slot (R35). -/
def floorKey (h tx slot : Nat) : Nat := (h * 32 + tx) * 1024 + slot

/-! ### Slot tables (R28, R30) -/

def entryKey (node port link slot : Nat) : Nat := ((node * 6 + port) * 16 + link) * 1024 + slot
/-- A standing entry forwards on this output in this slot (R31): valid, stand, input port and link. -/
def standingEntry (w port link slot : Nat) : Option (Nat × Nat) :=
  -- translations n on link n mod 16 whose k-th output falls in this slot on this port
  (List.range 255).findSome? (fun i =>
    let n := i + 1
    if n % 16 ≠ link then none
    else
      let hs := standingRoute n
      let k := (slot + w - n) % w
      match hs[k]? with
      | some (p, _) => if p = port then some ((if k = 0 then 4 else oppositePort ((hs[k - 1]?).getD (0, 0)).1), link) else none
      | none => none)
/-- The entry of a table: written by the circuit manager, or standing (R28, R31). -/
def entryAt (node port link slot : Nat) (s : State) : BitVec 32 :=
  let e := tget s.entries (entryKey node port link slot) 0#32
  let w := (hallAt (coreHall node) s).w
  if bitB e 0 ∨ w < 256 ∨ 5 ≤ port then e
  else
    match standingEntry w port link slot with
    | some (p, l) => BitVec.ofNat 32 (1 + 2 * p + 16 * l + 2 ^ 15)
    | none => e

/-- A dedicated circuit's entry forwards a flit that came in on `inp`. -/
def entryForwards (e : BitVec 32) (vf : BitVec 7) (circ : Nat) (inp : Nat × Nat) : Bool :=
  bitB e 0 && bitsN e 8 7 == vf.toNat && bitsN e 17 11 == circ && bitsN e 1 3 == inp.1 && bitsN e 4 4 == inp.2

/-! ### Circuits -/

def circAt (c : Nat) (s : State) : Option Circ := tfind s.circs c
def setCirc (c : Nat) (v : Circ) (s : State) : State := { s with circs := tput s.circs c v }

/-- Router of a circuit's source and of its destination's attachment, and the bank a memory circuit ends at. -/
def endsSrc (e : Ends) : Nat := 256 * e.srcHall + e.srcCore
def endsDst (e : Ends) : Nat := 256 * e.dstHall + (if e.dstKind = 2 then 4 * e.chan else e.dstCore)
def endsBank (e : Ends) : Nat := if e.dstKind = 2 then 4096 + 64 * e.dstHall + e.chan else 256 * e.dstHall + e.dstCore

/-- Slots after which a path's injection slot recurs: the wheel of its source hall (R34). -/
def pathTurn (p : Path) (s : State) : Nat := (hallAt p.ends.srcHall s).w

/-- The function's circuits from a core to a bank. -/
def circuitTo (vf : BitVec 7) (core bank : Nat) (s : State) : Option Nat :=
  (s.circs.find? (fun e =>
    e.2.vf == vf && e.2.pod.isNone && e.2.paths.any (fun p => p.stage == .live && endsSrc p.ends == core && p.ends.dstKind != 0 &&
      endsBank p.ends == bank))).map Prod.fst

/-- The first slot at or after lo in which a path of a circuit may inject at a core, and the path (R34, R44). -/
def nextInjection (v : Circ) (core lo : Nat) (s : State) : Option (Nat × Nat) :=
  let c := ((v.paths.zip (List.range v.paths.length)).filter (fun p =>
    !p.1.susp && p.1.stage == .live && endsSrc p.1.ends == core)).map (fun p => (nextMod lo (pathTurn p.1 s) p.1.inj, p.2))
  match c with
  | [] => none
  | x :: t => some (t.foldl (fun b y => if y.1 < b.1 then y else b) x)

/-- When a flit that may inject at t looks again: circuits come and go at turns, so no later than the next (R40). -/
def lookAgain (t : Nat) (s : State) : Nat := min t (nextBoundary s + 1)

/-- The torus of a hall takes no injection in the turn after its relock (R45). -/
def injectionHeld (h : Nat) (s : State) : Bool := decide (s.wheel < (hallAt h s).holdUntil)

/-! ### Flits (R27, R36) -/

def putFlit (id : Nat) (f : Flit) (s : State) : State := { s with flits := tput s.flits id f }
def dropFlit (id : Nat) (s : State) : State := { s with flits := tdel s.flits id }
/-- A flit no entry names is discarded and counted in the router's drop counter. -/
def countDrop (node : Nat) (s : State) : State := { s with drops := tput s.drops node (tget s.drops node 0 + 1) }

/-! ### Pod ports (R46, R47, R57) -/

/-- Flits go out on a port's link: each as sealed, and the tag of sixteen after every sixteenth. -/
def emitPod (g i : Nat) (fs : List (Nat × BitVec 256)) (s : State) : State :=
  { s with outbox := s.outbox ++ fs.flatMap (fun f =>
    [Out.podFlit (BitVec.ofNat 3 i) (BitVec.ofNat 16 f.1) f.2] ++
    (if f.1 % 16 = 15 then [Out.podTag (BitVec.ofNat 3 i) (Config.gcmTag g (f.1 / 16 * 16))] else [])) }
/-- A flit of pairing g reaches port i: it takes the next sequence number and is kept until acknowledged; a port out of lock
holds it. -/
def sendPod (g i : Nat) (data : BitVec 256) (s : State) : State :=
  let p := portAt i s
  let c := Config.gcm g p.nextSeq.toNat data
  let s := setPort i { p with nextSeq := p.nextSeq + 1#16, replay := p.replay ++ [(p.nextSeq.toNat, c)] } s
  if p.state = .locked then emitPod g i [(p.nextSeq.toNat, c)] s else s
/-- The replay buffer is full of unacknowledged flits: injection on the port's circuits is suspended. -/
def podFull (h : Option PodHalf) (s : State) : Bool :=
  match h with
  | some x => x.outward && decide (4096 ≤ (portAt x.port s).replay.length)
  | none => false

/-- A peer's flit at the bank a pod half ends at: a request of R32, performed under the local function's key.  Its kinds are
read, write and the atomics of R324; the reply's 32 bytes go back by the port (log 40). -/
def peerRequest (c : Nat) (v : Circ) (inj : Nat) (d : BitVec 256) (s : State) : State :=
  let (id, s) := newId s
  let op := bitsN d 80 6
  let i := ((List.range v.paths.length).find? (fun i => match v.paths[i]? with
    | some p => p.inj == inj % pathTurn p s && p.stage != .gone
    | none => false)).getD 0
  let kind := if bitsN d 52 4 = 2 ∧ 17 ≤ op then 15 else bitsN d 52 4
  let pa := bitsN d 0 52
  let r : Req := { reqZero with
    vf := v.vf, core := endsSrc v.ends, grp := id, kind := BitVec.ofNat 4 kind, op := BitVec.ofNat 6 op, scope := BitVec.ofNat 3 (bitsN d 88 3)
    w32 := bitB d 87, pa := BitVec.ofNat 52 pa, va := BitVec.ofNat 64 (bitsN d 56 4 * 2 ^ 56), size := 2 ^ min 5 (bitsN d 60 3)
    data := BitVec.ofNat 128 (if kind = 2 then bitsN d 128 64 else bitsN d 128 128), compare := BitVec.ofNat 128 (bitsN d 192 64)
    reg := if kind = 1 then 300 else 0, route := .circuit c, slotIdx := i, seq := BitVec.ofNat 9 (bitsN d 71 9), sent := true
    peer := some c }
  post 0 .memoryRequestArrive (argId id) (setReq id (if inMemory pa ∧ bankOf pa = endsBank v.ends then r else { r with kind := 15#4 }) s)

/-- The pod half a flit's circuit is. -/
def podOf (f : Flit) (s : State) : Option (Circ × PodHalf) :=
  (f.circ.bind (fun c => circAt c s)).bind (fun v => v.pod.map (fun h => (v, h)))

/-- A flit at its destination's local port. -/
def deliverFlit (f : Flit) (s : State) : State :=
  match f.load with
  | .request r => post 0 .memoryRequestArrive (argId r) s
  | .continuation r => post 0 .memoryRequestArrive { argId r with n := 3#8 } s
  | .reply r =>
    let q := reqAt r s
    match q.peer with
    | some c =>
      let s := dropReq r s
      (match (circAt c s).bind (fun v => v.pod) with
       | some h => sendPod h.grant h.port q.value s
       | none => s)
    | none =>
      post 0 (if q.kind = 0#4 then .loadReply
        else if q.kind = 2#4 ∧ q.reg ≠ 300 then .atomicReply
        else if q.kind = 2#4 ∧ 16 ≤ q.op.toNat then .atomicReply else .storeAck) (argId r) s
  | .element d n =>
    match podOf f s with
    | some (v, h) =>
      if h.outward then sendPod h.grant h.port d s
      else if v.ends.dstKind ≠ 0 then peerRequest (f.circ.getD 0) v f.inj d s
      else post 0 .streamFlitArrive
        { argCore f.dstCore with id := f.circ.getD 0, vf := f.vf, wide := d.setWidth 384, n := BitVec.ofNat 8 n } s
    | none =>
      post 0 .streamFlitArrive
        { argCore f.dstCore with id := f.circ.getD 0, vf := f.vf, wide := d.setWidth 384, n := BitVec.ofNat 8 n } s
  | .message m => post 0 .messageArrive (argId m) s

/-- The flit at slot `wheel`: it takes its next output: it crosses a link of the torus, is delivered at the local port, or
leaves by the floor port (R27).  A standing flit in flight when W falls below 256 finds no entry and is discarded (DESIGN CHOICE,
log 48). -/
def moveFlit (id : Nat) (s : State) : State :=
  match tfind s.flits id with
  | none => s
  | some f =>
    match f.hops with
    | (port, link) :: rest =>
      let slot := s.wheel % (hallAt f.hall s).w
      let ok := match f.circ with
        | none => decide (256 ≤ (hallAt f.hall s).w)
        | some c => entryForwards (entryAt f.node port link slot s) f.vf c f.inp
      if !ok then dropFlit id (countDrop f.node s)
      else if port = 4 then deliverFlit f (dropFlit id s)
      else if port = 5 then
        match f.floor with
        | some (h, (_, rx) :: _) =>
          -- the connection table maps this channel and slot to the destination's receive channel
          if tget s.floor (floorKey f.hall (channelOf f.node) (s.wheel % 1024)) 0 = 1 + 32 * h + rx then
            post 12 .floorTransfer { argId id with hall := BitVec.ofNat 4 h } s
          else dropFlit id (countDrop f.node s)
        | _ => dropFlit id (countDrop f.node s)
      else
        post 1 .flitHop (argId id)
          (putFlit id { f with node := neighbour f.node port, inp := (oppositePort port, link), hops := rest } s)
    | [] => dropFlit id (countDrop f.node s)

/-- FLOOR_TRANSFER: the flit is at the destination hall's floor port and goes on (R36). -/
def landFlit (id : Nat) (s : State) : State :=
  match tfind s.flits id with
  | none => s
  | some f =>
    match f.floor with
    | some (h, (_, rx) :: hops) =>
      moveFlit id (putFlit id { f with hall := h, node := attachCore h rx, inp := (5, 0), hops := hops, floor := none } s)
    | _ => dropFlit id s

/-- Injects a flit in this slot. -/
def launchFlit (f : Flit) (s : State) : State :=
  let (id, s) := newId (charge ((f.circ.bind (fun c => circAt c s)).map Circ.vf |>.getD f.vf) 0 5 0 s)
  moveFlit id (putFlit id f s)

/-- Hops of a circuit path: ports of the route with the links chosen at setup. -/
def pathHops (a b : Nat) (links : List Nat) : List (Nat × Nat) := (routePorts a b).zip links

/-- The outputs of one way from a to b: to the local port there, or to the floor port and, past the floor, on. -/
def wayHops (a b : Nat) (w : Way) : List (Nat × Nat) × Option (Nat × List (Nat × Nat)) :=
  match w.floorCh with
  | none => (pathHops a b w.links ++ [(4, w.outl)], none)
  | some (tx, rx) =>
    (pathHops a (attachCore (coreHall a) tx) w.links ++ [(5, 0)],
     some (coreHall b, (5, rx) :: (pathHops (attachCore (coreHall b) rx) b w.links2 ++ [(4, w.outl)])))
/-- A flit of circuit n on one way from a to b. -/
def wayFlit (n : Nat) (vf : BitVec 7) (a b : Nat) (w : Way) (load : Load) (s : State) : Flit :=
  let h := wayHops a b w
  ⟨vf, coreHall a, a, a, some n, s.wheel, false, (4, w.inl), h.1, h.2, b, load⟩

/-- The flit of a circuit's path, and its reply flit. -/
def circFlit (n : Nat) (v : Circ) (p : Path) (load : Load) (s : State) : Flit :=
  wayFlit n v.vf (endsSrc p.ends) (endsDst p.ends) p.out load s
def circReply (n : Nat) (v : Circ) (p : Path) (load : Load) (s : State) : Flit :=
  wayFlit n v.vf (endsDst p.ends) (endsSrc p.ends) p.back load s
/-- A standing flit from core a to core b in translation slot n. -/
def standingFlit (vf : BitVec 7) (a b n : Nat) (load : Load) (s : State) : Flit :=
  ⟨vf, coreHall a, a, a, none, s.wheel, true, (4, n % 16), standingRoute n, none, b, load⟩

/-! ### One flit per link and slot (R26, R30, R31) -/

/-- The second flit of a CAS.q leaves core `node` in this slot: by the standing schedule, or by circuit c. -/
def secondDue (node : Nat) (c : Option Nat) (s : State) : Bool :=
  s.agenda.any (fun d => d.slot == s.wheel && d.ev == .flitInject && d.args.n == 3#8 &&
    (let q := reqAt d.args.id s
     match c with
     | none => q.route == .standing && q.core == node
     | some c => q.route == .circuit c))
/-- A standing flit has left this router in this slot: the standing slot of a link serves one injecting party. -/
def slotTaken (node : Nat) (s : State) : Bool :=
  s.flits.any (fun e => e.2.standing && e.2.inj == s.wheel && e.2.origin == node)
/-- A reply of a controller at this router is to leave in this slot: it goes before a request or message (R33). -/
def replyDue (node : Nat) (s : State) : Bool :=
  s.agenda.any (fun d => d.slot == s.wheel && d.ev == .memoryReplyInject &&
    (let q := reqAt d.args.id s
     q.route == .standing && bankCore (bankOf q.pa.toNat) == node))
/-- A request or message may not leave this router by the standing schedule now. -/
def standingHeld (node : Nat) (s : State) : Bool := slotTaken node s || secondDue node none s || replyDue node s

/-- A circuit across the floor with a hall out of lock: its flits wait at their stream units (R45). -/
def floorDown (e : Ends) (s : State) : Bool :=
  e.srcHall != e.dstHall && ((hallAt e.srcHall s).lock != .locked || (hallAt e.dstHall s).lock != .locked)

/-- What a flit that wants to leave by a circuit in this slot finds: its path, or a slot in which it looks again. -/
inductive Turn where
  | go (v : Circ) (i : Nat) (p : Path)
  | later (slot : Nat)

/-- R30, R45, R46: the circuit is the function's and starts at this core, its floor is up, its port's buffer is not full, its
hall's torus takes injections, and this is an injection slot no flit of it has taken. -/
def circuitTurn (vf : BitVec 7) (core c : Nat) (s : State) : Turn :=
  match circAt c s with
  | none => .later (nextBoundary s)
  | some v =>
    if v.vf ≠ vf ∨ podFull v.pod s then .later (nextBoundary s)
    else if injectionHeld (coreHall core) s then .later (hallAt (coreHall core) s).holdUntil
    else
      match nextInjection v core s.wheel s with
      | none => .later (nextBoundary s)
      | some (t, i) =>
        match v.paths[i]? with
        | none => .later (nextBoundary s)
        | some p =>
          if floorDown p.ends s then .later (nextBoundary s)
          else if t ≠ s.wheel then .later (lookAgain t s)
          else if v.last = s.wheel + 1 ∨ secondDue 0 (some c) s then
            (match nextInjection v core (s.wheel + 1) s with | some (t, _) => .later (lookAgain t s) | none => .later (nextBoundary s))
          else .go v i p
/-- A flit leaves by a circuit's path. -/
def launchCircuit (c : Nat) (v : Circ) (p : Path) (load : Load) (s : State) : State :=
  launchFlit (circFlit c v p load s) (setCirc c { v with last := s.wheel + 1 } s)

/-! ### Routes (R156, R157) -/

/-- A strand's access that cannot travel rides the transit channel between halls, or, in a D-mode partition, a circuit
where the function has one (R107, R140). -/
def routeFor (vf : BitVec 7) (core : Nat) (pa : Nat) (dmode : Bool) (s : State) : Route :=
  let b := bankOf pa
  if homeOf pa ≠ coreHall core then
    match (if dmode then circuitTo vf core b s else none) with
    | some c => .circuit c
    | none => .remote
  else if b = core then .near
  else if hasStanding (coreHall core) s then .standing
  else match circuitTo vf core b s with | some c => .circuit c | none => .standing

/-- Another standing request of this core to the same bank holds its request register there, or is on its way (R33; one on the
wait list of R318 has left it). -/
def standingBusy (id : Nat) (r : Req) (s : State) : Bool :=
  s.reqs.any (fun e => e.1 != id && e.2.core == r.core && e.2.route == .standing && e.2.sent && !e.2.arrived && !e.2.waiting &&
    bankOf e.2.pa.toNat == bankOf r.pa.toNat)
/-- An earlier request of a circuit's source waits to leave by the circuit (R173). -/
def circuitQueued (id c : Nat) (s : State) : Bool :=
  s.reqs.any (fun e => decide (e.1 < id) && e.2.route == .circuit c && !e.2.sent && !e.2.waiting && !e.2.arrived)

/-- Puts a request on its way (R156): the near path and an attach router's own core reach the controller at once. -/
def dispatchReq (id : Nat) (s : State) : State :=
  let r := { reqAt id s with sent := false, parts := 0 }
  let s := setReq id r s
  let b := bankOf r.pa.toNat
  match r.route with
  | .near => post 0 .memoryRequestArrive (argId id) s
  | .standing =>
    let n := transSlot r.core (bankCore b)
    if n = 0 then
      if standingBusy id r s then post 1 .flitInject { argId id with n := 1#8 } s
      else post 0 .memoryRequestArrive (argId id) (setReq id { r with sent := true } s)
    else
      let w := (hallAt (coreHall r.core) s).w
      let t := if 256 ≤ w then nextMod (s.wheel + 1) w n else nextBoundary s
      postAt t .flitInject { argId id with n := 1#8 } s
  | .circuit c =>
    match (circAt c s).bind (fun v => nextInjection v r.core (s.wheel + 1) s) with
    | some (t, _) => postAt (lookAgain t s) .flitInject { argId id with n := 1#8 } s
    | none => postAt (nextBoundary s) .flitInject { argId id with n := 1#8 } s
  | .remote =>
    queueT { tmsgZero with
      kind := .remoteRequest, src := coreHall r.core, dst := homeOf r.pa.toNat, vf := r.vf, ctx := r.ctx, id := id } s

/-- The continuation of a CAS.q follows on the next turn of its path (R326). -/
def postSecond (id per : Nat) (r : Req) (s : State) : State :=
  if r.kind = 2#4 ∧ r.op = 17#6 then post per .flitInject { argId id with n := 3#8 } s else s

/-- FLIT_INJECT of a request: the first permitted slot of its standing entry or circuit (R30, R31). -/
def injectReq (id : Nat) (s : State) : State :=
  match tfind s.reqs id with
  | none => s
  | some r =>
    let b := bankOf r.pa.toNat
    let h := coreHall r.core
    let again (t : Nat) (s : State) : State := postAt t .flitInject { argId id with n := 1#8 } s
    if injectionHeld h s then again (hallAt h s).holdUntil s
    else
      match r.route with
      | .standing =>
        let n := transSlot r.core (bankCore b)
        let w := (hallAt h s).w
        if n = 0 then dispatchReq id s
        else if w < 256 then
          match circuitTo r.vf r.core b s with
          | some c => dispatchReq id (setReq id { r with route := .circuit c } s)
          | none => again (nextBoundary s) s
        else if s.wheel % w ≠ n then again (nextMod (s.wheel + 1) w n) s
        else if standingBusy id r s ∨ standingHeld r.core s then again (s.wheel + w) s
        else
          postSecond id w r (launchFlit (standingFlit r.vf r.core (bankCore b) n (.request id) s) (setReq id { r with sent := true } s))
      | .circuit c =>
        match circAt c s with
        | none => dispatchReq id (setReq id { r with route := routeFor r.vf r.core r.pa.toNat true s } s)
        | some v =>
          if v.vf ≠ r.vf then dispatchReq id (setReq id { r with route := routeFor r.vf r.core r.pa.toNat true s } s)
          else
            match circuitTurn r.vf r.core c s with
            | .later t => again t s
            | .go v i p =>
              if circuitQueued id c s then
                match nextInjection v r.core (s.wheel + 1) s with
                | some (t, _) => again (lookAgain t s) s
                | none => again (nextBoundary s) s
              else
                postSecond id (pathTurn p s) r
                  (launchCircuit c v p (.request id) (setReq id { r with slotIdx := i, sent := true } s))
      | _ => dispatchReq id s

/-- FLIT_INJECT of a CAS.q's continuation, a turn after its first flit on the same path; one that finds the slot gone does
not follow. -/
def injectSecond (id : Nat) (s : State) : State :=
  match tfind s.reqs id with
  | none => s
  | some r =>
    if injectionHeld (coreHall r.core) s then s
    else
      match r.route with
      | .standing =>
        let b := bankCore (bankOf r.pa.toNat)
        if slotTaken r.core s then s
        else launchFlit (standingFlit r.vf r.core b (transSlot r.core b) (.continuation id) s) s
      | .circuit c =>
        (match circAt c s with
         | some v =>
           (match v.paths[r.slotIdx]? with
            | some p => if floorDown p.ends s ∨ p.susp ∨ p.stage ≠ .live then s else launchCircuit c v p (.continuation id) s
            | none => s)
         | none => s)
      | _ => s

/-! ### At the controller (R33, R41, R42) -/

/-- Standing service position of a request at its bank (R41). -/
def standingPos (r : Req) : Nat :=
  let b := bankOf r.pa.toNat
  if b < 4096 then 4 * transSlot r.core b
  else let c := r.core % 256; 64 * (c / 16) + 3 * (c % 16) + 1

/-- The service slot of a request that arrives now. -/
def serviceSlot (id : Nat) (s : State) : Nat × State :=
  let r := reqAt id s
  let b := bankOf r.pa.toNat
  let lo := s.wheel + bankFloor b
  match r.route with
  | .standing => if hasStanding (bankHall b) s then (nextMod lo 1024 (standingPos r), s) else serveFree b lo s
  | .circuit c =>
    match (circAt c s).bind (fun v => v.paths[r.slotIdx]?) with
    | some p => (match p.pos with | some q => (nextMod lo (pathTurn p s) q, s) | none => serveFree b lo s)
    | none => serveFree b lo s
  | .near => serveFree b (lo + 1) s
  | .remote => serveFree b lo s

/-- The request takes its service position. -/
def takePosition (id : Nat) (s : State) : State :=
  let (t, s) := serviceSlot id s
  postAt t .memoryService (argId id) s
/-- A CAS.q that comes in two flits (R326). -/
def twoFlits (r : Req) : Bool :=
  r.kind == 2#4 && r.op == 17#6 &&
  (match r.route with
   | .standing => transSlot r.core (bankCore (bankOf r.pa.toNat)) != 0
   | .circuit _ => true
   | _ => false)
/-- A request-error reply: nothing is performed. -/
def refuseReq (id : Nat) (s : State) : State := servedReq id 0 4 s

/-- MEMORY_REQUEST_ARRIVE: `n` = 0 a request, 3 a continuation, 1 the turn by which a continuation must have followed. -/
def arriveReq (id : Nat) (n : BitVec 8) (s : State) : State :=
  match tfind s.reqs id with
  | none => s
  | some r =>
    if n = 0#8 then
      if twoFlits r then
        let per := (hallAt (coreHall r.core) s).w
        post (per + 1) .memoryRequestArrive { argId id with n := 1#8 } (setReq id { r with parts := 1 } s)
      else takePosition id s
    else if n = 3#8 then
      if r.parts = 1 then takePosition id (setReq id { r with parts := 2 } s) else refuseReq id s
    else if r.parts = 1 then refuseReq id (setReq id { r with parts := 3 } s)
    else s

/-- The request takes a newel number. -/
def numbered (r : Req) : Bool := r.kind == 2#4 && decide (r.op.toNat ≤ 17) && (r.scope == 0#3 || decide (5 ≤ r.scope.toNat))
/-- A strand's scoped atomic of `.pkg` or `.pod` takes a number from the newel, logged in D-mode (R182, R112). -/
def newelFor (r : Req) (s : State) : LogRes :=
  if numbered r then
    match logStrand (reqSid r) 3 (BitVec.ofNat 64 s.newel) s with
    | .go _ s => .go 0 (takeNewel s).2
    | x => x
  else .go 0 s

/-- The function a request's service position and flits are charged to: its circuit's owner, or, on a standing circuit, the near
path or the transit channel, its own (R73; log 49). -/
def payer (r : Req) (s : State) : BitVec 7 :=
  match r.route with
  | .circuit c => ((circAt c s).map Circ.vf).getD r.vf
  | _ => r.vf

/-- MEMORY_SERVICE: one access or step; a full/empty condition not met waits in the bank's list of 64, or is answered
unmet (R318). -/
def serveReq (id : Nat) (s : State) : State :=
  match tfind s.reqs id with
  | none => s
  | some r =>
    let b := bankOf r.pa.toNat
    let due := if numbered r then strandDue (reqSid r) s else 0
    if due ≠ 0 then post due .memoryService (argId id) s
    else
    let s := charge (payer r s) 0 4 b s
    match newelFor r s with
    | .wait s => post 1024 .memoryService (argId id) s
    | .diverged e s => divergeStrand (reqSid r) e s
    | .go _ s =>
      match performReq r s with
      | (v, st, s') =>
        let s' := setReq id r s'
        if st = 3 then
          let k := bankAt b s
          if k.waits.length < 64 then
            let s := setReq id { r with waiting := true, served := s.wheel } (setBank b { k with waits := k.waits ++ [id] } s)
            let s := if (strandAt (reqSid r) s).leaving then post 1 .withdrawal (argId id) s else s
            stallOf (reqSid r) (if r.op.toNat = 34 then 4 else 2) (r.va.setWidth 56) s
          else servedReq id v 3 s
        else bankChanged r.pa.toNat (servedReq id v st s')

/-- The reply reaches the core (where the standing schedule is gone when it is due, it goes in slot 0 and is discarded,
DESIGN CHOICE, log 48): by the near path one slot later, over the transit channel, or by a reply slot
(R33, R42, R157). -/
def doneReq (id : Nat) (s : State) : State :=
  match tfind s.reqs id with
  | none => s
  | some r =>
    let b := bankOf r.pa.toNat
    let f := bankFloor b
    let now (n : Nat) : State :=
      deliverFlit ⟨r.vf, coreHall r.core, r.core, r.core, none, 0, true, (4, 0), [], none, r.core, .reply id⟩ { s with wheel := s.wheel + n }
    match r.route with
    | .near => { now 1 with wheel := s.wheel }
    | .remote =>
      queueT { tmsgZero with
        kind := .remoteReply, src := bankHall b, dst := coreHall r.core, vf := r.vf, ctx := r.ctx, id := id } s
    | .standing =>
      let n := transSlot r.core (bankCore b)
      if n = 0 then { now (f + 1) with wheel := s.wheel }
      else
        let w := (hallAt (coreHall r.core) s).w
        postAt (nextMod (s.wheel + f) w (if 256 ≤ w then reverseSlot n else 0)) .memoryReplyInject (argId id) s
    | .circuit c =>
      match (circAt c s).bind (fun v => v.paths[r.slotIdx]?) with
      | some p => postAt (nextMod (s.wheel + f) (pathTurn p s) p.reply) .memoryReplyInject (argId id) s
      | none => { now (f + 1) with wheel := s.wheel }

/-- MEMORY_REPLY_INJECT: a reply waits while its torus takes no injection or its floor is down (R45), and a turn where
another flit has its slot. -/
def injectReply (id : Nat) (s : State) : State :=
  match tfind s.reqs id with
  | none => s
  | some r =>
    let b := bankOf r.pa.toNat
    let h := bankHall b
    let again (t : Nat) : State := postAt t .memoryReplyInject (argId id) s
    match r.route with
    | .circuit c =>
      match circAt c s with
      | some v =>
        match v.paths[r.slotIdx]? with
        | some p =>
          if injectionHeld h s then again (nextMod (hallAt h s).holdUntil (pathTurn p s) p.reply)
          else if floorDown p.ends s then again (nextMod (nextBoundary s) (pathTurn p s) p.reply)
          else launchFlit (circReply c v p (.reply id) s) s
        | none => s
      | none => s
    | _ =>
      let n := reverseSlot (transSlot r.core (bankCore b))
      let w := (hallAt (coreHall r.core) s).w
      if injectionHeld h s then again (nextMod (hallAt h s).holdUntil w n)
      else if slotTaken (bankCore b) s ∨ secondDue (bankCore b) none s then again (s.wheel + w)
      else launchFlit (standingFlit r.vf (bankCore b) r.core n (.reply id) s) s

/-! ### At the strand (R194, R206, R210, R319) -/

def dropGroup (g : Nat) (s : State) : State := { s with reqs := s.reqs.filter (fun e => e.2.grp != g) }
/-- The destination code of a request that returns no value, or probes tags for a store: it counts as a store. -/
def noReturn : Nat := 300
/-- A request counts in the loads count (R206). -/
def countsLoad (r : Req) : Bool := (r.kind == 0#4 || r.kind == 2#4) && r.reg != noReturn

/-- A loaded scalar, extended. -/
def loadedWord (r : Req) : Word :=
  let v := r.value.toNat % 2 ^ (8 * r.size)
  if r.sext then sext64 (8 * r.size) v else BitVec.ofNat 64 v

/-- A vector with the bytes of a group's replies set. -/
def mergeGroup (rs : List (Nat × Req)) (v : Vec) : Vec :=
  rs.foldl (fun v e => setBits v (8 * e.2.off) (8 * e.2.size) e.2.value.toNat) v

/-- The status of a group: the first that is not 0, with its request. -/
def groupFailure (rs : List (Nat × Req)) : Option Req := (rs.find? (fun e => e.2.status != 0#8)).map Prod.snd

/-- Writes a retired load's data back, or marks its destination errored (R194, R210). -/
def writeBack (k : Nat) (rs : List (Nat × Req)) (s : State) : State :=
  match rs with
  | [] => s
  | (_, r) :: _ =>
    let s := modStrand k (fun t => { t with pending := t.pending.filter (fun c => c != r.reg) }) s
    match groupFailure rs with
    | some f => modStrand k (fun t => { t with errored := t.errored ++ [⟨r.reg, f.va, f.pc⟩] }) s
    | none =>
      if r.reg < 32 then writeS k (BitVec.ofNat 5 r.reg) (loadedWord r) s
      else if r.reg < 64 then
        let j := BitVec.ofNat 5 (r.reg - 32)
        writeV k j (mergeGroup rs (readV k j s)) s
      else s

/-- A reply arrives (R206, R319): an unmet one is sent again 64 core cycles later; when the group is whole, the waiting
instruction goes on, or the retired one's data is written back and its count goes down. -/
def arriveReply (id : Nat) (s : State) : State :=
  match tfind s.reqs id with
  | none => s
  | some r =>
    let k := reqSid r
    if r.status = 3#8 then
      let s := stallOf k (if r.op.toNat = 34 then 4 else 2) (r.va.setWidth 56) s
      let s := if (strandAt k s).leaving then post 1 .withdrawal (argId id) s else s
      post (cyclesToSlots r.core 64 s) .feResend (argId id)
        (setReq id { r with status := 255#8, sent := true, waiting := true } s)
    else
      let s := setReq id { r with arrived := true } s
      let rs := groupReqs r.grp s
      if rs.any (fun e => !e.2.arrived) then s
      else
        let s := modStrand k (fun t =>
          if countsLoad r then { t with loads := t.loads - 1 } else { t with stores := t.stores - 1 }) s
        let s := if (strandAt k s).hold = 3#4 then wakeStrand k s else s
        match (strandAt k s).wait with
        | .reply g =>
          if g = r.grp then
            let f := (groupFailure rs).getD r
            modStrand k (fun t => { t with wait := .answered g f.value f.status, stall := none }) s
          else dropGroup r.grp (if countsLoad r then writeBack k rs s else s)
        | _ => dropGroup r.grp (if countsLoad r then writeBack k rs s else s)

/-- FE_RESEND: the request goes out again (R318). -/
def resendReq (id : Nat) (s : State) : State :=
  match tfind s.reqs id with
  | none => s
  | some r => dispatchReq id (setReq id { r with waiting := false } s)

/-- A withdrawal reaches the controller (R320): a request not yet performed is withdrawn, its instruction has taken no
effect and the strand leaves; one performed first retires its instruction. -/
def withdrawReq (id : Nat) (s : State) : State :=
  match tfind s.reqs id with
  | none => s
  | some r =>
    if !r.waiting then s
    else
      let k := reqSid r
      let b := bankOf r.pa.toNat
      let bk := bankAt b s
      let s := setBank b { bk with waits := bk.waits.filter (fun x => x != id) } s
      let s := modStrand k (fun t =>
        let t := if countsLoad r then { t with loads := t.loads - 1 } else { t with stores := t.stores - 1 }
        { t with wait := .none }) s
      dropGroup r.grp s

/-! ### The transit transmitter (R137, R138) -/

/-- TRANSMAP's byte in force for a floor slot. -/
def transByte (g t : Nat) (s : State) : Nat :=
  match (hallAt g s).transmap with
  | some l => ((l[t % 1024]?).getD 0#8).toNat
  | none => 0

/-- Messages of a hall still to be sent to a destination. -/
def transitQueue (g d : Nat) (s : State) : List (Nat × TMsg) :=
  s.tmsgs.filter (fun e => e.2.src == g && e.2.dst == d && decide (e.2.sent < e.2.flits))

/-- The functions after one, in ascending order, wrapping. -/
def nextServed (last : Nat) (q : List (Nat × TMsg)) : Option (Nat × TMsg) :=
  (List.range 128).findSome? (fun i => q.find? (fun e => e.2.vf.toNat == (last + 1 + i) % 128))

/-- The event a received message brings. -/
def tEvent : TKind → Instr
  | .carry => .carryArrive
  | .lineRequest => .lineRequest
  | .lineReply => .lineReply
  | .lineWriteback => .transitLineWriteback
  | .writebackAck => .writebackAck
  | .remoteRequest => .remoteAccessRequest
  | .remoteReply => .remoteAccessReply
  | .controlDelta => .controlDelta
  | .mail => .messageArrive

/-- TRANSIT_FLIT_SEND: one flit in this floor slot (R138). -/
def sendTransit (g : Nat) (s : State) : State :=
  let d := (g + 1 + s.wheel % 15) % 16
  let q := transitQueue g d s
  let b := transByte g s.wheel s
  let hl := hallAt g s
  let last := tget hl.lastServed d 127
  let pick : Option (Nat × TMsg) :=
    if 128 ≤ b then q.find? (fun e => e.2.vf.toNat == b % 128)
    else
      match q.find? (fun e => 0 < e.2.sent) with
      | some e => some e
      | none => nextServed last q
  let s := match pick with
    | none => s
    | some (id, m) =>
      let s := if b < 128 ∧ m.sent = 0 then setHall g { hl with lastServed := tput hl.lastServed d m.vf.toNat } s else s
      let s := { s with tmsgs := tput s.tmsgs id { m with sent := m.sent + 1 } }
      if m.sent + 1 = m.flits then
        post (if m.kind = .carry ∨ m.kind = .lineReply then 13 else 12) (tEvent m.kind) (argId id) s
      else s
  if s.tmsgs.any (fun e => e.2.src == g && decide (e.2.sent < e.2.flits)) then
    post 1 .transitFlitSend (argHall g) s
  else s

end Sys2Proof.Machine
end

