-- ==== Sys2Proof/Machine/CircuitEvents.lean ====
section
/-! DEFINITION. CircuitEvents: the circuit manager and its records, configuration flits, circuits coming into and going
out of use, wheel changes, loss of lock, pod ports (R25, R29, R34 to R48). -/

namespace Sys2Proof.Machine

open Host

/-! ### Slots a circuit's entries take (R27, R34 to R36) -/

/-- W of a hall once its pending wheel changes have come: a circuit stands in a hall only after them (R25). -/
def wAhead (h : Nat) (s : State) : Nat :=
  match (s.agenda.filter (fun d => d.ev == .wheelChange && d.args.hall.toNat == h)).getLast? with
  | some d => d.args.v.toNat
  | none => (hallAt h s).w
/-- A hall's W is settled from a slot on: no pending change comes after it. -/
def wheelSettled (h slot : Nat) (s : State) : Bool :=
  s.agenda.all (fun d => !(d.ev == .wheelChange && d.args.hall.toNat == h && decide (slot < d.slot)))

/-- The slots of a table of w that recur with a slot t of period p. -/
def occurs (t p w : Nat) : List Nat :=
  if w ≤ p then [t % w] else (List.range (w / p)).map (fun j => t % p + p * j)
/-- Slots after which a path's injections recur: the wheel of its source hall. -/
def pathPeriod (p : Path) (s : State) : Nat := wAhead p.ends.srcHall s

/-- One leg of a way over a torus: hall, first router, the input port and link of its first entry, the outputs it takes, the
last a local or floor one, and the slot it starts in. -/
structure Leg where
  hall : Nat
  start : Nat
  inp : Nat × Nat
  hops : List (Nat × Nat)
  slot : Nat

/-- The entries of a leg whose injections recur with period p: key and entry (R28). -/
def legEntries (vf circ p : Nat) (s : State) (g : Leg) : List (Nat × Nat) :=
  let w := wAhead g.hall s
  let rec go (node : Nat) (inp : Nat × Nat) (k : Nat) : List (Nat × Nat) → List (Nat × Nat)
    | [] => []
    | (port, link) :: rest =>
      (occurs (g.slot + k) p w).map (fun t =>
        (entryKey node port link t, 1 + 2 * inp.1 + 16 * inp.2 + 2 ^ 8 * vf + 2 ^ 17 * circ)) ++
      go (neighbour node port) (oppositePort port, link) (k + 1) rest
  go g.start g.inp 0 g.hops

/-- Torus hops of a way before the floor, and its slots from injection to delivery (R36). -/
def wayTime (w : Way) : Nat :=
  match w.floorCh with
  | none => w.links.length
  | some _ => w.links.length + 12 + w.links2.length
/-- The legs of a way from a to b that starts in `slot`. -/
def wayLegs (a b slot : Nat) (w : Way) : List Leg :=
  let h := wayHops a b w
  ⟨coreHall a, a, (4, w.inl), h.1, slot⟩ ::
  (match h.2 with
   | some (g, (_, rx) :: hops) => [⟨g, attachCore g rx, (5, 0), hops, slot + w.links.length + 12⟩]
   | _ => [])

/-- All the legs of a path: the way out, and for a memory circuit the reply's way. -/
def pathLegs (p : Path) : List Leg :=
  wayLegs (endsSrc p.ends) (endsDst p.ends) p.inj p.out ++
  (if p.ends.dstKind = 0 then [] else wayLegs (endsDst p.ends) (endsSrc p.ends) p.reply p.back)
def pathEntries (n : Nat) (v : Circ) (p : Path) (s : State) : List (Nat × Nat) :=
  (pathLegs p).flatMap (legEntries v.vf.toNat n (pathPeriod p s) s)
/-- Keys of the entries a path injects through at its source. -/
def pathSource (n : Nat) (v : Circ) (p : Path) (s : State) : List Nat :=
  match pathLegs p with
  | g :: _ => (legEntries v.vf.toNat n (pathPeriod p s) s { g with hops := g.hops.take 1 }).map Prod.fst
  | [] => []
/-- The local input slots of a path: keys of router, link and slot (R26). -/
def inKey (node link t : Nat) : Nat := (node * 16 + link) * 1024 + t
def pathIns (p : Path) (s : State) : List Nat :=
  let one (a slot l : Nat) : List Nat := (occurs slot (pathPeriod p s) (wAhead (coreHall a) s)).map (inKey a l)
  one (endsSrc p.ends) p.inj p.out.inl ++ (if p.ends.dstKind = 0 then [] else one (endsDst p.ends) p.reply p.back.inl)
/-- The floor connections of a path: key of the table, destination hall and receive channel, floor slot (R35). -/
def pathFloor (p : Path) (s : State) : List (Nat × Nat × Nat) :=
  let one (a b slot : Nat) (w : Way) : List (Nat × Nat × Nat) :=
    match w.floorCh with
    | none => []
    | some (tx, rx) =>
      (occurs (slot + w.links.length) (pathPeriod p s) 1024).map (fun t => (floorKey (coreHall a) tx t, 32 * coreHall b + rx, t))
  one (endsSrc p.ends) (endsDst p.ends) p.inj p.out ++
  (if p.ends.dstKind = 0 then [] else one (endsDst p.ends) (endsSrc p.ends) p.reply p.back)
/-- Keys of the service positions a path owns. -/
def pathPositions (p : Path) (s : State) : List Nat :=
  match p.pos with
  | some q => (occurs q (pathPeriod p s) 1024).map (fun t => endsBank p.ends * 1024 + t)
  | none => []
/-- Slots from injection to service of a memory path, to delivery of a stream one. -/
def pathServed (p : Path) (s : State) : Nat :=
  let a := p.inj + wayTime p.out
  match p.pos with
  | none => a - p.inj
  | some q => nextMod (a + (if p.ends.dstKind = 2 then 12 else 0)) (pathPeriod p s) q - p.inj
/-- Latency of a path from injection to delivery, of the reply for a memory circuit (R36, R44). -/
def pathLatency (p : Path) (s : State) : Nat :=
  match p.pos with
  | none => pathServed p s
  | some _ =>
    let ready := p.inj + pathServed p s + bankA (endsBank p.ends) + (if p.ends.dstKind = 2 then 12 else 0)
    nextMod ready (pathPeriod p s) p.reply + wayTime p.back - p.inj

/-! ### Choosing a combination (R39) -/

/-- What accepted requests hold: entries, local input slots, transmit slots, receive slots, positions. -/
structure Held where
  entries : List Nat
  ins : List Nat
  tx : List Nat
  rx : List (Nat × Nat)
  pos : List Nat

def heldBy (s : State) : Held :=
  s.circs.foldl (fun h e =>
    e.2.paths.foldl (fun h p =>
      if p.stage == .gone then h
      else
        let fl := pathFloor p s
        ⟨(pathEntries e.1 e.2 p s).map Prod.fst ++ h.entries, pathIns p s ++ h.ins, fl.map (fun x => x.1) ++ h.tx,
         fl.map (fun x => x.2) ++ h.rx, pathPositions p s ++ h.pos⟩) h) ⟨[], [], [], [], []⟩

/-- Slots a hall leaves to the injections of dedicated circuits: not slot 0, nor the standing schedule's (R29, R31). -/
def injectable (w t : Nat) : Bool :=
  decide (t < w) && (if w < 256 then decide (0 < t) else decide (256 < t))
/-- An entry that is not the standing schedule's, and that nothing holds; a flit under way crosses slot 0 (R29, R395). -/
def entryFree (w port link t key : Nat) (h : Held) : Bool :=
  !(decide (512 ≤ w) && t == 256) && !(decide (256 ≤ w) && (standingEntry w port link t).isSome) &&
  !h.entries.contains key

/-- Links for the outputs of a leg: at each the lowest that is free in all its slots; a floor port leads on by link 0. -/
def takeLinks (w per : Nat) : Nat → Nat → List Nat → Held → Option (List Nat × Held)
  | _, _, [], h => some ([], h)
  | node, slot, port :: rest, h =>
    let ts := occurs slot per w
    let links := if port = 5 then [0] else List.range 16
    match links.find? (fun l => ts.all (fun t => entryFree w port l t (entryKey node port l t) h)) with
    | none => none
    | some l =>
      (takeLinks w per (neighbour node port) (slot + 1) rest
        { h with entries := ts.map (entryKey node port l) ++ h.entries }).map (fun r => (l :: r.1, r.2))

/-- One way from a to b that starts in `slot`: its links and floor channels, with what is then held. -/
def takeWay {α : Type} (a b slot per : Nat) (s : State) (h : Held) (k : Way → Held → Option α) : Option α :=
  let w := wAhead (coreHall a) s
  let its := occurs slot per w
  match (List.range 16).find? (fun l => its.all (fun t => !h.ins.contains (inKey a l t))) with
  | none => none
  | some inl =>
    let h := { h with ins := its.map (inKey a inl) ++ h.ins }
    if coreHall a = coreHall b then
      match takeLinks w per a slot (routePorts a b ++ [4]) h with
      | some (ls, h) => k ⟨inl, ls.dropLast, none, [], ls.getLastD 0⟩ h
      | none => none
    else
      (List.range 32).findSome? (fun tx =>
        let ports := routePorts a (attachCore (coreHall a) tx)
        let ts := occurs (slot + ports.length) per 1024
        let keys := ts.map (floorKey (coreHall a) tx)
        if keys.any h.tx.contains then none
        else
          match takeLinks w per a slot (ports ++ [5]) h with
          | none => none
          | some (ls, h) =>
            (List.range 32).findSome? (fun rx =>
              let r := attachCore (coreHall b) rx
              let ins := ts.map (fun t => (32 * coreHall b + rx, t))
              if ins.any h.rx.contains then none
              else
                match takeLinks (wAhead (coreHall b) s) per r (slot + ports.length + 12) (routePorts r b ++ [4]) h with
                | none => none
                | some (ls2, h) =>
                  k ⟨inl, ls.dropLast, some (tx, rx), ls2.dropLast, ls2.getLastD 0⟩
                    { h with tx := keys ++ h.tx, rx := ins ++ h.rx }))

/-- Positions a circuit may own: shared or pool ones, withdrawable ones only with the record's shared bit (R38, R41). -/
def positionFits (b t : Nat) (shared : Bool) (s : State) : Bool :=
  match posClass b t (decide (256 ≤ wAhead (bankHall b) s)) with
  | .sharedKept | .pool => true
  | .sharedWithdrawable => shared
  | _ => false
def isWithdrawable (b t : Nat) (s : State) : Bool :=
  match posClass b t (decide (256 ≤ wAhead (bankHall b) s)) with | .sharedWithdrawable => true | _ => false
def isPool (b t : Nat) (s : State) : Bool :=
  match posClass b t (decide (256 ≤ wAhead (bankHall b) s)) with | .pool => true | _ => false

/-- A new path serves, or delivers, in the order of injection beside another of its circuit: one set up with it, or an old one
that a resize ends at the turn in which the new one begins (R34, R173, R186; DEDUCED, log 48). -/
def keepsOrder (old : Bool) (p q : Path) (s : State) : Bool :=
  if p.ends != q.ends then true
  else
    let per := pathPeriod p s
    let t := p.inj + pathServed p s
    let u := q.inj + pathServed q s
    if old then decide (u < t + per)
    else if p.inj < q.inj then decide (t < u ∧ u < t + per) else decide (u < t ∧ t < u + per)

/-- The service position and the reply of a path (R34): with the shared bit, shared positions before pool ones. -/
def takeService {α : Type} (shared : Bool) (p : Path) (per : Nat) (s : State) (h : Held) (ok : Path → Bool)
    (k : Path → Held → Option α) : Option α :=
  if p.ends.dstKind = 0 then (if ok p then k p h else none)
  else
    let b := endsBank p.ends
    let f := if p.ends.dstKind = 2 then 12 else 0
    let a := p.inj + wayTime p.out + f
    let fits (pool : Bool) (i : Nat) : Bool :=
      let ts := occurs (a + i) per 1024
      ts.all (fun t => positionFits b t shared s && !h.pos.contains (b * 1024 + t)) &&
        (!shared || (ts.any (fun t => isPool b t s) == pool)) && ok { p with pos := some ((a + i) % per) }
    let cands := (List.range per).filter (fits false) ++ (if shared then (List.range per).filter (fits true) else [])
    let wd := wAhead p.ends.dstHall s
    cands.findSome? (fun i =>
      let ts := occurs (a + i) per 1024
      let ready := a + i + bankA b + f
      (List.range per).findSome? (fun d =>
        let j := ready + d
        if !(occurs j per wd).all (injectable wd) then none
        else
          takeWay (endsDst p.ends) (endsSrc p.ends) (j % per) per s
            { h with pos := ts.map (fun t => b * 1024 + t) ++ h.pos }
            (fun w h => k { p with
              pos := some ((a + i) % per), reply := j % per, back := w,
              withdrawable := ts.any (fun t => isWithdrawable b t s) } h)))

def noWay : Way := ⟨0, [], none, [], 0⟩
/-- Paths for the injection slots of a request, in order: a slot of 0 is the manager's to choose.  `old` are the paths a
resize ends, `got` those found. -/
def takePaths (e : Ends) (shared : Bool) (per : Nat) (old : List Path) (s : State) :
    List Nat → List Path → Held → Option (List Path)
  | [], _, _ => some []
  | n :: rest, got, h =>
    (if n = 0 then (List.range per).filter (fun t => got.all (fun p => p.inj != t)) else [n]).findSome? (fun i =>
      if !injectable per i then none
      else
        takeWay (endsSrc e) (endsDst e) i per s h (fun w h =>
          takeService shared ⟨e, i, w, none, 0, noWay, false, false, .pending, false⟩ per s h
            (fun p => got.all (fun q => keepsOrder false p q s) && old.all (fun q => keepsOrder true p q s)) (fun p h =>
            (takePaths e shared per old s rest (got ++ [p]) h).map (fun ps => p :: ps))))

/-- The named slots can be linked together, whatever floor channels are held: the other half of conflict (R39). -/
def namedFit (e : Ends) (per : Nat) (s : State) : List Nat → Held → Bool
  | [], _ => true
  | i :: rest, h =>
    injectable per i &&
    (takeWay (endsSrc e) (endsDst e) i per s
      { h with tx := [], rx := [], entries := h.entries.filter (fun k => k / (16 * 1024) % 6 != 5) }
      (fun _ h => if namedFit e per s rest h then some () else none)).isSome

/-! ### Configuration flits (R29, R39) -/

/-- Entry writes by router. -/
def byRouter (es : List (Nat × Nat)) : List (Nat × List (Nat × Nat)) :=
  let node (e : Nat × Nat) : Nat := e.1 / (6 * 16 * 1024)
  ((es.map node).eraseDups).map (fun n => (n, es.filter (fun e => node e == n)))
/-- The first n slots 0 of a router's hall after now that carry no configuration flit yet. -/
def configSlots (node : Nat) (s : State) : Nat → Nat → Nat → List Nat
  | 0, _, _ => []
  | _, _, 0 => []
  | fuel + 1, t, n + 1 =>
    let w := (hallAt (coreHall node) s).w
    if s.agenda.any (fun d => d.slot == t && d.ev == .configFlit && d.args.core.toNat == node) then
      configSlots node s fuel (t + w) (n + 1)
    else t :: configSlots node s fuel (t + w) n
/-- Four writes to a flit. -/
def chunks4 : Nat → List (Nat × Nat) → List (List (Nat × Nat))
  | 0, _ => []
  | _, [] => []
  | n + 1, l => l.take 4 :: chunks4 n (l.drop 4)
/-- The flits of a request: slot, router, writes; `empty` flits carry a teardown's suspension, applied at its turn. -/
def configPlan (es : List (Nat × Nat)) (apply : Bool) (s : State) : List (Nat × Nat × List (Nat × Nat)) :=
  (byRouter es).flatMap (fun (node, l) =>
    let cs := chunks4 l.length l
    let w := (hallAt (coreHall node) s).w
    let ts := configSlots node s (cs.length + s.agenda.length) ((s.wheel / w + 1) * w) cs.length
    (ts.zip cs).map (fun (t, c) => (t, node, if apply then c else [])))
def postPlan (plan : List (Nat × Nat × List (Nat × Nat))) (s : State) : State :=
  plan.foldl (fun s (t, node, c) => postAt t .configFlit { argCore node with pairs := c } s) s

/-- CONFIG_FLIT. -/
def execConfigFlit (s : State) : Outcome State Fault Refusal :=
  .next { s with entries := (s.ev.pairs.take 4).foldl (fun t e => tput t e.1 (BitVec.ofNat 32 e.2)) s.entries }

/-! ### Records (R37, R38) -/

def cmSize (vf : BitVec 7) (s : State) : Nat := let z := regN vf 0x10000 0 4 s; 2 ^ ((if 8 < z then 8 else z) + 4)
def cmHead (vf : BitVec 7) (s : State) : Nat := regN vf 0x10010 0 16 s
def cmTail (vf : BitVec 7) (s : State) : Nat := regN vf 0x10008 0 16 s
def cmAddr (vf : BitVec 7) (s : State) : Nat := regN vf 0x10000 6 46 s * 64 + 64 * (cmHead vf s % cmSize vf s)
def cmRecord (vf : BitVec 7) (s : State) : BitVec 512 := BitVec.ofNat 512 (memVal (keyOf vf s) (cmAddr vf s) 64 s)

/-- The event that takes a record: one with no op of R38 is malformed, and CM_SETUP answers it. -/
def cmEvent (r : BitVec 512) : Instr :=
  match bitsN r 0 4 with
  | 2 => .cmTeardown
  | 3 => .cmResize
  | 4 => .cmSetWheel
  | 5 => .cmReadEntry
  | _ => .cmSetup
/-- The manager takes the function's next record, if there is one. -/
def cmNext (vf : BitVec 7) (s : State) : State :=
  if cmHead vf s = cmTail vf s then s else post 1 (cmEvent (cmRecord vf s)) (argVf vf) s

/-- Status of a record: done 0, conflict 1, no capacity 2, late 3, over budget 4, malformed 5. -/
structure CmRes where
  status : Nat
  circ : Option Nat
  entry : Option Nat

/-- The manager can take a record of the function's ring: it lies in memory, for a VF in its own granules.  A base elsewhere
breaks R37, and the function's requests then go unanswered (R7, log 22). -/
def cmReachable (vf : BitVec 7) (a : Nat) (s : State) : Bool := inMemory a && (vf == 0#7 || ownerIs vf a s)

/-- Takes the record at the head of the function's ring with the event of its op, and writes its status back.  A record with
an uncorrectable error is answered malformed (DESIGN CHOICE, log 22). -/
def cmTake (ev : Instr) (f : BitVec 7 → BitVec 512 → State → CmRes × State) (s : State) : Outcome State Fault Refusal :=
  let vf := s.ev.vf
  let a := cmAddr vf s
  if cmHead vf s = cmTail vf s ∨ !cmReachable vf a s then .next s
  else
    let r := cmRecord vf s
    if cmEvent r != ev then .next (cmNext vf s)
    else
      let bad := bitsN r 225 31 != 0 || bitsN r 288 192 != 0 || bitsN r 488 24 != 0 || memErrAt a 64 s
      let (res, s) := if bad then (⟨5, none, none⟩, s) else f vf r s
      let r := setBits r 480 8 res.status
      let r := match res.circ with | some c => setBits r 4 11 c | none => r
      let r := match res.entry with | some e => setBits r 256 32 e | none => r
      let s := memWrite (keyOf vf s) a (toBytes 64 r.toNat) s
      let s := setRegN vf 0x10010 0 16 (cmHead vf s + 1) s
      .next (cmNext vf (raiseCause vf 1 s))

/-- The named turn (R39). -/
def namedTurn (r : BitVec 512) (s : State) : Int :=
  let c := s.wheel / 1024
  let d := (bitsN r 32 32 + 2 ^ 32 - c % 2 ^ 32) % 2 ^ 32
  if d < 2 ^ 31 then (c + d : Nat) else (c + d : Nat) - (2 ^ 32 : Nat)

/-- Injection slots and service positions a circuit holds, accepted teardowns left out (R37, R39). -/
def liveHoldings (v : Circ) (s : State) : Nat × Nat :=
  let ps := v.paths.filter (fun p => !(p.ending || p.stage == .closing || p.stage == .gone))
  (ps.length, (ps.flatMap (fun p => pathPositions p s)).length)
/-- What a function's circuits hold. -/
def holdings (vf : BitVec 7) (s : State) : Nat × Nat :=
  (s.circs.filter (fun e => e.2.vf == vf)).foldl (fun a e =>
    let x := liveHoldings e.2 s
    (a.1 + x.1, a.2 + x.2)) (0, 0)

/-- Marks paths of a circuit as ending, and schedules their suspension and removal (R40). -/
def endPaths (n : Nat) (slot : Nat) (whole : Bool) (s : State) : State :=
  match circAt n s with
  | none => s
  | some v =>
    let idx := ((v.paths.zip (List.range v.paths.length)).filter (fun e =>
      !e.1.ending && (e.1.stage == .live || e.1.stage == .pending))).map Prod.snd
    let lat := v.paths.foldl (fun m p => max m (pathLatency p s)) 0
    let s := setCirc n { v with
      ending := v.ending || whole
      paths := (v.paths.zip (List.range v.paths.length)).map (fun e => if idx.contains e.2 then { e.1 with ending := true } else e.1) } s
    let a := { argId n with pairs := idx.map (fun i => (i, 0)) }
    postAt (slot + lat) .teardownRemove a (postAt slot .teardownSuspend a s)

/-- Circuits of a pairing set up (R57, R63). -/
def podCircs (g : Nat) (s : State) : Nat :=
  s.circs.countP (fun e => match e.2.pod with | some h => h.grant == g | none => false)
/-- What CM_SETUP's operands name: nothing, or the pairing and port of which the circuit is this module's half (log 40). -/
def podNamed (s : State) : Option PodHalf :=
  if s.ev.flag then some ⟨s.ev.id % 64, s.ev.n.toNat % 8, s.ev.stack⟩ else none
/-- The half's pairing does not take it: it is not paired, or not this function's. -/
def podBad (vf : BitVec 7) (h : Option PodHalf) (s : State) : Bool :=
  match h with
  | none => false
  | some x => regN 0 (0x60208 + 16 * x.grant) 0 2 s != 2 || regN 0 (0x60200 + 16 * x.grant) 6 7 s != vf.toNat
/-- The pairing holds all the circuits it may: the smaller max of the two grants, at most 256. -/
def podsFull (h : Option PodHalf) (s : State) : Bool :=
  match h with
  | none => false
  | some x => decide (min (min (regN 0 (0x60200 + 16 * x.grant) 20 9 s) (tget s.peerMax x.grant 256)) 256 ≤ podCircs x.grant s)

/-- Setup, and the setup half of a resize (R39, R40).  Settled here (DESIGN CHOICE, log 48): q of 4 to 7 is taken as it stands
and names no register; nslots of 0 or above 8, a slot named twice, and a slot of W or above are malformed; circuit number 0 is
not assigned; a hall whose W will change after the named turn gives conflict. -/
def cmPlace (ring : BitVec 7) (r : BitVec 512) (resize : Bool) (s : State) : CmRes × State :=
  let vf : BitVec 7 := BitVec.ofNat 7 (bitsN r 15 7)
  let num := bitsN r 4 11
  let e : Ends := ⟨bitsN r 64 4, bitsN r 68 8, bitsN r 76 4, bitsN r 80 8, bitsN r 88 2, bitsN r 90 6⟩
  let shared := bitsN r 99 1 == 1
  let n := bitsN r 100 4
  let slots := (List.range n).map (fun i => bitsN r (104 + 10 * i) 10)
  let named := slots.filter (fun t => t != 0)
  let bad (st : Nat) : CmRes × State := (⟨st, none, none⟩, s)
  let op := bitsN r 0 4
  let old : Option Circ := if resize then circAt num s else none
  let half := match old with | some o => o.pod | none => podNamed s
  let t := namedTurn r s
  let slot := 1024 * t.toNat
  let oldBad : Bool := resize && (match old with | some v => v.ending || v.vf != vf | none => true)
  let w := wAhead e.srcHall s
  if !(op == 1 || op == 3) || (ring != 0#7 && vf != ring) || e.dstKind == 3 || n == 0 || decide (8 < n) || oldBad ||
      podBad vf half s || !(named.eraseDups.length == named.length) || named.any (fun t => decide (w ≤ t)) then bad 5
  else
    let (h, p) := holdings vf s
    let (oh, op_) := match old with | some o => liveHoldings o s | none => (0, 0)
    let need := if e.dstKind = 0 then 0 else n * (1024 / w)
    if regN vf 0x10018 0 16 s + oh < h + n ∨ regN vf 0x10018 16 16 s + op_ < p + need then bad 4
    else if !wheelSettled e.srcHall slot s || !wheelSettled e.dstHall slot s then bad 1
    else if !resize && podsFull half s then bad 2
    else
      let ended := match old with | some o => o.paths.filter (fun p => !p.ending) | none => []
      match takePaths e shared w ended s slots [] (heldBy s) with
      | none => if namedFit e w s named (heldBy s) then bad 2 else bad 1
      | some ps =>
        let free := if resize then some num else (List.range 2048).find? (fun c => c != 0 && (circAt c s).isNone)
        match free with
        | none => bad 2
        | some c =>
          let before := match old with | some o => o.paths | none => []
          let v : Circ := ⟨vf, e, bitsN r 96 3, shared, before ++ ps, false, half, (match old with | some o => o.last | none => 0)⟩
          let es := ps.flatMap (fun p => pathEntries c v p s)
          let susp := match old with
            | some o => ended.flatMap (fun p => (pathSource num o p s).map (fun k => (k, 0)))
            | none => []
          let plan := configPlan (es.map (fun x => (x.1, x.2 - 1))) true s
          let plan2 := configPlan susp false (postPlan plan s)
          if t ≤ (s.wheel / 1024 : Nat) ∨ (plan ++ plan2).any (fun x => decide (slot ≤ x.1)) then bad 3
          else
            let s := postPlan (plan ++ plan2) s
            let s := if resize then endPaths num slot false s else s
            let before := match circAt c s with | some o => if resize then o.paths else [] | none => []
            let s := setCirc c { v with paths := before ++ ps } s
            let s := { s with owned := (ps.flatMap (fun p => pathPositions p s)).foldl (fun t k => tput t k c) s.owned }
            (⟨0, some c, none⟩, postAt slot .circuitActivate
              { argId c with pairs := (List.range ps.length).map (fun i => (before.length + i, 0)) } s)

/-- CM_SETUP (R39, R40); it also answers a record of no known op. -/
def execCmSetup (s : State) : Outcome State Fault Refusal := cmTake .cmSetup (fun vf r s => cmPlace vf r false s) s
/-- CM_RESIZE (R40). -/
def execCmResize (s : State) : Outcome State Fault Refusal := cmTake .cmResize (fun vf r s => cmPlace vf r true s) s

/-- CM_TEARDOWN (R40). -/
def execCmTeardown (s : State) : Outcome State Fault Refusal :=
  cmTake .cmTeardown (fun ring r s =>
    let vf : BitVec 7 := BitVec.ofNat 7 (bitsN r 15 7)
    let num := bitsN r 4 11
    let t := namedTurn r s
    match circAt num s with
    | none => (⟨5, none, none⟩, s)
    | some v =>
      if v.ending = true ∨ v.vf ≠ vf ∨ (ring ≠ 0#7 ∧ vf ≠ ring) then (⟨5, none, none⟩, s)
      else
        let susp := (v.paths.filter (fun p => !p.ending)).flatMap (fun p => (pathSource num v p s).map (fun k => (k, 0)))
        let plan := configPlan susp false s
        let slot := 1024 * t.toNat
        if t ≤ (s.wheel / 1024 : Nat) ∨ plan.any (fun x => decide (slot ≤ x.1)) then (⟨3, none, none⟩, s)
        else (⟨0, none, none⟩, endPaths num slot true (postPlan plan s))) s

/-- A hall holds a dedicated circuit, in whatever stage (R25). -/
def hallHasCircuit (h : Nat) (s : State) : Bool :=
  s.circs.any (fun e => e.2.paths.any (fun p => p.stage != .gone && (p.ends.srcHall == h || p.ends.dstHall == h)))

/-- CM_SET_WHEEL (R25).  A record with a src_core is answered malformed (DESIGN CHOICE, log 48: the manual states no
consequence). -/
def execCmSetWheel (s : State) : Outcome State Fault Refusal :=
  cmTake .cmSetWheel (fun ring r s =>
    let h := bitsN r 64 4
    let w := bitsN r 184 12
    let t := namedTurn r s
    if ring ≠ 0#7 ∨ bitsN r 68 8 ≠ 0 ∨ !((List.range 8).any (fun i => w == 2 ^ (i + 3))) then (⟨5, none, none⟩, s)
    else if hallHasCircuit h s = true then (⟨1, none, none⟩, s)
    else if t ≤ (s.wheel / 1024 : Nat) then (⟨3, none, none⟩, s)
    else
      (⟨0, none, none⟩, postAt (1024 * t.toNat) .wheelChange { argHall h with v := BitVec.ofNat 64 w } s)) s

/-- CM_READ_ENTRY (R38). -/
def execCmReadEntry (s : State) : Outcome State Fault Refusal :=
  cmTake .cmReadEntry (fun ring r s =>
    let h := bitsN r 196 4
    let node := 256 * h + bitsN r 200 8
    let port := bitsN r 208 3
    let slot := bitsN r 215 10
    if 6 ≤ port ∨ (hallAt h s).w ≤ slot then (⟨5, none, none⟩, s)
    else
      let e := entryAt node port (bitsN r 211 4) slot s
      let shown := if ring = 0#7 ∨ !bitB e 0 ∨ bitB e 15 ∨ bitsN e 8 7 = ring.toNat then e.toNat else 1
      (⟨0, none, some shown⟩, s)) s

/-! ### Circuits come and go (R25, R40, R43) -/

/-- Changes the paths an event names. -/
def modPaths (n : Nat) (idx : List Nat) (f : Path → Path) (s : State) : State :=
  match circAt n s with
  | none => s
  | some v =>
    setCirc n { v with paths := (v.paths.zip (List.range v.paths.length)).map (fun e => if idx.contains e.2 then f e.1 else e.1) } s
/-- The paths an event names. -/
def namedPaths (n : Nat) (idx : List Nat) (s : State) : List (Circ × Path) :=
  match circAt n s with
  | none => []
  | some v => ((v.paths.zip (List.range v.paths.length)).filter (fun e => idx.contains e.2)).map (fun e => (v, e.1))
/-- susp of the entries of a path's source (R28). -/
def suspEntries (n : Nat) (v : Circ) (p : Path) (on : Bool) (s : State) : State :=
  { s with entries := (pathSource n v p s).foldl (fun t k =>
      match tfind t k with | some e => tput t k (setBits e 16 1 (if on then 1 else 0)) | none => t) s.entries }
/-- A floor connection, held back while its source hall is out of lock (R45). -/
def putFloor (h key dest : Nat) (s : State) : State :=
  if (hallAt h s).lock = .locked then { s with floor := tput s.floor key dest }
  else let x := hallAt h s; setHall h { x with savedFloor := x.savedFloor ++ [(key, dest)] } s

/-- The entries of a path become valid (R28, R40). -/
def validEntries (n : Nat) (v : Circ) (p : Path) (s : State) : State :=
  { s with entries := (pathEntries n v p s).foldl (fun t e =>
      match tfind t e.1 with | some x => tput t e.1 (setBits x 0 1 1) | none => t) s.entries }

/-- CIRCUIT_ACTIVATE. -/
def execCircuitActivate (s : State) : Outcome State Fault Refusal :=
  let n := s.ev.id
  let idx := s.ev.pairs.map Prod.fst
  let ps := (namedPaths n idx s).filter (fun e => e.2.stage == .pending)
  let s := ps.foldl (fun s e => validEntries n e.1 e.2 s) s
  let s := ps.foldl (fun s e =>
    (pathFloor e.2 s).foldl (fun s f => putFloor (f.1 / 1024 / 32) f.1 (1 + f.2.1) s) s) s
  let hot (p : Path) : Bool := p.withdrawable && p.ends.dstKind != 0 && bankDoubled (endsBank p.ends) s
  let s := ps.foldl (fun s e => if hot e.2 then suspEntries n e.1 e.2 true s else s) s
  .next (modPaths n idx (fun p =>
    if p.stage == .pending then
      { p with stage := .live, susp := hot p }
    else p) s)

/-- TEARDOWN_SUSPEND. -/
def execTeardownSuspend (s : State) : Outcome State Fault Refusal :=
  let n := s.ev.id
  let idx := s.ev.pairs.map Prod.fst
  let s := (namedPaths n idx s).foldl (fun s e => suspEntries n e.1 e.2 true s) s
  .next (modPaths n idx (fun p => { p with stage := .closing }) s)

/-- TEARDOWN_REMOVE: the entries, floor connections and positions go, and the circuit with its last path. -/
def execTeardownRemove (s : State) : Outcome State Fault Refusal :=
  let n := s.ev.id
  let idx := s.ev.pairs.map Prod.fst
  let s := (namedPaths n idx s).foldl (fun s e =>
    let es := (pathEntries n e.1 e.2 s).map Prod.fst
    let fl := (pathFloor e.2 s).map (fun f => f.1)
    let ps := pathPositions e.2 s
    let s := { s with
      entries := s.entries.filter (fun x => !es.contains x.1)
      floor := s.floor.filter (fun x => !fl.contains x.1)
      owned := s.owned.filter (fun x => !ps.contains x.1) }
    { s with halls := s.halls.map (fun h =>
        (h.1, { h.2 with savedFloor := h.2.savedFloor.filter (fun x => !fl.contains x.1) })) }) s
  let s := modPaths n idx (fun p => { p with stage := .gone }) s
  match circAt n s with
  | some v => .next (if v.paths.all (fun p => p.stage == .gone) then { s with circs := tdel s.circs n } else s)
  | none => .next s

/-- WHEEL_CHANGE: standing entries follow W (R31). -/
def execWheelChange (s : State) : Outcome State Fault Refusal :=
  let h := s.ev.hall.toNat
  .next (setHall h { hallAt h s with w := s.ev.v.toNat } s)

/-- A live path whose withdrawable positions lie in a quadrant, or in a stack. -/
def withdrawPath (q : Nat) (stack : Bool) (p : Path) : Bool :=
  p.withdrawable && p.stage == .live &&
  (if stack then p.ends.dstKind == 2 && p.ends.dstHall == q / 4 else p.ends.dstKind == 1 && coreQuadrant (endsBank p.ends) == q)
/-- Suspends, or lets go, the withdrawable pairings of a quadrant or of a stack (R43). -/
def withdrawable (q : Nat) (stack on : Bool) (s : State) : State :=
  let x := islandAt q s
  let s := setIsland q (if stack then { x with stackSusp := on } else { x with susp := on }) s
  s.circs.foldl (fun s (n, v) =>
    let s := v.paths.foldl (fun s p => if withdrawPath q stack p then suspEntries n v p on s else s) s
    setCirc n { v with paths := v.paths.map (fun p => if withdrawPath q stack p then { p with susp := on } else p) } s) s

/-- WITHDRAWABLE_SUSPEND_BEGIN: quadrant `id`, or the stack of its hall. -/
def execWithdrawableSuspendBegin (s : State) : Outcome State Fault Refusal :=
  .next (withdrawable s.ev.id s.ev.stack true s)
/-- WITHDRAWABLE_SUSPEND_END. -/
def execWithdrawableSuspendEnd (s : State) : Outcome State Fault Refusal :=
  .next (withdrawable s.ev.id s.ev.stack false s)

/-! ### Loss of lock (R45, R48) -/

/-- The fabric event of R45 and R47. -/
def fabricEvent (s : State) : State := raiseCause 0 2 s
/-- Enabled partitions that hold a hall. -/
def partsOf (h : Nat) (s : State) : List Nat := match partOf h s with | some n => [n] | none => []

/-- HALL_LOCK_LOSS: cause 2 of a hold is a hall's or port's loss of lock (R112). -/
def execHallLockLoss (s : State) : Outcome State Fault Refusal :=
  let h := s.ev.hall.toNat
  let s := setHall h { hallAt h s with lock := .lost } s
  let s := fabricEvent (postAt (nextBoundary s) .floorEntryClear (argHall h) s)
  .next ((partsOf h s).foldl (fun s n => askHold n 2 s) s)

/-- FLOOR_ENTRY_CLEAR. -/
def execFloorEntryClear (s : State) : Outcome State Fault Refusal :=
  let h := s.ev.hall.toNat
  let x := hallAt h s
  if x.lock = .locked then .next s
  else
    let mine (e : Nat × Nat) : Bool := e.1 / 1024 / 32 == h
    .next (setHall h { x with savedFloor := x.savedFloor ++ s.floor.filter mine }
      { s with floor := s.floor.filter (fun e => !mine e) })

/-- HALL_RELOCK: no torus injection for one hall turn; the floor entries come back at the boundary after the next one. -/
def execHallRelock (s : State) : Outcome State Fault Refusal :=
  let h := s.ev.hall.toNat
  let x := hallAt h s
  if x.lock = .locked then .next s
  else
    let s := setHall h { x with lock := .relocking, holdUntil := s.wheel + x.w } s
    .next (postAt (nextBoundary s + 1024) .floorEntryRestore (argHall h) s)

/-- FLOOR_ENTRY_RESTORE. -/
def execFloorEntryRestore (s : State) : Outcome State Fault Refusal :=
  let h := s.ev.hall.toNat
  let x := hallAt h s
  if x.lock ≠ .relocking then .next s
  else
    let s := { s with floor := x.savedFloor.foldl (fun t e => tput t e.1 e.2) s.floor }
    let s := fabricEvent (setHall h { x with lock := .locked, savedFloor := [] } s)
    .next ((partsOf h s).foldl (fun s n => askRelease n s) s)

/-! ### Pod ports (R46, R47): `n` is the port -/

/-- Another locked port, if any, becomes the timing source (R47). -/
def moveReference (lost : Nat) (s : State) : State :=
  if !(portAt lost s).reference then s
  else
    let s := setPort lost { portAt lost s with reference := false } s
    match (List.range 8).find? (fun i => i != lost && (portAt i s).state == .locked) with
    | some i => setPort i { portAt i s with reference := true } s
    | none => s
/-- Enabled partitions that use a pod port. -/
def partsOfPort (i : Nat) (s : State) : List Nat :=
  (List.range 16).filter (fun n => regN 0 (0x2200 + 8 * n) 23 1 s == 1 && partPort n i s)
/-- A port leaves its locked state: the partitions that use it are held (R47, R48). -/
def losePort (i : Nat) (s : State) : State :=
  if (portAt i s).state ≠ .locked then s
  else
    let s := fabricEvent (moveReference i (setPort i { portAt i s with state := .lost, fails := [] } s))
    (partsOfPort i s).foldl (fun s n => askHold n 2 s) s

/-- A peer's flit, sent in slot t, is opened and given to the inward half `id` of its circuit at t + L_p (R46, R57). -/
def takePod (i t : Nat) (s : State) : State :=
  match (circAt s.ev.id s).bind (fun v => v.pod) with
  | some h =>
    if h.outward ∨ h.port ≠ i then s
    else
      let (n, s) := newId s
      postAt (max s.wheel (t + (portAt i s).delay)) .flitInject { argId s.ev.id with
        n := 4#8, v := BitVec.ofNat 64 n
        wide := (Config.gcmOpen h.grant s.ev.v.toNat (s.ev.wide.setWidth 256)).setWidth 384 } s
  | none => s

/-- POD_FLIT_RECEIVE: sequence number `v`, slot of sending `w`, data `wide` for circuit `id`, CRC and tag good with `flag`:
three failures within 1,024 slots lose the port; a port out of lock discards. -/
def execPodFlitReceive (s : State) : Outcome State Fault Refusal :=
  let i := s.ev.n.toNat % 8
  let p := portAt i s
  if p.state ≠ .locked then .next s
  else if s.ev.flag then
    .next (if s.ev.v.setWidth 16 = p.expect then
      takePod i s.ev.w.toNat (setPort i { p with expect := p.expect + 1#16 } s) else s)
  else
    let f := (p.fails.filter (fun t => decide (s.wheel < t + 1024))) ++ [s.wheel]
    let s := setPort i { p with fails := f } s
    .next (if 3 ≤ f.length then post 0 .podLockLoss { s.ev with flag := false } s else s)

/-- POD_ACK: flits up to sequence number `v` are acknowledged. -/
def execPodAck (s : State) : Outcome State Fault Refusal :=
  let i := s.ev.n.toNat % 8
  let p := portAt i s
  .next (setPort i { p with replay := p.replay.filter (fun e =>
    decide (2 ^ 15 ≤ (s.ev.v.toNat % 2 ^ 16 + 2 ^ 16 - e.1 % 2 ^ 16) % 2 ^ 16)) } s)

/-- POD_LOCK_LOSS. -/
def execPodLockLoss (s : State) : Outcome State Fault Refusal := .next (losePort (s.ev.n.toNat % 8) s)

/-- POD_OPTICAL_LOCK: the port retrains and measures its offset `v` in slots; above four it slews, by at most 100 ppm,
which is one slot in 10,000. -/
def execPodOpticalLock (s : State) : Outcome State Fault Refusal :=
  let i := s.ev.n.toNat % 8
  let p := portAt i s
  if p.state = .locked ∨ bootOutcome 10 s ≠ 1 then .next s
  else
    let o := s.ev.v.toNat
    let s := setPort i { p with offset := o, state := if 4 < o then .slew else .retrain, delay := Config.podDelay i } s
    let ready := s.wheel + 10000 * (o - 4)
    .next (postAt ((ready / 1024 + 1) * 1024) .podResume { s.ev with flag := false } s)

/-- POD_RESUME: what is unacknowledged goes out again, and the port is locked; its partitions may go on (R48). -/
def execPodResume (s : State) : Outcome State Fault Refusal :=
  let i := s.ev.n.toNat % 8
  let p := portAt i s
  if p.state ≠ .retrain ∧ p.state ≠ .slew then .next s
  else
    let first := !(List.range 8).any (fun j => (portAt j s).reference)
    let g := ((s.circs.findSome? (fun e => match e.2.pod with | some h => if h.port = i then some h.grant else none | none => none))).getD 0
    let s := emitPod g i p.replay s
    let s := fabricEvent (setPort i { p with state := .locked, offset := min p.offset 4, reference := p.reference || first } s)
    .next ((partsOfPort i s).foldl (fun s n => askRelease n s) s)

/-! ### Partitions at a boundary (R48, R112) -/

/-- PARTITION_HOLD. -/
def execPartitionHold (s : State) : Outcome State Fault Refusal :=
  .next (holdPart (s.ev.n.toNat) (s.ev.v.toNat) s)
/-- PARTITION_RELEASE. -/
def execPartitionRelease (s : State) : Outcome State Fault Refusal :=
  .next (releasePart (s.ev.n.toNat) (s.ev.v.toNat) s)

end Sys2Proof.Machine
end

