-- ==== Sys2Proof/Machine/Scalar.lean ====
section
/-! DEFINITION. Scalar: the meanings of the scalar integer, predicate, address and constant instructions (R287 to R300,
R306). -/

namespace Sys2Proof.Machine

open Host

/-- A scalar result from the operands, in one turn (R287). -/
def scalarOp (i : Instr) (f : State → Word) (s : State) : Outcome State Fault Refusal :=
  issue i s fun s => .next (retire (dstS i .d (f s) (consume i s)))

/-- A scalar result that takes more turns (R193). -/
def scalarTurns (n : Nat) (i : Instr) (f : State → Word) (s : State) : Outcome State Fault Refusal :=
  issue i s fun s => .next (retireTurns n (dstS i .d (f s) (consume i s)))

/-- A predicate result. -/
def predOp (i : Instr) (f : State → BitVec 32) (s : State) : Outcome State Fault Refusal :=
  issue i s fun s => .next (retire (dstP i (f s) (consume i s)))

/-- Turns of an operation of R288 (R193). -/
def aluTurns (op : Nat) : Nat := if 6 ≤ op ∧ op ≤ 9 then 4 else 1

/-- Opcode 0x00 (R288, R289): operation code, and both operands from registers. -/
def aluReg (op : Nat) (i : Instr) (p : Pfx) (w : BitVec 2) (s : State) : Outcome State Fault Refusal :=
  scalarTurns (aluTurns op) i (fun s => aluRes op w (intSat p) (srcS i .a s) (srcS i .b s)) s

/-- Opcode 0x01: the second operand is the immediate. -/
def aluImm (op : Nat) (i : Instr) (p : Pfx) (w : BitVec 2) (imm : BitVec 32) (s : State) : Outcome State Fault Refusal :=
  scalarTurns (aluTurns op) i (fun s => aluRes op w (intSat p) (srcS i .a s) (immS p.ext imm)) s

/-- Funnel shifts of R292. -/
def fshlRes (a b : Word) (k : Nat) : Word := ((a ++ b : BitVec 128) <<< k).extractLsb' 64 64
def fshrRes (a b : Word) (k : Nat) : Word := ((a ++ b : BitVec 128) >>> k).extractLsb' 0 64

/-- Bit-field results of R295. -/
def bfxRes (a : Word) (len lsb : Nat) : Word := sext64 len (bitsN a lsb len)
def bfxuRes (a : Word) (len lsb : Nat) : Word := zext64 len (bitsN a lsb len)
def bfiRes (d a : Word) (len lsb : Nat) : Word := setBits d lsb len (bitsN a 0 len)

/-- Address arithmetic: bits [55:0] advance and wrap, bits [63:56] stay (R300, R308). -/
def addrAdd (a b : Word) : Word := a.extractLsb' 56 8 ++ (a.extractLsb' 0 56 + b.extractLsb' 0 56 : BitVec 56)

/-- ADD (R288, R289). -/
def execAdd (p : Pfx) (w : BitVec 2) (rd : BitVec 5) (ra : BitVec 5) (rb : BitVec 5) (s : State) : Outcome State Fault Refusal :=
  aluReg 1 (.add p w rd ra rb) p w s

/-- SUB (R288, R289). -/
def execSub (p : Pfx) (w : BitVec 2) (rd : BitVec 5) (ra : BitVec 5) (rb : BitVec 5) (s : State) : Outcome State Fault Refusal :=
  aluReg 2 (.sub p w rd ra rb) p w s

/-- MUL (R288, R289). -/
def execMul (p : Pfx) (w : BitVec 2) (rd : BitVec 5) (ra : BitVec 5) (rb : BitVec 5) (s : State) : Outcome State Fault Refusal :=
  aluReg 3 (.mul p w rd ra rb) p w s

/-- MULH (R288, R289). -/
def execMulh (p : Pfx) (w : BitVec 2) (rd : BitVec 5) (ra : BitVec 5) (rb : BitVec 5) (s : State) : Outcome State Fault Refusal :=
  aluReg 4 (.mulh p w rd ra rb) p w s

/-- MULHU (R288, R289). -/
def execMulhu (p : Pfx) (w : BitVec 2) (rd : BitVec 5) (ra : BitVec 5) (rb : BitVec 5) (s : State) : Outcome State Fault Refusal :=
  aluReg 5 (.mulhu p w rd ra rb) p w s

/-- DIV (R288, R289). -/
def execDiv (p : Pfx) (w : BitVec 2) (rd : BitVec 5) (ra : BitVec 5) (rb : BitVec 5) (s : State) : Outcome State Fault Refusal :=
  aluReg 6 (.div p w rd ra rb) p w s

/-- DIVU (R288, R289). -/
def execDivu (p : Pfx) (w : BitVec 2) (rd : BitVec 5) (ra : BitVec 5) (rb : BitVec 5) (s : State) : Outcome State Fault Refusal :=
  aluReg 7 (.divu p w rd ra rb) p w s

/-- REM (R288, R289). -/
def execRem (p : Pfx) (w : BitVec 2) (rd : BitVec 5) (ra : BitVec 5) (rb : BitVec 5) (s : State) : Outcome State Fault Refusal :=
  aluReg 8 (.rem p w rd ra rb) p w s

/-- REMU (R288, R289). -/
def execRemu (p : Pfx) (w : BitVec 2) (rd : BitVec 5) (ra : BitVec 5) (rb : BitVec 5) (s : State) : Outcome State Fault Refusal :=
  aluReg 9 (.remu p w rd ra rb) p w s

/-- AND (R288, R289). -/
def execAnd (p : Pfx) (w : BitVec 2) (rd : BitVec 5) (ra : BitVec 5) (rb : BitVec 5) (s : State) : Outcome State Fault Refusal :=
  aluReg 10 (.and p w rd ra rb) p w s

/-- OR (R288, R289). -/
def execOr (p : Pfx) (w : BitVec 2) (rd : BitVec 5) (ra : BitVec 5) (rb : BitVec 5) (s : State) : Outcome State Fault Refusal :=
  aluReg 11 (.or p w rd ra rb) p w s

/-- XOR (R288, R289). -/
def execXor (p : Pfx) (w : BitVec 2) (rd : BitVec 5) (ra : BitVec 5) (rb : BitVec 5) (s : State) : Outcome State Fault Refusal :=
  aluReg 12 (.xor p w rd ra rb) p w s

/-- ANDN (R288, R289). -/
def execAndn (p : Pfx) (w : BitVec 2) (rd : BitVec 5) (ra : BitVec 5) (rb : BitVec 5) (s : State) : Outcome State Fault Refusal :=
  aluReg 13 (.andn p w rd ra rb) p w s

/-- ORN (R288, R289). -/
def execOrn (p : Pfx) (w : BitVec 2) (rd : BitVec 5) (ra : BitVec 5) (rb : BitVec 5) (s : State) : Outcome State Fault Refusal :=
  aluReg 14 (.orn p w rd ra rb) p w s

/-- XNOR (R288, R289). -/
def execXnor (p : Pfx) (w : BitVec 2) (rd : BitVec 5) (ra : BitVec 5) (rb : BitVec 5) (s : State) : Outcome State Fault Refusal :=
  aluReg 15 (.xnor p w rd ra rb) p w s

/-- SHL (R288, R289). -/
def execShl (p : Pfx) (w : BitVec 2) (rd : BitVec 5) (ra : BitVec 5) (rb : BitVec 5) (s : State) : Outcome State Fault Refusal :=
  aluReg 16 (.shl p w rd ra rb) p w s

/-- SHR (R288, R289). -/
def execShr (p : Pfx) (w : BitVec 2) (rd : BitVec 5) (ra : BitVec 5) (rb : BitVec 5) (s : State) : Outcome State Fault Refusal :=
  aluReg 17 (.shr p w rd ra rb) p w s

/-- SAR (R288, R289). -/
def execSar (p : Pfx) (w : BitVec 2) (rd : BitVec 5) (ra : BitVec 5) (rb : BitVec 5) (s : State) : Outcome State Fault Refusal :=
  aluReg 18 (.sar p w rd ra rb) p w s

/-- ROT (R288, R289). -/
def execRot (p : Pfx) (w : BitVec 2) (rd : BitVec 5) (ra : BitVec 5) (rb : BitVec 5) (s : State) : Outcome State Fault Refusal :=
  aluReg 19 (.rot p w rd ra rb) p w s

/-- MIN (R288, R289). -/
def execMin (p : Pfx) (w : BitVec 2) (rd : BitVec 5) (ra : BitVec 5) (rb : BitVec 5) (s : State) : Outcome State Fault Refusal :=
  aluReg 20 (.min p w rd ra rb) p w s

/-- MAX (R288, R289). -/
def execMax (p : Pfx) (w : BitVec 2) (rd : BitVec 5) (ra : BitVec 5) (rb : BitVec 5) (s : State) : Outcome State Fault Refusal :=
  aluReg 21 (.max p w rd ra rb) p w s

/-- MINU (R288, R289). -/
def execMinu (p : Pfx) (w : BitVec 2) (rd : BitVec 5) (ra : BitVec 5) (rb : BitVec 5) (s : State) : Outcome State Fault Refusal :=
  aluReg 22 (.minu p w rd ra rb) p w s

/-- MAXU (R288, R289). -/
def execMaxu (p : Pfx) (w : BitVec 2) (rd : BitVec 5) (ra : BitVec 5) (rb : BitVec 5) (s : State) : Outcome State Fault Refusal :=
  aluReg 23 (.maxu p w rd ra rb) p w s

/-- ADD with an immediate (R288, R289). -/
def execAddImm (p : Pfx) (w : BitVec 2) (rd : BitVec 5) (ra : BitVec 5) (imm : BitVec 32) (s : State) : Outcome State Fault Refusal :=
  aluImm 1 (.addImm p w rd ra imm) p w imm s

/-- SUB with an immediate (R288, R289). -/
def execSubImm (p : Pfx) (w : BitVec 2) (rd : BitVec 5) (ra : BitVec 5) (imm : BitVec 32) (s : State) : Outcome State Fault Refusal :=
  aluImm 2 (.subImm p w rd ra imm) p w imm s

/-- MUL with an immediate (R288, R289). -/
def execMulImm (p : Pfx) (w : BitVec 2) (rd : BitVec 5) (ra : BitVec 5) (imm : BitVec 32) (s : State) : Outcome State Fault Refusal :=
  aluImm 3 (.mulImm p w rd ra imm) p w imm s

/-- MULH with an immediate (R288, R289). -/
def execMulhImm (p : Pfx) (w : BitVec 2) (rd : BitVec 5) (ra : BitVec 5) (imm : BitVec 32) (s : State) : Outcome State Fault Refusal :=
  aluImm 4 (.mulhImm p w rd ra imm) p w imm s

/-- MULHU with an immediate (R288, R289). -/
def execMulhuImm (p : Pfx) (w : BitVec 2) (rd : BitVec 5) (ra : BitVec 5) (imm : BitVec 32) (s : State) : Outcome State Fault Refusal :=
  aluImm 5 (.mulhuImm p w rd ra imm) p w imm s

/-- DIV with an immediate (R288, R289). -/
def execDivImm (p : Pfx) (w : BitVec 2) (rd : BitVec 5) (ra : BitVec 5) (imm : BitVec 32) (s : State) : Outcome State Fault Refusal :=
  aluImm 6 (.divImm p w rd ra imm) p w imm s

/-- DIVU with an immediate (R288, R289). -/
def execDivuImm (p : Pfx) (w : BitVec 2) (rd : BitVec 5) (ra : BitVec 5) (imm : BitVec 32) (s : State) : Outcome State Fault Refusal :=
  aluImm 7 (.divuImm p w rd ra imm) p w imm s

/-- REM with an immediate (R288, R289). -/
def execRemImm (p : Pfx) (w : BitVec 2) (rd : BitVec 5) (ra : BitVec 5) (imm : BitVec 32) (s : State) : Outcome State Fault Refusal :=
  aluImm 8 (.remImm p w rd ra imm) p w imm s

/-- REMU with an immediate (R288, R289). -/
def execRemuImm (p : Pfx) (w : BitVec 2) (rd : BitVec 5) (ra : BitVec 5) (imm : BitVec 32) (s : State) : Outcome State Fault Refusal :=
  aluImm 9 (.remuImm p w rd ra imm) p w imm s

/-- AND with an immediate (R288, R289). -/
def execAndImm (p : Pfx) (w : BitVec 2) (rd : BitVec 5) (ra : BitVec 5) (imm : BitVec 32) (s : State) : Outcome State Fault Refusal :=
  aluImm 10 (.andImm p w rd ra imm) p w imm s

/-- OR with an immediate (R288, R289). -/
def execOrImm (p : Pfx) (w : BitVec 2) (rd : BitVec 5) (ra : BitVec 5) (imm : BitVec 32) (s : State) : Outcome State Fault Refusal :=
  aluImm 11 (.orImm p w rd ra imm) p w imm s

/-- XOR with an immediate (R288, R289). -/
def execXorImm (p : Pfx) (w : BitVec 2) (rd : BitVec 5) (ra : BitVec 5) (imm : BitVec 32) (s : State) : Outcome State Fault Refusal :=
  aluImm 12 (.xorImm p w rd ra imm) p w imm s

/-- ANDN with an immediate (R288, R289). -/
def execAndnImm (p : Pfx) (w : BitVec 2) (rd : BitVec 5) (ra : BitVec 5) (imm : BitVec 32) (s : State) : Outcome State Fault Refusal :=
  aluImm 13 (.andnImm p w rd ra imm) p w imm s

/-- ORN with an immediate (R288, R289). -/
def execOrnImm (p : Pfx) (w : BitVec 2) (rd : BitVec 5) (ra : BitVec 5) (imm : BitVec 32) (s : State) : Outcome State Fault Refusal :=
  aluImm 14 (.ornImm p w rd ra imm) p w imm s

/-- XNOR with an immediate (R288, R289). -/
def execXnorImm (p : Pfx) (w : BitVec 2) (rd : BitVec 5) (ra : BitVec 5) (imm : BitVec 32) (s : State) : Outcome State Fault Refusal :=
  aluImm 15 (.xnorImm p w rd ra imm) p w imm s

/-- SHL with an immediate (R288, R289). -/
def execShlImm (p : Pfx) (w : BitVec 2) (rd : BitVec 5) (ra : BitVec 5) (imm : BitVec 32) (s : State) : Outcome State Fault Refusal :=
  aluImm 16 (.shlImm p w rd ra imm) p w imm s

/-- SHR with an immediate (R288, R289). -/
def execShrImm (p : Pfx) (w : BitVec 2) (rd : BitVec 5) (ra : BitVec 5) (imm : BitVec 32) (s : State) : Outcome State Fault Refusal :=
  aluImm 17 (.shrImm p w rd ra imm) p w imm s

/-- SAR with an immediate (R288, R289). -/
def execSarImm (p : Pfx) (w : BitVec 2) (rd : BitVec 5) (ra : BitVec 5) (imm : BitVec 32) (s : State) : Outcome State Fault Refusal :=
  aluImm 18 (.sarImm p w rd ra imm) p w imm s

/-- ROT with an immediate (R288, R289). -/
def execRotImm (p : Pfx) (w : BitVec 2) (rd : BitVec 5) (ra : BitVec 5) (imm : BitVec 32) (s : State) : Outcome State Fault Refusal :=
  aluImm 19 (.rotImm p w rd ra imm) p w imm s

/-- MIN with an immediate (R288, R289). -/
def execMinImm (p : Pfx) (w : BitVec 2) (rd : BitVec 5) (ra : BitVec 5) (imm : BitVec 32) (s : State) : Outcome State Fault Refusal :=
  aluImm 20 (.minImm p w rd ra imm) p w imm s

/-- MAX with an immediate (R288, R289). -/
def execMaxImm (p : Pfx) (w : BitVec 2) (rd : BitVec 5) (ra : BitVec 5) (imm : BitVec 32) (s : State) : Outcome State Fault Refusal :=
  aluImm 21 (.maxImm p w rd ra imm) p w imm s

/-- MINU with an immediate (R288, R289). -/
def execMinuImm (p : Pfx) (w : BitVec 2) (rd : BitVec 5) (ra : BitVec 5) (imm : BitVec 32) (s : State) : Outcome State Fault Refusal :=
  aluImm 22 (.minuImm p w rd ra imm) p w imm s

/-- MAXU with an immediate (R288, R289). -/
def execMaxuImm (p : Pfx) (w : BitVec 2) (rd : BitVec 5) (ra : BitVec 5) (imm : BitVec 32) (s : State) : Outcome State Fault Refusal :=
  aluImm 23 (.maxuImm p w rd ra imm) p w imm s

/-- ADDI (R291). -/
def execAddi (p : Pfx) (rd : BitVec 5) (ra : BitVec 5) (imm : BitVec 7) (s : State) : Outcome State Fault Refusal :=
  scalarOp (.addi p rd ra imm) (fun s => aluRes 1 3#2 (intSat p) (srcS (.addi p rd ra imm) .a s) (immS p.ext imm)) s

/-- ADDI_LONG (R291). -/
def execAddiLong (p : Pfx) (rd : BitVec 5) (ra : BitVec 5) (imm : BitVec 32) (s : State) : Outcome State Fault Refusal :=
  scalarOp (.addiLong p rd ra imm) (fun s => aluRes 1 3#2 (intSat p) (srcS (.addiLong p rd ra imm) .a s) (immS p.ext imm)) s

/-- FSHL (R292). -/
def execFshl (p : Pfx) (rd : BitVec 5) (ra : BitVec 5) (rb : BitVec 5) (k : BitVec 6) (s : State) : Outcome State Fault Refusal :=
  scalarOp (.fshl p rd ra rb k) (fun s => fshlRes (srcS (.fshl p rd ra rb k) .a s) (srcS (.fshl p rd ra rb k) .b s) k.toNat) s

/-- FSHR (R292). -/
def execFshr (p : Pfx) (rd : BitVec 5) (ra : BitVec 5) (rb : BitVec 5) (k : BitVec 6) (s : State) : Outcome State Fault Refusal :=
  scalarOp (.fshr p rd ra rb k) (fun s => fshrRes (srcS (.fshr p rd ra rb k) .a s) (srcS (.fshr p rd ra rb k) .b s) k.toNat) s

/-- FSHL by a register (R292). -/
def execFshlReg (p : Pfx) (rd : BitVec 5) (ra : BitVec 5) (rb : BitVec 5) (rc : BitVec 5) (s : State) : Outcome State Fault Refusal :=
  scalarOp (.fshlReg p rd ra rb rc) (fun s => fshlRes (srcS (.fshlReg p rd ra rb rc) .a s) (srcS (.fshlReg p rd ra rb rc) .b s) (bitsN (readS (cur s) rc s) 0 6)) s

/-- FSHR by a register (R292). -/
def execFshrReg (p : Pfx) (rd : BitVec 5) (ra : BitVec 5) (rb : BitVec 5) (rc : BitVec 5) (s : State) : Outcome State Fault Refusal :=
  scalarOp (.fshrReg p rd ra rb rc) (fun s => fshrRes (srcS (.fshrReg p rd ra rb rc) .a s) (srcS (.fshrReg p rd ra rb rc) .b s) (bitsN (readS (cur s) rc s) 0 6)) s

/-- LOGT (R293). -/
def execLogt (p : Pfx) (rd : BitVec 5) (ra : BitVec 5) (rb : BitVec 5) (rc : BitVec 5) (table : BitVec 8) (s : State) : Outcome State Fault Refusal :=
  scalarOp (.logt p rd ra rb rc table) (fun s => logtBits table (srcS (.logt p rd ra rb rc table) .a s) (srcS (.logt p rd ra rb rc table) .b s) (readS (cur s) rc s)) s

/-- CLZ (R294). -/
def execClz (p : Pfx) (w : BitVec 2) (rd : BitVec 5) (ra : BitVec 5) (s : State) : Outcome State Fault Refusal :=
  scalarOp (.clz p w rd ra) (fun s => countRes 1 w (srcS (.clz p w rd ra) .a s)) s

/-- CTZ (R294). -/
def execCtz (p : Pfx) (w : BitVec 2) (rd : BitVec 5) (ra : BitVec 5) (s : State) : Outcome State Fault Refusal :=
  scalarOp (.ctz p w rd ra) (fun s => countRes 2 w (srcS (.ctz p w rd ra) .a s)) s

/-- POPC (R294). -/
def execPopc (p : Pfx) (w : BitVec 2) (rd : BitVec 5) (ra : BitVec 5) (s : State) : Outcome State Fault Refusal :=
  scalarOp (.popc p w rd ra) (fun s => countRes 3 w (srcS (.popc p w rd ra) .a s)) s

/-- BREV (R294). -/
def execBrev (p : Pfx) (w : BitVec 2) (rd : BitVec 5) (ra : BitVec 5) (s : State) : Outcome State Fault Refusal :=
  scalarOp (.brev p w rd ra) (fun s => countRes 4 w (srcS (.brev p w rd ra) .a s)) s

/-- BSWAP (R294). -/
def execBswap (p : Pfx) (w : BitVec 2) (rd : BitVec 5) (ra : BitVec 5) (s : State) : Outcome State Fault Refusal :=
  scalarOp (.bswap p w rd ra) (fun s => countRes 5 w (srcS (.bswap p w rd ra) .a s)) s

/-- SEXT (R294). -/
def execSext (p : Pfx) (w : BitVec 2) (rd : BitVec 5) (ra : BitVec 5) (s : State) : Outcome State Fault Refusal :=
  scalarOp (.sext p w rd ra) (fun s => countRes 6 w (srcS (.sext p w rd ra) .a s)) s

/-- ZEXT (R294). -/
def execZext (p : Pfx) (w : BitVec 2) (rd : BitVec 5) (ra : BitVec 5) (s : State) : Outcome State Fault Refusal :=
  scalarOp (.zext p w rd ra) (fun s => countRes 7 w (srcS (.zext p w rd ra) .a s)) s

/-- BFX (R295). -/
def execBfx (p : Pfx) (rd : BitVec 5) (ra : BitVec 5) (len : BitVec 7) (lsb : BitVec 6) (s : State) : Outcome State Fault Refusal :=
  scalarOp (.bfx p rd ra len lsb) (fun s => bfxRes (srcS (.bfx p rd ra len lsb) .a s) len.toNat lsb.toNat) s

/-- BFXU (R295). -/
def execBfxu (p : Pfx) (rd : BitVec 5) (ra : BitVec 5) (len : BitVec 7) (lsb : BitVec 6) (s : State) : Outcome State Fault Refusal :=
  scalarOp (.bfxu p rd ra len lsb) (fun s => bfxuRes (srcS (.bfxu p rd ra len lsb) .a s) len.toNat lsb.toNat) s

/-- BFI (R295). -/
def execBfi (p : Pfx) (rd : BitVec 5) (ra : BitVec 5) (len : BitVec 7) (lsb : BitVec 6) (s : State) : Outcome State Fault Refusal :=
  scalarOp (.bfi p rd ra len lsb) (fun s => bfiRes (srcS (.bfi p rd ra len lsb) .d s) (srcS (.bfi p rd ra len lsb) .a s) len.toNat lsb.toNat) s

/-- LI (R296). -/
def execLi (p : Pfx) (rd : BitVec 5) (imm : BitVec 7) (s : State) : Outcome State Fault Refusal :=
  scalarOp (.li p rd imm) (fun _ => immS p.ext imm) s

/-- LI_LONG (R296). -/
def execLiLong (p : Pfx) (rd : BitVec 5) (imm : BitVec 32) (s : State) : Outcome State Fault Refusal :=
  scalarOp (.liLong p rd imm) (fun _ => immS p.ext imm) s

/-- LIH (R296). -/
def execLih (rd : BitVec 5) (ra : BitVec 5) (imm : BitVec 32) (s : State) : Outcome State Fault Refusal :=
  scalarOp (.lih rd ra imm) (fun s => imm ++ (srcS (.lih rd ra imm) .a s).extractLsb' 0 32) s

/-- MOV (R297). -/
def execMov (p : Pfx) (rd : BitVec 5) (ra : BitVec 5) (s : State) : Outcome State Fault Refusal :=
  scalarOp (.mov p rd ra) (fun s => srcS (.mov p rd ra) .a s) s

/-- SEL (R297). -/
def execSel (p : Pfx) (rd : BitVec 5) (ra : BitVec 5) (rb : BitVec 5) (neg : BitVec 1) (pn : BitVec 3) (s : State) : Outcome State Fault Refusal :=
  scalarOp (.sel p rd ra rb neg pn) (fun s => if ((readP (cur s) pn.toNat s).getLsbD 0 != (neg == 1#1)) then srcS (.sel p rd ra rb neg pn) .a s else srcS (.sel p rd ra rb neg pn) .b s) s

/-- CMP (R298). -/
def execCmp (p : Pfx) (cond : BitVec 3) (w : BitVec 2) (rd : BitVec 5) (ra : BitVec 5) (rb : BitVec 5) (s : State) : Outcome State Fault Refusal :=
  predOp (.cmp p cond w rd ra rb) (fun s => predOfBool (cmpRes cond w (srcS (.cmp p cond w rd ra rb) .a s) (srcS (.cmp p cond w rd ra rb) .b s))) s

/-- CMP with an immediate (R298). -/
def execCmpImm (p : Pfx) (cond : BitVec 3) (w : BitVec 2) (rd : BitVec 5) (ra : BitVec 5) (imm : BitVec 32) (s : State) : Outcome State Fault Refusal :=
  predOp (.cmpImm p cond w rd ra imm) (fun s => predOfBool (cmpRes cond w (srcS (.cmpImm p cond w rd ra imm) .a s) (immS p.ext imm))) s

/-- PAND (R299). -/
def execPand (p : Pfx) (rd : BitVec 5) (ra : BitVec 5) (rb : BitVec 5) (s : State) : Outcome State Fault Refusal :=
  predOp (.pand p rd ra rb) (fun s => srcP (.pand p rd ra rb) .a s &&& srcP (.pand p rd ra rb) .b s) s

/-- POR (R299). -/
def execPor (p : Pfx) (rd : BitVec 5) (ra : BitVec 5) (rb : BitVec 5) (s : State) : Outcome State Fault Refusal :=
  predOp (.por p rd ra rb) (fun s => srcP (.por p rd ra rb) .a s ||| srcP (.por p rd ra rb) .b s) s

/-- PXOR (R299). -/
def execPxor (p : Pfx) (rd : BitVec 5) (ra : BitVec 5) (rb : BitVec 5) (s : State) : Outcome State Fault Refusal :=
  predOp (.pxor p rd ra rb) (fun s => srcP (.pxor p rd ra rb) .a s ^^^ srcP (.pxor p rd ra rb) .b s) s

/-- PNOT (R299). -/
def execPnot (p : Pfx) (rd : BitVec 5) (ra : BitVec 5) (s : State) : Outcome State Fault Refusal :=
  predOp (.pnot p rd ra) (fun s => ~~~(srcP (.pnot p rd ra) .a s)) s

/-- LEA (R300). -/
def execLea (p : Pfx) (rd : BitVec 5) (ra : BitVec 5) (rb : BitVec 5) (imm : BitVec 7) (s : State) : Outcome State Fault Refusal :=
  scalarOp (.lea p rd ra rb imm) (fun s => addrAdd (srcS (.lea p rd ra rb imm) .a s) (srcS (.lea p rd ra rb imm) .b s + immS p.ext imm)) s

/-- LEA_LONG (R300). -/
def execLeaLong (p : Pfx) (rd : BitVec 5) (ra : BitVec 5) (rb : BitVec 5) (imm : BitVec 32) (s : State) : Outcome State Fault Refusal :=
  scalarOp (.leaLong p rd ra rb imm) (fun s => addrAdd (srcS (.leaLong p rd ra rb imm) .a s) (srcS (.leaLong p rd ra rb imm) .b s + immS p.ext imm)) s

/-- ADDP (R300). -/
def execAddp (p : Pfx) (rd : BitVec 5) (ra : BitVec 5) (rb : BitVec 5) (sh : BitVec 2) (s : State) : Outcome State Fault Refusal :=
  scalarOp (.addp p rd ra rb sh) (fun s => addrAdd (srcS (.addp p rd ra rb sh) .a s) (srcS (.addp p rd ra rb sh) .b s <<< sh.toNat)) s

/-- TAGS with an immediate tag (R300). -/
def execTagsImm (p : Pfx) (rd : BitVec 5) (ra : BitVec 5) (tag : BitVec 4) (s : State) : Outcome State Fault Refusal :=
  scalarOp (.tagsImm p rd ra tag) (fun s => setBits (srcS (.tagsImm p rd ra tag) .a s) 56 4 tag.toNat) s

/-- TAGS with a register tag (R300). -/
def execTagsReg (p : Pfx) (rd : BitVec 5) (ra : BitVec 5) (rb : BitVec 5) (s : State) : Outcome State Fault Refusal :=
  scalarOp (.tagsReg p rd ra rb) (fun s => setBits (srcS (.tagsReg p rd ra rb) .a s) 56 4 (bitsN (srcS (.tagsReg p rd ra rb) .b s) 0 4)) s

/-- NOP (R306). -/
def execNop  (s : State) : Outcome State Fault Refusal :=
  issue (.nop ) s fun s => .next (retire s)

end Sys2Proof.Machine
end

