-- ==== Sys2Proof/Machine/Control.lean ====
section
/-! DEFINITION. Control: the control transfers and NOP (R301, R302, R306). -/

namespace Sys2Proof.Machine

open Host

/-- A format-B target: the instruction's address plus four times the offset (R301). -/
def branchTarget (ext : Option (BitVec 26)) {w : Nat} (imm : BitVec w) (s : State) : BitVec 56 :=
  s.issue.pc + (immS ext imm <<< 2).setWidth 56

/-- The next word as a link value. -/
def linkValue (s : State) : Word := s.issue.npc.setWidth 64

/-- A predicated transfer (R301). -/
def branchIf (i : Instr) (neg : BitVec 1) (pn : BitVec 3) (target : State → BitVec 56) (s : State) :
    Outcome State Fault Refusal :=
  issue i s fun s =>
    .next (retireTo (if bitB (readP (cur s) pn.toNat s) 0 != (neg == 1#1) then target s else s.issue.npc) (consume i s))

/-- An unconditional transfer. -/
def jumpTo (i : Instr) (target : State → BitVec 56) (s : State) : Outcome State Fault Refusal :=
  issue i s fun s => .next (retireTo (target s) (consume i s))

/-- A transfer with a link (R301). -/
def jumpLink (i : Instr) (target : State → BitVec 56) (s : State) : Outcome State Fault Refusal :=
  issue i s fun s => .next (retireTo (target s) (dstS i .d (linkValue s) (consume i s)))

/-- A transfer to a register target: a misaligned one traps on the transfer, whose addr is the target (R261, R301;
log 13). -/
def jumpReg (i : Instr) (link : Bool) (target : State → Word) (s : State) : Outcome State Fault Refusal :=
  issue i s fun s =>
    let t := target s
    if bitsN t 0 2 ≠ 0 then .next (trapAddr 4 0 t s)
    else .next (retireTo (t.setWidth 56) (if link then dstS i .d (linkValue s) (consume i s) else consume i s))

/-- LOOP (R302): the counter goes down while it is not zero, and the branch is taken while it stays nonzero. -/
def loopTo (i : Instr) (target : State → BitVec 56) (s : State) : Outcome State Fault Refusal :=
  issue i s fun s =>
    let n := srcS i .d s
    let s1 := consume i s
    if n = 0#64 then .next (retireTo s.issue.npc s1)
    else .next (retireTo (if n - 1 ≠ 0#64 then target s else s.issue.npc) (dstS i .d (n - 1) s1))

/-- BR (R301). -/
def execBr (ext : Option (BitVec 26)) (neg : BitVec 1) (pn : BitVec 3) (imm : BitVec 17) (s : State) :
    Outcome State Fault Refusal := branchIf (.br ext neg pn imm) neg pn (branchTarget ext imm) s
/-- BR, long (R301). -/
def execBrLong (ext : Option (BitVec 26)) (neg : BitVec 1) (pn : BitVec 3) (imm : BitVec 32) (s : State) :
    Outcome State Fault Refusal := branchIf (.brLong ext neg pn imm) neg pn (branchTarget ext imm) s
/-- J (R301). -/
def execJ (ext : Option (BitVec 26)) (imm : BitVec 17) (s : State) : Outcome State Fault Refusal :=
  jumpTo (.j ext imm) (branchTarget ext imm) s
/-- J, long (R301). -/
def execJLong (ext : Option (BitVec 26)) (imm : BitVec 32) (s : State) : Outcome State Fault Refusal :=
  jumpTo (.jLong ext imm) (branchTarget ext imm) s
/-- JL (R301). -/
def execJl (ext : Option (BitVec 26)) (rd : BitVec 5) (imm : BitVec 17) (s : State) : Outcome State Fault Refusal :=
  jumpLink (.jl ext rd imm) (branchTarget ext imm) s
/-- JL, long (R301). -/
def execJlLong (ext : Option (BitVec 26)) (rd : BitVec 5) (imm : BitVec 32) (s : State) : Outcome State Fault Refusal :=
  jumpLink (.jlLong ext rd imm) (branchTarget ext imm) s
/-- JLR (R301). -/
def execJlr (ext : Option (BitVec 26)) (rd : BitVec 5) (ra : BitVec 5) (imm : BitVec 7) (s : State) :
    Outcome State Fault Refusal :=
  jumpReg (.jlr ext rd ra imm) true (fun s => addrAdd (srcS (.jlr ext rd ra imm) .a s) (immS ext imm)) s
/-- JLR, long (R301). -/
def execJlrLong (ext : Option (BitVec 26)) (rd : BitVec 5) (ra : BitVec 5) (imm : BitVec 32) (s : State) :
    Outcome State Fault Refusal :=
  jumpReg (.jlrLong ext rd ra imm) true (fun s => addrAdd (srcS (.jlrLong ext rd ra imm) .a s) (immS ext imm)) s
/-- RET (R301). -/
def execRet (ra : BitVec 5) (s : State) : Outcome State Fault Refusal :=
  jumpReg (.ret ra) false (fun s => srcS (.ret ra) .a s) s
/-- LOOP (R302). -/
def execLoop (ext : Option (BitVec 26)) (rd : BitVec 5) (imm : BitVec 17) (s : State) : Outcome State Fault Refusal :=
  loopTo (.loop ext rd imm) (branchTarget ext imm) s
/-- LOOP, long (R302). -/
def execLoopLong (ext : Option (BitVec 26)) (rd : BitVec 5) (imm : BitVec 32) (s : State) : Outcome State Fault Refusal :=
  loopTo (.loopLong ext rd imm) (branchTarget ext imm) s

end Sys2Proof.Machine
end

