-- ==== Sys2Proof/Machine/Csr.lean ====
section
/-! DEFINITION. Csr: the control registers of CSRR, CSRW and CSRX, and the handler-pool registers they share with MW0
(R69, R128, R151, R215, R245, R247, R278, R279, R307). -/

namespace Sys2Proof.Machine

open Host

/-! ### Values -/

/-- RNAME of a strand (R279). -/
def rnameWord (k : Nat) (s : State) : Word :=
  let t := strandAt k s
  BitVec.ofNat 64 (t.slot.getD 0 + 8 * (t.core % 256) + 2 ^ 11 * coreHall t.core)

/-- The ISLAND entry of a quadrant as a function reads it: lease time left in units of 100 µs, and own (R69). -/
def islandWord (i : Nat) (vf : BitVec 7) (s : State) : Word :=
  let e := reg 0 (0x30100 + 8 * i) s
  let x := islandAt i s
  let left := if bitsN e 8 1 = 1 ∧ tick s < x.leaseEnd then cdiv (x.leaseEnd - tick s) 100000 else 0
  setBits (setBits e 12 20 left) 63 1 (if islandOwner i s = vf then 1 else 0)

/-- The MW0 offset of a control register that is a register of the function. -/
def csrOffset (csr : Nat) : Nat :=
  if csr = 0x100 then 0x1010 else 0x1100 + 8 * (csr - 0x101)

/-- The value of a control register but TIME in a D-mode partition (R278). -/
def csrValue (csr : Nat) (s : State) : Word :=
  let k := cur s
  let t := strandAt k s
  let vf := s.issue.vf
  match csr with
  | 0x000 => (readFcsr k s).setWidth 64
  | 0x001 => (rngOf t.core s).setWidth 64
  | 0x002 => rnameWord k s
  | 0x010 => timeWord s
  | 0x011 => islandWord (coreQuadrant t.core) vf s
  | 0x012 => reg 0 (0x30300 + 8 * coreHall t.core) s
  | 0x020 => cachedWord k 0x1410 s
  | 0x021 => cachedWord k 0x1418 s
  | 0x022 => cachedWord k 0x1420 s
  | 0x104 => BitVec.ofNat 64 (fnAt vf s).busy.length
  | 0x105 => BitVec.ofNat 64 (fnAt vf s).waiting.length
  | 0x106 => (fnAt vf s).gcur
  | n => reg vf (csrOffset n) s

/-! ### The handler pool's registers (R215, R216) -/

def thBase (vf : BitVec 7) (s : State) : Nat := regN vf 0x1100 13 43 s * 2 ^ 13
def thEn (vf : BitVec 7) (s : State) : Bool := regN vf 0x1100 0 1 s == 1
def thCount (vf : BitVec 7) (s : State) : Nat := regN vf 0x1110 0 16 s

/-- Every record in use lies in the region of a base and a count (R215). -/
def regionHolds (vf : BitVec 7) (base n : Nat) (s : State) : Bool :=
  (fnAt vf s).busy.all (fun i => base ≤ thBase vf s + 8192 * i && decide (thBase vf s + 8192 * i < base + 8192 * n))

/-- A write of THCTX: ignored where a record in use would fall outside; the pool is checked for waiting traps when it is
enabled or moves. -/
def writeThctx (vf : BitVec 7) (v : Word) (s : State) : State :=
  let base := bitsN v 13 43 * 2 ^ 13
  if !regionHolds vf base (thCount vf s) s then s
  else
    let f := fnAt vf s
    let s := setFn vf { f with busy := f.busy.map (fun i => (thBase vf s + 8192 * i - base) / 8192) } s
    post 1 .handlerHandover (argVf vf) (setReg vf 0x1100 (v &&& 0x00FFFFFFFFFFE001#64) s)

/-- A write of THENT. -/
def writeThent (vf : BitVec 7) (v : Word) (s : State) : State :=
  post 1 .handlerHandover (argVf vf) (setReg vf 0x1108 (v &&& 0x00FFFFFFFFFFFFFC#64) s)

/-- A write of THCNT: ignored where a record in use would fall outside. -/
def writeThcnt (vf : BitVec 7) (v : Word) (s : State) : State :=
  if !regionHolds vf (thBase vf s) (bitsN v 0 16) s then s
  else post 1 .handlerHandover (argVf vf) (setReg vf 0x1110 (v &&& 0xFFFF#64) s)

/-- A write of PTBASE (R151). -/
def writePtbase (vf : BitVec 7) (v : Word) (s : State) : State := setReg vf 0x1010 (v &&& 0x000FFFFFFFFFE001#64) s

/-- FCSR after a write: a rounding mode of 6 or 7 leaves the field, reserved bits stay zero (R245). -/
def fcsrAfter (old : BitVec 16) (v : Word) : BitVec 16 :=
  let n := (v &&& 0x3FF#64).setWidth 16
  if 6 ≤ bitsN v 0 3 then setBits n 0 3 (bitsN old 0 3) else n

/-- The effect of a write; read-only registers ignore it (R278). -/
def csrWrite (csr : Nat) (v : Word) (s : State) : State :=
  let k := cur s
  let vf := s.issue.vf
  match csr with
  | 0x000 => writeFcsr k (fcsrAfter (readFcsr k s) v) s
  | 0x001 => setRng (strandAt k s).core (if v.setWidth 32 = 0#32 then 1#32 else v.setWidth 32) s
  | 0x100 => writePtbase vf v s
  | 0x101 => writeThctx vf v s
  | 0x102 => writeThent vf v s
  | 0x103 => writeThcnt vf v s
  | _ => s

/-! ### The instructions (R307) -/

/-- Reads a register for an instruction that goes on with the value; TIME in a D-mode partition is logged or replayed,
and may have to wait (R112 kind 2). -/
def withCsr (csr : Nat) (s : State) (f : Word → State → Outcome State Fault Refusal) : Outcome State Fault Refusal :=
  if csr = 0x010 then
    match logStrand (cur s) 2 (timeWord s) s with
    | .go v s => f v s
    | .wait s => .next s
    | .diverged e s => .next (divergeStrand (cur s) e s)
  else f (csrValue csr s) s

/-- CSRR (R278, R307). -/
def execCsrr (p : Pfx) (rd : BitVec 5) (csr : BitVec 12) (s : State) : Outcome State Fault Refusal :=
  let i := Instr.csrr p rd csr
  issue i s fun s =>
    withCsr csr.toNat s fun v s => .next (retire (dstS i .d v (consume i s)))

/-- CSRW (R278, R307). -/
def execCsrw (p : Pfx) (ra : BitVec 5) (csr : BitVec 12) (s : State) : Outcome State Fault Refusal :=
  let i := Instr.csrw p ra csr
  issue i s fun s =>
    .next (retire (csrWrite csr.toNat (srcS i .a s) (consume i s)))

/-- CSRX (R278, R307): old value to rd and the write, in one step. -/
def execCsrx (p : Pfx) (rd : BitVec 5) (ra : BitVec 5) (csr : BitVec 12) (s : State) : Outcome State Fault Refusal :=
  let i := Instr.csrx p rd ra csr
  issue i s fun s =>
    withCsr csr.toNat s fun v s => .next (retire (dstS i .d v (csrWrite csr.toNat (srcS i .a s) (consume i s))))

end Sys2Proof.Machine
end

