-- ==== Sys2Proof/Machine/Access.lean ====
section
/-! DEFINITION. Access: a strand's memory access: addresses, checks in their order, windows, the race shadow, travel and
holds, and sending its requests (R110, R136, R140, R142, R155 to R162, R173, R194, R226, R308, R309). -/

namespace Sys2Proof.Machine

open Host

/-! ### Watches (R224, R226) -/

/-- Watch i of line 82: kind, size (log2), address. -/
def watchAt (k i : Nat) (s : State) : Nat × Nat × Nat :=
  let w := cachedWord k 0x1480 s
  (bitsN w (1 + 2 * i) 2, bitsN w (8 + 8 * i) 6, bitsN (cachedWord k (0x1488 + 8 * i) s) 0 56)

/-- The first watch an access meets: its index, and whether the read matched. -/
def watchHit (k : Nat) (a : Word) (n : Nat) (u : Use) (s : State) : Option (Nat × Bool) :=
  if !bitB (hdrPresent k s) 41 && (lineAt (lineKey k 82) s).rc.isNone || (strandAt k s).suppress then none
  else
    let rd := u != .write
    let wr := u != .read
    let hit (i : Nat) : Bool :=
      let (kind, size, wa) := watchAt k i s
      let lo := bitsN a 0 56
      ((rd && kind % 2 == 1) || (wr && 2 ≤ kind)) && decide (lo < wa + 2 ^ size) && decide (wa < lo + n)
    let pick (i : Nat) : Nat × Bool := (i, rd && (watchAt k i s).1 % 2 == 1)
    if hit 0 then some (pick 0) else if hit 1 then some (pick 1) else none

/-! ### Travel (R136, R140) -/

/-- A stream register of the strand is bound (R198). -/
def hasBinding (k : Nat) (s : State) : Bool :=
  (List.range 8).any (fun q => (streamAt k q s).kind != 0)

/-- The cores of a hall whose quadrants the function owns. -/
def ownedCores (vf : BitVec 7) (h : Nat) (s : State) : List Nat :=
  ((List.range 256).map (fun c => 256 * h + c)).filter (fun c => ownsCore vf c s)

/-- The owned core of a hall nearest to a core; ties to the lowest number (R140).  No strand travels into a hall of a D-mode
partition (R107). -/
def nearestOwned (vf : BitVec 7) (v : Nat) (s : State) : Option Nat :=
  match if (partOf (coreHall v) s).isSome then [] else ownedCores vf (coreHall v) s with
  | [] => none
  | x :: t => some (t.foldl (fun b c => if torusDist c v < torusDist b v then c else b) x)

/-- The core a strand travels to for a physical address, if it travels. -/
def travelTarget (k : Nat) (pa : Nat) (s : State) : Option Nat :=
  let h := coreHall (strandAt k s).core
  if homeOf pa = h ∨ hdrDmode k s ∨ (partOf h s).isSome ∨ hasBinding k s then none
  else nearestOwned (sidVf k) (bankCore (bankOf pa)) s

/-! ### The checks of one access (R155) -/

/-- What an access must pass: bytes, natural alignment, use, and the tag's, race's and window's part in it. -/
structure Rules where
  n : Nat
  al : Nat
  u : Use
  tag : Bool
  race : Bool
  deriving DecidableEq, Repr

/-- What the checks come to: a scratchpad offset, a physical address (with its check of tags), or the state that
results instead. -/
inductive Acc where
  | pad (off : Nat)
  | mem (pa : Nat) (tagchk : Bool)
  | stop (s : State)

/-- A strand leaves its slot held, at this boundary, on an instruction that takes no effect (R142): where the strand can travel, it
is held in the page's home hall. -/
def holdNow (k : Nat) (hold : BitVec 4) (hobj : BitVec 56) (s : State) : State :=
  if outstanding (strandAt k s) then s
  else parkNow k (modStrand k (fun t => { t with hold := hold, hobj := hobj }) s)

/-- The strand whose access goes next in a window that has been filled: the first to arrive (R162). -/
def firstWaiter (w : Nat) (v : Window) (s : State) : Option Nat :=
  v.waiters.find? (fun k => (strandAt k s).touching == some w)
/-- A touch of a window's range (R162): goes on, or waits for the fill it joins or starts, or for those that waited before it. -/
def touchRange (k c off : Nat) (s : State) : Option State :=
  match windowOf c off s with
  | none => none
  | some w =>
    let v := windowAt c w s
    let wait (s : State) : State := modStrand k (fun t => { t with touching := some w }) s
    if v.state = 1#2 then
      some (wait (setWindow c w { v with waiters := if v.waiters.contains k then v.waiters else v.waiters ++ [k] } s))
    else if v.state = 0#2 then
      match startWindow k c w false s with
      | .started s =>
        let v := windowAt c w s
        some (wait (setWindow c w { v with waiters := [k] } s))
      | .full => some (if copyCount k s = 63 then stallWith 3 (sidCtx k) s else s)
      | .refused => some (trapFull 22 3 0 (BitVec.ofNat 64 w) 0 s)
      | .traps kd ca a => some (trapAddr kd ca a s)
    else match firstWaiter w v s with
      | some x => if x = k then none else some s
      | none => none

/-- The first checks of R155: canonical, alignment, watch. -/
def checkFirst (r : Rules) (a : Word) (s : State) : Option State :=
  if bitsN a 60 4 ≠ 0 then some (trapAddr 7 1 a s)
  else if a.toNat % r.al ≠ 0 then some (trapAddr 4 0 a s)
  else
    (watchHit (cur s) a r.n r.u s).map (fun h =>
      trapFull 21 (if h.2 then 0 else 1) a (BitVec.ofNat 64 h.1) (BitVec.ofNat 64 r.n) s)

/-- The checks of R155 in order on one address: canonical, alignment, watch, aperture or translation, permission. -/
def check (r : Rules) (a : Word) (s : State) : Acc :=
  let k := cur s
  let c := s.issue.core
  let vf := s.issue.vf
  match checkFirst r a s with
    | some s => .stop s
    | none =>
      match whereIs c vf a s with
      | .fault kd ca => .stop (trapAddr kd ca a s)
      | .vaultLocal pa => .mem pa false
      | .scratchpad off =>
        match (if r.race then raceHit k c off r.n (r.u != .read) s else none) with
        | some (o, ca, who, e) =>
          .stop (trapFull 14 ca (BitVec.ofNat 64 (0xFE * 2 ^ 48 + o)) (BitVec.ofNat 64 who) (BitVec.ofNat 64 e) s)
        | none =>
          match touchRange k c off s with
          | some s => .stop s
          | none => .pad off
      | .translated va =>
        match tlbHit c vf va s with
        | none =>
          match takeIFault c (fun f => f.vf == vf && f.addr.toNat / 2 ^ 16 == va / 2 ^ 16 && !(f.kind == 13#8 && f.cause == 3#8)) s with
          | some (f, s) => .stop (trapAddr f.kind.toNat f.cause.toNat a s)
          | none => .stop (missWalk c vf va s)
        | some x =>
          match permFault (curPriv s) r.u x.leaf with
          | some (kd, ca) => .stop (trapAddr kd ca a s)
          | none =>
            if r.u ≠ .read ∧ pageMoving vf va s ∧ (travelTarget k (x.pa va) s).isNone then .stop (holdNow k 11 (BitVec.ofNat 56 va) s)
            else .mem (x.pa va) (r.tag && bitB x.leaf 6)

/-! ### Starting to travel -/

/-- A strand starts to travel: the instruction takes no effect (R140 step 1); the departure follows once its accesses
have completed. -/
def startTravel (k target : Nat) (pa : Option Nat) (s : State) : State :=
  let s := modStrand k (fun t => { t with goal := some target, stall := none }) s
  let s := setRun k .transit 0 0 s
  let pa' := pa.getD 0
  let va := match (coreAt (strandAt k s).core s).tlb.find? (fun x =>
      x.vf == sidVf k && decide (x.pa x.base.toNat ≤ pa') && decide (pa' < x.pa x.base.toNat + 2 ^ x.lsize)) with
    | some x => x.base.toNat + (pa' - x.pa x.base.toNat)
    | none => 0
  post 1 .travelDepart
    { argStrand k with v := BitVec.ofNat 64 pa', w := BitVec.ofNat 64 va, flag := pa.isSome && va != 0 } s

/-! ### Ordering within a strand (R173, R308, R315) -/

/-- An earlier access of the strand on another path, or on a circuit whose slots may take different ways over the floor,
touches a granule of this one (R173). -/
def granuleBusy (k pa n : Nat) (rt : Route) (s : State) : Bool :=
  (openReqs k s).any (fun r =>
    r.pa.toNat / 32 ≤ (pa + n - 1) / 32 && pa / 32 ≤ (r.pa.toNat + r.size - 1) / 32 &&
    (r.route != rt ||
      (match rt with
       | .circuit c => (match circAt c s with | some v => v.ends.srcHall != v.ends.dstHall | none => true)
       | _ => false)))

/-- A physical address lies in a scope's domain for a core (R171): code of R273. -/
def inDomain (scope : Nat) (c pa : Nat) : Bool :=
  match scope with
  | 1 | 2 => bankOf pa == c
  | 3 => bankOf pa < 4096 && coreQuad (bankOf pa) == coreQuad c
  | 4 => homeOf pa == coreHall c
  | _ => true

/-- Streams of a strand that are still bound. -/
def boundStreams (k : Nat) (s : State) : List Nat := (List.range 8).filter (fun q => (streamAt k q s).kind != 0)
/-- The circuit of a stream descriptor. -/
def sdCirc (d : BitVec 512) : Nat := bitsN d 472 11
/-- Elements are on their way on a circuit. -/
def elementsOut (c : Nat) (s : State) : Bool :=
  s.flits.any (fun e => e.2.circ == some c && (match e.2.load with | .element _ _ => true | _ => false)) ||
  s.agenda.any (fun d => d.ev == .streamFlitArrive && d.args.id == c)
/-- An outbound binding has elements not yet performed (R186). -/
def drains (k q : Nat) (s : State) : Bool :=
  let x := streamAt k q s
  decide (4 ≤ q) && x.status == 0 && (!x.buf.isEmpty || (x.kind == 2 && elementsOut (sdCirc x.desc) s))
def undrained (k : Nat) (s : State) : Bool := (boundStreams k s).any (fun q => drains k q s)
/-- An outbound circuit binding that ends, or whose strand orders its stores, sends the elements of an unfilled flit as they are
(log 12). -/
def flushStreams (k : Nat) (s : State) : State :=
  (boundStreams k s).foldl (fun s q =>
    let x := streamAt k q s
    if 4 ≤ q ∧ x.kind = 2 ∧ !x.buf.isEmpty ∧
        !s.agenda.any (fun d => d.ev == .flitInject && d.args.flag && d.args.vf == sidVf k && d.args.ctx == sidCtx k) then
      post 1 .flitInject { argStrand k with q := BitVec.ofNat 6 q, flag := true } s
    else s) s
/-- The elements of a stream are accesses in the domains that hold both its ends (R176). -/
def streamInDomain (scope c : Nat) (x : Stream) (s : State) : Bool :=
  if x.kind ≠ 2 then true
  else
    match circAt (sdCirc x.desc) s with
    | some v =>
      let d := 256 * v.ends.dstHall + v.ends.dstCore
      (match scope with
       | 1 | 2 => d == c
       | 3 => coreQuad d == coreQuad c
       | 4 => coreHall d == coreHall c
       | _ => true)
    | none => false

/-- Earlier accesses of the strand in the domain have not completed: loads, stores, a write of q4 to q7 among them (R176). -/
def domainBusy (k scope : Nat) (loads stores : Bool) (s : State) : Bool :=
  let c := (strandAt k s).core
  (openReqs k s).any (fun r => (if countsLoad r then loads else stores) && inDomain scope c r.pa.toNat) ||
  (stores && (boundStreams k s).any (fun q => drains k q s && streamInDomain scope c (streamAt k q s) s))

/-! ### Sending (R309, R326) -/

/-- One part of an access: physical and virtual address, size, data, byte offset in the register. -/
structure Piece where
  pa : Nat
  va : Word
  size : Nat
  data : Nat
  off : Nat
  deriving DecidableEq, Repr

/-- Splits n bytes at a physical address into requests of at most m bytes. -/
def pieces (m : Nat) : Nat → Nat → Word → Nat → Nat → Nat → List Piece
  | 0, _, _, _, _, _ => []
  | fuel + 1, pa, va, n, data, off =>
    if n ≤ m then [⟨pa, va, n, data, off⟩]
    else ⟨pa, va, m, data % 2 ^ (8 * m), off⟩ ::
      pieces m fuel (pa + m) (va + BitVec.ofNat 64 m) (n - m) (data / 2 ^ (8 * m)) (off + m)

/-- A request of the strand at issue, to be completed with a piece: kinds 4 and 5 are TAGLD's read and TAGST's write, to
which R32 gives no kind of their own. -/
def reqOf (kind op : Nat) (scope : Nat) (w32 : Bool) (cmp : Nat) (regc : Nat) (sx : Bool) (s : State) : Req :=
  { reqZero with
    vf := s.issue.vf, ctx := s.issue.ctx, core := s.issue.core, kind := BitVec.ofNat 4 (kind % 4), tagop := decide (4 ≤ kind), op := BitVec.ofNat 6 op,
    scope := BitVec.ofNat 3 scope, w32 := w32, compare := BitVec.ofNat 128 cmp, reg := regc, sext := sx, pc := s.issue.pc }

/-- Sends the pieces of one access as a group: its number and the state; the loads or stores count goes up by one. -/
def sendGroup (t : Req) (ps : List (Piece × Bool)) (s : State) : Nat × State :=
  let k := cur s
  let (g, s) := newId s
  let dm := hdrDmode k s
  let s := ps.foldl (fun s p =>
    let (id, s) := newId s
    let r := { t with
      grp := g, pa := BitVec.ofNat 52 p.1.pa, va := p.1.va, size := p.1.size, data := BitVec.ofNat 128 p.1.data,
      off := p.1.off, tagchk := p.2, seq := BitVec.ofNat 9 id, route := routeFor t.vf t.core p.1.pa dm s }
    dispatchReq id (setReq id r s)) s
  (g, modStrand k (fun x => if countsLoad t then { x with loads := x.loads + 1 } else { x with stores := x.stores + 1 }) s)

/-- The strand waits for a group's reply: its slot bubbles. -/
def waitGroup (g : Nat) (s : State) : State := modStrand (cur s) (fun t => { t with wait := .reply g }) s

/-- The count a group would raise stands at 63 (R194, R206). -/
def countFull (load : Bool) (s : State) : Bool :=
  let t := curStrand s
  (if load then t.loads else t.stores) == 63

/-- The trap of a group's failed reply (R155, R169): tag mismatch with both tags, or memory error. -/
def replyTrap (r : Req) (s : State) : State :=
  if r.status = 2#8 then
    trapFull 5 0 r.va (BitVec.ofNat 64 (bitsN r.va 56 4 + 16 * (r.value.toNat % 16))) 0 s
  else trapFull 13 0 r.va 0 0 s

end Sys2Proof.Machine
end

