-- ==== Sys2Proof/Machine/Packet.lean ====
section
/-! DEFINITION. Packet: the fields of a work packet, its grid, positions and indices, and the checks that reject it
(R91 to R94). -/

namespace Sys2Proof.Machine

open Host

abbrev Packet := BitVec 1024

def pkEntry (p : Packet) : BitVec 56 := BitVec.ofNat 56 (bitsN p 0 56)
def pkPrio (p : Packet) : Nat := bitsN p 56 3
def pkOrdered (p : Packet) : Bool := bitB p 59
def pkDmode (p : Packet) : Bool := bitB p 60
def pkIrq (p : Packet) : Bool := bitB p 61
def pkRace (p : Packet) : Bool := bitB p 62
def pkPinned (p : Packet) : Bool := bitB p 63
def pkGx (p : Packet) : Nat := bitsN p 64 32 + 1
def pkGy (p : Packet) : Nat := bitsN p 96 32 + 1
def pkGz (p : Packet) : Nat := bitsN p 128 32 + 1
def pkCoreLo (p : Packet) : Nat := bitsN p 160 8
def pkCoreCnt (p : Packet) : Nat := bitsN p 168 9
def pkHallLo (p : Packet) : Nat := bitsN p 177 4
def pkHallCnt (p : Packet) : Nat := bitsN p 181 5
def pkKind (p : Packet) : Nat := bitsN p 186 2
def pkTlen (p : Packet) : Nat := bitsN p 188 4
def pkCtx (p : Packet) : Nat := bitsN p 192 56
def pkB (p : Packet) : Nat := bitsN p 248 6
def pkLease (p : Packet) : Nat := bitsN p 254 2
def pkTable (p : Packet) : Nat := bitsN p 512 56
def pkDone (p : Packet) : Nat := bitsN p 576 56
/-- The dependence word i, in the form `depMet` reads. -/
def pkDep (p : Packet) (i : Nat) : Word := BitVec.ofNat 64 (bitsN p (640 + 64 * i) 64)
def pkQuota (p : Packet) : Nat := bitsN p 896 64
def pkPolicy (p : Packet) : Nat := bitsN p 960 2
def pkThresh (p : Packet) : Nat := bitsN p 962 8
def pkSpawnMax (p : Packet) : Nat := bitsN p 970 16
/-- The pointers d4 to d7 (R96). -/
def pkPtr (p : Packet) (i : Nat) : Word := BitVec.ofNat 64 (bitsN p (256 + 64 * i) 56)

/-- Grid size N (R92). -/
def pkN (p : Packet) : Nat := pkGx p * pkGy p * pkGz p
/-- Positions P (R93). -/
def pkP (p : Packet) : Nat := if pkKind p = 2 then 2 ^ pkTlen p else pkHallCnt p * pkCoreCnt p

/-- Core of position k; `table` holds the entries of kind 2 (R93). -/
def pkCore (p : Packet) (table : List Nat) (k : Nat) : Nat :=
  if pkKind p = 2 then (table[k]?).getD 0 % 4096
  else 256 * (pkHallLo p + k / pkCoreCnt p) + (pkCoreLo p + k % pkCoreCnt p)

/-- Position of a logical index (R93). -/
def pkPos (p : Packet) (l : Nat) : Nat :=
  if pkKind p = 1 then (if l < pkN p then l * pkP p / pkN p else (l - pkN p) * pkP p / pkSpawnMax p)
  else l / 2 ^ pkB p % pkP p

/-- The j-th index of the grid at position k, ascending (R96). -/
def pkIndex (p : Packet) (k j : Nat) : Option Nat :=
  let l := if pkKind p = 1 then cdiv (k * pkN p) (pkP p) + j else (k + pkP p * (j / 2 ^ pkB p)) * 2 ^ pkB p + j % 2 ^ pkB p
  if l < pkN p ∧ pkPos p l = k then some l else none

/-- A reserved bit of the packet is nonzero (R91); the low four bits of done, which R91 wants zero and does not list, are
taken as reserved (DESIGN CHOICE, log 31). -/
def pkReserved (p : Packet) : Bool :=
  bitsN p 312 8 != 0 || bitsN p 376 8 != 0 || bitsN p 440 8 != 0 || bitsN p 504 8 != 0 || bitsN p 568 8 != 0 ||
  bitsN p 632 8 != 0 || bitsN p 986 38 != 0 || bitsN p 576 4 != 0 ||
  (List.range 4).any (fun i => bitsN (pkDep p i) 0 4 != 0 || bitsN (pkDep p i) 60 3 != 0)

/-- The packet alone is rejected, before its table is read (R94). -/
def pkMalformed (p : Packet) : Bool :=
  pkReserved p || bitsN p 0 2 != 0 || bitsN p 192 13 != 0 || decide (2 ^ 32 < pkN p) ||
  pkKind p == 3 || 2 ≤ pkLease p || pkPolicy p == 3 ||
  (pkKind p != 2 && (decide (16 < pkHallLo p + pkHallCnt p) || decide (256 < pkCoreLo p + pkCoreCnt p) ||
    pkHallCnt p == 0 || pkCoreCnt p == 0)) || decide (32 < pkB p)

/-- The cores of the positions, in order. -/
def pkPlaces (p : Packet) (table : List Nat) : List Nat := (List.range (pkP p)).map (pkCore p table)

/-- A placed core is one the function may use, in the mode of the packet (R94). -/
def placeAllowed (vf : BitVec 7) (p : Packet) (c : Nat) (s : State) : Bool :=
  ownsCore vf c s &&
  (match partOf (coreHall c) s with
   | some n => pkDmode p && partOwner n s == vf
   | none => !pkDmode p)

/-- Entries of a placement table read under a function's translation: none where it cannot be read. -/
def readTable (vf : BitVec 7) (a : Nat) (s : State) : Nat → Option (List Nat)
  | 0 => some []
  | n + 1 =>
    match readTable vf a s n, functionRead vf (a + 2 * n) 2 s with
    | some l, .ok v => some (l ++ [v])
    | _, _ => none

/-- The descriptor fault of a packet (R94): none, or the placement table it comes with. -/
def packetTable (vf : BitVec 7) (p : Packet) (s : State) : Option (List Nat) :=
  if pkMalformed p then none
  else
    match (if pkKind p = 2 then readTable vf (pkTable p) s (2 ^ pkTlen p) else some []) with
    | none => none
    | some t =>
      if t.any (fun e => 4096 ≤ e) ∨ pkTable p % 2 = 1 ∧ pkKind p = 2 then none
      else if (pkPlaces p t).all (fun c => placeAllowed vf p c s) then some t
      else none

/-- The launch of a strand. -/
def launchOf (k : Nat) (s : State) : Option Launch := tfind s.launches (strandAt k s).launch
/-- Context address of a logical index (R92). -/
def indexCtx (p : Packet) (l : Nat) : BitVec 56 := BitVec.ofNat 56 (pkCtx p + 8192 * l)
/-- The core a position maps to now. -/
def placeOf (l : Launch) (pos : Nat) : Nat := (l.places[pos]?).getD 0

end Sys2Proof.Machine
end

