-- ==== Sys2Proof/Machine/Lease.lean ====
section
/-! DEFINITION. Lease: the Chrysalis store, leases and their holders (R70, R71, R78 to R82, R388). -/

namespace Sys2Proof.Machine

open Host

/-- Excess power of a quadrant at sprint level l in W: no level below the one before it (R68). -/
def sprintP : Nat → Nat
  | 0 => 0
  | n + 1 => sprintP n + (Config.sprintStep n).toNat
/-- µJ of reservation still held by the lease of a quadrant: it shrinks linearly to zero over the term (R81). -/
def reservedBy (i : Nat) (s : State) : Nat :=
  let x := islandAt i s
  if islandN i 8 1 s = 0 ∨ x.leaseEnd ≤ x.leaseStart ∨ x.leaseEnd ≤ tick s then 0
  else x.leaseJ * (x.leaseEnd - tick s) / (x.leaseEnd - x.leaseStart)
/-- Reservation of a hall's segment. -/
def reserved (g : Nat) (s : State) : Nat := (List.range 4).foldl (fun a q => a + reservedBy (4 * g + q) s) 0

/-- A quadrant's hall is in an enabled D-mode partition. -/
def islandInPart (i : Nat) (s : State) : Bool := (partOf (i / 4) s).isSome
/-- Lease time left in µs, in whole units of 100 µs. -/
def leaseLeft (i : Nat) (s : State) : Nat :=
  let x := islandAt i s
  if tick s < x.leaseEnd then 100 * cdiv (x.leaseEnd - tick s) 100000 else 0

/-- The clock point an island should run at: the owner's point, raised by a lease and lowered by R78 (R70). -/
def islandPoint (i : Nat) (s : State) : Nat :=
  if s.power != .on then 8
  else if islandInPart i s then 20
  else
    let vf := islandOwner i s
    let f := regN vf (0x30020 + 8 * regN vf 0x30018 0 3 s) 0 5 s
    let f := max 8 (min 28 f)
    let f := if islandN i 8 1 s = 1 then max f (22 + islandN i 9 3 s) else f
    let f := if islandN i 49 1 s = 1 then 8 else f
    max 8 (f - (islandAt i s).lowered)
/-- The island takes a new point within 20 µs (R70; log 2). -/
def repoint (i : Nat) (s : State) : State := post 1024 .islandFreqChange (argId i) s

/-- Ends a lease: its holders' traps become due with the cause (0 term ended, 1 early); with no holder, none. -/
def endLease (i : Nat) (early : Bool) (s : State) : State :=
  let x := islandAt i s
  let s := x.holders.foldl (fun s k =>
    let s := setHdrN k 3 0 1 0 (withHeader k s)
    let s := setHdrN k 3 10 1 1 s
    modStrand k (fun t => { t with early := early }) s) s
  let s := setIsland i { islandAt i s with holders := [], leaseJ := 0, leaseEnd := 0, leaseStart := 0 } s
  repoint i (setIslandN i 8 4 0 s)

/-- A strand leaves the holders of its lease: the last one ends the lease with no trap (R82). -/
def leaveLease (k : Nat) (s : State) : State :=
  if hdrN k 3 0 1 s = 0 then s
  else
    let i := 4 * hdrN k 3 4 4 s + hdrN k 3 8 2 s
    let s := setHdrN k 3 0 1 0 s
    let x := islandAt i s
    let s := setIsland i { x with holders := x.holders.filter (fun h => h != k) } s
    if x.holders = [k] then endLease i false s else s

/-- Lease policy of a strand: that of its launch's packet, 0 for a handler (R81). -/
def leasePolicy (k : Nat) (s : State) : Nat := match launchOf k s with | some l => pkLease l.packet | none => 0

/-- The grant of R81 in µs for level l and duration d, and the state with the reservation made. -/
def grantLease (k i l d : Nat) (s : State) : Nat × State :=
  let g := i / 4
  let vf := sidVf k
  if hdrDmode k s ∨ leasePolicy k s = 0 ∨ l = 0 ∨ regN vf 0x30060 0 3 s < l ∨ meltRefreeze g s = true ∨
      islandN i 49 1 s = 1 ∨ s.ctl.refuse = true then (0, s)
  else if islandN i 8 1 s = 1 then (leaseLeft i s, s)
  else
    let p := sprintP l
    let store := (0xF334 - meltFrac g s) * 7500000000
    let room := store - reserved g s * 65536
    if 10000 < s.ctl.watts + s.ctl.sinceGrant + p ∨ p = 0 then (0, s)
    else
      let grant := 100 * (min d (min (regN vf 0x30068 0 32 s) (room / (65536 * p))) / 100)
      if grant = 0 then (0, s)
      else
        let s := setIsland i { islandAt i s with
          leaseStart := tick s, leaseEnd := tick s + 1000 * grant, leaseJ := p * grant, raised := s.wheel } s
        let s := setIslandN i 8 4 (1 + 2 * l) s
        let s := { s with ctl := { s.ctl with sinceGrant := s.ctl.sinceGrant + p } }
        let s := postAt (2 * (tick s + 1000 * grant)) .leaseExpiry { argId i with v := BitVec.ofNat 64 (tick s + 1000 * grant) } s
        (grant, repoint i s)

end Sys2Proof.Machine
end

