-- ==== Sys2Proof/Machine/Launching.lean ====
section
/-! DEFINITION. Launching: fresh records, entering a slot, dispatching a candidate, task lists, and ending a strand
(R92, R96, R97, R108, R120, R125, R216, R381, R383). -/

namespace Sys2Proof.Machine

open Host

/-! ### Records -/

/-- What a new header holds. -/
structure Fresh where
  pc : Nat
  run : Run
  priv : Nat
  prio : Nat
  dmode : Bool
  race : Bool
  policy : Nat
  region : Nat
  spawned : Bool
  present : Nat

/-- Line 0 of a new record (R118, R120). -/
def freshHeader (k : Nat) (f : Fresh) : BitVec 512 :=
  ofWords [BitVec.ofNat 64 f.pc,
    BitVec.ofNat 64 (runCode f.run + 2 ^ 8 * f.priv + 2 ^ 10 * f.prio + (if f.dmode then 2 ^ 13 else 0) + (if f.race then 2 ^ 14 else 0)),
    BitVec.ofNat 64 f.policy, 0#64, BitVec.ofNat 64 ((sidCtx k).toNat + 0x1500),
    BitVec.ofNat 64 (f.region % 2 ^ 56 / 2 ^ 13 * 2 ^ 13 + (sidVf k).toNat * 2 ^ 56 + (if f.spawned then 2 ^ 63 else 0)),
    BitVec.ofNat 64 f.present, 0#64]

/-- The dispatch registers of an index (R96). -/
def dispatchLine (p : Packet) (l : Nat) : BitVec 512 :=
  let n := pkN p
  let at_ (v : Nat) : Word := BitVec.ofNat 64 v
  let xyz : List Word :=
    if l < n then [at_ (l % pkGx p), at_ (l / pkGx p % pkGy p), at_ (l / (pkGx p * pkGy p))] else [at_ (l - n), 0#64, 0#64]
  ofWords (xyz ++ [at_ l, pkPtr p 0, pkPtr p 1, pkPtr p 2, pkPtr p 3])

/-- No cache holds a line of the record. -/
def dropLines (k : Nat) (s : State) : State := { s with lines := s.lines.filter (fun e => keySid e.1 != k) }

/-- The header and line 78 of a new record stand in the register cache of a core, every other line absent (R96, R120). -/
def freshRecord (k core : Nat) (l0 l78 : BitVec 512) (s : State) : State :=
  let put (l : Nat) (d : BitVec 512) (s : State) : State :=
    setLine (lineKey k l) ⟨some { copyNone core s with mask := 255#8, dirty := true, data := d }, []⟩ ((makeRoom core s).getD s)
  let s := put 78 l78 (put 0 l0 (dropLines k s))
  { s with streams := s.streams.filter (fun e => e.1 / 8 != k) }

/-- The policy word of a launch's strands: retain 1, and mode 1 in D-mode (R144). -/
def launchPolicy (p : Packet) : Nat := (if pkDmode p then 1 else pkPolicy p) + 4 * pkThresh p + 2 ^ 10

/-! ### Slots -/

/-- The highest barrel slot of a core in rotation (R79). -/
def topSlot (c : Nat) (s : State) : Nat := islandN (coreQuadrant c) 5 3 s

/-- The strand in a barrel slot of a core. -/
def slotHolder (c b : Nat) (s : State) : Option Nat :=
  (s.strands.find? (fun e => e.2.core == c && e.2.slot == some b)).map Prod.fst

/-- A strand enters a barrel slot: resident, with its name current; a barrier wait stays (R116, R330). -/
def enterSlot (k b : Nat) (s : State) : State :=
  let s := withHeader k s
  let c := (strandAt k s).core
  let s := match (strandAt k s).wait with
    | .barrier key tok => setRun k .resident 4 (barrierObj key tok) s
    | _ => setRun k .resident 0 0 s
  let s := setHdrN k 1 16 16 (b + 8 * (c % 256) + 2 ^ 11 * coreHall c + 2 ^ 15) s
  modStrand k (fun t => { t with
    slot := some b, turn := nextTurn c b 1 s, issued := 0, leaving := false, stall := none, busyTurns := 0, fetching := [] }) s

/-! ### Candidates and task lists (R96, R99, R108) -/

/-- The next undispatched index of a position. -/
def nextIndex (l : Launch) (pos : Nat) : Option Nat := pkIndex l.packet pos (tget l.cursor pos 0)

/-- A new strand of an exhausted launch has the quota trap pending (R76). -/
def quotaTrap (l : Launch) (k : Nat) (s : State) : State := if l.exhausted then setHdrN k 3 11 1 1 s else s
/-- A strand spawned while its function's submissions are held has not started (R76). -/
def notStarted (k : Nat) (s : State) : Bool := (strandAt k s).unstarted && submissionsHeld (sidVf k) s

/-- Dispatches an index of a launch into a slot of a core (R96). -/
def dispatchAt (lid : Nat) (l : Launch) (pos idx core b : Nat) (s : State) : State :=
  let p := l.packet
  let k := sid l.vf (indexCtx p idx)
  let s := setStrand k { strandZero with
    launch := lid, index := idx, pos := pos, core := core, readyTime := tick s } s
  let s := freshRecord k core
    (freshHeader k ⟨(pkEntry p).toNat, .resident, 0, pkPrio p, pkDmode p, pkRace p, launchPolicy p, pkCtx p, false, 0⟩)
    (dispatchLine p idx) s
  let s := modLaunch lid (fun l => { l with
    live := l.live + 1, cursor := tput l.cursor pos (tget l.cursor pos 0 + 1), offered := tput l.offered pos (tick s) }) s
  enterSlot k b (quotaTrap l k s)

/-- Every grid index of a launch has been dispatched. -/
def allDispatched (l : Launch) : Bool := (List.range (pkP l.packet)).all (fun k => (nextIndex l k).isNone)
/-- A launch may retire (R97). -/
def launchOver (l : Launch) : Bool := l.live == 0 && l.engine == 0 && allDispatched l
/-- Has a launch with nothing left retire. -/
def checkLaunch (lid : Nat) (s : State) : State :=
  match tfind s.launches lid with
  | some l => if launchOver l then post 1 .launchRetire (argId lid) s else s
  | none => s

/-- Entry of a core's D-mode task list that a slot runs or runs next: entries b, b + 8, … (R108). -/
def slotEntry (c b : Nat) (s : State) : Option (Nat × Nat) := (coreAt c s).dlist[tget (coreAt c s).dnext b b]?
/-- The slot's entry has ended. -/
def endEntry (c b : Nat) (s : State) : State :=
  let k := coreAt c s
  setCore c { k with dnext := tput k.dnext b (tget k.dnext b b + 8) } s

/-- The entry of an index has ended, in whatever slot's list it stands first. -/
def endEntries (c lid idx : Nat) (s : State) : State :=
  (List.range 8).foldl (fun s b => if slotEntry c b s = some (lid, idx) then endEntry c b s else s) s

/-- Starts or resumes the entry of a D-mode slot: an undispatched index is dispatched, a ready strand enters. -/
def runEntry (c b : Nat) (s : State) : State :=
  match slotEntry c b s with
  | none => s
  | some (lid, idx) =>
    match tfind s.launches lid with
    | none => s
    | some l =>
      let k := sid l.vf (indexCtx l.packet idx)
      let t := strandAt k s
      if t.launch = lid ∧ t.index = idx ∧ t.run ≠ .unborn then
        (if t.run = .ready ∧ !notStarted k s then enterSlot k b s else s)
      else if pkN l.packet ≤ idx then s
      else dispatchAt lid l (pkPos l.packet idx) idx c b s

/-! ### The end of a strand (R97, R125, R383) -/

/-- The handler record a strand runs in, if it is a handler (R216). -/
def handlerIndex (k : Nat) (s : State) : Option Nat :=
  let vf := sidVf k
  if (strandAt k s).launch ≠ 0 then none
  else (fnAt vf s).busy.find? (fun i => thBase vf s + 8192 * i == (sidCtx k).toNat)

/-! ### Positions of a memory stream (R196) -/

/-- The descriptor at element n: the last position counts on past its loop at the end. -/
def sdAt (d : BitVec 512) (n : Nat) : BitVec 512 :=
  ((List.range 5).foldl (fun (p : BitVec 512 × Nat) j =>
    (setBits p.1 (344 + 24 * j) 24 (if j = 4 then p.2 else p.2 % sdCount d j), p.2 / sdCount d j)) (d, n)).1
/-- Address of element n. -/
def sdAddr (d : BitVec 512) (n : Nat) : Word :=
  let e := sdAt d n
  addrOff (BitVec.ofNat 64 (bitsN d 0 64)) ((List.range 5).foldl (fun a j => a + (sdPos e j : Nat) * sgn 32 (bitsN d (64 + 32 * j) 32)) 0)
/-- The descriptor as a binding keeps it when it ends: positions of the elements consumed or performed (R380). -/
def streamAtRest (x : Stream) (q : Nat) : BitVec 512 :=
  if x.kind ≠ 1 then x.desc
  else sdAt x.desc (sdIndex x.desc + (if q < 4 then x.count else x.count - x.buf.length / 2 ^ x.esz))

/-- Ends the binding of a stream register: its line keeps the descriptor with kind 0 (R380). -/
def unbind (k q : Nat) (s : State) : State :=
  let x := streamAt k q s
  let d := setBits (streamAtRest x q) 464 2 0
  let s := (List.range 8).foldl (fun s i => putWordAnywhere k (64 * (70 + q) + 8 * i) (coreHall (strandAt k s).core) (lineWord d i) s) s
  setStream k q { x with desc := d, buf := [] } s

/-- Ends a strand: bindings, lease, header written back with state exited, other lines discarded, its slot freed, its
launch and, for a handler, its record (R383). -/
def endStrand (k : Nat) (s : State) : State :=
  let t := strandAt k s
  let s := withHeader k s
  let s := leaveLease k s
  let s := { s with streams := s.streams.filter (fun e => e.1 / 8 != k) }
  let stepping := bitB (cachedWord k 0x1480 s) 0
  let dmode := hdrDmode k s
  let s := setHdrN k 1 31 1 0 (setRun k .exited 0 0 s)
  let s := { s with lines := s.lines.filter (fun e => keySid e.1 != k || keyLine e.1 == 0) }
  let s := (writeBackHeader k s).2
  let s := if dmode then endEntries t.core t.launch t.index s else s
  let s := if t.slot.isSome ∨ dmode then post 1 .slotSelect (argCore t.core) s else s
  let h := handlerIndex k s
  let s := modStrand k (fun t => { t with
    slot := none, wait := .none, trap := none, fault := none, errored := [], pending := [], stall := none }) s
  let s := if stepping ∧ regN (sidVf k) 0x40230 0 1 s = 1 then pushDbg (sidVf k) ⟨2, 0, 0, 0, sidCtx k⟩ s else s
  match h with
  | some i =>
    let f := fnAt (sidVf k) s
    post 1 .handlerHandover (argVf (sidVf k)) (setFn (sidVf k) { f with busy := f.busy.filter (fun x => x != i) } s)
  | none => checkLaunch t.launch (modLaunch t.launch (fun l => { l with live := l.live - 1 }) s)

/-! ### Waking a parked strand (R384) -/

/-- Writes the wake reason of PARK or IDLE where its line is held. -/
def wakeResult (k : Nat) (why : Nat) (s : State) : State :=
  let t := strandAt k s
  if !bitB t.wakeBits 1 then s
  else
    let s := modStrand k (fun t => { t with wakeBits := 0 }) s
    let r := t.goalReg.toNat
    if t.goalStream then produce k r (toBytes (2 ^ (streamAt k r s).esz) why) s
    else if r = 0 then s
    else
      let h := coreHall t.core
      let s := match openLine k 5 h s with | .ok s => s | .error _ => s
      let s := putWordAnywhere k (0x40 + 8 * (r - 1)) h (BitVec.ofNat 64 why) s
      putWordAnywhere k 0x158 h (setBits (cachedWord k 0x158 s) (32 + r) 1 1) s

/-- The causes that hold now for a parked strand: time, and those of the event (R384). -/
def wakeCauses (k n : Nat) (s : State) : Nat :=
  let t := strandAt k s
  let timed := bitB t.wakeBits 0 && decide (t.hobj.toNat ≤ tick s)
  let idle := bitB t.wakeBits 4
  let wait := idle && n &&& 16 != 0
  (if timed then 1 else 0) + (n &&& 14) + (if wait then 16 else 0)

/-- A parked strand becomes ready, with its reasons. -/
def unpark (k n : Nat) (s : State) : State := makeReady k (wakeResult k (wakeCauses k n s) (withHeader k s))

end Sys2Proof.Machine
end

