-- ==== Sys2Proof/Machine/Memory.lean ====
section
/-! DEFINITION. Memory: the meanings of the loads, stores, gathers, full/empty accesses, tag instructions, windows and
atomics (R308 to R326). -/

namespace Sys2Proof.Machine

open Host

/-! ### Shared forms -/

/-- The effective address of a base and an offset (R308); a post form accesses at the base. -/
def eaOf (i : Instr) (p : Pfx) {w : Nat} (imm : BitVec w) (post : Bool) (s : State) : Word :=
  if post then srcS i .a s else addrAdd (srcS i .a s) (immS p.ext imm)
/-- The base advanced once, at retirement (R311). -/
def advance (i : Instr) (p : Pfx) {w : Nat} (imm : BitVec w) (post : Bool) (base : Word) (s : State) : State :=
  if post then dstS i .a (addrAdd base (immS p.ext imm)) s else s

/-- The access takes the tag check of its page, unless the prefix suppresses it (R158, R269). -/
def tagged (p : Pfx) : Bool := !p.notag

/-- The register a load leaves pending: none for s0 and for a stream (R194). -/
def pendCode (i : Instr) : Option Nat :=
  if clsOf i .d != 0#2 then none
  else
    match roleOf i .d with
    | .vW | .vRW => some (codeV (regOf i .d))
    | _ => if regOf i .d = 0#5 then none else some (codeS (regOf i .d))
/-- A load's data must arrive before it retires: a stream destination, or a repeat that needs the value (R197, R303). -/
def mustWait (i : Instr) (s : State) : Bool := clsOf i .d == 1#2 || s.issue.await

/-- A reply has come for the instruction: its group, or none. -/
def answer (s : State) : Option Nat :=
  match (curStrand s).wait with | .answered g _ _ => some g | _ => none

/-- What the instruction does with its answer: its trap, or `f` on the replies. -/
def finish (g : Nat) (s : State) (f : List (Nat × Req) → State → State) : Outcome State Fault Refusal :=
  let rs := groupReqs g s
  let s := dropGroup g s
  match groupFailure rs with
  | some r => .next (replyTrap r s)
  | none => .next (f rs s)

/-- A read access: check, then served by the scratchpad, or sent (R155, R160, R309).  `put` writes the result. -/
def readAccess (i : Instr) (r : Rules) (a : Word) (kind part : Nat) (sx wait : Bool) (put : Nat → State → State)
    (adv : State → State) (s : State) : Outcome State Fault Refusal :=
  match answer s with
  | some g =>
    finish g s fun rs s =>
      let v := rs.foldl (fun v e => v + e.2.value.toNat % 2 ^ (8 * e.2.size) * 2 ^ (8 * e.2.off)) 0
      retire (adv (put v (consume i s)))
  | none =>
    match check r a s with
    | .stop s => .next s
    | .pad off =>
      let c := s.issue.core
      if spadErrAt c off r.n s then .next (trapAddr 13 0 a s)
      else
        let v := spadVal c off r.n s
        let s := if r.race then raceNote (cur s) c off r.n false s else s
        .next (retire (adv (put v (consume i s))))
    | .mem pa tc =>
      match travelTarget (cur s) pa s with
      | some t => .next (startTravel (cur s) t (some pa) s)
      | none =>
        if countFull true s then .next (stallWith 3 s.issue.ctx s)
        else if granuleBusy (cur s) pa r.n (routeFor s.issue.vf s.issue.core pa (hdrDmode (cur s) s) s) s then .next s
        else
          let t := reqOf kind 0 0 false 0 ((pendCode i).getD 0) sx s
          let (g, s) := sendGroup t ((pieces part 8 pa a r.n 0 0).map (fun x => (x, tc))) s
          if tc ∨ wait then .next (waitGroup g s)
          else
            let s := match pendCode i with
              | some c => modStrand (cur s) (fun t => { t with pending := t.pending ++ [c] }) s
              | none => s
            .next (retire (adv (consume i s)))

/-- Sends a store's pieces and retires, or waits for the reply. -/
def sendStore (i : Instr) (ps : List (Piece × Bool)) (wait : Bool) (adv : State → State) (s : State) :
    Outcome State Fault Refusal :=
  let (g, s) := sendGroup (reqOf 1 0 0 false 0 noReturn false s) ps s
  if wait then .next (waitGroup g s) else .next (retire (adv (consume i s)))

/-- A write access of n bytes.  More than one piece on a tag-checked page probes the tags first, so that a mismatch
leaves memory unchanged (R155, R158). -/
def writeAccess (i : Instr) (r : Rules) (a : Word) (data : Nat) (wait : Bool) (adv : State → State) (s : State) :
    Outcome State Fault Refusal :=
  let ps (pa : Nat) (tc : Bool) : List (Piece × Bool) := (pieces 16 9 pa a r.n data 0).map (fun x => (x, tc))
  match answer s with
  | some g =>
    match groupReqs g s with
    | (_, q) :: _ =>
      if q.tagop = true ∧ (groupFailure (groupReqs g s)).isNone then
        sendStore i (ps q.pa.toNat true) true adv (dropGroup g s)
      else finish g s fun _ s => retire (adv (consume i s))
    | [] => finish g s fun _ s => retire (adv (consume i s))
  | none =>
    match check r a s with
    | .stop s => .next s
    | .pad off =>
      let c := s.issue.core
      let s := spadWrite c off (toBytes r.n data) s
      let s := dirtyWindows c off r.n s
      let s := if r.race then raceNote (cur s) c off r.n true s else s
      .next (retire (adv (consume i s)))
    | .mem pa tc =>
      match travelTarget (cur s) pa s with
      | some t => .next (startTravel (cur s) t (some pa) s)
      | none =>
        if countFull false s then .next (stallWith 3 s.issue.ctx s)
        else if granuleBusy (cur s) pa r.n (routeFor s.issue.vf s.issue.core pa (hdrDmode (cur s) s) s) s then .next s
        else if tc ∧ 16 < r.n then
          let (g, s) := sendGroup (reqOf 4 0 0 false 0 noReturn false s) ((pieces 32 9 pa a r.n 0 0).map (fun x => (x, true))) s
          .next (waitGroup g s)
        else sendStore i (ps pa tc) (tc || wait) adv s

/-- LD and LDA. -/
def loadAt (i : Instr) (n : Nat) (sx post : Bool) (p : Pfx) {w : Nat} (imm : BitVec w) (wait : Bool) (s : State) :
    Outcome State Fault Refusal :=
  issue i s fun s =>
    let base := srcS i .a s
    readAccess i ⟨n, n, .read, tagged p, true⟩ (eaOf i p imm post s) 0 32 sx (wait || mustWait i s)
      (fun v s => dstS i .d (if sx then sext64 (8 * n) v else BitVec.ofNat 64 v) s) (advance i p imm post base) s

/-- LDV. -/
def loadVecAt (i : Instr) (post : Bool) (p : Pfx) {w : Nat} (imm : BitVec w) (s : State) : Outcome State Fault Refusal :=
  issue i s fun s =>
    let base := srcS i .a s
    readAccess i ⟨128, 128, .read, tagged p, true⟩ (eaOf i p imm post s) 0 32 false (mustWait i s)
      (fun v s => dstV i (BitVec.ofNat 1024 v) s) (advance i p imm post base) s

/-- ST and STL. -/
def storeAt (i : Instr) (n : Nat) (post : Bool) (p : Pfx) {w : Nat} (imm : BitVec w) (_scope : Nat) (wait : Bool)
    (s : State) : Outcome State Fault Refusal :=
  issue i s fun s =>
    let base := srcS i .a s
    writeAccess i ⟨n, n, .write, tagged p, true⟩ (eaOf i p imm post s) (bitsN (srcS i .d s) 0 (8 * n)) wait
      (advance i p imm post base) s

/-- STV. -/
def storeVecAt (i : Instr) (post : Bool) (p : Pfx) {w : Nat} (imm : BitVec w) (s : State) : Outcome State Fault Refusal :=
  issue i s fun s =>
    let base := srcS i .a s
    writeAccess i ⟨128, 128, .write, tagged p, true⟩ (eaOf i p imm post s) (srcV i .d s).toNat false
      (advance i p imm post base) s

/-- The wait of a release: a bubble until the earlier accesses to the scope's domain are performed (R315, R325). -/
def release (i : Instr) (scope : Nat) (f : State → Outcome State Fault Refusal) (s : State) :
    Outcome State Fault Refusal :=
  if (answer s).isNone ∧ operable i s ∧ domainBusy (cur s) scope true true s then .next (flushStreams (cur s) s) else f s

/-! ### Gathers and scatters (R312, R313) -/

/-- Addresses of the active lanes. -/
def laneAddrs (i : Instr) (pred : BitVec 3) (s : State) : List (Nat × Word) :=
  let pm := readP (cur s) pred.toNat s
  let base := srcS i .a s
  let v := (srcV i .b s).toNat
  ((List.range 32).filter (fun j => pm.getLsbD j)).map (fun j => (j, addrAdd base (sext64 32 (v / 2 ^ (32 * j)))))

/-- Checks every lane in ascending order: the outcomes, or the first that stops (R312). -/
def checkLanes (r : Rules) : List (Nat × Word) → State → Except State (List (Nat × Word × Acc))
  | [], _ => .ok []
  | (j, a) :: t, s =>
    match check r a s with
    | .stop s => .error s
    | x => match checkLanes r t s with | .ok l => .ok ((j, a, x) :: l) | .error s => .error s

/-- The physical address of a lane in memory, with its tag check. -/
def laneMem (x : Nat × Word × Acc) : Option (Nat × Word × Nat × Bool) :=
  match x.2.2 with | .mem pa tc => some (x.1, x.2.1, pa, tc) | _ => none
def lanePad (x : Nat × Word × Acc) : Option (Nat × Nat) := match x.2.2 with | .pad off => some (x.1, off) | _ => none

/-- The other halls that lanes are homed in; one alone draws the strand there (R313). -/
def lanesTravel (ms : List (Nat × Word × Nat × Bool)) (s : State) : Option (Nat × Nat) :=
  let away := ms.filter (fun m => homeOf m.2.2.1 != coreHall s.issue.core)
  match away with
  | [] => none
  | m :: t =>
    if t.all (fun x => homeOf x.2.2.1 == homeOf m.2.2.1) then
      (travelTarget (cur s) m.2.2.1 s).map (fun c => (c, m.2.2.1))
    else none

/-- Lanes that lie in the scratchpad, by address alone. -/
def padLanes (i : Instr) (pred : BitVec 3) (s : State) : List (Nat × Nat) :=
  (laneAddrs i pred s).filterMap (fun x =>
    match whereIs s.issue.core s.issue.vf x.2 s with | .scratchpad off => some (x.1, off) | _ => none)

/-- The old destination with the scratchpad lanes read. -/
def withPads (i : Instr) (ps : List (Nat × Nat)) (s : State) : Vec :=
  ps.foldl (fun v x => setBits v (32 * x.1) 32 (spadVal s.issue.core x.2 4 s)) (oldV i s)

/-- Lanes read from the scratchpad go with the group of the others: its write-back writes all or, after an error, none (R210). -/
def addLanes (t : Req) (g : Nat) (ls : List (Nat × Nat)) (s : State) : State :=
  ls.foldl (fun s x =>
    let (id, s) := newId s
    setReq id { t with
      grp := g, size := 4, off := 4 * x.1, value := BitVec.ofNat 256 x.2, status := 0, arrived := true, served := s.wheel } s) s

/-- LDG. -/
def gather (i : Instr) (pred : BitVec 3) (s : State) : Outcome State Fault Refusal :=
  issue i s fun s =>
    let r : Rules := ⟨4, 4, .read, tagged (operands i).p, true⟩
    match answer s with
    | some g =>
      finish g s fun rs s =>
        let v := mergeGroup rs (oldV i s)
        let s := useFresh i (consume i s)
        retire (if clsOf i .d = 1#2 then dstV i v s else writeV (cur s) (regOf i .d) v s)
    | none =>
      match checkLanes r (laneAddrs i pred s) s with
      | .error s => .next s
      | .ok xs =>
        let ps := xs.filterMap lanePad
        let ms := xs.filterMap laneMem
        let c := s.issue.core
        match ps.find? (fun x => spadErrAt c x.2 4 s) with
        | some x => .next (trapAddr 13 0 (BitVec.ofNat 64 (0xFE * 2 ^ 48 + x.2)) s)
        | none =>
          match lanesTravel ms s with
          | some (t, pa) => .next (startTravel (cur s) t (some pa) s)
          | none =>
            let note (s : State) : State := ps.foldl (fun s x => raceNote (cur s) c x.2 4 false s) s
            if ms.isEmpty then
              let v := withPads i ps s
              let s := useFresh i (consume i (note s))
              .next (retire (if clsOf i .d = 1#2 then dstV i v s else writeV (cur s) (regOf i .d) v s))
            else if countFull true s then .next (stallWith 3 s.issue.ctx s)
            else if ms.any (fun m => granuleBusy (cur s) m.2.2.1 4 (routeFor s.issue.vf c m.2.2.1 (hdrDmode (cur s) s) s) s) then .next s
            else
              let t := reqOf 0 0 0 false 0 (codeV (regOf i .d)) false s
              let (g, s1) := sendGroup t (ms.map (fun m => (⟨m.2.2.1, m.2.1, 4, 0, 4 * m.1⟩, m.2.2.2))) (note s)
              let s1 := addLanes t g (ps.map (fun x => (x.1, spadVal c x.2 4 s))) s1
              if ms.any (fun m => m.2.2.2 || homeOf m.2.2.1 != coreHall c) ∨ mustWait i s then .next (waitGroup g s1)
              else
                let s1 := consume i s1
                let s1 := modStrand (cur s1) (fun t => { t with pending := t.pending ++ [codeV (regOf i .d)] }) s1
                .next (retire s1)

/-- STX. -/
def scatter (i : Instr) (pred : BitVec 3) (s : State) : Outcome State Fault Refusal :=
  issue i s fun s =>
    let r : Rules := ⟨4, 4, .write, tagged (operands i).p, true⟩
    let d := (srcV i .d s).toNat
    let lane (j : Nat) : Nat := d / 2 ^ (32 * j) % 2 ^ 32
    let c := s.issue.core
    let pads (ps : List (Nat × Nat)) (s : State) : State :=
      ps.foldl (fun s x =>
        raceNote (cur s) c x.2 4 true (dirtyWindows c x.2 4 (spadWrite c x.2 (toBytes 4 (lane x.1)) s))) s
    match answer s with
    | some g =>
      let rs := groupReqs g s
      if rs.any (fun e => e.2.tagop) ∧ (groupFailure rs).isNone then
        -- the tags agree: the lanes are written, in ascending order
        let ms := rs.map (fun e => ((⟨e.2.pa.toNat, e.2.va, 4, lane (e.2.off / 4), e.2.off⟩ : Piece), e.2.tagchk))
        let s := pads (padLanes i pred s) (dropGroup g s)
        sendStore i ms true id s
      else finish g s fun _ s => retire (consume i s)
    | none =>
      match checkLanes r (laneAddrs i pred s) s with
      | .error s => .next s
      | .ok xs =>
        let ps := xs.filterMap lanePad
        let ms := xs.filterMap laneMem
        match lanesTravel ms s with
        | some (t, pa) => .next (startTravel (cur s) t (some pa) s)
        | none =>
          if ms.isEmpty then .next (retire (consume i (pads ps s)))
          else if countFull false s then .next (stallWith 3 s.issue.ctx s)
          else if ms.any (fun m => granuleBusy (cur s) m.2.2.1 4 (routeFor s.issue.vf c m.2.2.1 (hdrDmode (cur s) s) s) s) then .next s
          else if ms.any (fun m => m.2.2.2) then
            let (g, s) := sendGroup (reqOf 4 0 0 false 0 noReturn false s)
              (ms.map (fun m => (⟨m.2.2.1, m.2.1, 4, 0, 4 * m.1⟩, m.2.2.2))) s
            .next (waitGroup g s)
          else
            sendStore i (ms.map (fun m => (⟨m.2.2.1, m.2.1, 4, lane m.1, 4 * m.1⟩, false)))
              (ms.any (fun m => homeOf m.2.2.1 != coreHall c)) id (pads ps s)

/-! ### Bounds-checked access (R159, R314) -/

/-- The checks of a buffer descriptor: the trap's cause, or the element's address and log2 size. -/
def boundsCheck (base odd idx : Word) (store : Bool) : Except Nat (Word × Nat) :=
  let count := bitsN odd 0 40
  let stride := bitsN odd 40 16
  let esz := bitsN odd 56 2
  if bitsN odd 59 5 ≠ 0 ∨ ((2 ^ 56 : Nat) : Int) < (bitsN base 0 56 : Int) + ((count : Int) - 1) * stride + (2 ^ esz : Nat) then .error 1
  else if count ≤ idx.toNat then .error 0
  else if store ∧ bitB odd 58 then .error 2
  else .ok (addrAdd base (BitVec.ofNat 64 (idx.toNat * stride)), esz)

/-- The bounds trap: index and count (R213). -/
def boundsTrap (cause : Nat) (idx odd : Word) (s : State) : State :=
  trapFull 6 cause 0 idx (BitVec.ofNat 64 (bitsN odd 0 40)) s

/-- LDB. -/
def loadBounded (i : Instr) (ra : BitVec 5) (sx : Bool) (p : Pfx) (s : State) : Outcome State Fault Refusal :=
  issue i s fun s =>
    let odd := readS (cur s) (ra + 1#5) s
    let idx := srcS i .b s
    match boundsCheck (readS (cur s) ra s) odd idx false with
    | .error c => .next (boundsTrap c idx odd s)
    | .ok (a, e) =>
      let n := 2 ^ e
      readAccess i ⟨n, n, .read, tagged p, true⟩ a 0 32 sx (mustWait i s)
        (fun v s => dstS i .d (if sx then sext64 (8 * n) v else BitVec.ofNat 64 v) s) id s

/-- STB. -/
def storeBounded (i : Instr) (ra : BitVec 5) (p : Pfx) (s : State) : Outcome State Fault Refusal :=
  issue i s fun s =>
    let odd := readS (cur s) (ra + 1#5) s
    let idx := srcS i .b s
    match boundsCheck (readS (cur s) ra s) odd idx true with
    | .error c => .next (boundsTrap c idx odd s)
    | .ok (a, e) =>
      let n := 2 ^ e
      writeAccess i ⟨n, n, .write, tagged p, true⟩ a (bitsN (srcS i .d s) 0 (8 * n)) false id s

/-! ### Operations of a controller (R317 to R326, R332) -/

/-- An operation of R326: in the scratchpad at once, a condition not met stalling with a hold; at a memory controller
by a request whose reply retires it, or, for a reduction, when sent. -/
def operate (i : Instr) (op : Nat) (w32 : Bool) (scope : BitVec 3) (u : Use) (a : Word) (x cmp : Nat) (hold : BitVec 4)
    (sentEnough : Bool) (loads : Bool) (p : Pfx) (put : Nat → State → State) (s : State) : Outcome State Fault Refusal :=
  let n := opBytes op w32
  match answer s with
  | some g => finish g s fun rs s => put (match rs with | (_, r) :: _ => r.value.toNat | [] => 0) s
  | none =>
    match check ⟨n, n, u, tagged p, false⟩ a s with
    | .stop s => .next s
    | .pad off =>
      let t := reqOf 2 op scope.toNat w32 cmp (if loads then 0 else noReturn) false s
      match newelFor t s with
      | .wait s => .next s
      | .diverged e s => .next (divergeStrand (cur s) e s)
      | .go _ s' =>
        match stepOp op w32 x cmp (.pad s.issue.core off) s' with
        | .err => .next (trapAddr 13 0 a s)
        | .unmet => .next (stallWith hold (a.setWidth 56) s)
        | .done v s =>
          let s := if u = .read then s else dirtyWindows s.issue.core off n s
          let s := if 24 ≤ op then objectChanged (.pad s.issue.core off) (32 ≤ op) s else s
          .next (put v s)
    | .mem pa tc =>
      match travelTarget (cur s) pa s with
      | some t => .next (startTravel (cur s) t (some pa) s)
      | none =>
        if countFull loads s then .next (stallWith 3 s.issue.ctx s)
        else if granuleBusy (cur s) pa n (routeFor s.issue.vf s.issue.core pa (hdrDmode (cur s) s) s) s then .next s
        else
          let t := reqOf 2 op scope.toNat w32 cmp (if loads then 0 else noReturn) false s
          let (g, s) := sendGroup t [(⟨pa, a, n, x, 0⟩, tc)] s
          if sentEnough ∧ !tc then .next (put 0 s) else .next (waitGroup g s)

/-- The scope of a full/empty access: the prefix's, else core in the scratchpad and pkg elsewhere (R317). -/
def feScope (p : Pfx) (a : Word) (s : State) : Nat :=
  if p.scope ≠ 0#3 then p.scope.toNat
  else match whereIs s.issue.core s.issue.vf a s with | .scratchpad _ => 2 | _ => 5

/-- LDE, STF, FEW, FER. -/
def fullEmpty (i : Instr) (op : Nat) (p : Pfx) {w : Nat} (imm : BitVec w) (s : State) : Outcome State Fault Refusal :=
  issue i s fun s =>
    let a := eaOf i p imm false s
    let rel := op = 25 ∨ op = 26
    let sc := feScope p a s
    if rel ∧ (answer s).isNone ∧ domainBusy (cur s) sc true true s then .next (flushStreams (cur s) s)
    else
      let x := if rel then (srcS i .d s).toNat else 0
      operate i op false (BitVec.ofNat 3 sc) (if rel then .write else .read) a x 0 2 false (!rel) p
        (fun v s =>
          let s := consume i s
          retire (if rel then s else dstS i .d (BitVec.ofNat 64 v) s)) s

/-- TOUCH. -/
def touchWindow (i : Instr) (p : Pfx) {w : Nat} (imm : BitVec w) (s : State) : Outcome State Fault Refusal :=
  issue i s fun s =>
    let c := s.issue.core
    let a := eaOf i p imm false s
    let found : Option Nat :=
      if bitsN a 48 8 = 0xFE then windowOf c (bitsN a 0 21) s
      else ((coreAt c s).windows.find? (fun e =>
        e.2.bound && decide (e.2.key.toNat ≤ bitsN a 0 56) && decide (bitsN a 0 56 < e.2.key.toNat + 2 ^ e.2.lsize.toNat))).map Prod.fst
    match found with
    | none => .next (retire (dstS i .d (BitVec.allOnes 64) (consume i s)))
    | some n =>
      let ret (s : State) : Outcome State Fault Refusal := .next (retire (dstS i .d (BitVec.ofNat 64 n) (consume i s)))
      if (windowAt c n s).state ≠ 0#2 then ret s
      else
        match startWindow (cur s) c n false s with
        | .started s => ret s
        | .full => .next (if copyCount (cur s) s = 63 then stallWith 3 s.issue.ctx s else s)
        | .refused => .next (trapFull 22 3 0 (BitVec.ofNat 64 n) 0 s)
        | .traps kd ca a => .next (trapAddr kd ca a s)

/-- The address lies in an aperture (R322). -/
def inAperture (a : Word) : Bool := 0xFD ≤ bitsN a 48 8

/-- TAGLD. -/
def tagLoad (i : Instr) (p : Pfx) {w : Nat} (imm : BitVec w) (s : State) : Outcome State Fault Refusal :=
  issue i s fun s =>
    let a := eaOf i p imm false s
    let r : Rules := ⟨32, 32, .read, false, false⟩
    if (answer s).isNone ∧ inAperture a then
      match checkFirst r a s, whereIs s.issue.core s.issue.vf a s with
      | some s, _ => .next s
      | none, .fault kd ca => .next (trapAddr kd ca a s)
      | none, _ => .next (retire (dstS i .d 0#64 (consume i s)))
    else
      readAccess i r a 4 32 false (mustWait i s) (fun v s => dstS i .d (BitVec.ofNat 64 (v % 16)) s) id s

/-- TAGST, which retires on the reply (R309). -/
def tagStore (i : Instr) (p : Pfx) {w : Nat} (imm : BitVec w) (s : State) : Outcome State Fault Refusal :=
  issue i s fun s =>
    let a := eaOf i p imm false s
    let r : Rules := ⟨32, 32, .write, false, false⟩
    match answer s with
    | some g => finish g s fun _ s => retire (consume i s)
    | none =>
      if inAperture a then
        match checkFirst r a s, whereIs s.issue.core s.issue.vf a s with
        | some s, _ => .next s
        | none, .fault kd ca => .next (trapAddr kd ca a s)
        | none, _ => .next (retire (consume i s))
      else
        match check r a s with
        | .stop s => .next s
        | .pad _ => .next (retire (consume i s))
        | .mem pa _ =>
          match travelTarget (cur s) pa s with
          | some t => .next (startTravel (cur s) t (some pa) s)
          | none =>
            if countFull false s then .next (stallWith 3 s.issue.ctx s)
            else if granuleBusy (cur s) pa 32 (routeFor s.issue.vf s.issue.core pa (hdrDmode (cur s) s) s) s then .next s
            else
              let (g, s) := sendGroup (reqOf 5 0 0 false 0 noReturn false s) [(⟨pa, a, 32, bitsN (srcS i .d s) 0 4, 0⟩, false)] s
              .next (waitGroup g s)

/-- AMO, RED and CAS with their scope's release part (R325). -/
def atomic (i : Instr) (scope : BitVec 3) (op : Nat) (w32 noRet : Bool) (p : Pfx) (s : State) : Outcome State Fault Refusal :=
  issue i s fun s =>
    if (answer s).isNone ∧ domainBusy (cur s) scope.toNat true true s then .next (flushStreams (cur s) s)
    else
      let n := if w32 then 32 else 64
      let x := bitsN (srcS i .b s) 0 n
      let cmp := if op = 16 then bitsN (srcS i .d s) 0 n else 0
      operate i op w32 scope .both (srcS i .a s) x cmp 2 noRet (!noRet) p
        (fun v s =>
          let s := consume i s
          retire (if noRet then s else dstS i .d (if w32 then sext64 32 v else BitVec.ofNat 64 v) s)) s

/-- CAS.q: the pair rd compares, the pair rb is written, the old pair goes to rd (R323, R325). -/
def atomicPair (i : Instr) (scope : BitVec 3) (rd rb : BitVec 5) (p : Pfx) (s : State) : Outcome State Fault Refusal :=
  issue i s fun s =>
    if (answer s).isNone ∧ domainBusy (cur s) scope.toNat true true s then .next (flushStreams (cur s) s)
    else
      let pair (r : BitVec 5) : Nat := (readS (cur s) r s).toNat + 2 ^ 64 * (readS (cur s) (r + 1#5) s).toNat
      operate i 17 false scope .both (srcS i .a s) (pair rb) (pair rd) 2 false true p
        (fun v s =>
          let s := consume i s
          let k := cur s
          retire (writeS k (rd + 1#5) (BitVec.ofNat 64 (v / 2 ^ 64)) (writeS k rd (BitVec.ofNat 64 v) s))) s

/-! ### The instructions -/

/-- LD (R310, R311). -/
def execLd (p : Pfx) (post : BitVec 1) (zx : BitVec 1) (w : BitVec 2) (rd : BitVec 5) (ra : BitVec 5) (imm : BitVec 7) (s : State) :
    Outcome State Fault Refusal :=
  loadAt (.ld p post zx w rd ra imm) (2 ^ w.toNat) (zx == 0#1) (post == 1#1) p imm false s

/-- LD (R310, R311). -/
def execLdLong (p : Pfx) (post : BitVec 1) (zx : BitVec 1) (w : BitVec 2) (rd : BitVec 5) (ra : BitVec 5) (imm : BitVec 32) (s : State) :
    Outcome State Fault Refusal :=
  loadAt (.ldLong p post zx w rd ra imm) (2 ^ w.toNat) (zx == 0#1) (post == 1#1) p imm false s

/-- ST (R310, R311). -/
def execSt (p : Pfx) (post : BitVec 1) (w : BitVec 2) (rd : BitVec 5) (ra : BitVec 5) (imm : BitVec 7) (s : State) :
    Outcome State Fault Refusal :=
  storeAt (.st p post w rd ra imm) (2 ^ w.toNat) (post == 1#1) p imm 0 false s

/-- ST (R310, R311). -/
def execStLong (p : Pfx) (post : BitVec 1) (w : BitVec 2) (rd : BitVec 5) (ra : BitVec 5) (imm : BitVec 32) (s : State) :
    Outcome State Fault Refusal :=
  storeAt (.stLong p post w rd ra imm) (2 ^ w.toNat) (post == 1#1) p imm 0 false s

/-- LDV (R310, R311). -/
def execLdv (p : Pfx) (post : BitVec 1) (rd : BitVec 5) (ra : BitVec 5) (imm : BitVec 7) (s : State) :
    Outcome State Fault Refusal :=
  loadVecAt (.ldv p post rd ra imm) (post == 1#1) p imm s

/-- LDV (R310, R311). -/
def execLdvLong (p : Pfx) (post : BitVec 1) (rd : BitVec 5) (ra : BitVec 5) (imm : BitVec 32) (s : State) :
    Outcome State Fault Refusal :=
  loadVecAt (.ldvLong p post rd ra imm) (post == 1#1) p imm s

/-- STV (R310, R311). -/
def execStv (p : Pfx) (post : BitVec 1) (rd : BitVec 5) (ra : BitVec 5) (imm : BitVec 7) (s : State) :
    Outcome State Fault Refusal :=
  storeVecAt (.stv p post rd ra imm) (post == 1#1) p imm s

/-- STV (R310, R311). -/
def execStvLong (p : Pfx) (post : BitVec 1) (rd : BitVec 5) (ra : BitVec 5) (imm : BitVec 32) (s : State) :
    Outcome State Fault Refusal :=
  storeVecAt (.stvLong p post rd ra imm) (post == 1#1) p imm s

/-- LDG (R312, R313). -/
def execLdg (p : Pfx) (pred : BitVec 3) (ty : BitVec 4) (rd : BitVec 5) (ra : BitVec 5) (rb : BitVec 5) (s : State) :
    Outcome State Fault Refusal :=
  gather (.ldg p pred ty rd ra rb) pred s

/-- STX (R312, R313). -/
def execStx (p : Pfx) (pred : BitVec 3) (ty : BitVec 4) (rd : BitVec 5) (ra : BitVec 5) (rb : BitVec 5) (s : State) :
    Outcome State Fault Refusal :=
  scatter (.stx p pred ty rd ra rb) pred s

/-- LDB (R159, R314). -/
def execLdb (p : Pfx) (zx : BitVec 1) (rd : BitVec 5) (ra : BitVec 5) (rb : BitVec 5) (s : State) :
    Outcome State Fault Refusal :=
  loadBounded (.ldb p zx rd ra rb) ra (zx == 0#1) p s

/-- STB (R159, R314). -/
def execStb (p : Pfx) (rd : BitVec 5) (ra : BitVec 5) (rb : BitVec 5) (s : State) :
    Outcome State Fault Refusal :=
  storeBounded (.stb p rd ra rb) ra p s

/-- LDA (R315): an acquire point; it retires when its data is written. -/
def execLda (p : Pfx) (scope : BitVec 3) (w : BitVec 2) (rd : BitVec 5) (ra : BitVec 5) (imm : BitVec 7) (s : State) :
    Outcome State Fault Refusal :=
  loadAt (.lda p scope w rd ra imm) (2 ^ w.toNat) true false p imm true s

/-- LDA (R315): an acquire point; it retires when its data is written. -/
def execLdaLong (p : Pfx) (scope : BitVec 3) (w : BitVec 2) (rd : BitVec 5) (ra : BitVec 5) (imm : BitVec 32) (s : State) :
    Outcome State Fault Refusal :=
  loadAt (.ldaLong p scope w rd ra imm) (2 ^ w.toNat) true false p imm true s

/-- STL (R315): a release point; it waits for the earlier accesses of its domain and retires when performed. -/
def execStl (p : Pfx) (scope : BitVec 3) (w : BitVec 2) (rd : BitVec 5) (ra : BitVec 5) (imm : BitVec 7) (s : State) :
    Outcome State Fault Refusal :=
  release (.stl p scope w rd ra imm) scope.toNat (fun s => storeAt (.stl p scope w rd ra imm) (2 ^ w.toNat) false p imm 0 true s) s

/-- STL (R315): a release point; it waits for the earlier accesses of its domain and retires when performed. -/
def execStlLong (p : Pfx) (scope : BitVec 3) (w : BitVec 2) (rd : BitVec 5) (ra : BitVec 5) (imm : BitVec 32) (s : State) :
    Outcome State Fault Refusal :=
  release (.stlLong p scope w rd ra imm) scope.toNat (fun s => storeAt (.stlLong p scope w rd ra imm) (2 ^ w.toNat) false p imm 0 true s) s

/-- LDE (R317 to R319). -/
def execLde (p : Pfx) (rd : BitVec 5) (ra : BitVec 5) (imm : BitVec 7) (s : State) :
    Outcome State Fault Refusal :=
  fullEmpty (.lde p rd ra imm) 24 p imm s

/-- LDE (R317 to R319). -/
def execLdeLong (p : Pfx) (rd : BitVec 5) (ra : BitVec 5) (imm : BitVec 32) (s : State) :
    Outcome State Fault Refusal :=
  fullEmpty (.ldeLong p rd ra imm) 24 p imm s

/-- STF (R317 to R319). -/
def execStf (p : Pfx) (rd : BitVec 5) (ra : BitVec 5) (imm : BitVec 7) (s : State) :
    Outcome State Fault Refusal :=
  fullEmpty (.stf p rd ra imm) 25 p imm s

/-- STF (R317 to R319). -/
def execStfLong (p : Pfx) (rd : BitVec 5) (ra : BitVec 5) (imm : BitVec 32) (s : State) :
    Outcome State Fault Refusal :=
  fullEmpty (.stfLong p rd ra imm) 25 p imm s

/-- FEW (R317 to R319). -/
def execFew (p : Pfx) (rd : BitVec 5) (ra : BitVec 5) (imm : BitVec 7) (s : State) :
    Outcome State Fault Refusal :=
  fullEmpty (.few p rd ra imm) 26 p imm s

/-- FEW (R317 to R319). -/
def execFewLong (p : Pfx) (rd : BitVec 5) (ra : BitVec 5) (imm : BitVec 32) (s : State) :
    Outcome State Fault Refusal :=
  fullEmpty (.fewLong p rd ra imm) 26 p imm s

/-- FER (R317 to R319). -/
def execFer (p : Pfx) (rd : BitVec 5) (ra : BitVec 5) (imm : BitVec 7) (s : State) :
    Outcome State Fault Refusal :=
  fullEmpty (.fer p rd ra imm) 27 p imm s

/-- FER (R317 to R319). -/
def execFerLong (p : Pfx) (rd : BitVec 5) (ra : BitVec 5) (imm : BitVec 32) (s : State) :
    Outcome State Fault Refusal :=
  fullEmpty (.ferLong p rd ra imm) 27 p imm s

/-- TOUCH (R321). -/
def execTouch (p : Pfx) (rd : BitVec 5) (ra : BitVec 5) (imm : BitVec 7) (s : State) :
    Outcome State Fault Refusal :=
  touchWindow (.touch p rd ra imm) p imm s

/-- TOUCH (R321). -/
def execTouchLong (p : Pfx) (rd : BitVec 5) (ra : BitVec 5) (imm : BitVec 32) (s : State) :
    Outcome State Fault Refusal :=
  touchWindow (.touchLong p rd ra imm) p imm s

/-- TAGLD (R322). -/
def execTagld (p : Pfx) (rd : BitVec 5) (ra : BitVec 5) (imm : BitVec 7) (s : State) :
    Outcome State Fault Refusal :=
  tagLoad (.tagld p rd ra imm) p imm s

/-- TAGLD (R322). -/
def execTagldLong (p : Pfx) (rd : BitVec 5) (ra : BitVec 5) (imm : BitVec 32) (s : State) :
    Outcome State Fault Refusal :=
  tagLoad (.tagldLong p rd ra imm) p imm s

/-- TAGST (R322). -/
def execTagst (p : Pfx) (rd : BitVec 5) (ra : BitVec 5) (imm : BitVec 7) (s : State) :
    Outcome State Fault Refusal :=
  tagStore (.tagst p rd ra imm) p imm s

/-- TAGST (R322). -/
def execTagstLong (p : Pfx) (rd : BitVec 5) (ra : BitVec 5) (imm : BitVec 32) (s : State) :
    Outcome State Fault Refusal :=
  tagStore (.tagstLong p rd ra imm) p imm s

/-- AMO (R323 to R325). -/
def execAmo (p : Pfx) (scope : BitVec 3) (aop : BitVec 4) (rd : BitVec 5) (ra : BitVec 5) (rb : BitVec 5) (s : State) :
    Outcome State Fault Refusal :=
  atomic (.amo p scope aop rd ra rb) scope aop.toNat false false p s

/-- RED (R323 to R325). -/
def execRed (p : Pfx) (scope : BitVec 3) (aop : BitVec 4) (ra : BitVec 5) (rb : BitVec 5) (s : State) :
    Outcome State Fault Refusal :=
  atomic (.red p scope aop ra rb) scope aop.toNat false true p s

/-- CAS (R323 to R325). -/
def execCas (p : Pfx) (scope : BitVec 3) (rd : BitVec 5) (ra : BitVec 5) (rb : BitVec 5) (s : State) :
    Outcome State Fault Refusal :=
  atomic (.cas p scope rd ra rb) scope 16 false false p s

/-- AMO.i32 (R323 to R325). -/
def execAmoI32 (p : Pfx) (scope : BitVec 3) (aop : BitVec 4) (rd : BitVec 5) (ra : BitVec 5) (rb : BitVec 5) (s : State) :
    Outcome State Fault Refusal :=
  atomic (.amoI32 p scope aop rd ra rb) scope aop.toNat true false p s

/-- RED.i32 (R323 to R325). -/
def execRedI32 (p : Pfx) (scope : BitVec 3) (aop : BitVec 4) (ra : BitVec 5) (rb : BitVec 5) (s : State) :
    Outcome State Fault Refusal :=
  atomic (.redI32 p scope aop ra rb) scope aop.toNat true true p s

/-- CAS.i32 (R323 to R325). -/
def execCasI32 (p : Pfx) (scope : BitVec 3) (rd : BitVec 5) (ra : BitVec 5) (rb : BitVec 5) (s : State) :
    Outcome State Fault Refusal :=
  atomic (.casI32 p scope rd ra rb) scope 16 true false p s

/-- CAS.q (R323, R325). -/
def execCasQ (p : Pfx) (scope : BitVec 3) (rd : BitVec 5) (ra : BitVec 5) (rb : BitVec 5) (s : State) :
    Outcome State Fault Refusal :=
  atomicPair (.casQ p scope rd ra rb) scope rd rb p s

end Sys2Proof.Machine
end

