-- ==== Sys2Proof/Machine/Tile.lean ====
section
/-! DEFINITION. Tile: tile-task records, the checks of submission, the arithmetic of a task, and its start and end
(R200 to R203, R252 to R260, R368 to R371). -/

namespace Sys2Proof.Machine

open Host

/-! ### The record (R368) -/

abbrev Rec := BitVec 1024

/-- n bits from bit lo of the field at a byte. -/
def rField (r : Rec) (byte lo n : Nat) : Nat := bitsN r (8 * byte + lo) n
def rA (r : Rec) : Nat := rField r 0 0 21
def rB (r : Rec) : Nat := rField r 4 0 21
def rC (r : Rec) : Nat := rField r 8 0 21
def rD (r : Rec) : Nat := rField r 12 0 21
def rSa (r : Rec) : Nat := rField r 16 0 21
def rSaEn (r : Rec) : Bool := rField r 16 31 1 == 1
def rSb (r : Rec) : Nat := rField r 20 0 21
def rSbEn (r : Rec) : Bool := rField r 20 31 1 == 1
def rM (r : Rec) : Nat := rField r 24 0 16
def rN (r : Rec) : Nat := rField r 26 0 16
def rK (r : Rec) : Nat := rField r 28 0 16
def rLda (r : Rec) : Nat := rField r 32 0 21
def rLdb (r : Rec) : Nat := rField r 36 0 21
def rLdc (r : Rec) : Nat := rField r 40 0 21
def rLdd (r : Rec) : Nat := rField r 44 0 21
def rFa (r : Rec) : Nat := rField r 48 0 4
def rFb (r : Rec) : Nat := rField r 48 4 4
def rFc (r : Rec) : Nat := rField r 49 0 4
def rFd (r : Rec) : Nat := rField r 49 4 4
def rBcomp (r : Rec) : Nat := rField r 50 0 2
def rBres (r : Rec) : Bool := rField r 50 2 1 == 1
def rZeroC (r : Rec) : Bool := rField r 50 3 1 == 1
def rLut (r : Rec) : Bool := rField r 50 4 1 == 1
def rKchain (r : Rec) : Bool := rField r 50 5 1 == 1
def rSat (r : Rec) : Bool := rField r 50 6 1 == 1
def rRm (r : Rec) : Nat := rField r 51 0 3
def rBlen (r : Rec) : Nat := rField r 52 0 21
def rGtab (r : Rec) : Nat := rField r 56 0 21
def rGcnt (r : Rec) : Nat := rField r 56 24 8
def rBgs (r : Rec) : Nat := rField r 60 0 21
/-- Iterations of a loop. -/
def rCnt (r : Rec) (j : Nat) : Nat := orOne (rField r (64 + 8 * j) 0 8)
/-- Step of operand x (0 A, 1 B, 2 C, 3 D) in loop j, in bytes. -/
def rStep (r : Rec) (x j : Nat) : Int := 128 * sgn 14 (rField r (64 + 8 * j) (8 + 14 * x) 14)
def rDep (r : Rec) (i : Nat) : Word := BitVec.ofNat 64 (rField r (104 + 8 * i) 0 64)
def rTb (r : Rec) : Word := BitVec.ofNat 64 (rField r 120 0 56)
/-- The last 8 bytes of a record with a status. -/
def rTail (r : Rec) (status : Nat) : Nat := rField r 120 0 56 + status * 2 ^ 56

/-- Product of the loop counts. -/
def rIters (r : Rec) : Nat := prod ((List.range 5).map (rCnt r))
/-- The accumulator's format (R256). -/
def rAcc (r : Rec) : Nat := if rFa r = 8 then 8 else 9
/-- Width of an element of A and of B in bits; a LUT4 code has 4. -/
def bitsA (r : Rec) : Nat := if rLut r then 4 else tyBits (rFa r)
def bitsB (r : Rec) : Nat := if rLut r then 4 else tyBits (rFb r)
/-- Bytes of n elements of a width in bits. -/
def packed (n bits : Nat) : Nat := cdiv (n * bits) 8
/-- Row stride of a scale tile (R202). -/
def rRs (r : Rec) : Nat := 64 * cdiv (cdiv (rK r) 32) 64
/-- Bytes of one stored column of B at most. -/
def colB (r : Rec) : Nat := if rBcomp r = 0 then packed (rK r) (bitsB r) else rBlen r
/-- b of the completion (R369). -/
def rBytes (r : Rec) : Nat :=
  let all := rM r * rN r * (tyBits (rFd r) / 8) * rIters r
  if rKchain r then all / rCnt r 0 else all

/-! ### The checks of submission (R256, R371) -/

/-- A reserved bit is nonzero, or the B form is 3. -/
def recReserved (r : Rec) : Bool :=
  [0, 4, 8, 12, 32, 36, 40, 44, 52, 60].any (fun b => rField r b 21 11 != 0) ||
  [16, 20].any (fun b => rField r b 21 10 != 0) || rField r 30 0 16 != 0 || rField r 50 7 1 != 0 ||
  rField r 51 3 5 != 0 || rField r 56 21 3 != 0 || rField r 104 60 3 != 0 || rField r 112 60 3 != 0 ||
  rField r 104 0 4 != 0 || rField r 112 0 4 != 0 || rField r 120 0 4 != 0 || rField r 120 60 4 != 0 || rBcomp r == 3

/-- The formats form a combination of R256. -/
def combination (r : Rec) : Bool :=
  let fa := rFa r
  let fb := rFb r
  let wide (l : List Nat) : Bool := l.contains (rFc r) && l.contains (rFd r)
  let byte (f : Nat) : Bool := f == 12 || f == 13 || f == 14
  if rLut r then fa == 0 && fb == 0 && rBcomp r == 0 && wide [9, 10, 11, 12, 13, 14]
  else if byte fa then byte fb && wide [9, 10, 11, 12, 13, 14]
  else if fa = 15 then fb == 15 && wide [9, 10, 11, 12, 13, 14]
  else if fa = 11 ∨ fa = 10 then fb == fa && wide [9, 10, 11]
  else if fa = 9 then fb == 9 && rFc r == 9 && (rFd r == 9 || rFd r == 11)
  else if fa = 8 then fb == 8 && wide [8, 9]
  else false
/-- The formats take scales. -/
def scaled (r : Rec) : Bool := rLut r || (12 ≤ rFa r)

/-- Code 2: the formats and the settings that go with them. -/
def formatsBad (r : Rec) : Bool :=
  !combination r || decide (4 < rRm r) || ((rSaEn r || rSbEn r) && !scaled r) ||
  (rBcomp r == 1 && !(rFb r == 12 || rFb r == 13 || rFb r == 14)) || (rBcomp r == 2 && rFb r == 15) ||
  (rKchain r && (rFd r != rAcc r || rStep r 3 0 != 0)) ||
  (decide (0 < rGcnt r) && (rKchain r || (List.range 5).any (fun j => decide (1 < rCnt r j))))

/-- The limit of R203. -/
def macLimit (r : Rec) : Nat :=
  if rLut r ∨ 12 ≤ rFa r then 2 ^ 28
  else match rFa r with | 8 => 2 ^ 20 | 9 => 2 ^ 25 | _ => 2 ^ 27
/-- MACs of the engine in a core cycle (R20). -/
def macRate (r : Rec) : Nat :=
  if rLut r ∨ rFa r = 15 then 32768
  else if 12 ≤ rFa r then 16384
  else match rFa r with | 8 => 64 | 9 => 2048 | _ => 8192

/-- Least and greatest offset the loops from j0 give operand x. -/
def loopSpan (r : Rec) (x j0 : Nat) : Int × Int :=
  ((List.range 5).filter (fun j => j0 ≤ j)).foldl (fun p j =>
    let d := (rCnt r j - 1 : Nat) * rStep r x j
    (p.1 + min 0 d, p.2 + max 0 d)) (0, 0)

/-- A range of n bytes at a base, moved by the loops, lies in 2 MiB. -/
def spanFits (r : Rec) (x j0 base n : Nat) : Bool :=
  let (lo, hi) := loopSpan r x j0
  n == 0 || (decide (0 ≤ (base : Int) + lo) && decide ((base : Int) + hi + n ≤ 2 ^ 21))

/-- Bytes from the first row's start to the last row's end. -/
def extent (rows ld row : Nat) : Nat := if rows = 0 ∨ row = 0 then 0 else (rows - 1) * ld + row

/-- Code 4: offsets, strides and ranges. -/
def rangesBad (r : Rec) : Bool :=
  let empty := rM r == 0 || rN r == 0
  let noK := empty || rK r == 0
  let groups := if rGcnt r = 0 then 1 else rGcnt r
  [rA r, rB r, rC r, rD r, rSa r, rSb r, rLda r, rLdb r, rLdc r, rLdd r, rBgs r].any (fun v => v % 64 != 0) ||
  rGtab r % 2 != 0 || (decide (0 < rGcnt r) && decide (2 ^ 21 < rGtab r + 2 * rGcnt r)) ||
  (!noK && (!spanFits r 0 0 (rA r) (extent (rM r) (rLda r) (packed (rK r) (bitsA r))) ||
    !spanFits r 1 0 (rB r) ((groups - 1) * rBgs r + extent (rN r) (rLdb r) (colB r)) ||
    decide (524288 < rN r * colB r) ||
    (rSaEn r && decide (2 ^ 21 < rSa r + extent (rIters r * rM r) (rRs r) (cdiv (rK r) 32))) ||
    (rSbEn r && decide (2 ^ 21 < rSb r + extent (max (rIters r) groups * rN r) (rRs r) (cdiv (rK r) 32))))) ||
  (!empty && ((!rZeroC r && !spanFits r 2 (if rKchain r then 1 else 0) (rC r) (extent (rM r) (rLdc r) (rN r * (tyBits (rFc r) / 8)))) ||
    !spanFits r 3 0 (rD r) (extent (rM r) (rLdd r) (rN r * (tyBits (rFd r) / 8)))))

/-- Codes 1 to 5 of R371, in their order; 0 for none. -/
def recCode (r : Rec) (groups : List Nat) : Nat :=
  if recReserved r then 1
  else if formatsBad r then 2
  else if macLimit r < rM r * rN r * rK r * rIters r then 3
  else if rangesBad r then 4
  else if rM r < groups.foldl (fun a b => a + b) 0 then 5
  else 0

/-! ### Elements (R201, R244, R254, R369) -/

/-- A number of n bytes at an offset of a saved scratchpad. -/
def padVal (pad : List Host.Cell) (c off n : Nat) : Nat :=
  ofBytes ((List.range n).map (fun i => cellGet pad (spadKey c (off + i))))
/-- Element i of a packed run of elements of a width in bits. -/
def packedAt (pad : List Host.Cell) (c base i bits : Nat) : Nat :=
  if bits = 4 then padVal pad c (base + i / 2) 1 / 2 ^ (4 * (i % 2)) % 16 else padVal pad c (base + i * (bits / 8)) (bits / 8)
/-- An entry of a codebook (R244). -/
def bookEntry (book : BitVec 128) (k : Nat) : Nat := bitsN book (8 * k) 8

/-- The value of a stored element: a LUT4 code's signed entry, or a code of a format. -/
def elemVal (lut : Bool) (book : BitVec 128) (ty code : Nat) : Val :=
  if lut then intVal (sgn 8 (bookEntry book code)) else decodeVal ty code

/-- Byte offset in a zero-mask column of the block j, for elements of n bytes (R201). -/
def maskBlock (pad : List Host.Cell) (c base n : Nat) : Nat → Nat
  | 0 => 0
  | j + 1 =>
    let o := maskBlock pad c base n j
    o + 4 + n * popBits 32 (padVal pad c (base + o) 4)

/-- The code of element k of a column of B, in its stored form; the bytes of a column are at `base`. -/
def columnCode (r : Rec) (pad : List Host.Cell) (book : BitVec 128) (c base k : Nat) : Nat :=
  match rBcomp r with
  | 1 => bookEntry book (packedAt pad c base k 4)
  | 2 =>
    let n := tyBits (rFb r) / 8
    let o := maskBlock pad c base n (k / 32)
    let m := padVal pad c (base + o) 4
    if m / 2 ^ (k % 32) % 2 = 0 then 0 else padVal pad c (base + o + 4 + n * popBits (k % 32) m) n
  | _ => packedAt pad c base k (bitsB r)

/-- Bytes a stored column takes: its overrun of blen fails the task (R201). -/
def columnBytes (r : Rec) (pad : List Host.Cell) (c base : Nat) : Nat :=
  match rBcomp r with
  | 1 => packed (rK r) 4
  | 2 => maskBlock pad c base (tyBits (rFb r) / 8) (cdiv (rK r) 32)
  | _ => 0

/-! ### The product (R257 to R260) -/

/-- Where one product's operands lie: offsets of A, B, C, D and of the scale rows, and whether C is D's own place. -/
structure Bases where
  a : Nat
  b : Nat
  c : Nat
  d : Nat
  sa : Nat
  sb : Nat
  chained : Bool
  deriving DecidableEq, Repr

/-- The exact sum of a block's products; NaN under a scale of 0xFF (R254, R257). -/
def blockSum (r : Rec) (t : Task) (bpad pad : List Host.Cell) (x : Bases) (m n j : Nat) : Val :=
  let c := t.core
  let sa := if rSaEn r then padVal t.pad c (x.sa + m * rRs r + j) 1 else 127
  let sb := if rSbEn r then padVal t.pad c (x.sb + n * rRs r + j) 1 else 127
  if sa = 255 ∨ sb = 255 then .nan false
  else
    let term (k : Nat) : Val :=
      let av := elemVal (rLut r) t.book (rFa r) (packedAt pad c (x.a + m * rLda r) k (bitsA r))
      let bv := elemVal (rLut r) t.book (rFb r) (columnCode r bpad t.book c (x.b + n * rLdb r) k)
      scaleVal ((sa : Int) + sb - 254) (mulVal av bv).1
    let ks := (List.range (min 32 (rK r - 32 * j))).map (fun i => 32 * j + i)
    match ks with
    | [] => .fin false 0 0 false
    | k :: rest => rest.foldl (fun s k => (addVal 0 s (term k)).1) (term k)

/-- One element of D: the accumulator starts from C, takes each block sum with one rounding, and is converted. -/
def tileElem (r : Rec) (t : Task) (bpad pad : List Host.Cell) (x : Bases) (m n : Nat) : Nat :=
  let c := t.core
  let eC := tyBits (rFc r) / 8
  let eD := tyBits (rFd r) / 8
  let start : Nat :=
    if x.chained then padVal pad c (x.d + m * rLdd r + n * eD) eD
    else if rZeroC r then 0
    else (convert (rFc r) (rAcc r) mdNearest 0 (padVal pad c (x.c + m * rLdc r + n * eC) eC)).1
  let acc := (List.range (cdiv (rK r) 32)).foldl (fun acc j =>
    (roundVal (rAcc r) mdNearest (addVal 0 (decodeVal (rAcc r) acc) (blockSum r t bpad pad x m n j)).1).1) start
  if rFd r = rAcc r then acc
  else (convert (rAcc r) (rFd r) { mdNearest with rm := rRm r, sat := rSat r } 0 acc).1

/-- Rows m0 to m0 + rows - 1 of a product, each read before it is written. -/
def tileRows (r : Rec) (t : Task) (bpad : List Host.Cell) (x : Bases) : Nat → Nat → State → State
  | 0, _, s => s
  | k + 1, m, s =>
    let eD := tyBits (rFd r) / 8
    let row := (List.range (rN r)).flatMap (fun n => toBytes eD (tileElem r t bpad s.spad x m n))
    tileRows r t bpad x k (m + 1) (spadWrite t.core (x.d + m * rLdd r) row s)

/-- Loop indices of iteration t: loop 0 innermost. -/
def iterVec (r : Rec) (t : Nat) : List Nat :=
  ((List.range 5).foldl (fun (p : List Nat × Nat) j => (p.1 ++ [p.2 % rCnt r j], p.2 / rCnt r j)) ([], t)).1
/-- Offset of operand x in an iteration. -/
def iterOff (r : Rec) (x t : Nat) : Int :=
  ((iterVec r t).zip (List.range 5)).foldl (fun a p => a + p.1 * rStep r x p.2) 0
def shiftBy (a : Nat) (d : Int) : Nat := ((a : Int) + d).toNat

/-- The products of a task in order: bases, first row and rows of each (R260, R369). -/
def products (r : Rec) (groups : List Nat) : List (Bases × Nat × Nat) :=
  if 0 < rGcnt r then
    ((groups.zip (List.range groups.length)).foldl (fun (p : List (Bases × Nat × Nat) × Nat) g =>
      ((if g.1 = 0 then p.1
        else p.1 ++ [(⟨rA r, rB r + g.2 * rBgs r, rC r, rD r, rSa r, rSb r + g.2 * rN r * rRs r, false⟩, p.2, g.1)]),
       p.2 + g.1)) ([], 0)).1
  else
    (List.range (rIters r)).map (fun t =>
      (⟨shiftBy (rA r) (iterOff r 0 t), shiftBy (rB r) (iterOff r 1 t), shiftBy (rC r) (iterOff r 2 t),
        shiftBy (rD r) (iterOff r 3 t), rSa r + t * rM r * rRs r, rSb r + t * rN r * rRs r,
        rKchain r && 0 < (iterVec r t)[0]?.getD 0⟩, 0, rM r))

/-- What names a B in the weight buffer (R370): function, core, place and shape. -/
def nameB (t : Task) (b : Nat) : List Nat :=
  let r := t.record
  [t.vf.toNat, t.core, b, rLdb r, rBcomp r, rFb r, rN r, rK r]

/-- An uncorrectable error lies in what a product reads: not B where the weight buffer holds it (R201). -/
def tileError (r : Rec) (t : Task) (x : Bases) (m0 rows : Nat) (held : Bool) (s : State) : Bool :=
  let c := t.core
  let err (off n : Nat) : Bool := n != 0 && spadErrAt c off n s
  (rK r != 0 && (err (x.a + m0 * rLda r) (extent rows (rLda r) (packed (rK r) (bitsA r))) ||
    (!held && err x.b (extent (rN r) (rLdb r) (colB r))) ||
    (rSaEn r && err (x.sa + m0 * rRs r) (extent rows (rRs r) (cdiv (rK r) 32))) ||
    (rSbEn r && err x.sb (extent (rN r) (rRs r) (cdiv (rK r) 32))))) ||
  (x.chained || !rZeroC r) && err ((if x.chained then x.d + m0 * rLdd r else x.c + m0 * rLdc r))
    (extent rows (if x.chained then rLdd r else rLdc r) (rN r * (tyBits (if x.chained then rFd r else rFc r) / 8)))

/-- Runs the products in order; the first error ends the task with its status (R201, R203). -/
def runProducts (t : Task) : List (Bases × Nat × Nat) → State → Nat × State
  | [], s => (0, s)
  | (x, m0, rows) :: rest, s =>
    let r := t.record
    let q := quadAt (coreQuad t.core) s
    let held := rBres r && q.lastB == some (nameB t x.b)
    let bad := tileError r t x m0 rows held s
    let s := if held ∨ rK r = 0 then s
      else setQuad (coreQuad t.core) { q with lastB := if bad then none else some (nameB t x.b), buf := t.pad } s
    let bpad := if rK r = 0 then [] else (quadAt (coreQuad t.core) s).buf
    if bad then (1, s)
    else if rBcomp r ≠ 0 ∧ rK r ≠ 0 ∧
        (List.range (rN r)).any (fun n => decide (rBlen r < columnBytes r bpad t.core (x.b + n * rLdb r))) then (4, s)
    else
      let s := tileRows r t bpad x rows m0 s
      let len := extent rows (rLdd r) (rN r * (tyBits (rFd r) / 8))
      runProducts t rest (dirtyWindows t.core (x.d + m0 * rLdd r) len s)

/-- All products of a task, none for an empty shape (R259). -/
def runTask (t : Task) (s : State) : Nat × State :=
  if rM t.record = 0 ∨ rN t.record = 0 then (0, s) else runProducts t (products t.record t.groups) s

/-- The submitter's index is the last writer of every word of D the task wrote (R110). -/
def noteTask (t : Task) (s : State) : State :=
  let k := sid t.vf t.ctx
  let r := t.record
  if rM r = 0 ∨ rN r = 0 then s
  else
    (products r t.groups).foldl (fun s p =>
      (List.range p.2.2).foldl (fun s i =>
        raceNote k t.core (p.1.d + (p.2.1 + i) * rLdd r) (rN r * (tyBits (rFd r) / 8)) true s) s) s

/-! ### Start and end (R200, R203, R371) -/

/-- Writes a task's status into its record. -/
def putStatus (t : Task) (status : Nat) (s : State) : State :=
  match engineWrite t.core t.vf t.priv.toNat true (addrOff t.addr 120) 8 (rTail t.record status) s with
  | .ok s => noteWrite (sid t.vf t.ctx) t.core (addrOff t.addr 120) 8 s
  | .error _ => s

/-- A launch with nothing left to end retires (R97). -/
def launchEnded (l : Nat) (s : State) : State :=
  match tfind s.launches l with
  | some x => if x.live = 0 ∧ x.engine = 0 then post 1 .launchRetire (argId l) s else s
  | none => s

/-- A task ends: status, complete, the submitter's count, and the launch. -/
def endTask (t : Task) (status code : Nat) (s : State) : State :=
  let s := putStatus t status s
  let s := completeAt t.core t.vf t.priv.toNat (rTb t.record) (rBytes t.record) code s
  let s := bumpCount (sid t.vf t.ctx) 1 false s
  launchEnded t.launch (modLaunch t.launch (fun l => { l with engine := l.engine - 1 }) s)

/-- The dependences of a queued task: met, unmet, or the code of a failed read. -/
def taskReady (t : Task) (s : State) : Except Nat Bool :=
  let read (a n : Nat) : Except Nat Nat := engineRead t.core t.vf t.priv.toNat false (BitVec.ofNat 64 a) n s
  match depMet read (rDep t.record 0), depMet read (rDep t.record 1) with
  | .error e, _ => .error e
  | _, .error e => .error e
  | .ok a, .ok b => .ok (a && b)

/-- Core cycles of a task's multiplication (R203). -/
def taskCycles (r : Rec) : Nat := cdiv (rM r * rN r * rK r * rIters r) (macRate r)

/-- Tasks whose dependence cannot be read fail without running. -/
def failTasks (q : Nat) (s : State) : State :=
  (quadAt q s).tiles.foldl (fun s t =>
    match taskReady t s with
    | .error e =>
      let k := quadAt q s
      endTask t (8 + e) e (setQuad q { k with tiles := k.tiles.filter (fun x => x.order != t.order) } s)
    | .ok _ => s) s

/-- The task the engine runs next: of those ready and not held, the highest priority, the oldest among equals. -/
def pickTask (q : Nat) (s : State) : Option Task :=
  let ok := (quadAt q s).tiles.filter (fun t =>
    (match taskReady t s with | .ok b => b | .error _ => false) && !workHeld t.vf s)
  match ok with
  | [] => none
  | x :: l => some (l.foldl (fun b t => if b.prio < t.prio ∨ (b.prio = t.prio ∧ t.order < b.order) then t else b) x)

/-- TILE_TASK_START: with the engine idle, the next task starts (R200, R202). -/
def startTile (q : Nat) (s : State) : State :=
  let s := failTasks q s
  match (quadAt q s).running with
  | some _ => s
  | none =>
    match pickTask q s with
    | none => s
    | some t =>
      let c := t.core
      let t := { t with
        pad := s.spad.filter (fun e => decide (c * 2 ^ 21 ≤ e.1) && decide (e.1 < (c + 1) * 2 ^ 21))
        book := (coreAt c s).codebook }
      let k := quadAt q s
      let s := setQuad q { k with tiles := k.tiles.filter (fun x => x.order != t.order), running := some t } s
      let s := putStatus t 1 s
      post (max 1 (cyclesToSlots c (taskCycles t.record) s)) .tileTaskComplete (argQuad q) s

/-- TILE_TASK_COMPLETE: the task's writes, its status, complete, the decrement; then the next task. -/
def completeTile (q : Nat) (s : State) : State :=
  match (quadAt q s).running with
  | none => s
  | some t =>
    let (code, s) := runTask t s
    let s := noteTask t s
    let s := charge t.vf t.launch 2 t.record.toNat (setQuad q { quadAt q s with running := none } s)
    let s := endTask t (if code = 0 then 2 else 8 + code) code s
    post 1 .tileTaskStart (argQuad q) s

end Sys2Proof.Machine
end

