-- ==== Sys2Proof/Machine/EngineOps.lean ====
section
/-! DEFINITION. EngineOps: the engine instructions: tile tasks, copies, codebook, windows and stream bindings (R366 to
R380). -/

namespace Sys2Proof.Machine

open Host

/-! ### Structures in memory (R367) -/

/-- Reads a structure of n bytes as one load of the strand, without travel: `f` goes on with it (R367). -/
def readStruct (a : Word) (n : Nat) (s : State) (f : Nat → State → Outcome State Fault Refusal) :
    Outcome State Fault Refusal :=
  match check ⟨n, n, .read, true, true⟩ a s with
  | .stop s => .next s
  | .pad off =>
    if spadErrAt s.issue.core off n s then .next (trapAddr 13 0 a s)
    else f (spadVal s.issue.core off n s) (raceNote (cur s) s.issue.core off n false s)
  | .mem pa tc =>
    if overlapBusy (cur s) pa n s then .next s
    else
      match (if tc then tagMismatch pa n (BitVec.ofNat 4 (bitsN a 56 4)) s else none) with
      | some g => .next (trapFull 5 0 a (BitVec.ofNat 64 (bitsN a 56 4 + 16 * g.toNat)) 0 s)
      | none =>
        if memErrAt pa n s then .next (trapAddr 13 0 a s)
        else f (memVal (keyOf s.issue.vf s) pa n s) s

/-- Writes 8 bytes of a structure as a store of the strand, performed before the instruction retires (R367); a moving page holds the
strand (R165). -/
def writeStruct (a : Word) (v : Nat) (s : State) (f : State → Outcome State Fault Refusal) : Outcome State Fault Refusal :=
  match check ⟨8, 8, .write, true, true⟩ a s with
  | .stop s => .next s
  | .pad off =>
    let c := s.issue.core
    f (raceNote (cur s) c off 8 true (dirtyWindows c off 8 (spadWrite c off (toBytes 8 v) s)))
  | .mem pa tc =>
    if bitsN a 48 8 < 0xFD ∧ pageMoving s.issue.vf (bitsN a 0 56) s then .next (holdNow (cur s) 11 (BitVec.ofNat 56 (bitsN a 0 56)) s)
    else if overlapBusy (cur s) pa 8 s then .next s
    else
      match (if tc then tagMismatch pa 8 (BitVec.ofNat 4 (bitsN a 56 4)) s else none) with
      | some g => .next (trapFull 5 0 a (BitVec.ofNat 64 (bitsN a 56 4 + 16 * g.toNat)) 0 s)
      | none => f (bankChanged pa (memWrite (keyOf s.issue.vf s) pa (toBytes 8 v) s))

/-- The result of an instruction goes to sd and it retires. -/
def resultS (i : Instr) (v : Word) (s : State) : Outcome State Fault Refusal := .next (retire (dstS i .d v (consume i s)))

/-- A count of line 79 goes up, written first where it has no line yet (R134): its fault traps. -/
def raiseCount (byte : Nat) (s : State) (f : State → Outcome State Fault Refusal) : Outcome State Fault Refusal :=
  match openCounts (cur s) s with
  | .error (kd, ca) => .next (trapAddr kd ca (BitVec.ofNat 64 (s.issue.ctx.toNat + 64 * 79)) s)
  | .ok s => f (bumpCount (cur s) byte true s)

/-! ### Tile tasks (R371, R373, R374) -/

/-- Row counts of the group table of a record. -/
def readGroups (c : Nat) (r : Rec) (s : State) : List Nat :=
  (List.range (rGcnt r)).map (fun g => spadVal c ((rGtab r + 2 * g) % 2 ^ 21) 2 s)

/-- The group table lies in the scratchpad and has an uncorrectable error (R169). -/
def groupsErr (c : Nat) (r : Rec) (s : State) : Bool :=
  rGcnt r != 0 && decide (rGtab r + 2 * rGcnt r ≤ 2 ^ 21) && spadErrAt c (rGtab r) (2 * rGcnt r) s

/-- A task of the function with this record address is in the quad. -/
def findTask (q : Nat) (vf : BitVec 7) (a : Word) (s : State) : Option Task :=
  let k := quadAt q s
  (k.tiles ++ (match k.running with | some t => [t] | none => [])).find? (fun t => t.vf == vf && bitsN t.addr 0 56 == bitsN a 0 56)

/-- TSUB (R371). -/
def execTsub (p : Pfx) (rd ra : BitVec 5) (s : State) : Outcome State Fault Refusal :=
  let i := Instr.tsub p rd ra
  issue i s fun s =>
    let a := srcS i .a s
    if bitsN a 0 7 ≠ 0 then .next (trapAddr 4 0 a s)
    else if tileCount (cur s) s = 63 then .next (stallWith 3 s.issue.ctx s)
    else
      readStruct a 128 s fun v s =>
        let r : Rec := BitVec.ofNat 1024 v
        let c := s.issue.core
        let q := coreQuad c
        let groups := readGroups c r s
        if groupsErr c r s then .next (trapAddr 13 0 (BitVec.ofNat 64 (0xFE * 2 ^ 48 + rGtab r)) s) else
        let code := recCode r groups
        let code := if code = 0 ∧ (findTask q s.issue.vf a s).isSome then 6 else code
        if code = 6 then resultS i 6#64 s
        else if code ≠ 0 then writeStruct (addrOff a 120) (rTail r 12) s fun s => resultS i (BitVec.ofNat 64 code) s
        else if 64 ≤ (quadAt q s).tiles.length then .next s
        else
          writeStruct (addrOff a 120) (rTail r 4) s fun s =>
            raiseCount 1 s fun s =>
              let (id, s) := newId s
              let t : Task := ⟨s.issue.vf, s.issue.ctx, (curStrand s).launch, a, r, hdrPrio (cur s) s, c, id,
                BitVec.ofNat 2 (curPriv s), groups, [], 0⟩
              let k := quadAt q s
              let s := setQuad q { k with tiles := k.tiles ++ [t] } s
              let s := modLaunch t.launch (fun l => { l with engine := l.engine + 1 }) s
              resultS i 0#64 (post 1 .tileTaskStart (argQuad q) s)

/-- TQRY (R373). -/
def execTqry (p : Pfx) (rd ra : BitVec 5) (s : State) : Outcome State Fault Refusal :=
  let i := Instr.tqry p rd ra
  issue i s fun s =>
    let q := coreQuad s.issue.core
    match findTask q s.issue.vf (srcS i .a s) s with
    | none => resultS i 0#64 s
    | some t =>
      let k := quadAt q s
      if (k.running.map Task.order) = some t.order then resultS i (BitVec.ofNat 64 (1 + 16)) s
      else resultS i (BitVec.ofNat 64 (4 + 16 + 256 * (k.tiles.countP (fun x => decide (x.order < t.order))))) s

/-- TCAN (R374). -/
def execTcan (p : Pfx) (rd ra : BitVec 5) (s : State) : Outcome State Fault Refusal :=
  let i := Instr.tcan p rd ra
  issue i s fun s =>
    let q := coreQuad s.issue.core
    match findTask q s.issue.vf (srcS i .a s) s with
    | none => resultS i 0#64 s
    | some t =>
      let k := quadAt q s
      if (k.running.map Task.order) = some t.order then resultS i 1#64 s
      else
        writeStruct (addrOff t.addr 120) (rTail t.record 13) s fun s =>
          let k := quadAt q s
          let s := setQuad q { k with tiles := k.tiles.filter (fun x => x.order != t.order) } s
          resultS i 13#64 (endTask t 13 5 s)

/-! ### Copies (R372 to R374) -/

/-- A copy of the function with this descriptor address is in the quad, and whether it is active. -/
def findCopy (q : Nat) (vf : BitVec 7) (a : Word) (s : State) : Option (CopyJob × Bool) :=
  let k := quadAt q s
  let hit (j : CopyJob) : Bool := j.vf == vf && bitsN j.addr 0 56 == bitsN a 0 56
  match k.active.find? hit with
  | some j => some (j, true)
  | none => (k.copies.find? hit).map (fun j => (j, false))

/-- TSUB.copy (R372): for a copy its quota has paused, which waits in the queue, it is the start that resumes it (R205; log 15). -/
def execTsubCopy (p : Pfx) (ra : BitVec 5) (s : State) : Outcome State Fault Refusal :=
  let i := Instr.tsubCopy p ra
  issue i s fun s =>
    let a := srcS i .a s
    if bitsN a 0 7 ≠ 0 then .next (trapAddr 4 0 a s)
    else if copyCount (cur s) s = 63 then .next (stallWith 3 s.issue.ctx s)
    else
      readStruct a 128 s fun v s =>
        let d : Desc := BitVec.ofNat 1024 v
        let c := s.issue.core
        match copyStart d none with
        | none => .next (trapFull 22 3 0 a 0 s)
        | some done =>
          match (quadAt (coreQuad c) s).copies.find? (fun j => j.paused && j.vf == s.issue.vf && bitsN j.addr 0 56 == bitsN a 0 56) with
          | some j =>
            writeStruct (addrOff a 104) (done + 2 ^ 40) s fun s =>
              let k := quadAt (coreQuad c) s
              let go (x : CopyJob) : CopyJob := if x.order = j.order then { x with desc := d, done := done, paused := false } else x
              .next (retire (consume i (kickCopies (coreQuad c) (setQuad (coreQuad c) { k with copies := k.copies.map go } s))))
          | none =>
          if 64 ≤ (quadAt (coreQuad c) s).copies.length then .next s
          else
            writeStruct (addrOff a 104) (done + 2 ^ 40) s fun s =>
              raiseCount 0 s fun s =>
                let j : CopyJob := ⟨s.issue.vf, s.issue.ctx, (curStrand s).launch, a, d, done, BitVec.ofNat 2 (curPriv s), c,
                  none, false, false, 0⟩
                let s := enterCopy j s
                .next (retire (consume i s))

/-- TQRY.copy (R373). -/
def execTqryCopy (p : Pfx) (rd ra : BitVec 5) (s : State) : Outcome State Fault Refusal :=
  let i := Instr.tqryCopy p rd ra
  issue i s fun s =>
    let q := coreQuad s.issue.core
    match findCopy q s.issue.vf (srcS i .a s) s with
    | none => resultS i 0#64 s
    | some (j, active) =>
      let ahead := if active then 0 else (quadAt q s).copies.countP (fun x => decide (x.order < j.order))
      let st := if j.paused then 3 else if active then 1 else 4
      resultS i (BitVec.ofNat 64 (st + 16 + 256 * (ahead % 256) + 2 ^ 16 * (j.done % 2 ^ 40))) s

/-- TCAN.copy (R374). -/
def execTcanCopy (p : Pfx) (rd ra : BitVec 5) (s : State) : Outcome State Fault Refusal :=
  let i := Instr.tcanCopy p rd ra
  issue i s fun s =>
    let q := coreQuad s.issue.core
    match findCopy q s.issue.vf (srcS i .a s) s with
    | none => resultS i 0#64 s
    | some (j, active) =>
      if active && !j.paused then resultS i 1#64 s
      else
        writeStruct (addrOff j.addr 104) (j.done + 13 * 2 ^ 40) s fun s =>
          let k := quadAt q s
          let s := setQuad q { k with
            copies := k.copies.filter (fun x => x.order != j.order), active := k.active.filter (fun x => x.order != j.order) } s
          resultS i 13#64 (endCopy j 5 s)

/-! ### Codebook (R375) -/

/-- LUTLD. -/
def execLutld (p : Pfx) (ra rb : BitVec 5) (s : State) : Outcome State Fault Refusal :=
  let i := Instr.lutld p ra rb
  issue i s fun s =>
    let c := s.issue.core
    .next (retire (setCore c { coreAt c s with codebook := srcS i .b s ++ srcS i .a s } (consume i s)))

/-- LUTRD. -/
def execLutrd (p : Pfx) (rd : BitVec 5) (h : BitVec 1) (s : State) : Outcome State Fault Refusal :=
  let i := Instr.lutrd p rd h
  issue i s fun s => resultS i ((coreAt s.issue.core s).codebook.extractLsb' (64 * h.toNat) 64) s

/-! ### Windows (R161, R162, R376 to R378) -/

/-- Two ranges meet. -/
def rangesMeet (a n b m : Nat) : Bool := decide (a < b + m) && decide (b < a + n)

/-- RBIND. -/
def execRbind (p : Pfx) (rd ra rb : BitVec 5) (s : State) : Outcome State Fault Refusal :=
  let i := Instr.rbind p rd ra rb
  issue i s fun s =>
    let c := s.issue.core
    let w := srcS i .d s
    let key := bitsN (srcS i .a s) 0 56
    let desc := srcS i .b s
    let n := bitsN w 0 6
    let off := bitsN w 6 13 * 256
    let ls := bitsN w 19 5
    let code : Nat :=
      if bitsN w 24 40 ≠ 0 then 1
      else if ls < 8 ∨ 21 < ls ∨ key % 2 ^ ls ≠ 0 ∨ bitsN desc 0 7 ≠ 0 then 1
      else if off % 2 ^ ls ≠ 0 ∨ 2 ^ 21 < off + 2 ^ ls then 1
      else if (coreAt c s).windows.any (fun e => e.1 != n && e.2.bound &&
          rangesMeet off (2 ^ ls) (e.2.spoff.toNat * 256) (2 ^ e.2.lsize.toNat)) then 2
      else if (windowAt c n s).bound ∧ (windowAt c n s).state ≠ 0#2 then 3
      else 0
    if code ≠ 0 then resultS i (BitVec.ofNat 64 code) s
    else
      resultS i 0#64 (setWindow c n
        ⟨BitVec.ofNat 13 (off / 256), BitVec.ofNat 5 ls, 0, false, true, BitVec.ofNat 56 key, desc.setWidth 56,
         hdrRegion (cur s) s, s.issue.vf, false, [], false⟩ s)

/-- The lowest-numbered bound window whose key range holds an address. -/
def windowByKey (c : Nat) (a : Word) (s : State) : Option Nat :=
  ((coreAt c s).windows.find? (fun e =>
    e.2.bound && decide (e.2.key.toNat ≤ bitsN a 0 56) && decide (bitsN a 0 56 < e.2.key.toNat + 2 ^ e.2.lsize.toNat))).map Prod.fst

/-- RLOOK. -/
def execRlook (p : Pfx) (rd ra : BitVec 5) (s : State) : Outcome State Fault Refusal :=
  let i := Instr.rlook p rd ra
  issue i s fun s =>
    let c := s.issue.core
    match windowByKey c (srcS i .a s) s with
    | none => resultS i (BitVec.allOnes 64) s
    | some n =>
      let v := windowAt c n s
      resultS i (BitVec.ofNat 64 (n + 64 * v.state.toNat + (if v.err then 256 else 0))) s

/-- REVICT. -/
def execRevict (p : Pfx) (rd ra : BitVec 5) (s : State) : Outcome State Fault Refusal :=
  let i := Instr.revict p rd ra
  issue i s fun s =>
    let c := s.issue.core
    let n := (srcS i .a s).toNat
    let v := windowAt c n s
    if 64 ≤ n then .next (trapNow 1 1 s)
    else if !v.bound then resultS i 2#64 s
    else if v.busy then .next s
    else if v.state = 3#2 then
      match startWindow (cur s) c n true s with
      | .started s => resultS i 1#64 s
      | .full => .next (if copyCount (cur s) s = 63 then stallWith 3 s.issue.ctx s else s)
      | .refused => .next (trapFull 22 3 0 (BitVec.ofNat 64 n) 0 s)
      | .traps kd ca a => .next (trapAddr kd ca a s)
    else resultS i 0#64 (setWindow c n { v with state := 0 } s)

/-- RINV and RINV.unbind: a fill in progress is waited for; a write-back in progress goes on to its end. -/
def invalidate (i : Instr) (drop : Bool) (s : State) : Outcome State Fault Refusal :=
  issue i s fun s =>
    let c := s.issue.core
    let n := (srcS i .a s).toNat
    let v := windowAt c n s
    if 64 ≤ n then .next (trapNow 1 1 s)
    else if !v.bound then resultS i 2#64 s
    else if v.state = 1#2 then .next s
    else
      resultS i 0#64 (if drop then setCore c { coreAt c s with windows := tdel (coreAt c s).windows n } s
        else setWindow c n { v with state := 0, err := false } s)

/-- RINV. -/
def execRinv (p : Pfx) (rd ra : BitVec 5) (s : State) : Outcome State Fault Refusal := invalidate (.rinv p rd ra) false s
/-- RINV.unbind. -/
def execRinvUnbind (p : Pfx) (rd ra : BitVec 5) (s : State) : Outcome State Fault Refusal :=
  invalidate (.rinvUnbind p rd ra) true s

/-! ### Stream bindings (R196, R198, R379, R380) -/

/-- A reserved bit of a stream descriptor is nonzero (R196). -/
def sdReserved (d : BitVec 512) : Bool := bitsN d 483 5 != 0 || bitsN d 488 24 != 0
def sdKind (d : BitVec 512) : Nat := bitsN d 464 2
def sdEsz (d : BitVec 512) : Nat := bitsN d 466 3
def sdBase (d : BitVec 512) : Word := BitVec.ofNat 64 (bitsN d 0 64)
def sdStride (d : BitVec 512) (j : Nat) : Nat := bitsN d (64 + 32 * j) 32

/-- Another strand of the core holds an inbound circuit binding on qN (R198): one whose SBIND was refused holds nothing. -/
def circuitTaken (k c q : Nat) (s : State) : Bool :=
  s.streams.any (fun e => e.1 % 8 == q && e.1 / 8 != k && e.2.core == c && e.2.kind == 2 && e.2.status < 6)

/-- The circuit of a binding is the function's and meets this core and register. -/
def circuitFits (vf : BitVec 7) (c q n : Nat) (s : State) : Bool :=
  match circAt n s with
  | none => false
  | some v =>
    v.vf == vf &&
    (if q < 4 then v.ends.dstKind == 0 && 256 * v.ends.dstHall + v.ends.dstCore == c && v.q == q
     else endsSrc v.ends == c)

/-- Bindings the core's stream unit holds. -/
def unitBindings (c : Nat) (s : State) : Nat := s.streams.countP (fun e => e.2.core == c && e.2.kind != 0 && e.2.status < 6)

/-- The status a new binding takes. -/
def bindStatus (k c q : Nat) (vf : BitVec 7) (d : BitVec 512) (s : State) : Nat :=
  let n := 2 ^ sdEsz d
  if sdKind d = 3 ∨ sdReserved d ∨
      (sdKind d = 1 ∧ ((sdBase d).toNat % n ≠ 0 ∨ (List.range 5).any (fun j => sdStride d j % n != 0))) then 7
  else if sdKind d = 2 ∧ (!circuitFits vf c q (sdCirc d) s ∨ (q < 4 ∧ circuitTaken k c q s)) then 7
  else if 128 ≤ unitBindings c s then 6
  else 0

/-- Writes a binding line whole. -/
def putBinding (k q : Nat) (d : BitVec 512) (s : State) : State :=
  (List.range 8).foldl (fun s i => putWord k (64 * (70 + q) + 8 * i) (lineWord d i) s) s

/-- SBIND. -/
def execSbind (p : Pfx) (ra qn : BitVec 5) (s : State) : Outcome State Fault Refusal :=
  let i := Instr.sbind p ra qn
  issue i s fun s =>
    let a := srcS i .a s
    let q := qn.toNat
    let k := cur s
    let c := s.issue.core
    if bitsN a 0 6 ≠ 0 then .next (trapAddr 4 0 a s)
    else
      readStruct a 64 s fun v s =>
        let x := streamAt k q s
        if x.kind ≠ 0 ∧ drains k q s then .next (flushStreams k s)
        else
          let s := consume i s
          let s := if x.kind ≠ 0 then unbind k q s else s
          let d : BitVec 512 := setBits (BitVec.ofNat 512 v) 469 3 0
          if sdKind d = 0 then .next (retire (setStream k q ⟨d, c, 0, [], 0, 0⟩ (putBinding k q d s)))
          else
            let d := setBits d 469 3 (bindStatus k c q s.issue.vf d s)
            let (id, s) := newId s
            let s := setStream k q ⟨d, c, BitVec.ofNat 2 (curPriv s), [], 0, id⟩ (putBinding k q d s)
            let s := if bitsN d 469 3 = 0 ∧ sdKind d = 1 ∧ q < 4 then
                post 1 .streamMemoryFetch { argStrand k with q := BitVec.ofNat 6 q } s else s
            .next (retire s)

/-- SUNB: an outbound binding waits until its elements are performed. -/
def execSunb (p : Pfx) (qn : BitVec 5) (s : State) : Outcome State Fault Refusal :=
  let i := Instr.sunb p qn
  issue i s fun s =>
    let k := cur s
    let q := qn.toNat
    let x := streamAt k q s
    if x.kind = 0 then .next (retire s)
    else if drains k q s then .next (flushStreams k s)
    else .next (retire (unbind k q s))

/-- SQRY. -/
def execSqry (p : Pfx) (rd qn : BitVec 5) (s : State) : Outcome State Fault Refusal :=
  let i := Instr.sqry p rd qn
  issue i s fun s =>
    let x := streamAt (cur s) qn.toNat s
    resultS i (BitVec.ofNat 64 (x.kind + 4 * x.status + 32 * (x.buf.length % 2 ^ 13) + 2 ^ 18 * (x.count % 2 ^ 46))) s

end Sys2Proof.Machine
end

