-- ==== Sys2Proof/Machine/Sync.lean ====
section
/-! DEFINITION. Sync: FENCE, level barriers, transaction barriers, wait counters, messages and FILL (R327 to R337). -/

namespace Sys2Proof.Machine

open Host

/-! ### FENCE (R327, R328) -/

/-- The instruction cache of a core holds nothing of a function. -/
def dropCode (c : Nat) (vf : BitVec 7) (s : State) : State :=
  let k := coreAt c s
  setCore c { k with icache := k.icache.filter (fun l => l.vf != vf) } s

/-- FENCE. -/
def execFence (p : Pfx) (scope : BitVec 3) (kinds : BitVec 6) (s : State) : Outcome State Fault Refusal :=
  issue (.fence p scope kinds) s fun s =>
    let loads := bitB kinds 0 || bitB kinds 1 || bitB kinds 4
    let stores := bitB kinds 2 || bitB kinds 3 || bitB kinds 4 || bitB kinds 5
    if domainBusy (cur s) scope.toNat loads stores s then .next (flushStreams (cur s) s)
    else .next (retire (if bitB kinds 5 then dropCode s.issue.core s.issue.vf s else s))

/-! ### Level barriers (R89, R90, R329, R330) -/

/-- The function takes part in a pairing (R57, R63). -/
def paired (vf : BitVec 7) (s : State) : Bool :=
  (List.range 64).any (fun g => regN 0 (0x60200 + 16 * g) 6 7 s == vf.toNat && regN 0 (0x60208 + 16 * g) 0 2 s == 2)

/-- Instance of a level that holds a core. -/
def levelInstance (level c : Nat) (s : State) : Nat :=
  match level with
  | 2 => c
  | 3 => coreQuad c
  | 4 => coreHall c
  | 6 => regN 0 0x60100 0 6 s
  | _ => 0

/-- Cores' epochs advance for the launches that took part in a phase (R110). -/
def advanceEpochs (l : List (Nat × Nat)) (s : State) : State :=
  l.foldl (fun s e =>
    let k := coreAt e.1 s
    setCore e.1 { k with epochs := tput k.epochs e.2 (tget k.epochs e.2 0 + 1) } s) s

/-- One arrival of a strand (R90): at zero the phase goes up and the count reloads. -/
def arriveBarrier (key c launch : Nat) (s : State) : State :=
  let b := barrierAt key s
  let took := if b.took.contains (c, launch) then b.took else b.took ++ [(c, launch)]
  if b.pending ≤ 1 then
    let s := setBarrier key { b with pending := b.initial, phase := b.phase + 1#4, since := s.wheel, took := [] } s
    let s := advanceEpochs took s
    s.strands.foldl (fun s e =>
      match e.2.wait with
      | .barrier q _ => if q = key then wakeStrand e.1 s else s
      | _ => s) s
  else setBarrier key { b with pending := b.pending - 1, took := took } s

/-- The privilege trap of a barrier the function may not use (R330). -/
def barrierBarred (level : Nat) (key : Nat) (arm : Bool) (s : State) : Bool :=
  let b := barrierAt key s
  (level == 6 && !paired s.issue.vf s) || (b.armed && b.vf != s.issue.vf) || (!arm && !b.armed)

/-- The barrier an instruction names, in the instance that holds the strand. -/
def curBarrier (num : BitVec 4) (level : BitVec 3) (s : State) : Nat :=
  barrierKey level.toNat (levelInstance level.toNat s.issue.core s) num.toNat

/-- BAR.arm. -/
def execBarArm (p : Pfx) (num : BitVec 4) (level : BitVec 3) (ra : BitVec 5) (s : State) : Outcome State Fault Refusal :=
  let i := Instr.barArm p num level ra
  issue i s fun s =>
    if level = 1#3 then .next (retire (consume i s))
    else
      let n := (srcS i .a s).toNat
      let key := curBarrier num level s
      if n = 0 ∨ 2 ^ 24 ≤ n then .next (trapNow 1 1 s)
      else if barrierBarred level.toNat key true s then .next (trapNow 3 3 s)
      else
        let s1 := consume i s
        let b := barrierAt key s1
        .next (retire (setBarrier key { b with
          armed := true, vf := s.issue.vf, launch := (curStrand s).launch, initial := n, pending := n, since := s.wheel,
          took := [] } s1))

/-- BAR. -/
def execBar (p : Pfx) (num : BitVec 4) (level : BitVec 3) (s : State) : Outcome State Fault Refusal :=
  let i := Instr.bar p num level
  issue i s fun s =>
    let key := curBarrier num level s
    if level ≠ 1#3 ∧ barrierBarred level.toNat key false s then .next (trapNow 3 3 s)
    else if domainBusy (cur s) level.toNat true true s then .next (flushStreams (cur s) s)
    else if level = 1#3 then .next (retire s)
    else
      let tok := (barrierAt key s).phase
      let k := cur s
      let s := arriveBarrier key s.issue.core (curStrand s).launch s
      let s := retire s
      .next (modStrand k (fun t => { t with wait := .barrier key tok, hold := 4, hobj := barrierObj key tok }) s)

/-- BARA. -/
def execBara (p : Pfx) (num : BitVec 4) (level : BitVec 3) (rd : BitVec 5) (s : State) : Outcome State Fault Refusal :=
  let i := Instr.bara p num level rd
  issue i s fun s =>
    let key := curBarrier num level s
    if level ≠ 1#3 ∧ barrierBarred level.toNat key false s then .next (trapNow 3 3 s)
    else if domainBusy (cur s) level.toNat true true s then .next (flushStreams (cur s) s)
    else if level = 1#3 then .next (retire (dstS i .d 0#64 s))
    else
      let tok := (barrierAt key s).phase
      .next (retire (dstS i .d (tok.setWidth 64) (arriveBarrier key s.issue.core (curStrand s).launch s)))

/-- BARW. -/
def execBarw (p : Pfx) (num : BitVec 4) (level : BitVec 3) (ra : BitVec 5) (s : State) : Outcome State Fault Refusal :=
  let i := Instr.barw p num level ra
  issue i s fun s =>
    let key := curBarrier num level s
    if level = 1#3 then .next (retire (consume i s))
    else if barrierBarred level.toNat key false s then .next (trapNow 3 3 s)
    else
      let tok := (srcS i .a s).setWidth 4
      if (barrierAt key s).phase = tok then .next (stallWith 4 (barrierObj key tok) s)
      else .next (retire (consume i s))

/-! ### Transaction barriers (R331, R332) -/

/-- A nonzero bit of rb outside its fields. -/
def zeroRange (op : Nat) (rb : Word) : Bool :=
  if op = 32 then bitsN rb 60 4 != 0 else if op = 33 then bitsN rb 56 8 != 0 else bitsN rb 4 60 != 0

/-- TBI, TBA, TBW and TBT. -/
def barrierOp (i : Instr) (op : Nat) (p : Pfx) (s : State) : Outcome State Fault Refusal :=
  issue i s fun s =>
    let a := srcS i .a s
    let rb := srcS i .b s
    if zeroRange op rb then .next (trapNow 1 1 s)
    else if op = 33 ∧ (answer s).isNone ∧ domainBusy (cur s) 5 true true s then .next (flushStreams (cur s) s)
    else
      operate i op false 5 (if op = 32 then .write else if op = 33 then .both else .read) a rb.toNat 0 4 false true p
        (fun v s =>
          if op = 34 ∧ 512 ≤ v then trapFull 22 2 0 a (BitVec.ofNat 64 (v / 32 % 8)) s
          else
            let s := consume i s
            retire (if op = 32 then s else dstS i .d (BitVec.ofNat 64 v) s)) s

/-- TBI. -/
def execTbi (p : Pfx) (ra rb : BitVec 5) (s : State) : Outcome State Fault Refusal := barrierOp (.tbi p ra rb) 32 p s
/-- TBA. -/
def execTba (p : Pfx) (rd ra rb : BitVec 5) (s : State) : Outcome State Fault Refusal := barrierOp (.tba p rd ra rb) 33 p s
/-- TBW. -/
def execTbw (p : Pfx) (rd ra rb : BitVec 5) (s : State) : Outcome State Fault Refusal := barrierOp (.tbw p rd ra rb) 34 p s
/-- TBT. -/
def execTbt (p : Pfx) (rd ra rb : BitVec 5) (s : State) : Outcome State Fault Refusal := barrierOp (.tbt p rd ra rb) 35 p s

/-! ### Wait counters (R333) -/

/-- A fault of line 79 for a strand whose counts stand in memory. -/
def countFault (k : Nat) (s : State) : Option (Nat × Nat) :=
  if !lineMaterial k 79 s then none
  else match countPa k s with | .ok pa => if memErrAt pa 2 s then some (13, 2) else none | .error e => some e

/-- The four counts are within their limits (R206). -/
def countsWithin (k l st c t : Nat) (s : State) : Bool :=
  decide ((strandAt k s).loads ≤ l) && decide ((strandAt k s).stores ≤ st) && decide (copyCount k s ≤ c) &&
  decide (tileCount k s ≤ t)

/-- WAITC. -/
def execWaitc (p : Pfx) (t c st l : BitVec 6) (s : State) : Outcome State Fault Refusal :=
  issue (.waitc p t c st l) s fun s =>
    match countFault (cur s) s with
    | some (kd, ca) => .next (trapAddr kd ca (BitVec.ofNat 64 (s.issue.ctx.toNat + 64 * 79)) s)
    | none =>
      if countsWithin (cur s) l.toNat st.toNat c.toNat t.toNat s then .next (retire s)
      else .next (stallWith 3 s.issue.ctx s)

/-! ### Messages (R109, R334, R335) -/

/-- Key of a (sender, receiver) pair. -/
def pairKey (a b : Nat) : Nat := a * 2 ^ 33 + b

/-- The strand's launch has this logical index (R92, R334). -/
def indexOk (k idx : Nat) (s : State) : Bool :=
  match launchOf k s with
  | some l => decide (idx < pkN l.packet + pkSpawnMax l.packet)
  | none => false

/-- MSND: the message goes out once; the instruction retires when the buffer has accepted it. -/
def execMsnd (p : Pfx) (ra rb : BitVec 5) (s : State) : Outcome State Fault Refusal :=
  let i := Instr.msnd p ra rb
  issue i s fun s =>
    match (curStrand s).wait, launchOf (cur s) s with
    | .answered _ _ _, _ => .next (retire (consume i s))
    | _, none => .next (trapNow 1 1 s)
    | _, some l =>
      let me := curStrand s
      let idx := (srcS i .a s).toNat
      if !indexOk (cur s) idx s then .next (trapNow 1 1 s)
      else
        let n := tget l.seqs (pairKey me.index idx) 0
        let dst := placeOf l (pkPos l.packet idx)
        let here := coreHall me.core == coreHall dst
        let m : TMsg := { tmsgZero with
          kind := .mail, src := if here then me.core else coreHall me.core, dst := if here then dst else coreHall dst,
          vf := s.issue.vf, ctx := s.issue.ctx, id := idx, line := BitVec.ofNat 56 n, flits := if here then 0 else 1,
          data := [srcS i .b s, BitVec.ofNat 64 me.index, BitVec.ofNat 64 me.launch] }
        let s := modLaunch me.launch (fun l => { l with seqs := tput l.seqs (pairKey me.index idx) (n + 1) }) s
        let id := s.nextId
        let s := if here then
            let s := { (newId s).2 with tmsgs := tput s.tmsgs id m }
            post 1 .flitInject { argId id with n := 2#8 } s
          else queueT m s
        let s := stallWith 2 (indexCtx l.packet idx) s
        .next (modStrand (cur s) (fun t => { t with wait := .message id }) s)

/-- The message an MRCV takes from the buffer of the core its position maps to: the named sender's next, or the oldest
arrival. -/
def findMsg (k : Nat) (sender : Option Nat) (s : State) : Option (Nat × Msg) :=
  match launchOf k s with
  | none => none
  | some l =>
    let t := strandAt k s
    let c := placeOf l t.pos
    let mine (m : Msg) : Bool := m.launch == t.launch && m.dst == t.index
    let want (m : Msg) : Bool :=
      match sender with
      | some a => m.src == a && m.seq == tget l.taken (pairKey a t.index) 0
      | none => true
    ((coreAt c s).msgs.find? (fun m => mine m && want m)).map (fun m => (c, m))

/-- Takes a message: it leaves the buffer, and its pair's next number follows it. -/
def takeMsg (k c : Nat) (m : Msg) (s : State) : State :=
  let x := coreAt c s
  let s := setCore c { x with msgs := x.msgs.erase m } s
  modLaunch (strandAt k s).launch (fun l =>
    { l with taken := tput l.taken (pairKey m.src m.dst) (max (m.seq + 1) (tget l.taken (pairKey m.src m.dst) 0)) }) s

/-- MRCV.from. -/
def execMrcvFrom (p : Pfx) (rd ra : BitVec 5) (s : State) : Outcome State Fault Refusal :=
  let i := Instr.mrcvFrom p rd ra
  issue i s fun s =>
    let idx := (srcS i .a s).toNat
    if !indexOk (cur s) idx s then .next (trapNow 1 1 s)
    else
      match findMsg (cur s) (some idx) s with
      | none => .next (stallWith 2 s.issue.ctx s)
      | some (c, m) => .next (retire (dstS i .d m.value (takeMsg (cur s) c m (consume i s))))

/-- MRCV: no form in D-mode (R109, R334). -/
def execMrcv (p : Pfx) (rd ra : BitVec 5) (s : State) : Outcome State Fault Refusal :=
  let i := Instr.mrcv p rd ra
  issue i s fun s =>
    if hdrDmode (cur s) s then .next (trapNow 1 1 s)
    else
      match findMsg (cur s) none s with
      | none => .next (stallWith 2 s.issue.ctx s)
      | some (c, m) =>
        .next (retire (dstS i .a (BitVec.ofNat 64 m.src) (dstS i .d m.value (takeMsg (cur s) c m s))))

/-! ### FILL (R336, R337) -/

/-- Writes the target register whole where its lines are held (R124, R195). -/
def fillReg (t code : Nat) (i : Instr) (s : State) : State :=
  let h := coreHall (strandAt t s).core
  let put (off : Nat) (v : Word) (s : State) : State := putWordAnywhere t off h v s
  let full (off b : Nat) (s : State) : State := put off (setBits (cachedWord t off s) b 1 1) s
  if code < 32 then full 0x158 (32 + code) (put (0x40 + 8 * (code - 1)) (srcS i .b s) s)
  else if code < 64 then fillVec t (code - 32) (srcV i .b s) s
  else
    let off := 0x140 + 8 * ((code - 65) / 2)
    full 0x160 (code - 64) (put off (setBits (cachedWord t off s) (32 * ((code - 65) % 2)) 32 (bitsN (srcS i .b s) 0 32)) s)

/-- Code of the target register of FILL. -/
def fillCode (cls : BitVec 2) (rd : BitVec 5) : Nat :=
  if cls = 0#2 then codeS rd else if cls = 1#2 then codeP rd.toNat else codeV rd

/-- The line of the target's record that FILL must find (R124): line 5 and, for a predicate, the same. -/
def openFill (t h : Nat) (s : State) : Except (Nat × Nat) State :=
  match openLine t 0 h s with
  | .ok s => openLine t 5 h s
  | .error e => .error e

/-- FILL. -/
def execFill (p : Pfx) (rd ra rb : BitVec 5) (force : BitVec 1) (cls : BitVec 2) (s : State) :
    Outcome State Fault Refusal :=
  let i := Instr.fill p rd ra rb force cls
  issue i s fun s =>
    let a := BitVec.ofNat 56 (bitsN (srcS i .a s) 0 56)
    let t := sid s.issue.vf a
    let x := strandAt t s
    let code := fillCode cls rd
    if bitsN a 0 13 ≠ 0 then .next (trapAddr 4 0 (a.setWidth 64) s)
    else if domainBusy (cur s) 5 true true s then .next (flushStreams (cur s) s)
    else
      match placeAt s.issue.core s.issue.vf (curPriv s) .write false (a.setWidth 64) 8 s with
      | .traps kd ca => .next (trapAddr kd ca (a.setWidth 64) s)
      | .fails _ => .next (trapAddr 7 0 (a.setWidth 64) s)
      | .at_ _ =>
        if x.run = .unborn ∨ x.run = .exited ∨ x.run = .lost then .next (trapNow 1 1 s)
        else
          match openFill t (coreHall x.core) s with
          | .error (kd, ca) => .next (trapAddr kd ca (a.setWidth 64) s)
          | .ok s =>
            if hdrN t 5 56 7 s ≠ s.issue.vf.toNat then .next (trapNow 1 1 s)
            else if !x.pending.isEmpty ∧ t ≠ cur s then .next s
            else if force = 0#1 ∧ fullBit t code s = true then .next (stallWith 2 a s)
            else
              let s := fillReg t code i s
              let s := if x.hold = 2#4 ∧ x.hobj = regAddr t code then wakeStrand t s
                else if x.run = .held ∧ x.hold = 5#4 then post 1 .strandWake { argStrand t with n := 2#8 } s else s
              .next (retire (consume i s))

end Sys2Proof.Machine
end

