-- ==== Sys2Proof/Machine/Strands.lean ====
section
/-! DEFINITION. Strands: creating, ending, parking and moving strands, leases, traps and returns, and TLBI (R381 to
R391). -/

namespace Sys2Proof.Machine

open Host

/-! ### SPAWN and LAUNCH (R381, R382) -/

/-- The record SPAWN writes: header, line 1 with s1, the dispatch registers, and line 79 zero (R381). -/
def writeSpawn (k : Nat) (l0 l78 : BitVec 512) (s1 : Word) (pa : Nat) (s : State) : State :=
  let key := keyOf (sidVf k) s
  let s := dropLines k s
  let put (l : Nat) (d : BitVec 512) (s : State) : State := putLineMem key (pa + 64 * l) 255#8 d s
  put 79 0#512 (put 78 l78 (put 1 (setLineWord 0#512 0 s1) (put 0 l0 s)))

/-- SPAWN, a release at .pkg toward the new strand. -/
def execSpawn (p : Pfx) (rd ra rb : BitVec 5) (s : State) : Outcome State Fault Refusal :=
  let i := Instr.spawn p rd ra rb
  issue i s fun s =>
    let w := srcS i .d s
    let entry := srcS i .a s
    let k := cur s
    let named := bitB w 12
    match launchOf k s with
    | none => .next (trapNow 1 1 s)
    | some l =>
      let pk := l.packet
      if bitsN w 13 51 ≠ 0 ∨ bitsN entry 0 2 ≠ 0 ∨ (hdrDmode k s = true ∧ named = true) then .next (trapNow 1 1 s)
      else if domainBusy k 5 true true s then .next (flushStreams k s)
      else if pkSpawnMax pk ≤ l.spawnNext then resultS i 1#64 s
      else
        let idx := pkN pk + l.spawnNext
        let pos := pkPos pk idx
        let core := if named then 256 * bitsN w 0 4 + bitsN w 4 8 else placeOf l pos
        let took (s : State) : State := modLaunch (curStrand s).launch (fun l => { l with spawnNext := l.spawnNext + 1 }) s
        if named ∧ !placeAllowed s.issue.vf pk core s then resultS i 3#64 (took s)
        else
          let ctx := indexCtx pk idx
          match placeAt s.issue.core s.issue.vf 1 .write false (ctx.setWidth 64) 8 s with
          | .traps kd ca => .next (trapAddr kd ca (ctx.setWidth 64) s)
          | .fails _ => .next (trapAddr 7 0 (ctx.setWidth 64) s)
          | .at_ (.pad _ _) => .next (trapAddr 7 0 (ctx.setWidth 64) s)
          | .at_ (.mem _ pa) =>
            let lid := (curStrand s).launch
            let n := sid s.issue.vf ctx
            let s := modLaunch lid (fun l => { l with live := l.live + 1 }) (took s)
            let s := setStrand n { strandZero with launch := lid, index := idx, pos := pos, core := core } s
            let s := writeSpawn n
              (freshHeader n ⟨bitsN entry 0 56, .ready, 0, pkPrio pk, pkDmode pk, pkRace pk, launchPolicy pk, pkCtx pk, true, 1 + 2 ^ 39⟩)
              (dispatchLine pk idx) (srcS i .b s) pa s
            let s := quotaTrap l n (makeReady n (withHeader n s))
            let s := modStrand n (fun t => { t with unstarted := submissionsHeld s.issue.vf s }) s
            let s := if pkDmode pk then
                let c := coreAt core s
                setCore core { c with dlist := c.dlist ++ [(lid, idx)] } s
              else s
            resultS i (ctx.setWidth 64) s

/-- LAUNCH. -/
def execLaunch (p : Pfx) (rd ra rb : BitVec 5) (s : State) : Outcome State Fault Refusal :=
  let i := Instr.launch p rd ra rb
  issue i s fun s =>
    let a := srcS i .a s
    let q := (srcS i .b s).toNat
    let vf := s.issue.vf
    if bitsN a 0 7 ≠ 0 then .next (trapAddr 4 0 a s)
    else if 64 ≤ q then .next (trapNow 1 1 s)
    else
      readStruct a 128 s fun v s =>
        if domainBusy (cur s) 5 true true s then .next (flushStreams (cur s) s)
        else
          let o := qoff q
          let tail := regN vf (o + 8) 0 32 s
          let head := regN vf (o + 16) 0 32 s
          let size := regN vf o 0 5 s
          if regN vf o 63 1 s = 0 ∨ regN vf (o + 24) 8 1 s = 1 then resultS i (BitVec.ofNat 64 (2 ^ 63 + 2)) s
          else if (tail + 2 ^ 32 - head) % 2 ^ 32 = 2 ^ size then resultS i (BitVec.ofNat 64 (2 ^ 63 + 1)) s
          else
            let slot := regN vf o 12 44 s * 2 ^ 12 + 128 * (tail % 2 ^ size)
            match xlateNow (coreHall s.issue.core) vf 1 .write (BitVec.ofNat 64 slot) s with
            | .ok x =>
              let s := bankChanged (x.pa slot) (memWrite (keyOf vf s) (x.pa slot) (toBytes 128 v) s)
              let s := setRegN vf (o + 8) 0 32 ((tail + 1) % 2 ^ 32) s
              let s := if submissionsHeld vf s then
                  let x := queueAt (lqueueKey vf q) s
                  setQueue (lqueueKey vf q) { x with held := x.held ++ [tail] } s
                else s
              let s := post 1 .queuePacketFetch (argQueue vf q) s
              resultS i (BitVec.ofNat 64 tail) s
            | .fault kd ca => .next (trapAddr kd ca (BitVec.ofNat 64 slot) s)
            | .err => .next (trapAddr 13 1 (BitVec.ofNat 64 slot) s)

/-! ### Leaving the slot (R383 to R385) -/

/-- The strand may end or leave: its accesses have completed, and no deferred error is left (R125, R210). -/
def leaving (s : State) (f : State → Outcome State Fault Refusal) : Outcome State Fault Refusal :=
  let t := curStrand s
  if outstanding t then .next s
  else match t.errored with | e :: _ => .next (takeErrored e s) | [] => f s

/-- EXIT. -/
def execExit (p : Pfx) (s : State) : Outcome State Fault Refusal :=
  issue (.exit p) s fun s =>
    leaving s fun s =>
      if undrained (cur s) s then .next (flushStreams (cur s) s)
      else .next { endStrand (cur s) s with issue := { s.issue with retired := true } }

/-- DNEXT: the next entry of the slot's list begins with the ending strand's s1 to s10 and p1 to p7. -/
def execDnext (p : Pfx) (s : State) : Outcome State Fault Refusal :=
  issue (.dnext p) s fun s =>
    let k := cur s
    if !hdrDmode k s then .next (trapNow 1 1 s)
    else
      leaving s fun s =>
        if undrained k s then .next (flushStreams k s)
        else
          let c := s.issue.core
          let b := s.issue.slot
          let ss := (List.range 10).map (fun j => readS k (BitVec.ofNat 5 (j + 1)) s)
          let ps := (List.range 7).map (fun j => readP k (j + 1) s)
          let fresh := slotEntry c b
          let s := endStrand k s
          let s := match fresh s with
            | none => s
            | some (lid, idx) =>
              match tfind s.launches lid with
              | none => s
              | some l =>
                let n := sid l.vf (indexCtx l.packet idx)
                let s := runEntry c b s
                if (strandAt n s).run ≠ Run.resident then s
                else
                  let s := (List.range 10).foldl (fun s j => writeS n (BitVec.ofNat 5 (j + 1)) (ss.getD j 0) s) s
                  (List.range 7).foldl (fun s j => writeP n (j + 1) (ps.getD j 0) s) s
          .next { s with issue := { s.issue with retired := true } }

/-- YIELD: in D-mode it retires without effect. -/
def execYield (p : Pfx) (s : State) : Outcome State Fault Refusal :=
  issue (.yield p) s fun s =>
    if hdrDmode (cur s) s then .next (retire s)
    else leaving s fun s =>
      let s := retire s
      .next (stepNow (cur s) (makeReady (cur s) (leaveSlot (cur s) s)))

/-- PARK and IDLE: out of the slot, held until a cause of R384. -/
def parkUntil (i : Instr) (idle : Bool) (s : State) : Outcome State Fault Refusal :=
  issue i s fun s =>
    let k := cur s
    if hdrDmode k s then .next (trapNow 1 1 s)
    else leaving s fun s =>
      let at_ := srcS i .a s
      let s := retire (consume i s)
      let s := modStrand k (fun t => { t with
        wakeBits := (if at_.toNat < 2 ^ 56 then 1#5 else 0#5) ||| 2#5 ||| (if idle then 16#5 else 0#5),
        goalReg := regOf i .d, goalStream := clsOf i .d == 1#2 }) s
      let s := leaveSlot k s
      let s := modStrand k (fun t => { t with hold := 5, hobj := at_.setWidth 56, readyTime := tick s }) s
      let s := setRun k .held 5 (at_.setWidth 56) s
      if at_.toNat ≤ tick s then .next (stepNow k (unpark k 0 s))
      else .next (stepNow k (postAt (2 * at_.toNat) .strandWake { argStrand k with n := 1#8 } s))

/-- PARK. -/
def execPark (p : Pfx) (rd ra : BitVec 5) (s : State) : Outcome State Fault Refusal := parkUntil (.park p rd ra) false s
/-- IDLE. -/
def execIdle (p : Pfx) (rd ra : BitVec 5) (s : State) : Outcome State Fault Refusal := parkUntil (.idle p rd ra) true s

/-- Lines of a strand in register caches of another core go to its hall's context cache. -/
def bringStrand (t core : Nat) (s : State) : State :=
  if (strandAt t s).core = core then s
  else modStrand t (fun x => { x with core := core }) ((strandLines t s).foldl (fun s key => letGo key s) s)

/-- SWAPCTX (R222, R385): a strand spawned while submissions are held is waited for (R76). -/
def execSwapctx (p : Pfx) (ra : BitVec 5) (s : State) : Outcome State Fault Refusal :=
  let i := Instr.swapctx p ra
  issue i s fun s =>
    let a := BitVec.ofNat 56 (bitsN (srcS i .a s) 0 56)
    let k := cur s
    let t := sid s.issue.vf a
    if bitsN a 0 13 ≠ 0 then .next (trapAddr 4 0 (a.setWidth 64) s)
    else
      let h := coreHall s.issue.core
      match openFill t h s with
      | .error (kd, ca) => .next (trapAddr kd ca (a.setWidth 64) s)
      | .ok s =>
        let x := strandAt t s
        if t = k ∨ hdrN t 5 56 7 s ≠ s.issue.vf.toNat ∨ !(x.run = .ready ∨ (x.run = .held ∧ x.hold = 5#4)) ∨
            hdrPriv k s < hdrPriv t s then .next (trapNow 1 1 s)
        else if notStarted t s then .next s
        else leaving s fun s =>
          let c := s.issue.core
          let b := s.issue.slot
          let s := retire (consume i s)
          let s := leaveSlot k s
          let s := modStrand k (fun y => { y with wakeBits := 0, readyTime := tick s }) s
          let s := stepNow k (setRun k .held 5 0 s)
          let s := wakeResult t (wakeCauses t 4 s) (bringStrand t c s)
          let s := enterSlot t b s
          .next (setFn s.issue.vf { fnAt s.issue.vf s with gcur := (a.setWidth 64) ||| 1#64 } s)

/-! ### Travel on request (R386) -/

/-- The strand goes to a hall: the core it travels to, unless it retires where it is. -/
def hallTarget (k h near : Nat) (s : State) : Option Nat :=
  if h = coreHall s.issue.core ∨ hdrDmode k s ∨ (partOf (coreHall s.issue.core) s).isSome ∨ hasBinding k s then none else nearestOwned s.issue.vf near s

/-- MIGR. -/
def execMigr (p : Pfx) (rd ra : BitVec 5) (s : State) : Outcome State Fault Refusal :=
  let i := Instr.migr p rd ra
  issue i s fun s =>
    let a := srcS i .a s
    let h := bitsN a 0 4
    if bitsN a 4 60 ≠ 0 then .next (trapNow 1 1 s)
    else
      match hallTarget (cur s) h (256 * h + s.issue.core % 256) s with
      | some t => .next (startTravel (cur s) t none s)
      | none => resultS i (BitVec.ofNat 64 (coreHall s.issue.core)) s

/-- A translation with read permission and no access (R386). -/
def lookOnly (a : Word) (s : State) : Except State (Option (Xlat × Nat)) :=
  let c := s.issue.core
  let vf := s.issue.vf
  match whereIs c vf a s with
  | .fault kd ca => .error (trapAddr kd ca a s)
  | .scratchpad _ => .ok none
  | .vaultLocal _ => .ok none
  | .translated va =>
    match tlbHit c vf va s with
    | none =>
      match takeIFault c (fun f => f.vf == vf && f.addr.toNat / 2 ^ 16 == va / 2 ^ 16 && !(f.kind == 13#8 && f.cause == 3#8)) s with
      | some (f, s) => .error (trapAddr f.kind.toNat f.cause.toNat a s)
      | none => .error (missWalk c vf va s)
    | some x =>
      match permFault (curPriv s) .read x.leaf with
      | some (kd, ca) => .error (trapAddr kd ca a s)
      | none => .ok (some (x, x.pa va))

/-- MIGR.addr. -/
def execMigrAddr (p : Pfx) (rd ra : BitVec 5) (s : State) : Outcome State Fault Refusal :=
  let i := Instr.migrAddr p rd ra
  issue i s fun s =>
    match lookOnly (srcS i .a s) s with
    | .error s => .next s
    | .ok none => resultS i (BitVec.ofNat 64 (coreHall s.issue.core)) s
    | .ok (some (_, pa)) =>
      match hallTarget (cur s) (homeOf pa) (bankCore (bankOf pa)) s with
      | some t => .next (startTravel (cur s) t (some pa) s)
      | none => resultS i (BitVec.ofNat 64 (coreHall s.issue.core)) s

/-- HOME. -/
def execHome (p : Pfx) (rd ra : BitVec 5) (s : State) : Outcome State Fault Refusal :=
  let i := Instr.home p rd ra
  issue i s fun s =>
    let a := srcS i .a s
    match lookOnly a s with
    | .error s => .next s
    | .ok none => resultS i (BitVec.ofNat 64 (coreHall s.issue.core + 16 * (s.issue.core % 256) + 2 ^ 15)) s
    | .ok (some (x, pa)) =>
      let moving := if pageMoving s.issue.vf (bitsN a 0 56) s then 2 ^ 13 else 0
      resultS i (BitVec.ofNat 64 (homeOf pa + 16 * (bankCore (bankOf pa) % 256) + (if isHbm pa then 2 ^ 12 else 0) + moving +
        (if bitB x.leaf 7 then 2 ^ 14 else 0))) s

/-- POLICY (R144, R387). -/
def execPolicy (p : Pfx) (rd ra : BitVec 5) (s : State) : Outcome State Fault Refusal :=
  let i := Instr.policy p rd ra
  issue i s fun s =>
    let w := srcS i .a s
    let k := cur s
    if bitsN w 11 53 ≠ 0 ∨ bitsN w 0 2 = 3 then .next (trapNow 1 1 s)
    else
      let old := hdr k 2 s
      let w := if hdrDmode k s then setBits (setBits w 0 2 1) 10 1 1 else w
      resultS i old (setHdr k 2 w s)

/-! ### Leases (R388) -/

/-- LEASE. -/
def execLease (p : Pfx) (rd ra rb : BitVec 5) (s : State) : Outcome State Fault Refusal :=
  let i := Instr.lease p rd ra rb
  issue i s fun s =>
    let k := cur s
    let l := (srcS i .a s).toNat
    let d := (srcS i .b s).toNat
    let q := coreQuadrant s.issue.core
    if 6 < l then .next (trapNow 1 1 s)
    else
      let s := if hdrN k 3 0 1 s = 1 ∧ 4 * hdrN k 3 4 4 s + hdrN k 3 8 2 s ≠ q then leaveLease k s else s
      if hdrN k 3 0 1 s = 1 then resultS i (BitVec.ofNat 64 (leaseLeft q s)) s
      else
        let (grant, s) := grantLease k q l d s
        if grant = 0 then resultS i 0#64 s
        else
          let x := islandAt q s
          let s := setIsland q { x with holders := x.holders ++ [k] } s
          let s := setHdrN k 3 0 10 (1 + 2 * islandN q 9 3 s + 16 * (q / 4) + 256 * (q % 4)) s
          resultS i (BitVec.ofNat 64 grant) s

/-- LREL. -/
def execLrel (p : Pfx) (rd : BitVec 5) (s : State) : Outcome State Fault Refusal :=
  let i := Instr.lrel p rd
  issue i s fun s =>
    let k := cur s
    if hdrN k 3 0 1 s = 0 then resultS i 0#64 s
    else
      let q := 4 * hdrN k 3 4 4 s + hdrN k 3 8 2 s
      let left := leaseLeft q s
      resultS i (BitVec.ofNat 64 left) (leaveLease k s)

/-! ### Traps and returns (R219, R389, R390) -/

/-- TRAP. -/
def execTrap (p : Pfx) (imm : BitVec 15) (s : State) : Outcome State Fault Refusal :=
  issue (.trap p imm) s fun s => .next (trapFull 23 0 0 (imm.setWidth 64) 0 s)

/-- BKPT: suppressed after a return with disposition 0. -/
def execBkpt (p : Pfx) (s : State) : Outcome State Fault Refusal :=
  issue (.bkpt p) s fun s => if (curStrand s).suppress then .next (retire s) else .next (trapNow 19 0 s)

/-- The core a returned strand goes to (R219). -/
def returnCore (t : Nat) (s : State) : Nat :=
  let x := strandAt t s
  match tfind s.launches x.launch with
  | some l => if l.places.contains x.core then x.core else placeOf l x.pos
  | none => x.core

/-- A strand of a D-mode partition has returned: the partition may be released (R218). -/
def releaseAfter (t : Nat) (s : State) : State :=
  match partOf (coreHall (strandAt t s).core) s with
  | some n => if hdrDmode t (withHeader t s) then askRelease n s else s
  | none => s

/-- ERET. -/
def execEret (p : Pfx) (ra : BitVec 5) (disp : BitVec 2) (s : State) : Outcome State Fault Refusal :=
  let i := Instr.eret p ra disp
  issue i s fun s =>
    let k := cur s
    if s.issue.vf = 0#7 ∧ lackWords (lineKey k 78) 16#8 s = true then .next (missLines k [78] s)
    else
      let f : BitVec 7 := if s.issue.vf = 0#7 then BitVec.ofNat 7 (bitsN (cachedWord k 0x13A0 s) 0 7) else s.issue.vf
      let a := BitVec.ofNat 56 (bitsN (srcS i .a s) 0 56)
      let t := sid f a
      let x := strandAt t s
      if bitsN a 0 13 ≠ 0 then .next (trapAddr 4 0 (a.setWidth 64) s)
      else if domainBusy k 5 false true s then .next (flushStreams k s)
      else if x.run ≠ .trapped ∨ x.trapTo = 2#2 ∨ (x.trapTo = 1#2 ∧ s.issue.vf ≠ 0#7) then .next (trapNow 1 1 s)
      else
        match openLine t 0 (coreHall x.core) s with
        | .error (kd, ca) => .next (trapAddr kd ca (a.setWidth 64) s)
        | .ok s =>
          match openLine t 81 (coreHall x.core) s with
          | .error (kd, ca) => .next (trapAddr kd ca (BitVec.ofNat 64 (a.toNat + 64 * 81)) s)
          | .ok s =>
            if hdrN t 5 56 7 s ≠ f.toNat ∨ hdrPriv k s < bitsN (cachedWord t 0x1458 s) 2 2 then .next (trapNow 1 1 s)
            else if disp = 3#2 then
              if undrained t s then .next (flushStreams t s)
              else .next (retire (consume i (releaseAfter t (endStrand t s))))
            else
              let s := modStrand t (fun x => { x with core := returnCore t s }) s
              let s := returnTrapped t disp.toNat (wakeResult t (wakeCauses t 0 s) s)
              .next (retire (consume i (releaseAfter t s)))

/-! ### TLBI (R154, R391) -/

/-- A core lies in the instance of a scope around core c. -/
def coreInScope (scope c x : Nat) : Bool :=
  match scope with
  | 2 => x == c
  | 3 => coreQuad x == coreQuad c
  | 4 => coreHall x == coreHall c
  | _ => true

/-- Removes the translations of a function, or those that cover one address, in a scope instance. -/
def dropXlats (scope c : Nat) (vf : BitVec 7) (page : Option Nat) (s : State) : State :=
  let covers (base ls : Nat) : Bool := match page with | none => true | some a => base / 2 ^ ls == a / 2 ^ ls
  let keepT (x : Xlat) : Bool := !(x.vf == vf && covers x.base.toNat x.lsize)
  let keepI (l : ILine) : Bool := l.vf != vf
  let keepF (f : IFault) : Bool := f.vf != vf
  let keepW (w : WEntry) : Bool :=
    !(w.vf == vf && (match page with | none => true | some a => w.path == a / 2 ^ lvShift w.level))
  let s := { s with cores := s.cores.map (fun e =>
    if coreInScope scope c e.1 then
      (e.1, { e.2 with tlb := e.2.tlb.filter keepT, icache := e.2.icache.filter keepI, ifaults := e.2.ifaults.filter keepF })
    else e) }
  if scope = 2 ∨ scope = 3 then s
  else { s with halls := s.halls.map (fun e =>
    if scope = 4 && e.1 != coreHall c then e
    else (e.1, { e.2 with
      wcache := e.2.wcache.filter keepW
      bases := e.2.bases.filter (fun b => if b.1 = 128 then scope == 4 else b.1 != vf.toNat || page.isSome) })) }

/-- Accesses of the function in the instance still use a translation the TLBI removes. -/
def xlatsInUse (scope c : Nat) (vf : BitVec 7) (s : State) : Bool :=
  s.reqs.any (fun e => e.2.vf == vf && coreInScope scope c e.2.core && !e.2.arrived)

/-- Requests that wait at a controller under such a translation are withdrawn; their instructions reissue (R320; log 10). -/
def withdrawWaiting (scope c : Nat) (vf : BitVec 7) (s : State) : State :=
  s.reqs.foldl (fun s e =>
    if e.2.vf == vf && coreInScope scope c e.2.core && e.2.waiting then withdrawReq e.1 s else s) s

/-- TLBI. -/
def execTlbi (p : Pfx) (scope : BitVec 3) (ra rb : BitVec 5) (page : BitVec 1) (s : State) : Outcome State Fault Refusal :=
  let i := Instr.tlbi p scope ra rb page
  issue i s fun s =>
      let vf : BitVec 7 := if rb = 0#5 then s.issue.vf else BitVec.ofNat 7 (bitsN (srcS i .b s) 0 7)
      let at_ := if page = 1#1 then some (bitsN (srcS i .a s) 0 56) else none
      let sc := if scope = 0#3 then 5 else scope.toNat
      let c := s.issue.core
      let s := withdrawWaiting sc c vf (dropXlats sc c vf at_ s)
      if xlatsInUse sc c vf s then .next s
      else .next (retire (consume i (post 1 .keptWritebackRetry (argVf vf) s)))

end Sys2Proof.Machine
end

