-- ==== Sys2Proof/Machine/FlitEvents.lean ====
section
/-! DEFINITION. FlitEvents: the events of requests, flits, streams, messages, the transit channel, travel, context lines,
walks, the instruction cache and the engines (R26 to R42, R124 to R141, R152, R162, R193 to R206, R318, R319, R335). -/

namespace Sys2Proof.Machine

open Host

/-! ### Injection of messages and elements (R30, R197, R335) -/

/-- A circuit of the function from a core to a stream register of another. -/
def streamCircuit (vf : BitVec 7) (a b : Nat) (s : State) : Option Nat :=
  (s.circs.find? (fun e =>
    e.2.vf == vf && e.2.pod.isNone && e.2.paths.any (fun p =>
      p.stage == .live && p.ends.dstKind == 0 && endsSrc p.ends == a && endsDst p.ends == b))).map Prod.fst

/-- A message inside a hall leaves by the standing schedule, or by a circuit where there is none (R335). -/
def injectMessage (id : Nat) (s : State) : State :=
  match tfind s.tmsgs id with
  | none => s
  | some m =>
    let h := coreHall m.src
    let w := (hallAt h s).w
    let n := transSlot m.src m.dst
    let again (t : Nat) : State := postAt t .flitInject { argId id with n := 2#8 } s
    if n = 0 then post 0 .messageArrive (argId id) s
    else if injectionHeld h s then again (hallAt h s).holdUntil
    else if w < 256 then
      match streamCircuit m.vf m.src m.dst s with
      | none => again (nextBoundary s)
      | some c =>
        match circuitTurn m.vf m.src c s with
        | .later t => again t
        | .go v _ p => launchCircuit c v p (.message id) s
    else if s.wheel % w ≠ n then again (nextMod (s.wheel + 1) w n)
    else if standingHeld m.src s then again (s.wheel + w)
    else launchFlit (standingFlit m.vf m.src m.dst n (.message id) s) s

/-- Strands held on a stream register's binding look again (R102). -/
def wakeStream (k : Nat) (s : State) : State :=
  let t := strandAt k s
  if t.hold = 1#4 then wakeStrand k s else s

/-- Sets the status of a binding: it stops (R198). -/
def stopStream (k q st : Nat) (s : State) : State :=
  let x := streamAt k q s
  wakeStream k (setStream k q { x with desc := setBits x.desc 469 3 st } s)

/-- One element flit of an outbound circuit binding: a whole flit, or what is left when the binding ends. -/
def injectElement (k q : Nat) (flush : Bool) (s : State) : State :=
  let x := streamAt k q s
  let again (t : Nat) : State := postAt t .flitInject { argStrand k with q := BitVec.ofNat 6 q, flag := flush } s
  if x.kind ≠ 2 ∨ x.status ≠ 0 ∨ x.buf.isEmpty ∨ (x.buf.length < 32 ∧ !flush) then s
  else if (fnAt (sidVf k) s).stopped then again (nextBoundary s)
  else
    match circuitTurn (sidVf k) x.core (sdCirc x.desc) s with
    | .later t => again t
    | .go v _ p =>
      let bs := x.buf.take 32
      let s := setStream k q { x with buf := x.buf.drop 32 } s
      let s := launchCircuit (sdCirc x.desc) v p (.element (BitVec.ofNat 256 (ofBytes bs)) bs.length) s
      let s := wakeStream k s
      if x.buf.length ≤ 32 then s
      else post 1 .flitInject { argStrand k with q := BitVec.ofNat 6 q, flag := flush } s

/-- A peer's flit, number `v` of those received, leaves by the inward half of its pod circuit, after those before it (R57,
log 40). -/
def injectPod (s : State) : State :=
  let c := s.ev.id
  match circAt c s with
  | none => s
  | some v =>
    let again (t : Nat) : State := postAt t .flitInject s.ev s
    match circuitTurn v.vf (endsSrc v.ends) c s with
    | .later t => again t
    | .go w _ p =>
      if s.agenda.any (fun d => d.ev == .flitInject && d.args.n == 4#8 && d.args.id == c && d.args.v.toNat < s.ev.v.toNat) then
        again (match nextInjection v (endsSrc v.ends) (s.wheel + 1) s with | some (t, _) => lookAgain t s | none => nextBoundary s)
      else launchCircuit c w p (.element (s.ev.wide.setWidth 256) 32) s

/-- FLIT_INJECT (R30): a request, a message, the continuation of a CAS.q, a peer's flit, or an element of a stream. -/
def execFlitInject (s : State) : Outcome State Fault Refusal :=
  .next (if s.ev.n = 1#8 then injectReq s.ev.id s
    else if s.ev.n = 2#8 then injectMessage s.ev.id s
    else if s.ev.n = 3#8 then injectSecond s.ev.id s
    else if s.ev.n = 4#8 then injectPod s
    else injectElement (sid s.ev.vf s.ev.ctx) s.ev.q.toNat s.ev.flag s)

/-- FLIT_HOP (R27). -/
def execFlitHop (s : State) : Outcome State Fault Refusal := .next (moveFlit s.ev.id s)
/-- FLOOR_TRANSFER (R36). -/
def execFloorTransfer (s : State) : Outcome State Fault Refusal := .next (landFlit s.ev.id s)

/-! ### Requests (R32, R33, R41, R206, R318 to R320) -/

/-- MEMORY_REQUEST_ARRIVE: an operation R326 does not know gets a request-error reply. -/
def execMemoryRequestArrive (s : State) : Outcome State Fault Refusal := .next (arriveReq s.ev.id s.ev.n s)
/-- MEMORY_SERVICE (R41). -/
def execMemoryService (s : State) : Outcome State Fault Refusal := .next (serveReq s.ev.id s)
/-- REFRESH_SERVICE (R41, R43): DRAM rows are refreshed; no contents change. -/
def execRefreshService (s : State) : Outcome State Fault Refusal := .next s
/-- MEMORY_ACCESS_DONE (R41). -/
def execMemoryAccessDone (s : State) : Outcome State Fault Refusal := .next (doneReq s.ev.id s)
/-- MEMORY_REPLY_INJECT (R33). -/
def execMemoryReplyInject (s : State) : Outcome State Fault Refusal := .next (injectReply s.ev.id s)
/-- LOAD_REPLY (R194, R206, R210). -/
def execLoadReply (s : State) : Outcome State Fault Refusal := .next (arriveReply s.ev.id s)
/-- STORE_ACK (R206): the acknowledgement of a store. -/
def execStoreAck (s : State) : Outcome State Fault Refusal :=
  let r := reqAt s.ev.id s
  .next (arriveReply s.ev.id (setReq s.ev.id { r with waiting := false } s))
/-- ATOMIC_REPLY (R319). -/
def execAtomicReply (s : State) : Outcome State Fault Refusal :=
  let r := reqAt s.ev.id s
  .next (if r.status = 255#8 then s else arriveReply s.ev.id s)
/-- FE_RESEND (R318). -/
def execFeResend (s : State) : Outcome State Fault Refusal := .next (resendReq s.ev.id s)
/-- The withdrawal of a waiting request (R320). -/
def execWithdrawal (s : State) : Outcome State Fault Refusal := .next (withdrawReq s.ev.id s)

/-! ### Page migration (R163, R165) and accesses of units -/

/-- Starts a move of a page to hall g, when every condition of R163 and R165 step 1 holds. -/
def startMove (vf : BitVec 7) (va pa g : Nat) (s : State) : State :=
  let h := homeOf pa
  let w := walk h vf va s
  match w.res with
  | .ok x =>
    let ls := x.lsize
    let z := if ls = 21 then 1 else 0
    let j := 2 * g + z
    let ring := 0x3100 + 16 * j
    let size := regN 0 ring 0 5 s
    let hold := regN 0 0x3008 12 16 s * 100000
    let recent : Bool := match tfind s.lastMove (sid vf x.base) with | some t => decide (tick s < t + hold) | none => false
    let barred : Bool := regN 0 0x3008 63 1 s == 0 || !bitB x.leaf 7 || !(ls == 16 || ls == 21) ||
      (bitB x.leaf 12 && bitsN x.leaf 8 4 != g) || (partOf h s).isSome || (partOf g s).isSome || pageMoving vf va s ||
      recent || decide (size < 4) || decide (16 < size)
    if barred = true then s
    else
      let n := (regN 0 (ring + 8) 0 32 s + 2 ^ 32 - regN 0 (ring + 8) 32 32 s) % 2 ^ 32
      let rec pick : Nat → State → Option (Nat × Nat) × State
        | 0, s => (none, s)
        | m + 1, s =>
          let head := regN 0 (ring + 8) 32 32 s
          let a := regN 0 ring 12 40 s * 2 ^ 12 + 8 * (head % 2 ^ size)
          let e : Word := BitVec.ofNat 64 (memVal (keyOf 0 s) a 8 s)
          let f := bitsN e 16 36 * 2 ^ 16
          let s := setRegN 0 (ring + 8) 32 32 ((head + 1) % 2 ^ 32) s
          if inMemory f ∧ homeOf f = g ∧ f % 2 ^ ls = 0 ∧ ownsAll 0 s (2 ^ (ls - 16)) f then (some (a, f), s)
          else pick m (memWrite (keyOf 0 s) a (toBytes 8 (e ||| 2#64).toNat) s)
      match pick n s with
      | (none, s) => s
      | (some (a, f), s) =>
        let (id, s) := newId s
        let mv : Move := ⟨vf, x.base, ls, h, g, (w.reads.getLast?).getD 0, x.leaf, bitsN x.leaf 16 36 * 2 ^ 16, f, a⟩
        post (2 ^ ls / 8) .pageMoveFlip (argId id) { s with moves := tput s.moves id mv }
  | _ => s

/-- The count of hall g for a granule homed in hall h goes up by one; at the threshold the page moves (R163). -/
def countArrival (vf : BitVec 7) (va pa g : Nat) (s : State) : State :=
  let h := homeOf pa
  let migr : Bool := match (walk h vf va s).res with | .ok x => bitB x.leaf 7 | _ => false
  if !migr ∨ g = h then s
  else
    let gr := pa / 2 ^ 16
    let hl := hallAt h s
    let old := ((hl.migr.find? (fun e => e.1 == gr)).map Prod.snd).getD (List.replicate 16 0)
    let n := min 4095 ((old[g]?).getD 0 + 1)
    let rest := hl.migr.filter (fun e => e.1 != gr)
    let rest := if 4096 ≤ rest.length then rest.drop 1 else rest
    let s := setHall h { hl with migr := rest ++ [(gr, old.set g n)] } s
    if max 1 (regN 0 0x3008 0 12 s) ≤ n then startMove vf va pa g s else s

/-- An access of a unit of core c begun at `lo`: the slot it ends at.  It takes a service position of its bank, by remote access in
another hall, which counts it (R41, R156, R163, R198). -/
def unitAccess (c : Nat) (vf : BitVec 7) (priv : Nat) (u : Use) (a : Word) (lo : Nat) (s : State) : Nat × State :=
  match placeAt c vf priv u false a 1 s with
  | .at_ (.mem _ pa) =>
    let s := if homeOf pa = coreHall c then s else countArrival vf (bitsN a 0 56) pa (coreHall c) s
    deviceAccess (coreHall c) pa lo s
  | _ => (lo, s)
/-- Accesses of n bytes from an address on, at 32 bytes each: the slot the last ends at. -/
def unitAccesses (c : Nat) (vf : BitVec 7) (priv : Nat) (u : Use) (a : Word) (n lo : Nat) (s : State) : Nat × State :=
  (List.range ((n + 31) / 32)).foldl (fun (r : Nat × State) i =>
    let (t, s) := unitAccess c vf priv u (addrOff a (32 * i : Nat)) lo r.2
    (max r.1 t, s)) (lo, s)

/-! ### Streams (R186, R196 to R198) -/

/-- Status of a binding for an engine's code (R196, R183). -/
def streamStatus (code : Nat) : Nat := match code with | 1 => 5 | 2 => 4 | _ => 3

/-- Elements of a stream from n on, at most m, in one granule: one access takes them. -/
def granuleRun (d : BitVec 512) (n m : Nat) : Nat :=
  let at_ (j : Nat) : Nat := bitsN (sdAddr d (n + j)) 5 51
  min m (1 + (((List.range m).drop 1).takeWhile (fun j => at_ j == at_ 0)).length)
/-- The access of c elements from n on is on its way: `ev` with n = 1 ends it. -/
def streamAccess (ev : Instr) (u : Use) (k q n c : Nat) (s : State) : State :=
  let x := streamAt k q s
  let a := sdAddr x.desc n
  let (t, s) := unitAccesses x.core (sidVf k) x.priv.toNat u a (2 ^ x.esz) (s.wheel + 1) s
  postAt t ev { argStrand k with q := BitVec.ofNat 6 q, n := 1#8, id := c, v := BitVec.ofNat 64 x.order } s
/-- An access of the binding is on its way. -/
def streamOut (ev : Instr) (k q : Nat) (s : State) : Bool :=
  s.agenda.any (fun d => d.ev == ev && d.args.n == 1#8 && sid d.args.vf d.args.ctx == k && d.args.q.toNat == q &&
    d.args.v == BitVec.ofNat 64 (streamAt k q s).order)

/-- The index of the element a unit fetches next. -/
def fetchIndex (x : Stream) : Nat := sdIndex x.desc + x.count + x.buf.length / 2 ^ x.esz
/-- Fetches c elements (R198). -/
def fetchElements (k q : Nat) : Nat → State → State
  | 0, s => s
  | c + 1, s =>
    let x := streamAt k q s
    let w := 2 ^ x.esz
    match engineRead x.core (sidVf k) x.priv.toNat true (sdAddr x.desc (fetchIndex x)) w s with
    | .error e => stopStream k q (streamStatus e) s
    | .ok v => fetchElements k q c (setStream k q { x with buf := x.buf ++ toBytes w v } s)
/-- Looks for elements to fetch ahead: those of the next granule that fit (R198). -/
def planFetch (k q : Nat) (s : State) : State :=
  let x := streamAt k q s
  if x.kind ≠ 1 ∨ x.status ≠ 0 ∨ streamOut .streamMemoryFetch k q s = true then s
  else if sdTotal x.desc ≤ fetchIndex x then stopStream k q 1 s
  else
    let m := min (x.room / 2 ^ x.esz) (sdTotal x.desc - fetchIndex x)
    if m = 0 then s else streamAccess .streamMemoryFetch .read k q (fetchIndex x) (granuleRun x.desc (fetchIndex x) m) s

/-- STREAM_MEMORY_FETCH: a look for elements, or, with `n` = 1, the end of the access of `id` elements. -/
def execStreamMemoryFetch (s : State) : Outcome State Fault Refusal :=
  let k := sid s.ev.vf s.ev.ctx
  let q := s.ev.q.toNat
  let x := streamAt k q s
  if s.ev.n = 1#8 then
    .next (if x.kind ≠ 1 ∨ x.status ≠ 0 ∨ BitVec.ofNat 64 x.order ≠ s.ev.v then s
      else planFetch k q (wakeStream k (fetchElements k q s.ev.id s)))
  else .next (planFetch k q s)

/-- The index of the element a unit writes next. -/
def writeIndex (x : Stream) : Nat := sdIndex x.desc + (x.count - x.buf.length / 2 ^ x.esz)
/-- Writes c buffered elements in order (R186); the stream ends with its last element (R196). -/
def writeElements (k q : Nat) : Nat → State → State
  | 0, s =>
    let x := streamAt k q s
    if sdTotal x.desc ≤ writeIndex x then stopStream k q 1 s else s
  | c + 1, s =>
    let x := streamAt k q s
    let w := 2 ^ x.esz
    match engineWrite x.core (sidVf k) x.priv.toNat true (sdAddr x.desc (writeIndex x)) w (ofBytes (x.buf.take w)) s with
    | .error e => stopStream k q (streamStatus e) s
    | .ok s => writeElements k q c (setStream k q { x with buf := x.buf.drop w } s)

/-- The element a stream would write next lies in a page that is moving (R165). -/
def streamMoving (k q : Nat) (s : State) : Bool :=
  let x := streamAt k q s
  pageMoving (sidVf k) (bitsN (sdAddr x.desc (writeIndex x)) 0 56) s

/-- Looks for elements to write: those of the next granule; a page that is moving is waited for (R165). -/
def planWrite (k q : Nat) (s : State) : State :=
  let x := streamAt k q s
  if x.kind ≠ 1 ∨ x.status ≠ 0 ∨ streamOut .streamMemoryWrite k q s = true then s
  else if sdTotal x.desc ≤ writeIndex x then stopStream k q 1 s
  else
    let m := min (x.buf.length / 2 ^ x.esz) (sdTotal x.desc - writeIndex x)
    if m = 0 then s
    else if streamMoving k q s then post 1024 .streamMemoryWrite { argStrand k with q := BitVec.ofNat 6 q } s
    else streamAccess .streamMemoryWrite .write k q (writeIndex x) (granuleRun x.desc (writeIndex x) m) s

/-- STREAM_MEMORY_WRITE: a look for elements, or, with `n` = 1, the end of the access of `id` elements. -/
def execStreamMemoryWrite (s : State) : Outcome State Fault Refusal :=
  let k := sid s.ev.vf s.ev.ctx
  let q := s.ev.q.toNat
  let x := streamAt k q s
  if s.ev.n = 1#8 then
    .next (if x.kind ≠ 1 ∨ x.status ≠ 0 ∨ BitVec.ofNat 64 x.order ≠ s.ev.v then s
      else if streamMoving k q s then post 1024 .streamMemoryWrite s.ev s
      else planWrite k q (wakeStream k (writeElements k q s.ev.id s)))
  else .next (planWrite k q s)

/-- STREAM_FLIT_ARRIVE (R198). -/
def execStreamFlitArrive (s : State) : Outcome State Fault Refusal :=
  let c := s.ev.core.toNat
  match s.streams.find? (fun e => decide (e.1 % 8 < 4) && e.2.core == c && e.2.kind == 2 && decide (e.2.status < 6) && sdCirc e.2.desc == s.ev.id &&
      sidVf (e.1 / 8) == s.ev.vf) with
  | none => .next (countDrop c s)
  | some (key, x) =>
    let k := key / 8
    let q := key % 8
    let n := s.ev.n.toNat
    .next (if x.status ≠ 0 then s
      else if x.room < n then stopStream k q 2 s
      else wakeStream k (setStream k q { x with buf := x.buf ++ toBytes n (s.ev.wide.toNat) } s))

/-! ### Messages (R335) -/

/-- MESSAGE_ARRIVE: the buffer of 256 accepts or refuses; a message to a strand that has exited is discarded. -/
def execMessageArrive (s : State) : Outcome State Fault Refusal :=
  match tfind s.tmsgs s.ev.id with
  | none => .next s
  | some m =>
    let lid := ((m.data[2]?).getD 0).toNat
    let src := ((m.data[1]?).getD 0).toNat
    let done (s : State) : State :=
      modStrand (sid m.vf m.ctx) (fun t =>
        if t.wait = .message s.ev.id then { t with wait := .answered 0 0 0 } else t)
        { s with tmsgs := tdel s.tmsgs s.ev.id }
    match tfind s.launches lid with
    | none => .next (done s)
    | some l =>
      let t := sid m.vf (indexCtx l.packet m.id)
      let x := strandAt t s
      let c := placeOf l (pkPos l.packet m.id)
      if x.launch = lid ∧ x.run = .exited then .next (done s)
      else if 256 ≤ (coreAt c s).msgs.length then .next (post (cyclesToSlots c 64 s) .msndResend (argId s.ev.id) s)
      else
        let k := coreAt c s
        let s := setCore c { k with msgs := k.msgs ++ [⟨lid, src, m.id, m.line.toNat, (m.data[0]?).getD 0⟩] } s
        let s := if x.hold = 2#4 ∧ x.hobj = sidCtx t then wakeStrand t s else s
        .next (done s)

/-- MSND_RESEND. -/
def execMsndResend (s : State) : Outcome State Fault Refusal :=
  match tfind s.tmsgs s.ev.id with
  | none => .next s
  | some m =>
    if m.flits = 0 then .next (post 1 .flitInject { argId s.ev.id with n := 2#8 } s)
    else
      let s := { s with tmsgs := tput s.tmsgs s.ev.id { m with sent := 0 } }
      .next (if s.agenda.any (fun d => d.ev == .transitFlitSend && d.args.hall.toNat == m.src) then s
        else post 1 .transitFlitSend (argHall m.src) s)

/-! ### The transit channel (R137, R138, R140, R141) -/

/-- TRANSIT_FLIT_SEND. -/
def execTransitFlitSend (s : State) : Outcome State Fault Refusal := .next (sendTransit s.ev.hall.toNat s)

/-- A received message is done with. -/
def dropT (id : Nat) (s : State) : State := { s with tmsgs := tdel s.tmsgs id }

/-- REMOTE_ACCESS_REQUEST: the access is performed at its home. -/
def execRemoteAccessRequest (s : State) : Outcome State Fault Refusal :=
  match tfind s.tmsgs s.ev.id with
  | none => .next s
  | some m =>
    let s := dropT s.ev.id s
    match tfind s.reqs m.id with
    | none => .next s
    | some r =>
      let s := countArrival r.vf (bitsN r.va 0 56) r.pa.toNat (coreHall r.core) s
      .next (post 0 .memoryRequestArrive (argId m.id) s)

/-- REMOTE_ACCESS_REPLY. -/
def execRemoteAccessReply (s : State) : Outcome State Fault Refusal :=
  match tfind s.tmsgs s.ev.id with
  | none => .next s
  | some m =>
    let s := dropT s.ev.id s
    match tfind s.reqs m.id with
    | none => .next s
    | some r =>
      .next (deliverFlit ⟨r.vf, coreHall r.core, r.core, r.core, none, 0, false, (4, 0), [], none, r.core, .reply m.id⟩ s)

/-- CONTROL_DELTA: added into line 80 at the holder. -/
def execControlDelta (s : State) : Outcome State Fault Refusal :=
  match tfind s.tmsgs s.ev.id with
  | none => .next s
  | some m =>
    let k := sid m.vf m.ctx
    let d (i : Nat) : Word := (m.data[i]?).getD 0
    let add (off i : Nat) (s : State) : State := putWordAnywhere k off m.dst (cachedWord k off s + d i) s
    let s := add 0x1420 2 (add 0x1418 1 (add 0x1410 0 (dropT s.ev.id s)))
    .next (putWordAnywhere k 0x1408 m.dst (d 4) (putWordAnywhere k 0x1428 m.dst (d 3) s))

/-- TRANSIT_LINE_WRITEBACK (R124): the line arrives at its home and takes a service position no circuit owns; with `n` = 1 it is
written, and a line from another hall acknowledged. -/
def execTransitLineWriteback (s : State) : Outcome State Fault Refusal :=
  match tfind s.tmsgs s.ev.id with
  | none => .next s
  | some m =>
    if s.ev.n = 0#8 then
      let (t, s) := deviceAccess m.dst m.id s.wheel s
      .next (postAt t .transitLineWriteback { s.ev with n := 1#8 } s)
    else
      let s := putLineMem (keyOf m.vf s) m.id m.mask (ofWords m.data) (dropT s.ev.id s)
      .next (if m.src = m.dst then sealRecord (sid m.vf m.ctx) s
        else queueT { tmsgZero with kind := .writebackAck, src := m.dst, dst := m.src, vf := m.vf, ctx := m.ctx, line := m.line } s)

/-- WRITEBACK_ACK: the write-back counts as performed (R124). -/
def execWritebackAck (s : State) : Outcome State Fault Refusal :=
  match tfind s.tmsgs s.ev.id with
  | none => .next s
  | some m => .next (sealRecord (sid m.vf m.ctx) (dropT s.ev.id s))

/-- The place of words on their way between halls: a copy on the transit channel. -/
def onTransit : Nat := 16
/-- Hall h's copy of a line, or the newest copy outside a register cache, goes on the transit channel. -/
def sendCopy (key h : Nat) (s : State) : State :=
  let ln := lineAt key s
  match (hcAt h ln).orElse (fun _ => ln.hc.head?) with
  | some c => setLine key (setHc { c with place := onTransit } { ln with hc := ln.hc.filter (fun x => x.place != c.place) }) s
  | none => s
/-- Words off the transit channel, or those of a message that carries no copy, join hall h's context cache: older than the words
other copies hold. -/
def landCopy (key h : Nat) (m : BitVec 8) (dirty : Bool) (d : BitVec 512) (s : State) : State :=
  let ln := lineAt key s
  let c := (hcAt onTransit ln).getD { copyNone h s with mask := m, dirty := dirty, data := d }
  let rest := ln.hc.filter (fun x => x.place != onTransit)
  let new := c.mask &&& ~~~(haveMask { ln with hc := rest })
  let b := (hcAt h { ln with hc := rest }).getD (copyNone h s)
  let b : Copy := { b with
    mask := b.mask ||| new, dirty := b.dirty || c.dirty, data := mergeData b.data b.mask (mergeData c.data new b.data) }
  setLine key { ln with hc := b :: rest.filter (fun x => x.place != h) } s

/-- LINE_REQUEST (R141): the holder serves the line 48 slots later from its context cache or write-back buffer, as zeros, or from
the record in memory; `n` = 1 marks the service.  The holder removes the line once sent. -/
def execLineRequest (s : State) : Outcome State Fault Refusal :=
  match tfind s.tmsgs s.ev.id with
  | none => .next s
  | some m =>
    let k := sid m.vf m.ctx
    let l := m.id
    let h := m.dst
    let key := lineKey k l
    let cached := !(lineAt key s).hc.isEmpty
    if s.ev.n = 0#8 then
      let buffered := s.tmsgs.any (fun e => e.2.kind == .lineWriteback && e.2.src == h && e.2.vf == m.vf &&
        e.2.line.toNat == m.ctx.toNat + 64 * l)
      if cached ∨ m.present = false ∨ buffered then .next (post 48 .lineRequest { s.ev with n := 1#8 } s)
      else
        let (t, s) := match recXlate k .read (64 * l) h s with
          | .ok x => deviceAccess h (x.pa ((sidCtx k).toNat + 64 * l)) (s.wheel + 48) s
          | _ => (s.wheel + 48, s)
        .next (postAt t .lineRequest { s.ev with n := 1#8 } s)
    else
      let s := dropT s.ev.id s
      let reply (mask : BitVec 8) (dirty : Bool) (ws : List Word) (s : State) : State :=
        queueT { tmsgZero with
          kind := .lineReply, src := h, dst := m.src, vf := m.vf, ctx := m.ctx, id := l, flits := 2, mask := mask, dirty := dirty,
          data := ws } s
      let ln := lineAt key s
      match (hcAt h ln).orElse (fun _ => ln.hc.head?) with
      | some c => .next (reply c.mask c.dirty (lineWords c.data) (sendCopy key h s))
      | none =>
        if !m.present then .next (reply 255#8 false (lineWords (zeroLine l)) s)
        else
          match readRecLine k l h s with
          | .ok d => .next (reply 255#8 false (lineWords d) s)
          | .error (kd, ca) => .next (reply 0 false [BitVec.ofNat 64 kd, BitVec.ofNat 64 ca] s)

/-- LINE_REPLY (R141): the line is merged at the requester. -/
def execLineReply (s : State) : Outcome State Fault Refusal :=
  match tfind s.tmsgs s.ev.id with
  | none => .next s
  | some m =>
    let k := sid m.vf m.ctx
    let s := dropT s.ev.id s
    if m.mask = 0#8 then .next (fetchFails k m.id ((m.data[0]?).getD 0).toNat ((m.data[1]?).getD 0).toNat s)
    else
      let s := trimHall m.dst (landCopy (lineKey k m.id) m.dst m.mask m.dirty (ofWords m.data) s)
      .next (if (strandAt k s).fetching.contains m.id then arriveLine k m.id s else s)

/-! ### Travel (R136 to R142) -/

/-- Carries of a function queued from a hall to another. -/
def carriesQueued (vf : BitVec 7) (a b : Nat) (s : State) : Nat :=
  s.tmsgs.countP (fun e => e.2.kind == .carry && e.2.vf == vf && e.2.src == a && e.2.dst == b && decide (e.2.sent < e.2.flits))

/-- The 24 words of a carry (R139). -/
def carryWords (k : Nat) (s : State) : List Word :=
  (List.range 8).map (fun i => cachedWord k (8 * i) s) ++ (List.range 8).map (fun i => cachedWord k (64 + 8 * i) s) ++
  [cachedWord k 128 s, cachedWord k 136 s] ++ (List.range 5).map (fun i => cachedWord k (0x140 + 8 * i) s) ++
  [(sidCtx k).setWidth 64]

/-- Lines of a strand outside the carry set that a cache holds. -/
def otherLines (k : Nat) (s : State) : List Nat :=
  (s.lines.filter (fun e => keySid e.1 == k && !([0, 1, 5].contains (keyLine e.1)) && !lineEmpty e.2)).map Prod.fst
/-- A carry line cannot be read: the strand does not leave, and the fault is taken at its next turn (R131). -/
def cancelTravel (k : Nat) (l : Nat) (e : Nat × Nat) (s : State) : State :=
  fetchFails k l e.1 e.2 (setRun k .resident 0 0 (modStrand k (fun t => { t with goal := none }) s))
/-- Words of a line go on the transit channel. -/
def carryLine (k l : Nat) (m : BitVec 8) (s : State) : State :=
  let d := ofWords ((List.range 8).map (fun i => cachedWord k (64 * l + 8 * i) s))
  let ln := lineAt (lineKey k l) s
  let rc := ln.rc.bind (fun c => if c.mask &&& ~~~m = 0#8 then none else some { c with mask := c.mask &&& ~~~m })
  setLine (lineKey k l) (setHc { copyNone onTransit s with mask := m, dirty := true, data := d } { ln with rc := rc }) s

/-- Steps 5 and 6 of R140: the other lines, the slot, and the carry. -/
def sendCarry (k : Nat) (hold : Bool) (s : State) : State :=
  let t := strandAt k s
  let h := coreHall t.core
  let target := t.goal.getD t.core
  let s := flushDelta k s
  let s := setHdrN k 1 31 1 0 s
  let s := (otherLines k s).foldl (fun s key => moveLine key s) s
  let s := if (otherLines k s).any (fun key => (hcAt h (lineAt key s)).isSome) || hold then setHdrN k 1 32 5 (h + 16) s else s
  let ws := carryWords k s
  let s := [0, 1, 5].foldl (fun s l => carryLine k l 255#8 s) (carryLine k 2 3#8 s)
  let freed := t.slot.isSome
  let s := modStrand k (fun t => { t with slot := none, fetching := [], leaving := false }) s
  let s := if freed then post 1 .slotSelect (argCore t.core) s else s
  queueT { tmsgZero with
    kind := .carry, src := h, dst := coreHall target, vf := sidVf k, ctx := sidCtx k, flits := 6,
    id := s.ev.v.toNat, line := s.ev.w.setWidth 56, present := s.ev.flag, data := ws } s

/-- Steps 3 to 6 of R140: the lease; with an earlier holder the other lines are written back first; the carry lines are at hand,
and the queue has room, else the strand stays parked with hold 8 (R137). -/
def depart (k : Nat) (s : State) : State :=
  let t := strandAt k s
  let h := coreHall t.core
  let s := leaveLease k (withHeader k s)
  let earlier := hdrN k 1 36 1 s = 1 ∧ hdrN k 1 32 4 s ≠ h
  if earlier ∧ (!(otherLines k s).isEmpty ∨ writeBacksOut k s) then
    post 64 .travelDepart s.ev (if writeBacksOut k s then s else (writeBackKeys (otherLines k s) s).2)
  else if 64 ≤ carriesQueued (sidVf k) h (coreHall (t.goal.getD t.core)) s then
    let s := leaveSlot k s
    post 64 .travelDepart s.ev (setRun k .held 8 0 s)
  else
    match openLine k 1 h s with
    | .error e => cancelTravel k 1 e s
    | .ok s =>
      match openLine k 2 h s with
      | .error e => cancelTravel k 2 e s
      | .ok s =>
        match openLine k 5 h s with
        | .error e => cancelTravel k 5 e s
        | .ok s => sendCarry k (decide earlier) (setRun k .transit 0 0 s)

/-- TRAVEL_DEPART (R140 steps 2 to 6): a deferred load error is taken before the strand leaves. -/
def execTravelDepart (s : State) : Outcome State Fault Refusal :=
  let k := sid s.ev.vf s.ev.ctx
  let t := strandAt k s
  if outstanding t ∨ s.power ≠ .on then .next (post (cyclesToSlots t.core 8 s) .travelDepart s.ev s)
  else
    match t.errored with
    | e :: _ =>
      let s := modStrand k (fun t => { t with goal := none, errored := t.errored.filter (fun x => x != e) }) s
      .next (stopWith k (deferredTrap k e s) s)
    | [] => .next (depart k s)

/-- A carry line is installed at the target core: its words off the transit channel, or the message's. -/
def landCarry (k core l : Nat) (m : BitVec 8) (d : List Word) (s : State) : State :=
  let key := lineKey k l
  let s := (makeRoom core s).getD s
  let ln := lineAt key s
  let c := (hcAt onTransit ln).getD { copyNone core s with mask := m, data := ofWords d }
  setLine key ⟨some { c with place := core, dirty := true, stamp := s.wheel }, ln.hc.filter (fun x => x.place != onTransit)⟩ s

/-- CARRY_ARRIVE (R139, R140 steps 7 and 8): at a halted hall the carry waits at its receiver (R142).  Arriving orders the strand's
code after its earlier stores (R175). -/
def execCarryArrive (s : State) : Outcome State Fault Refusal :=
  match tfind s.tmsgs s.ev.id with
  | none => .next s
  | some m =>
    let k := sid m.vf m.ctx
    let t := strandAt k s
    let core := t.goal.getD (256 * m.dst)
    let w (i : Nat) : Word := (m.data[i]?).getD 0
    if strandHalted k core s then .next (postAt (nextBoundary s) .carryArrive s.ev s)
    else
      let s := dropT s.ev.id s
      let s := modStrand k (fun t => { t with core := core, goal := none }) s
      let s := landCarry k core 0 255#8 ((List.range 8).map w) s
      let s := landCarry k core 1 255#8 ((List.range 8).map (fun i => w (8 + i))) s
      let s := landCarry k core 2 3#8 [w 16, w 17] s
      let s := landCarry k core 5 255#8 ((List.range 5).map (fun i => w (18 + i))) s
      let s := dropCode core m.vf (count80 k 0 0 1 s)
      let s := if m.present then
          let s := setFn m.vf { fnAt m.vf s with moved := (fnAt m.vf s).moved + 1 } s
          countArrival m.vf m.line.toNat m.id m.src s
        else s
      .next (makeReady k s)

/-! ### Context lines (R126, R133) -/

/-- While the cores stand still for a save or are cut, lines wait to be installed (R84).  LINE_FETCH_DONE. -/
def execLineFetchDone (s : State) : Outcome State Fault Refusal :=
  let k := sid s.ev.vf s.ev.ctx
  let l := s.ev.n.toNat
  if s.power ≠ .on then .next (post 1024 .lineFetchDone s.ev s)
  else .next (if (strandAt k s).fetching.contains l then arriveLine k l s else s)

/-- A kept copy of a line. -/
def keptLine (ln : Line) : Bool := (copies ln).any Copy.kept

/-- Tries one kept write-back again. -/
def retryKept (key : Nat) (s : State) : State :=
  let k := keySid key
  let h := coreHall (strandAt k s).core
  match recXlate k .write (64 * keyLine key) h s with
  | .ok _ =>
    let ln := lineAt key s
    let free (c : Copy) : Copy := { c with kept := false }
    (writeBackKeys [key] (setLine key ⟨ln.rc.map free, ln.hc.map free⟩ s)).2
  | _ => s

/-- KEPT_WRITEBACK_RETRY (R133): strands held with hold 6 and no kept line become ready, trapped ones go on to
delivery (R212). -/
def execKeptWritebackRetry (s : State) : Outcome State Fault Refusal :=
  let s := ((s.lines.filter (fun e => keptLine e.2)).map Prod.fst).foldl (fun s key => retryKept key s) s
  let s := s.strands.foldl (fun s e =>
    if s.lines.any (fun x => keySid x.1 == e.1 && keptLine x.2) then s
    else if e.2.run = .held ∧ e.2.hold = 6#4 then makeReady e.1 (withHeader e.1 s)
    else if e.2.run = .trapped ∧ e.2.hold = 6#4 then
      post 1 .trapDeliver { argStrand e.1 with n := if e.2.trapAt = 0#56 then 0#8 else 1#8, flag := true }
        (modStrand e.1 (fun t => { t with hold := 0 }) s)
    else s) s
  .next (if s.lines.any (fun e => keptLine e.2) ∧ !s.agenda.any (fun d => d.ev == .keptWritebackRetry) then
    post 2000000 .keptWritebackRetry s.ev s else s)

/-! ### Walks and instruction fetch (R152, R153, R193) -/

/-- The function whose waiting miss a free walker takes: its own, or the next after the one last served. -/
def nextWaiting (h w : Nat) (s : State) : Option (Nat × Walk) :=
  let waiting := s.walks.filter (fun e => e.2.walker.isNone && coreHall e.2.core == h)
  let m := walkMap h w s
  if 128 ≤ m then waiting.find? (fun e => e.2.vf.toNat == m % 128)
  else (List.range 128).findSome? (fun i =>
    waiting.find? (fun e => e.2.vf.toNat == ((hallAt h s).lastWalk + 1 + i) % 128))

/-- Free walkers of a hall take waiting misses. -/
def serveWalks (h : Nat) (s : State) : State :=
  (List.range Config.walkers).foldl (fun s w =>
    if !(idleWalkers h s).contains w then s
    else
      match nextWaiting h w s with
      | none => s
      | some (id, k) =>
        let s := if 128 ≤ walkMap h w s then s else setHall h { hallAt h s with lastWalk := k.vf.toNat } s
        startWalk id w k s) s

/-- WALK_COMPLETE: the translation, or what the page's next access meets. -/
def execWalkComplete (s : State) : Outcome State Fault Refusal :=
  match tfind s.walks s.ev.id with
  | none => .next s
  | some k =>
    let h := coreHall k.core
    let w := walk h k.vf k.va.toNat s
    let s := { s with walks := tdel s.walks s.ev.id }
    let s := addWcache h w.found s
    let note (kd ca : Nat) (s : State) : State :=
      let c := coreAt k.core s
      setCore k.core { c with ifaults := c.ifaults ++ [⟨k.vf, k.va, BitVec.ofNat 8 kd, BitVec.ofNat 8 ca⟩] } s
    let s := match w.res with
      | .ok x => addTlb k.core x s
      | .fault kd ca => note kd ca s
      | .err => note 13 1 s
    .next (serveWalks h s)

/-- INSTRUCTION_CACHE_FILL: the line, or the memory error its next fetch meets; the oldest line leaves a full cache. -/
def execInstructionCacheFill (s : State) : Outcome State Fault Refusal :=
  let c := s.ev.core.toNat
  let a := s.ev.ctx
  let k := coreAt c s
  let s := setCore c { k with filling := k.filling.filter (fun e => e.1 != sid s.ev.vf a) } s
  match tlbHit c s.ev.vf a.toNat s with
  | none => .next s
  | some x =>
    let pa := x.pa a.toNat
    let s := if homeOf pa = coreHall c then s else countArrival s.ev.vf a.toNat pa (coreHall c) s
    let k := coreAt c s
    if memErrAt pa 64 s then .next (setCore c { k with ifaults := k.ifaults ++ [⟨s.ev.vf, a, 13, 3⟩] } s)
    else
      let key := keyOf s.ev.vf s
      let ws := (List.range 16).map (fun i => BitVec.ofNat 32 (memVal key (pa + 4 * i) 4 s))
      let old := if Config.icacheLines ≤ k.icache.length then k.icache.drop 1 else k.icache
      .next (setCore c { k with icache := old.filter (fun l => !(l.vf == s.ev.vf && l.addr == a)) ++ [⟨s.ev.vf, a, x.leaf, ws⟩] } s)

/-- A chain that decodes to no instruction (R270, R277). -/
def execIllegalInstruction (s : State) : Outcome State Fault Refusal :=
  .next (trapNow s.ev.n.toNat s.ev.v.toNat s)

/-! ### Engines (R162, R200 to R206) -/

/-- TILE_TASK_START. -/
def execTileTaskStart (s : State) : Outcome State Fault Refusal := .next (startTile s.ev.id s)
/-- TILE_TASK_COMPLETE. -/
def execTileTaskComplete (s : State) : Outcome State Fault Refusal := .next (completeTile s.ev.id s)

/-- A copy may not run now: its launch is exhausted, its function stopped or its submissions held (R76, R221). -/
def copyHeld (j : CopyJob) (s : State) : Bool :=
  if j.back && s.power == .saving then false
  else
  workHeld j.vf s || (match tfind s.launches j.launch with | some l => l.exhausted | none => false)

/-- Fills the eight active places from the queue: window fills first, then the oldest (R205, R372). -/
def fillActive : Nat → Nat → State → State
  | 0, _, s => s
  | n + 1, q, s =>
    let k := quadAt q s
    if 8 ≤ k.active.length then s
    else
      let ok := k.copies.filter (fun j => !copyHeld j s)
      let first := (ok.find? (fun j => j.win.isSome && !j.back)).orElse (fun _ => ok.head?)
      match first with
      | none => s
      | some j =>
        fillActive n q (setQuad q { k with
          copies := k.copies.filter (fun x => x.order != j.order), active := k.active ++ [{ j with paused := false }] } s)

/-- A chunk writes a page that is moving. -/
def chunkMoving (j : CopyJob) (n : Nat) (s : State) : Bool :=
  (List.range n).any (fun i => pageMoving j.vf (bitsN (elemDst j (j.done + i) s) 0 56) s)

/-- The copy's partition is being aborted: it is cancelled at its next chunk boundary (R114). -/
def copyAborted (j : CopyJob) (s : State) : Bool :=
  match tfind s.launches j.launch with
  | some l => pkDmode l.packet && (List.range 16).any (fun n => (partAt n s).aborting && (partAt n s).held &&
      partOwner n s == l.vf && l.places.any (fun c => partHas n (coreHall c) s))
  | none => false
/-- An active copy leaves its quad. -/
def dropCopy (q : Nat) (j : CopyJob) (s : State) : State :=
  let k := quadAt q s
  setQuad q { k with active := k.active.filter (fun x => x.order != j.order) } s
/-- An active copy pauses between chunks: its done goes to the descriptor, and it goes back into the queue (R76, R221). -/
def pauseCopy (q : Nat) (j : CopyJob) (s : State) : State :=
  let s := dropCopy q j (putDesc j j.done 3 s)
  let k := quadAt q s
  setQuad q { k with copies := k.copies ++ [{ j with paused := true }] } s
/-- Active copies that may not go on pause, but for the one whose chunk is under way. -/
def pauseHeld (q : Nat) (s : State) : State :=
  (quadAt q s).active.foldl (fun s j => if copyHeld j s then pauseCopy q j s else s) s

/-- One chunk of a copy ends (R205): the elements done and its outcome; then it goes on, pauses or is cancelled. -/
def runChunk (q : Nat) (j : CopyJob) (s : State) : State :=
  let e := dTotal j.desc
  let n := min (4096 / 2 ^ dEsz j.desc) (e - j.done)
  if chunkMoving j n s then s
  else
    match copyElems j n j.done (charge j.vf j.launch 3 (n * 2 ^ dEsz j.desc) s) with
    | (some code, s) => endCopy j code (putDesc j j.done (8 + code) (dropCopy q j s))
    | (none, s) =>
      let j' := { j with done := j.done + n }
      if e ≤ j'.done then endCopy j 0 (putDesc j e 2 (dropCopy q j s))
      else if copyAborted j s then endCopy j' 5 (putDesc j' j'.done 13 (dropCopy q j s))
      else if copyHeld j s then pauseCopy q j' s
      else
        let k := quadAt q s
        setQuad q { k with active := k.active.map (fun x => if x.order == j.order then j' else x) } (putDesc j' j'.done 1 s)

/-- The active copy whose turn it is: window fills go ahead of other copies (R205). -/
def nextCopy (q : Nat) (s : State) : Option CopyJob :=
  let k := quadAt q s
  let wins := k.active.filter (fun j => j.win.isSome && !j.back)
  let pool := if wins.isEmpty then k.active else wins
  pool[k.turn % max 1 pool.length]?

/-- Accesses of a chunk on one side: for each granule its elements touch in turn, one. -/
def chunkSide (j : CopyJob) (u : Use) (addr : Nat → Word) (n : Nat) (s : State) : Nat × State :=
  let r := (List.range n).foldl (fun (r : Option Nat × Nat × State) i =>
    let a := addr (j.done + i)
    if r.1 = some (bitsN a 5 59) then r
    else
      let (t, s) := unitAccesses j.core j.vf j.priv.toNat u a (2 ^ dEsz j.desc) (r.2.2.wheel + 1) r.2.2
      (some (bitsN a 5 59), max r.2.1 t, s)) (none, s.wheel + 1, s)
  (r.2.1, r.2.2)
/-- The slot a chunk ends at: each 32-byte access takes a service position of its bank (R41, R156); on a bound circuit they take
the circuit's injection slots of each turn that are not suspended (R34, R43; log 2). -/
def chunkEnd (j : CopyJob) (s : State) : Nat × State :=
  let n := min (4096 / 2 ^ dEsz j.desc) (dTotal j.desc - j.done)
  match circAt (dField j.desc 88 11) s with
  | some v =>
    let acc := (n * 2 ^ dEsz j.desc + 31) / 32
    let live := (v.paths.filter (fun p => p.stage == .live && !p.susp)).length
    let w := (hallAt v.ends.srcHall s).w
    (s.wheel + (if live = 0 then w else (acc + live - 1) / live * w), s)
  | none =>
    let (t, s1) := chunkSide j .read (fun e => elemSrc j e s) n s
    let (t', s2) := if dReg j.desc && j.win.isNone then (t, s1) else chunkSide j .write (fun e => elemDst j e s) n s1
    (max t t', s2)

/-- A chunk of the quad is under way. -/
def chunkOut (q : Nat) (s : State) : Bool := s.agenda.any (fun d => d.ev == .copyChunk && d.args.id == q && d.args.n == 1#8)
/-- The next chunk of a quad's copies begins: it ends when its accesses have. -/
def planChunk (q : Nat) (s : State) : State :=
  if chunkOut q s then s
  else
    let s := fillActive 8 q (pauseHeld q s)
    match nextCopy q s with
    | none => s
    | some j =>
      let k := quadAt q s
      let (t, s) := chunkEnd j (setQuad q { k with turn := k.turn + 1 } s)
      postAt (max (s.wheel + 1) t) .copyChunk { argQuad q with n := 1#8, v := BitVec.ofNat 64 j.order } s

/-- COPY_CHUNK: copies become active and a chunk begins; with `n` = 1, the chunk of the copy numbered `v` ends. -/
def execCopyChunk (s : State) : Outcome State Fault Refusal :=
  let q := s.ev.id
  if s.ev.n ≠ 1#8 then .next (planChunk q (if chunkOut q s then fillActive 8 q s else s))
  else
    match (quadAt q s).active.find? (fun j => j.order == s.ev.v.toNat) with
    | none => .next (planChunk q s)
    | some j => .next (planChunk q (runChunk q j s))

/-- WINDOW_FILL_COMPLETE (R162). -/
def execWindowFillComplete (s : State) : Outcome State Fault Refusal :=
  let c := s.ev.core.toNat
  let v := windowAt c s.ev.id s
  if s.ev.flag then
    let s := v.waiters.foldl (fun s k =>
      if (strandAt k s).touching = some s.ev.id then
        modStrand k (fun t => { t with
          fault := some ⟨22, 1, 0, 0, 0, BitVec.ofNat 64 s.ev.id, s.ev.n.setWidth 64, [], false⟩ }) s
      else s) s
    .next (setWindow c s.ev.id { v with state := 0, err := true, busy := false, waiters := [] } s)
  else .next (setWindow c s.ev.id { v with state := 2, err := false, busy := false } s)

/-- WINDOW_WRITEBACK_COMPLETE (R162): a window that `RINV` has made absent stays so; one dirtied meanwhile stays dirty. -/
def execWindowWritebackComplete (s : State) : Outcome State Fault Refusal :=
  let c := s.ev.core.toNat
  let v := windowAt c s.ev.id s
  if !v.bound ∨ v.state ≠ 3#2 then .next (setWindow c s.ev.id { v with busy := v.busy && v.state == 1#2 } s)
  else if s.ev.flag then .next (setWindow c s.ev.id { v with state := 3, err := true, busy := false } s)
  else if v.again then .next (setWindow c s.ev.id { v with busy := false } s)
  else .next (setWindow c s.ev.id { v with state := 0, busy := false } s)

end Sys2Proof.Machine
end

