-- ==== Sys2Proof/Machine/MemoryEvents.lean ====
section
/-! DEFINITION. MemoryEvents: page moves, zeroing and uncorrectable errors (R23, R163 to R169). -/

namespace Sys2Proof.Machine

open Host

/-- Replaces what a byte range of memory holds by zeros under a key: tags zero, words full, errors gone (R168). -/
def clearRange (key pa n : Nat) (s : State) : State :=
  let out (unit a : Nat) : Bool := decide (unit * a < pa) || decide (pa + n ≤ unit * a)
  { s with
    mem := s.mem.filter (fun e => out 1 e.1)
    memKey := s.memKey.filter (fun e => decide (32 * e.1 < pa)) ++
      (if key = 0 then [] else (List.range (n / 32)).map (fun i => (pa / 32 + i, key))) ++
      s.memKey.filter (fun e => decide (pa + n ≤ 32 * e.1))
    memTags := s.memTags.filter (fun e => out 32 e.1)
    memEmpty := s.memEmpty.filter (out 8)
    memErr := s.memErr.filter (out 32) }

/-- Halves every count of a hall (R163). -/
def halveCounts (x : Hall) : Hall :=
  { x with migr := x.migr.map (fun e => (e.1, e.2.map (fun n => n / 2))) }

/-- The next tick whose TIME is a multiple of MIGCTL.decay ms (R163). -/
def nextDecay (s : State) : Option Nat :=
  let ms := regN 0 0x3008 28 8 s
  if ms = 0 then none else some (2 * ((tick s / (1000000 * ms) + 1) * (1000000 * ms)))
/-- One MIGRATION_DECAY is on its way when the period is not 0. -/
def armDecay (s : State) : State :=
  let s := unpost (fun d => d.ev == .migrationDecay) s
  match nextDecay s with | some t => postAt t .migrationDecay EvArgs.none s | none => s

/-- MIGRATION_DECAY. -/
def execMigrationDecay (s : State) : Outcome State Fault Refusal :=
  .next (armDecay { s with halls := s.halls.map (fun e => (e.1, halveCounts e.2)) })

/-! ### The end of a page move (R165) -/

/-- A physical address in the old frame. -/
def inOldFrame (m : Move) (pa : Nat) : Bool := decide (m.oldPa ≤ pa) && decide (pa < m.oldPa + 2 ^ m.lsize)
/-- A request of the function to the old frame has not been performed, or is answered unmet (R318), or a write-back to it is on
its way; `loads` asks for loads too. -/
def moveBusy (m : Move) (loads : Bool) (s : State) : Bool :=
  s.reqs.any (fun e => e.2.vf == m.vf && !e.2.waiting && !e.2.arrived && (e.2.served == 0 || e.2.status == 3#8) &&
    (loads || e.2.kind != 0#4) && inOldFrame m e.2.pa.toNat) ||
  s.tmsgs.any (fun e => e.2.kind == .lineWriteback && e.2.vf == m.vf && inOldFrame m e.2.id)
/-- Requests that wait for a condition in the old frame, at its controller or to be sent again, are withdrawn: their instructions
reissue and find the page moving, or its new home (R188; log 10). -/
def withdrawMoved (m : Move) (s : State) : State :=
  s.reqs.foldl (fun s e => if e.2.vf == m.vf && e.2.waiting && inOldFrame m e.2.pa.toNat then withdrawReq e.1 s else s) s

/-- Copies data, tags and full bits of one granule to the new frame. -/
def copyGranule (m : Move) (i : Nat) (s : State) : State :=
  let key := keyOf m.vf s
  let a := m.oldPa + 32 * i
  let b := m.newPa + 32 * i
  let s := memWrite key b (memBytes key a 32 s) s
  let s := setTag b (tagAt a s) s
  (List.range 4).foldl (fun s j => setMemFull (b + 8 * j) (memFull (a + 8 * j) s) s) s

/-- The frame of a ring entry comes back with returned = 1 (R165 step 6). -/
def returnFrame (m : Move) (frame : Nat) (s : State) : State :=
  memWrite (keyOf 0#7 s) m.entry (toBytes 8 (frame + 1)) s

/-- The move is over: the mark goes, held write-backs proceed (R135), held strands reissue, waiting engine work translates again. -/
def endMove (id : Nat) (m : Move) (s : State) : State :=
  let s := releaseHeld { s with moves := tdel s.moves id, lastMove := tput s.lastMove (sid m.vf m.va) (tick s) }
  let s := s.strands.foldl (fun s e =>
    if sidVf e.1 == m.vf && e.2.run == .held && e.2.hold == 11#4 then post 1 .strandWake (argStrand e.1) s else s) s
  s.quads.foldl (fun s e => if e.2.copies.isEmpty && e.2.active.isEmpty then s else kickCopies e.1 s) s

/-- PAGE_MOVE_FLIP: the copy and the flip once no write to the old frame is under way; with `flag`, the end of the invalidation:
once no access uses the old translation, the mark is cleared (R154, R165). -/
def execPageMoveFlip (s : State) : Outcome State Fault Refusal :=
  match tfind s.moves s.ev.id with
  | none => .next s
  | some m =>
    let s := withdrawMoved m s
    if moveBusy m s.ev.flag s then .next (post 64 .pageMoveFlip s.ev s)
    else if s.ev.flag then .next (endMove s.ev.id m s)
    else
      let key := keyOf m.vf s
      let bad := memErrAt m.oldPa (2 ^ m.lsize) s || memErrAt m.leafPa 8 s || memVal key m.leafPa 8 s != m.leaf.toNat
      if bad then
        .next (endMove s.ev.id m (setRegN 0 0x3018 0 32 (regN 0 0x3018 0 32 s + 1) (returnFrame m m.newPa s)))
      else
        let s := (List.range (2 ^ m.lsize / 32)).foldl (fun s i => copyGranule m i s) s
        let leaf := setBits m.leaf 16 36 (m.newPa / 2 ^ 16)
        let s := memWrite key m.leafPa (toBytes 8 leaf.toNat) s
        let s := (List.range (2 ^ m.lsize / 2 ^ 16)).foldl (fun s i =>
          setOwner 0 (m.oldPa + 2 ^ 16 * i) (setOwner m.vf (m.newPa + 2 ^ 16 * i) s)) s
        let s := dropXlats 5 0 m.vf (some m.va.toNat) s
        let s := setRegN 0 0x3010 0 32 (regN 0 0x3010 0 32 s + 1) (returnFrame m m.oldPa s)
        .next (post 1 .pageMoveFlip { s.ev with flag := true } s)

/-! ### Zeroing (R168) -/

def zeroStat (state why : Nat) (s : State) : State := setRegN 0 0x3418 8 8 why (setRegN 0 0x3418 0 2 state s)
/-- A granule is assigned to a function other than the PF and vf. -/
def zeroForeign (vf : BitVec 7) (pa : Nat) (s : State) : Bool :=
  let b := (ownByte pa s).toNat
  ownEn s && decide (128 ≤ b) && b != 128 && b != 128 + vf.toNat

/-- ZEROCTL_GO: `v` is the word written to ZEROCTL. -/
def execZeroctlGo (s : State) : Outcome State Fault Refusal :=
  let vf : BitVec 7 := BitVec.ofNat 7 (bitsN s.ev.v 0 7)
  if s.ev.vf ≠ 0#7 then .next s
  else if !bitB s.ev.v 63 then .next (setReg 0 0x3410 (BitVec.ofNat 64 vf.toNat) s)
  else
    let pa := regN 0 0x3400 16 36 s * 2 ^ 16
    let n := regN 0 0x3408 0 32 s
    let last := pa + n * 2 ^ 16 - 1
    let s := setReg 0 0x3410 (BitVec.ofNat 64 vf.toNat) s
    if s.zeroing.isSome then .next (zeroStat 3 3 s)
    else if n = 0 then .next s
    else if !inMemory pa || !inMemory last || isHbm pa != isHbm last then .next (zeroStat 3 1 s)
    else if (List.range n).any (fun i => zeroForeign vf (pa + 2 ^ 16 * i) s) then .next (zeroStat 3 2 s)
    else if vf ≠ 0#7 ∧ !(fnAt vf s).enabled then .next (zeroStat 3 4 s)
    else
      .next (post (1024 * n) .zeroComplete EvArgs.none
        (setRegN 0 0x3418 32 32 n (zeroStat 1 0 { s with zeroing := some (pa, n, vf.toNat) })))

/-- ZERO_COMPLETE. -/
def execZeroComplete (s : State) : Outcome State Fault Refusal :=
  match s.zeroing with
  | none => .next s
  | some (pa, n, vf) =>
    let s := clearRange (keyOf (BitVec.ofNat 7 vf) s) pa (n * 2 ^ 16) { s with zeroing := none }
    .next (setRegN 0 0x3418 32 32 0 (zeroStat 2 0 s))

/-! ### Errors (R23, R169) -/

/-- UNCORRECTABLE_ERROR: `n` is 0 for the DRAM granule `id`, 1 for the scratchpad word `id`, 2 for the cached line `id`. -/
def execUncorrectableError (s : State) : Outcome State Fault Refusal :=
  match s.ev.n.toNat with
  | 0 => .next { s with memErr := sadd s.memErr s.ev.id }
  | 1 => .next { s with spadErr := sadd s.spadErr s.ev.id }
  | 2 => .next (if !lineEmpty (lineAt s.ev.id s) then { s with lineErr := sadd s.lineErr s.ev.id } else s)
  | _ => .next s

end Sys2Proof.Machine
end

