-- ==== Sys2Proof/Machine/SchedEvents.lean ====
section
/-! DEFINITION. SchedEvents: launch queues, dispatch, selection and eviction on a core, retirement, spatial pre-emption,
D-mode partitions and their logs (R52, R53, R95 to R102, R105 to R108, R111 to R114). -/

namespace Sys2Proof.Machine

open Host

/-! ### Queues (R53, R95, R98) -/

/-- A queue stops on error (R53). -/
def stopQueue (vf : BitVec 7) (q code : Nat) (s : State) : State :=
  let o := qoff q
  raiseCause vf 0 (setRegN vf (o + 24) 8 1 1 (setRegN vf (o + 24) 0 8 code s))

/-- LQSTAT code of a device read that fails: 6 for an uncorrectable error, else 3. -/
def queueCode (e : Nat) : Nat := if e = 1 then 6 else 3

/-- The queue's next look at its dependences, at a slot. -/
def pollAt (slot : Nat) (vf : BitVec 7) (q : Nat) (s : State) : State :=
  let s := unpost (fun d => d.ev == .dependencePoll && d.args.vf == vf && d.args.q.toNat == q) s
  postAt slot .dependencePoll (argQueue vf q) s

/-- QUEUE_PACKET_FETCH (R53): one packet at a time is taken from the ring and waits for its dispatch to begin. -/
def execQueuePacketFetch (s : State) : Outcome State Fault Refusal :=
  let vf := s.ev.vf
  let q := s.ev.q.toNat
  let o := qoff q
  let f := fnAt vf s
  let size := regN vf o 0 5 s
  let head := regN vf (o + 16) 0 32 s
  let tail := regN vf (o + 8) 0 32 s
  let x := queueAt (lqueueKey vf q) s
  if 2 ^ size < (tail + 2 ^ 32 - head) % 2 ^ 32 then .next (stopQueue vf q 1 s)
  else if regN vf o 63 1 s = 0 ∨ regN vf (o + 24) 8 1 s = 1 ∨ f.stopped = true ∨ f.resetting = true ∨ head = tail ∨
      x.packet.isSome = true ∨ (x.held.contains head = true ∧ submissionsHeld vf s = true) then .next s
  else
    match functionRead vf (regN vf o 12 44 s * 2 ^ 12 + 128 * (head % 2 ^ size)) 128 s with
    | .error e => .next (stopQueue vf q (queueCode e) s)
    | .ok v =>
      let p : Packet := BitVec.ofNat 1024 v
      match packetTable vf p s with
      | none => .next (stopQueue vf q 2 s)
      | some t => .next (pollAt s.wheel vf q (setQueue (lqueueKey vf q) { x with packet := some p, table := t } s))

/-- What a launch waiting at the head of its queue finds: every dependence met, one not met, or one that cannot be
read. -/
def depsMet (vf : BitVec 7) (p : Packet) (s : State) : Except Nat Bool :=
  (List.range 4).foldl (fun a i =>
    match a, depMet (fun a n => functionRead vf a n s) (pkDep p i) with
    | .error e, _ => .error e
    | .ok _, .error e => .error e
    | .ok x, .ok y => .ok (x && y)) (.ok true)

/-- The launch waiting in a queue may begin: its dependences are met, and, when it is ordered, the launch before it is over. -/
def mayBegin (vf : BitVec 7) (p : Packet) (x : LQueue) (s : State) : Bool :=
  (match depsMet vf p s with | .ok met => met | .error _ => false) && (!pkOrdered p || (tfind s.launches x.last).isNone)

/-- DEPENDENCE_POLL (R95): again 10 µs later while something is not met. -/
def execDependencePoll (s : State) : Outcome State Fault Refusal :=
  let vf := s.ev.vf
  let q := s.ev.q.toNat
  let x := queueAt (lqueueKey vf q) s
  match x.packet with
  | none => .next s
  | some p =>
    if (fnAt vf s).stopped = true then .next s
    else
      match depsMet vf p s with
      | .error e => .next (stopQueue vf q (queueCode e) (setQueue (lqueueKey vf q) { x with packet := none } s))
      | .ok _ =>
        if mayBegin vf p x s then
          .next (if s.agenda.any (fun d => d.ev == .dispatchBegin && d.args.vf == vf && d.args.q.toNat == q) then s
            else post 0 .dispatchBegin (argQueue vf q) s)
        else .next (pollAt (s.wheel + 20000) vf q s)

/-- The indices mapped to a position, ascending. -/
def posIndices (p : Packet) (k : Nat) : List Nat :=
  (List.range (pkN p)).filter (fun l => pkPos p l == k)

/-- The D-mode task lists of a launch's cores grow by its positions' indices (R108). -/
def appendTasks (lid : Nat) (l : Launch) (s : State) : State :=
  (List.range l.places.length).foldl (fun s k =>
    let c := placeOf l k
    let x := coreAt c s
    setCore c { x with dlist := x.dlist ++ (posIndices l.packet k).map (fun i => (lid, i)) } s) s

/-- DISPATCH_BEGIN (R95, R96), where everything it depends on is still met. -/
def execDispatchBegin (s : State) : Outcome State Fault Refusal :=
  let vf := s.ev.vf
  let q := s.ev.q.toNat
  let x := queueAt (lqueueKey vf q) s
  match x.packet with
  | none => .next s
  | some p =>
    if (fnAt vf s).stopped = true then .next s
    else if !mayBegin vf p x s then .next (pollAt s.wheel vf q s)
    else
      let head := regN vf (qoff q + 16) 0 32 s
      let places := pkPlaces p x.table
      let part := if pkDmode p then (places.head?).bind (fun c => partOf (coreHall c) s) else none
      let subject : Word := BitVec.ofNat 64 (2 ^ 32 * q)
      let due := match part with | some n => replayDue n s | none => 0
      let logged : LogRes :=
        match part with
        | some n => if due = 0 then logEvent n 1 subject (BitVec.ofNat 64 head) s else .wait s
        | none => .go 0 s
      match logged with
      | .wait s => .next (post (if due = 0 then 1024 else due) .dispatchBegin (argQueue vf q) s)
      | .diverged e s =>
        (match part with
         | some n => .next (diverge n e none 0 s)
         | none => .next s)
      | .go _ s =>
        let (lid, s) := newId s
        let l : Launch := {
          vf := vf, q := q, head := BitVec.ofNat 32 head, packet := p, orig := places, places := places, cursor := [],
          offered := (List.range places.length).map (fun k => (k, tick s)), spawnNext := 0, live := 0, engine := 0, used := 0,
          quota := pkQuota p, exhausted := false, suspended := false, seqs := [], taken := [] }
        let s := setLaunch lid l s
        let s := if pkDmode p then appendTasks lid l s else s
        let s := setQueue (lqueueKey vf q) { x with packet := none, table := [], last := lid } s
        let s := setRegN vf (qoff q + 16) 0 32 ((head + 1) % 2 ^ 32) s
        let s := (places.eraseDups).foldl (fun s c => post 1 .slotSelect (argCore c) s) s
        .next (post 1 .queuePacketFetch (argQueue vf q) s)

/-! ### Selection (R99 to R102) -/

/-- Base priority of a strand, its header read where it lies. -/
def basePrio (k : Nat) (s : State) : Nat := hdrPrio k (withHeader k s)
def isDmode (k : Nat) (s : State) : Bool := hdrDmode k (withHeader k s)

/-- A core gives no slot now: the module is not running, or the core stands still. -/
def coreIdle (c : Nat) (s : State) : Bool := s.phase.phase != .running || s.power != .on || coreHeld c s

/-- A ready strand of a core that may take a slot. -/
def mayEnter (k : Nat) (t : Strand) (c : Nat) (s : State) : Bool :=
  t.core == c && t.run == .ready && t.slot.isNone && !strandHalted k c s && !notStarted k s && !(fnAt (sidVf k) s).stopped &&
  !(coreAt c s).barred.contains (sidVf k).toNat &&
  (match tfind s.launches t.launch with | some l => !l.suspended | none => true)

/-- What a free slot may take: a ready strand, or a position's next index. -/
inductive Cand where
  | strand (k : Nat)
  | fresh (lid pos idx : Nat)

/-- A candidate with its effective priority, ready time, index, and whether it may be due. -/
structure Offer where
  cand : Cand
  eff : Nat
  ready : Nat
  idx : Nat
  dispatched : Bool

def effPrio (prio ready : Nat) (s : State) : Nat := min 7 (prio + (tick s - ready) / 1000000)

/-- Everything a core may choose from (R99); a D-mode launch offers nothing here (R108). -/
def offers (c : Nat) (s : State) : List Offer :=
  (s.strands.filter (fun e => mayEnter e.1 e.2 c s && !isDmode e.1 s)).map (fun e =>
    ⟨.strand e.1, effPrio (basePrio e.1 s) e.2.readyTime s, e.2.readyTime, e.2.index, true⟩) ++
  s.launches.flatMap (fun e =>
    let l := e.2
    if l.suspended || pkDmode l.packet || (fnAt l.vf s).stopped || (coreAt c s).barred.contains l.vf.toNat ||
        (hallAt (coreHall c) s).halts.any (fun h => h.2 || h.1 == l.vf.toNat) then []
    else
      (List.range l.places.length).filterMap (fun pos =>
        if placeOf l pos ≠ c then none
        else
          (nextIndex l pos).map (fun idx =>
            let r := tget l.offered pos 0
            ⟨.fresh e.1 pos idx, effPrio (pkPrio l.packet) r s, r, idx, false⟩)))

/-- A dispatched ready strand that has waited 500,000 ticks. -/
def isDue (o : Offer) (s : State) : Bool := o.dispatched && decide (o.ready + 500000 ≤ tick s)

/-- The first of two offers under a strict order. -/
def better (lt : Offer → Offer → Bool) : List Offer → Option Offer
  | [] => none
  | o :: rest => some (rest.foldl (fun b x => if lt x b then x else b) o)

/-- The choice of R99. -/
def choose (c : Nat) (s : State) : Option Offer :=
  let os := offers c s
  match better (fun a b => decide (a.ready < b.ready)) (os.filter (fun o => isDue o s)) with
  | some o => some o
  | none =>
    better (fun a b => decide (b.eff < a.eff) || (a.eff == b.eff && (decide (a.ready < b.ready) ||
      (a.ready == b.ready && decide (a.idx < b.idx))))) os

/-- The lowest free slot in rotation. -/
def freeSlot (c : Nat) (s : State) : Option Nat :=
  (List.range (topSlot c s + 1)).find? (fun b => (slotHolder c b s).isNone)

/-- Puts a choice into a slot. -/
def enterOffer (c b : Nat) (o : Offer) (s : State) : State :=
  match o.cand with
  | .strand k => enterSlot k b s
  | .fresh lid pos idx => match tfind s.launches lid with | some l => dispatchAt lid l pos idx c b s | none => s

/-- Fills free slots while there is something to choose. -/
def fillSlots (c : Nat) : Nat → State → State
  | 0, s => s
  | n + 1, s =>
    match freeSlot c s, choose c s with
    | some b, some o => fillSlots c n (enterOffer c b o s)
    | _, _ => s

/-- Each free slot in rotation runs its own entry of the task list (R108). -/
def fillEntries (c : Nat) (s : State) : State :=
  (List.range (topSlot c s + 1)).foldl (fun s b => if (slotHolder c b s).isNone then runEntry c b s else s) s

/-- SLOT_SELECT. -/
def execSlotSelect (s : State) : Outcome State Fault Refusal :=
  let c := s.ev.core.toNat
  if coreIdle c s = true then .next s
  else if (partOf (coreHall c) s).isSome then .next (fillSlots c 8 (fillEntries c s))
  else .next (fillSlots c 8 s)

/-- A ready strand or candidate waits for this core. -/
def successor (c : Nat) (s : State) : Bool := !(offers c s).isEmpty

/-- DUE_EVICTION (R100): of the residents that have issued eight instructions, the lowest base priority, highest slot. -/
def execDueEviction (s : State) : Outcome State Fault Refusal :=
  let c := s.ev.core.toNat
  let due := (offers c s).any (fun o => isDue o s)
  if !due then .next s
  else if (freeSlot c s).isSome then .next (post 0 .slotSelect (argCore c) s)
  else
    let again (s : State) : State := post (cyclesToSlots c 64 s) .dueEviction (argCore c) s
    if s.strands.any (fun e => e.2.core == c && e.2.slot.isSome && e.2.leaving) then .next (again s)
    else
      let rs := s.strands.filter (fun e => e.2.core == c && e.2.slot.isSome && e.2.run == .resident && decide (8 ≤ e.2.issued) && !isDmode e.1 s)
      let key (e : Nat × Strand) : Nat := 8 * basePrio e.1 s + (7 - e.2.slot.getD 0)
      match rs with
      | [] => .next (again s)
      | r :: rest =>
        let v := rest.foldl (fun b x => if key x < key b then x else b) r
        .next (again (askLeave v.1 (modStrand v.1 (fun t => if t.stall.isNone then { t with hold := 0 } else t) s)))

/-- STALL_EVICTION (R102): a stalled strand leaves once its threshold has passed and something waits for its core. -/
def execStallEviction (s : State) : Outcome State Fault Refusal :=
  let k := sid s.ev.vf s.ev.ctx
  let t := strandAt k s
  match t.stall with
  | none => .next s
  | some since =>
    let mode := hdrN k 2 0 2 s
    let th := hdrN k 2 2 8 s
    let limit := if mode = 2 then 0 else cyclesToSlots t.core (8 * (if th = 0 then 64 else th)) s
    if t.slot.isNone ∨ t.leaving = true ∨ mode = 1 ∨ hdrDmode k s = true then .next s
    else if since + limit ≤ s.wheel ∧ successor t.core s = true then .next (askLeave k s)
    else
      .next (postAt (max (since + limit) (s.wheel + cyclesToSlots t.core 64 s)) .stallEviction (argStrand k) s)

/-- STRAND_WAKE: `n` carries the causes of R384 beside time. -/
def execStrandWake (s : State) : Outcome State Fault Refusal :=
  let k := sid s.ev.vf s.ev.ctx
  let t := strandAt k s
  if t.run ≠ .held then .next s
  else if t.hold = 5#4 then
    .next (if wakeCauses k s.ev.n.toNat s = 0 then s else unpark k s.ev.n.toNat s)
  else
    match t.wait with
    | .barrier key tok =>
      .next (if barrierLeft key tok s then
          makeReady k (modStrand k (fun t => { t with wait := .none, hold := 0 }) (withHeader k s))
        else s)
    | _ => .next (makeReady k (modStrand k (fun t => { t with hold := 0 }) (withHeader k s)))

/-! ### Retirement (R97) -/

/-- The arrival at the done barrier: none where it cannot be made. -/
def arriveDone (c : Nat) (vf : BitVec 7) (a : Word) (s : State) : Option State :=
  match placeAt c vf 1 .both false a 16 s with
  | .at_ p =>
    if p.err 16 s then none
    else
      let o := tbArrive 1 0 (BitVec.ofNat 128 (p.read 16 s))
      let s := objectChanged p true (p.write 16 o.toNat s)
      some (match p with | .mem _ pa => bankChanged pa s | .pad _ _ => s)
  | _ => none

/-- Work held by an exhausted launch of a function may go on (R76). -/
def resumeHeld (vf : BitVec 7) (s : State) : State :=
  if submissionsHeld vf s then s
  else
    let s := s.quads.foldl (fun s e =>
      let s := if e.2.tiles.isEmpty then s else post 1 .tileTaskStart (argQuad e.1) s
      if e.2.copies.isEmpty && e.2.active.isEmpty then s else kickCopies e.1 s) s
    let s := s.queues.foldl (fun s e =>
      if e.1 / 64 = vf.toNat ∧ !e.2.held.isEmpty then
        post 1 .queuePacketFetch (argQueue vf (e.1 % 64)) (setQueue e.1 { e.2 with held := [] } s) else s) s
    s.strands.foldl (fun s e =>
      if sidVf e.1 ≠ vf then s
      else if e.2.unstarted then post 1 .slotSelect (argCore e.2.core) (setStrand e.1 { e.2 with unstarted := false } s)
      else if e.2.run = .held ∧ e.2.hold = 10#4 then post 1 .strandWake (argStrand e.1) s else s) s

/-- A launch retires: done, the interrupt, and what the device kept for it. -/
def retireLaunch (lid : Nat) (l : Launch) (s : State) : State :=
  let p := l.packet
  let done : Word := BitVec.ofNat 64 (pkDone p)
  let s :=
    if pkDone p = 0 then s
    else
      match arriveDone ((l.places.head?).getD 0) l.vf done s with
      | some s => s
      | none =>
        let s := if reg l.vf 0x1018 s = 0#64 then setReg l.vf 0x1018 done s else s
        raiseCause l.vf 8 s
  let irq := reg l.vf (qoff l.q + 32) s
  let s := if pkIrq p ∧ bitB irq 7 then sendVector l.vf (bitsN irq 0 7) s else s
  let s := { s with
    launches := tdel s.launches lid
    meter := tdel s.meter (2 * lid + 1)
    strands := s.strands.filter (fun e => e.2.launch != lid)
    barriers := s.barriers.map (fun e => if e.2.launch == lid then (e.1, { e.2 with armed := false }) else e)
    cores := s.cores.map (fun e => (e.1, { e.2 with
      msgs := e.2.msgs.filter (fun m => m.launch != lid), epochs := tdel e.2.epochs lid })) }
  resumeHeld l.vf (pollAt s.wheel l.vf l.q s)

/-- LAUNCH_RETIRE. -/
def execLaunchRetire (s : State) : Outcome State Fault Refusal :=
  match tfind s.launches s.ev.id with
  | some l => .next (if launchOver l then retireLaunch s.ev.id l s else s)
  | none => .next s

/-- DONEFAULT_READ. -/
def execDonefaultRead (s : State) : Outcome State Fault Refusal :=
  let vf := s.ev.vf
  hostReadClear (reg vf 0x1018 s) (setReg vf 0x1018 0#64 s) s

/-! ### Spatial pre-emption (R105, R106): `v` is the word written to VACREQ -/

/-- The cores a request names. -/
def vacCores (v : Word) : List Nat :=
  ((List.range 256).map (fun c => 256 * bitsN v 0 4 + c)).filter (fun c =>
    decide (bitsN v 4 6 ≤ coreQuad c % 64) && decide (coreQuad c % 64 < bitsN v 4 6 + bitsN v 10 7))
/-- Quads a request names, numbered 64·hall + quad. -/
def vacQuads (v : Word) : List Nat := (List.range (bitsN v 10 7)).map (fun i => 64 * bitsN v 0 4 + bitsN v 4 6 + i)
def vacVictim (v : Word) : BitVec 7 := BitVec.ofNat 7 (bitsN v 17 7)
def vacStat (vf : BitVec 7) (state why : Nat) (s : State) : State :=
  setRegN vf 0x2008 8 8 why (setRegN vf 0x2008 0 2 state s)
def vacMalformed (vf : BitVec 7) (v : Word) : Bool :=
  bitsN v 24 2 == 0 || bitsN v 24 2 == 3 || bitsN v 10 7 == 0 || decide (64 < bitsN v 10 7) ||
  decide (64 < bitsN v 4 6 + bitsN v 10 7) || (vf != 0#7 && vacVictim v != vf)
/-- A vacate of the function is at work. -/
def vacWorking (vf : BitVec 7) (s : State) : Bool := s.agenda.any (fun d => d.ev == .vacateDone && d.args.vf == vf)

/-- VACATE: a write of VACREQ with go and op 1. -/
def execVacate (s : State) : Outcome State Fault Refusal :=
  hostWrite s fun s =>
  let vf := s.ev.vf
  let v := s.ev.v
  let cores := vacCores v
  let victim := vacVictim v
  let s := setReg vf 0x2000 (BitVec.ofNat 64 (bitsN v 0 26)) s
  let hit := s.launches.filter (fun e => e.2.places.any cores.contains)
  if !bitB v 63 then .next s
  else if vacWorking vf s then .next (vacStat vf 3 4 s)
  else if vacMalformed vf v then .next (vacStat vf 3 1 s)
  else if hit.any (fun e => pkPinned e.2.packet) then .next (vacStat vf 3 2 s)
  else if cores.any (fun c => (partOf (coreHall c) s).isSome) then .next (vacStat vf 3 3 s)
  else
    let s := cores.foldl (fun s c =>
      let x := coreAt c s
      setCore c { x with barred := if x.barred.contains victim.toNat then x.barred else victim.toNat :: x.barred } s) s
    let s := s.strands.foldl (fun s e =>
      if sidVf e.1 == victim && cores.contains e.2.core && e.2.slot.isSome then
        askLeave e.1 (modStrand e.1 (fun t => if t.stall.isNone then { t with hold := 0 } else t) s)
      else s) s
    .next (post 64 .vacateDone { argVf vf with v := v } (vacStat vf 1 0 s))

/-- Cores after vacated positions are mapped to the survivors (R106 step 5). -/
def remapPlaces (places : List Nat) (gone : List Nat) : List Nat :=
  let keep := places.filter (fun c => !gone.contains c)
  if keep.isEmpty then places
  else
    (places.foldl (fun (r : List Nat × Nat) c =>
      if gone.contains c then (r.1 ++ [(keep[r.2 % keep.length]?).getD c], r.2 + 1) else (r.1 ++ [c], r.2)) ([], 0)).1

/-- The zeroed contents of a core's scratchpad, its full bits and shadows, its windows (R106, R167). -/
def clearPad (c : Nat) (s : State) : State :=
  let inPad (a : Nat) : Bool := decide (spadKey c 0 ≤ a) && decide (a < spadKey c 0 + 2 ^ 21)
  let s := { s with
    spad := s.spad.filter (fun e => !inPad e.1)
    spadEmpty := s.spadEmpty.filter (fun g => !inPad (8 * g))
    spadErr := s.spadErr.filter (fun g => !inPad (8 * g))
    shadow := s.shadow.filter (fun e => !inPad (8 * e.1)) }
  setCore c { coreAt c s with windows := [] } s

/-- Windows of a core that are dirty or moving. -/
def busyWindows (c : Nat) (s : State) : List Nat :=
  ((coreAt c s).windows.filter (fun e => e.2.state == 1#2 || e.2.state == 3#2 || e.2.busy)).map Prod.fst

/-- Where a strand of the victim goes: its position's core, or for a handler the nearest core of its function. -/
def movedTo (k : Nat) (s : State) : Nat :=
  let t := strandAt k s
  match tfind s.launches t.launch with
  | some l => placeOf l t.pos
  | none => (((ownedCores (sidVf k) (coreHall t.core) s).filter (fun c => !(coreAt c s).barred.contains (sidVf k).toNat)).head?).getD t.core

/-- VACATE_DONE: once the victim's residents have left and its engine work in the quads is over. -/
def execVacateDone (s : State) : Outcome State Fault Refusal :=
  let vf := s.ev.vf
  let v := s.ev.v
  let cores := vacCores v
  let victim := vacVictim v
  let resident := s.strands.any (fun e => sidVf e.1 == victim && cores.contains e.2.core && e.2.slot.isSome)
  let engine := (vacQuads v).any (fun q =>
    let x := quadAt q s
    x.tiles.any (fun t => t.vf == victim) || x.copies.any (fun j => j.vf == victim) || x.active.any (fun j => j.vf == victim) ||
    (match x.running with | some t => t.vf == victim | none => false))
  let again (s : State) : State := post 1000 .vacateDone s.ev s
  if resident || engine then .next (again s)
  else
    let dirty := cores.flatMap (fun c => (busyWindows c s).map (fun w => (c, w)))
    if !dirty.isEmpty then
      .next (again (dirty.foldl (fun s e =>
        let w := windowAt e.1 e.2 s
        if w.state = 3#2 ∧ !w.busy then
          (match startWindow (sid w.vf w.owner) e.1 e.2 true s with | .started s => s | _ => s)
        else s) s))
    else
      let s := { s with launches := s.launches.map (fun (e : Nat × Launch) =>
        if e.2.vf == victim && e.2.places.any cores.contains then
          (if e.2.places.all cores.contains then (e.1, { e.2 with suspended := true })
           else (e.1, { e.2 with places := remapPlaces e.2.places cores }))
        else e) }
      let ks := (s.strands.filter (fun e => sidVf e.1 == victim && cores.contains e.2.core && e.2.run != .exited)).map Prod.fst
      let s := ks.foldl (fun s k =>
        match tfind s.launches (strandAt k s).launch with
        | some l =>
          if l.suspended then
            let s := (strandLines k s).foldl (fun s key => letGo key s) s
            if (strandAt k s).run = .ready then setRun k .suspended 0 0 (withHeader k s) else s
          else bringStrand k (movedTo k s) s
        | none => bringStrand k (movedTo k s) s) s
      let s := cores.foldl (fun s c => clearPad c s) s
      let s := (ks.map (fun k => (strandAt k s).core)).eraseDups.foldl (fun s c => post 1 .slotSelect (argCore c) s) s
      let s := s.launches.foldl (fun s e =>
        if e.2.vf == victim then (e.2.places.eraseDups).foldl (fun s c => post 1 .slotSelect (argCore c) s) s else s) s
      let moved := ks.countP (fun k => match tfind s.launches (strandAt k s).launch with | some l => !l.suspended | none => true)
      .next (setRegN vf 0x2008 32 32 moved (vacStat vf 2 0 s))

/-- VACATE_RELEASE: a write of VACREQ with go and op 2. -/
def execVacateRelease (s : State) : Outcome State Fault Refusal :=
  hostWrite s fun s =>
  let vf := s.ev.vf
  let v := s.ev.v
  let cores := vacCores v
  let victim := vacVictim v
  let s := setReg vf 0x2000 (BitVec.ofNat 64 (bitsN v 0 26)) s
  if !bitB v 63 then .next s
  else if vacWorking vf s then .next (vacStat vf 3 4 s)
  else if vacMalformed vf v then .next (vacStat vf 3 1 s)
  else
    let s := cores.foldl (fun s c =>
      let x := coreAt c s
      setCore c { x with barred := x.barred.filter (fun f => f != victim.toNat) } s) s
    let back := (s.launches.filter (fun e => e.2.vf == victim && e.2.suspended && e.2.orig.any cores.contains)).map Prod.fst
    let s := { s with launches := s.launches.map (fun (e : Nat × Launch) =>
      if back.contains e.1 then
        (e.1, { e.2 with suspended := false, places := remapPlaces e.2.orig (e.2.orig.filter (fun c => !cores.contains c)) })
      else e) }
    let s := s.strands.foldl (fun s e =>
      if back.contains e.2.launch && e.2.run != .exited then
        let s := bringStrand e.1 (movedTo e.1 s) s
        if e.2.run == .suspended then makeReady e.1 (withHeader e.1 s) else s
      else s) s
    let s := cores.foldl (fun s c => post 1 .slotSelect (argCore c) s) s
    .next (vacStat vf 2 0 s)

/-! ### D-mode partitions (R107): `id` is the offset written, `v` the word -/

/-- A hall holds a strand that is not over; with `dm`, one of a D-mode launch. -/
def hallHasStrand (h : Nat) (dm : Bool) (s : State) : Bool :=
  s.strands.any (fun e => coreHall e.2.core == h && e.2.run != .exited && e.2.run != .unborn && e.2.run != .lost && (!dm || isDmode e.1 s))
def hallsOf (w : Word) : List Nat := (List.range 16).filter (fun h => bitB w h)

/-- DPART_WRITE. -/
def execDpartWrite (s : State) : Outcome State Fault Refusal :=
  let n := (s.ev.id - 0x2200) / 8 % 16
  let off := 0x2200 + 8 * n
  let old := reg 0 off s
  let v := s.ev.v &&& 0xFFFFFF#64
  let overlap := (List.range 16).any (fun m => m != n && regN 0 (0x2200 + 8 * m) 23 1 s == 1 &&
    (reg 0 (0x2200 + 8 * m) s &&& v &&& 0xFFFF#64) != 0#64)
  let busy (w : Word) : Bool := (hallsOf w).any (fun h => hallHasStrand h false s)
  let wasOn := bitB old 23
  let on := bitB v 23
  if s.ev.vf ≠ 0#7 then .next s
  else if on = true ∧ (overlap = true ∨ (v ≠ old ∧ (busy v = true ∨ (wasOn = true ∧ busy old = true)))) then .next s
  else if on = false ∧ wasOn = true ∧ (hallsOf old).any (fun h => hallHasStrand h true s) = true then .next s
  else
    let s := setReg 0 off v s
    let s := if on = true ∧ v ≠ old then setPart n { partZero with enabledAt := s.wheel } s else s
    .next ((hallsOf (old ||| v)).foldl (fun s h => (List.range 4).foldl (fun s q => repoint (4 * h + q) s) s) s)

/-! ### The cocoon log's registers (R111, R113, R114): `vf` the page, `id` the offset, `v` the word -/

def logBlock (off : Nat) : Nat := (off - 0x4000) / 64 % 16
/-- The function owns the partition of a register block. -/
def ownsLog (vf : BitVec 7) (n : Nat) (s : State) : Bool := partOwner n s == vf && reg 0 (0x2200 + 8 * n) s != 0#64
def logSizeOk (z : Nat) : Bool := decide (7 ≤ z) && decide (z ≤ 26)

/-- CLBASE_WRITE. -/
def execClbaseWrite (s : State) : Outcome State Fault Refusal :=
  hostWrite s fun s =>
  let vf := s.ev.vf
  let n := logBlock s.ev.id
  let z := bitsN s.ev.v 0 5
  if !ownsLog vf n s then .next s
  else
    let s := setRegN vf (logOff n) 12 44 (bitsN s.ev.v 12 44) s
    .next (if logMode n s ≠ 0 ∧ !logSizeOk z then s else setRegN vf (logOff n) 0 5 z s)

/-- CLCTL_MODE_WRITE. -/
def execClctlModeWrite (s : State) : Outcome State Fault Refusal :=
  hostWrite s fun s =>
  let vf := s.ev.vf
  let n := logBlock s.ev.id
  let m := bitsN s.ev.v 0 2 % 3
  if !ownsLog vf n s then .next s
  else if m ≠ 0 ∧ !logSizeOk (logSize n s) then .next (setRegN vf (logOff n + 8) 0 2 0 s)
  else .next (setRegN vf (logOff n + 8) 0 2 m s)

/-- LOG_PAUSE, at the boundary: `n` the partition, `v` the entry, `w` its address, `id` the cause. -/
def execLogPause (s : State) : Outcome State Fault Refusal :=
  let n := s.ev.n.toNat
  let vf := partOwner n s
  if !(partAt n s).paused then .next s
  else
    let s := setReg vf (logOff n + 0x28) s.ev.v (setRegN vf (logOff n + 0x20) 0 2 1 s)
    let t : Trap := ⟨18, BitVec.ofNat 8 s.ev.id, 0, 0, if s.ev.id = 2 then s.ev.w else 0#64, s.ev.v, BitVec.ofNat 64 n, [], false⟩
    .next (queueTrap vf 0 t (holdPart n 0 s))

/-- CLCTL_RESUME: no effect on a diverged partition. -/
def execClctlResume (s : State) : Outcome State Fault Refusal :=
  hostWrite s fun s =>
  let vf := s.ev.vf
  let n := logBlock s.ev.id
  let p := partAt n s
  if !ownsLog vf n s ∨ !p.paused ∨ p.diverged then .next s
  else
    let s := setRegN vf (logOff n + 0x20) 0 2 0 (setPart n { p with paused := false } s)
    .next (askRelease n (flushLog n s))

/-- The launches of a partition. -/
def partLaunches (n : Nat) (s : State) : List (Nat × Launch) :=
  s.launches.filter (fun e => pkDmode e.2.packet && e.2.places.any (fun c => partHas n (coreHall c) s) &&
    e.2.vf == partOwner n s)

/-- Cancels a launch's copies with status 5, each at its next chunk boundary: at once, but for one whose chunk is under way
(R114 step 2). -/
def cancelCopies (lid : Nat) (s : State) : State :=
  s.quads.foldl (fun s e =>
    let x := quadAt e.1 s
    let out (j : CopyJob) : Bool := j.launch == lid &&
      !s.agenda.any (fun d => d.ev == .copyChunk && d.args.id == e.1 && d.args.n == 1#8 && d.args.v.toNat == j.order)
    let mine := (x.copies ++ x.active).filter out
    let s := setQuad e.1 { x with copies := x.copies.filter (fun j => !out j), active := x.active.filter (fun j => !out j) } s
    mine.foldl (fun s j => endCopy j 5 (putDesc j j.done 13 s)) s) s

/-- CLCTL_ABORT: from the hold, strands end, copies are cancelled, tile tasks complete, launches retire, and the log is
off (R114); `flag` marks the abort at the hold boundary. -/
def execClctlAbort (s : State) : Outcome State Fault Refusal :=
  let vf := s.ev.vf
  let n := logBlock s.ev.id
  if !ownsLog vf n s ∨ (hostClosed vf s ∧ !s.ev.flag) then .next s
  else if !s.ev.flag then
    let s := setPart n { partAt n s with aborting := true } s
    .next (postAt (nextBoundary s) .clctlAbort { s.ev with flag := true } (if (partAt n s).held then s else askHold n 0 s))
  else
    let s := holdPart n 0 s
    let ls := partLaunches n s
    let s := s.strands.foldl (fun s e =>
      if ls.any (fun l => l.1 == e.2.launch) && e.2.run != .exited && e.2.run != .unborn then endStrand e.1 s else s) s
    let s := ls.foldl (fun s l => cancelCopies l.1 s) s
    if s.launches.any (fun e => ls.any (fun l => l.1 == e.1) && e.2.engine != 0) then .next (post 1024 .clctlAbort s.ev s)
    else
      let s := ls.foldl (fun s l => match tfind s.launches l.1 with | some x => retireLaunch l.1 x s | none => s) s
      let s := setRegN vf (logOff n + 0x10) 0 32 (logTail n s) s
      let s := setRegN vf (logOff n + 8) 0 2 0 (setRegN vf (logOff n + 0x20) 0 2 0 s)
      let p := partAt n s
      let s := setPart n { p with aborting := false, paused := false, diverged := false, waitingLog := [], taken := [] } s
      let s := { s with cores := s.cores.map (fun (e : Nat × Core) =>
        if partHas n (coreHall e.1) s then (e.1, { e.2 with dlist := [], dnext := [] }) else e) }
      .next (askRelease n s)

end Sys2Proof.Machine
end

