-- ==== Sys2Proof/Machine/TrapEvents.lean ====
section
/-! DEFINITION. TrapEvents: taking pending asynchronous traps, delivering a trap, handing it to a handler, stopping a
function, and debug (R208 to R232). -/

namespace Sys2Proof.Machine

open Host

/-! ### Asynchronous traps at a boundary (R209 to R211) -/

/-- An interrupt or host event taken by a strand of a D-mode partition, a quota trap or a debug stop, is an entry of kind 4, its
event code the trap's (R112, R113; log 50). -/
def deliverEvent (k kind : Nat) (s : State) (f : State → State) : Outcome State Fault Refusal :=
  if strandDue k s ≠ 0 then .next s
  else
    match logStrand k 4 (BitVec.ofNat 64 kind) s with
    | .go _ s => .next (f s)
    | .wait s => .next s
    | .diverged e s => .next (divergeStrand k e s)

/-- ASYNC_TRAP_TAKE: the first pending of R211's orders 1 and 3 to 6. -/
def execAsyncTrapTake (s : State) : Outcome State Fault Refusal :=
  let k := sid s.ev.vf s.ev.ctx
  let t := strandAt k s
  match t.errored with
  | e :: _ =>
    let s := modStrand k (fun t => { t with errored := t.errored.drop 1 }) s
    .next (modStrand k (fun x => { x with stepped := t.stepped }) (stopWith k (deferredTrap k e s) s))
  | [] =>
    if t.stepped then .next (stopWith k (asyncTrap k 20 0 0 0 s) s)
    else if t.stopReq then
      deliverEvent k 24 s fun s => modStrand k (fun x => { x with stopReq := false }) (stopWith k (asyncTrap k 24 0 0 0 s) s)
    else if lexpPending k s then
      let x := asyncTrap k 15 (if t.early then 1 else 0) (BitVec.ofNat 64 (hdrN k 3 1 9 s)) 0 s
      .next (stopWith k x (setHdrN k 3 10 1 0 s))
    else if qexhPending k s then
      let (u, q) := match tfind s.launches t.launch with | some l => (l.used, l.quota) | none => (0, 0)
      deliverEvent k 16 s fun s =>
        stopWith k (asyncTrap k 16 0 (BitVec.ofNat 64 u) (BitVec.ofNat 64 q) s) (setHdrN k 3 11 1 0 s)
    else .next s

/-! ### Delivery (R210, R212 to R214) -/

/-- Kinds that go to the debugger while catch is in force (R208, R229). -/
def isDebugKind (n : Nat) : Bool := n == 19 || n == 20 || n == 21 || n == 24
/-- Asynchronous kinds: the record's async bit (R213). -/
def isAsync (n : Nat) : Bool := n == 15 || n == 16 || n == 20 || n == 24

/-- Where a trap goes: 0 pool, 1 PF pool, 2 debugger (R208, R217, R227); a handler's d1 names the record it was handed. -/
def trapDest (k : Nat) (t : Trap) (s : State) : Nat :=
  let vf := sidVf k
  let own : Bool := (handlerIndex k s).isSome && (t.kind == 11#8 ||
    ((t.kind == 7#8 || t.kind == 8#8 || t.kind == 10#8) &&
      (decide (t.addr.toNat % 2 ^ 56 / 8192 = (sidCtx k).toNat / 8192) ||
       decide ((cachedWord k 0x1388 s).toNat % 2 ^ 56 ≤ t.addr.toNat % 2 ^ 56 ∧
         t.addr.toNat % 2 ^ 56 < (cachedWord k 0x1388 s).toNat % 2 ^ 56 + 256))))
  if t.pf || own then 1
  else if isDebugKind t.kind.toNat && regN vf 0x40230 0 1 s == 1 && decide ((fnAt vf s).events.length < 64) then 2
  else 0

/-- The trap record's sixteen words (R213). -/
def recordWords (k : Nat) (t : Trap) (dest : Nat) (alt : Bool) (name time : Nat) : List Word :=
  let c (i : Nat) : Nat := ((t.chain[i]?).getD 0#32).toNat
  [BitVec.ofNat 64 (t.kind.toNat + 2 ^ 8 * t.cause.toNat + 2 ^ 16 * dest + (if isAsync t.kind.toNat then 2 ^ 18 else 0) +
      (if alt then 2 ^ 19 else 0) + 2 ^ 20 * t.chain.length),
   t.epc.setWidth 64, t.npc.setWidth 64, BitVec.ofNat 64 k, BitVec.ofNat 64 name, t.addr, t.info1, t.info2,
   BitVec.ofNat 64 time, BitVec.ofNat 64 (c 0 + 2 ^ 32 * c 1), BitVec.ofNat 64 (c 2 + 2 ^ 32 * c 3),
   BitVec.ofNat 64 (c 4 + 2 ^ 32 * c 5), 0#64, 0#64, 0#64, 0#64]
def wordsBytes (ws : List Word) : List Byte := ws.flatMap (fun w => toBytes 8 w.toNat)

/-- Line 81 at delivery (R214). -/
def returnLine (t : Trap) (priv : Nat) : List Word :=
  [t.epc.setWidth 64, t.npc.setWidth 64, t.epc.setWidth 64, BitVec.ofNat 64 (priv + 4 * priv), 0#64, 0#64, 0#64, 0#64]

/-- A load of the strand found an error before its trap could be delivered: that trap comes first, an asynchronous one
or a replay mismatch stays pending, and a synchronous one recurs (R210). -/
def replaceTrap (k : Nat) (t : Trap) (e : Errored) (s : State) : State :=
  let s := modStrand k (fun x => { x with errored := x.errored.drop 1 }) s
  let s := match t.kind.toNat with
    | 20 => modStrand k (fun x => { x with stepped := true }) s
    | 24 => modStrand k (fun x => { x with stopReq := true }) s
    | 15 => setHdrN k 3 10 1 1 s
    | 16 => setHdrN k 3 11 1 1 s
    | 17 => modStrand k (fun x => { x with fault := some t }) s
    | _ => s
  let x : Trap := if t.chain.isEmpty then deferredTrap k e s
    else ⟨13, 4, t.epc, t.npc, e.addr, e.pc.setWidth 64, 0, t.chain, false⟩
  setHdrN k 7 56 8 13 (modStrand k (fun y => { y with trap := some x }) s)

/-- The record cannot be written, or a line is kept: the strand stays trapped with hold 6, out of its slot (R132, R212). -/
def holdDelivery (k : Nat) (a : Nat) (tell : Bool) (s : State) : State :=
  let s := setHdrN k 1 4 4 6 (modStrand k (fun x => { x with hold := 6 }) (vacateSlot k s))
  let s := post 2000000 .keptWritebackRetry (argVf (sidVf k)) s
  if tell then queueTrap 0#7 k ⟨12, 0, hdrPc k s, hdrPc k s, BitVec.ofNat 64 a, 0, 0, [], true⟩ s else s

/-- Steps 5 and 6 of R212: the slot is freed, and the trap goes to the debugger or to a pool. -/
def endDelivery (k : Nat) (t : Trap) (s : State) : State :=
  let dest := (strandAt k s).trapTo
  let s := vacateSlot k (modStrand k (fun x => { x with trap := none, hold := 0 }) s)
  let s := { s with lineErr := s.lineErr.filter (fun key => keySid key != k) }
  if dest = 2#2 then pushDbg (sidVf k) ⟨1, 0, 0, 0, sidCtx k⟩ s else queueTrap (if dest = 1#2 then 0#7 else sidVf k) k t s

/-- Step 4 of R212: every line but the header is written back and performed, then the header with sealed set (R189). -/
def sealTrap (k : Nat) (t : Trap) (s : State) : State :=
  let again (n : BitVec 8) (s : State) : State := post 64 .trapDeliver { argStrand k with n := n, flag := true } s
  if writeBacksOut k s then again 1#8 s
  else
    match writeBackRest k s with
    | (false, s) => holdDelivery k 0 false s
    | (true, s) =>
      if writeBacksOut k s then again 1#8 s
      else
        match writeBackHeader k (setHdrN k 1 15 1 1 (withHeader k s)) with
        | (false, s) => holdDelivery k 0 false s
        | (true, s) => if writeBacksOut k s then again 2#8 s else endDelivery k t s

/-- The trap record stands at an address: steps 3 and 4 follow (R212, R214). -/
def recordDone (k : Nat) (t : Trap) (dest at_ : Nat) (s : State) : State :=
  let priv := hdrPriv k s
  let s := ((List.range 8).zip (returnLine t priv)).foldl (fun s p => putWord k (0x1440 + 8 * p.1) p.2 s) (staleName k s)
  sealTrap k t (modStrand k (fun x => { x with trapTo := BitVec.ofNat 2 dest, trapAt := BitVec.ofNat 56 at_ }) s)

/-- A trap of a strand of a D-mode partition, one slot ago, holds the partition at the next boundary after it (R218). -/
def holdTrapped (k : Nat) (t : Trap) (s : State) : State :=
  match (if hdrDmode k s then partOf (coreHall (strandAt k s).core) s else none) with
  | some n =>
    if t.kind = 17#8 ∨ t.kind = 18#8 then s
    else postAt (nextBoundary { s with wheel := s.wheel - 1 }) .partitionHold { argPart n with v := 1#64 } s
  | none => s

/-- TRAP_DELIVER: once the strand's accesses have completed and its carried lines have arrived, the record (step 2); with `n` = 1
the lines, with `n` = 2 the header has been written back.  `flag` marks all but the first look. -/
def execTrapDeliver (s : State) : Outcome State Fault Refusal :=
  let k := sid s.ev.vf s.ev.ctx
  let x := strandAt k s
  match x.trap with
  | none => .next s
  | some t =>
    if s.ev.n = 2#8 then .next (if writeBacksOut k s then post 64 .trapDeliver s.ev s else endDelivery k t s)
    else if s.ev.n = 1#8 then .next (sealTrap k t s)
    else
      let s := if s.ev.flag then s else holdTrapped k t (withHeader k s)
      let again : EvArgs := { s.ev with flag := true }
      if outstanding x ∨ writeBacksOut k s then .next (post 64 .trapDeliver again s)
      else
        let s := withHeader k s
        match x.errored, (t.kind == 13#8 && t.cause == 4#8) with
        | e :: _, false => .next (post 1 .trapDeliver again (replaceTrap k t e s))
        | _, _ =>
          let vf := sidVf k
          let h := coreHall x.core
          let name := if hdrN k 1 31 1 s = 1 then hdrN k 1 16 15 s + 2 ^ 15 else 0
          let s := if (handlerIndex k s).isSome then (match openLine k 78 h s with | .ok s => s | .error _ => s) else s
          let dest := trapDest k t s
          let tlink := hdrN k 4 6 50 s * 64
          let dflt := (sidCtx k).toNat + 0x1500
          match deviceWrite h vf tlink (wordsBytes (recordWords k t dest false name x.trapTime)) s with
          | some s => .next (recordDone k t dest tlink s)
          | none =>
            match deviceWrite h vf dflt (wordsBytes (recordWords k t dest true name x.trapTime)) s with
            | some s => .next (recordDone k t dest dflt s)
            | none => .next (holdDelivery k dflt true s)

/-! ### Handlers (R215 to R218) -/

/-- A core a handler may be placed on: the function owns its compute island, and it is neither halted nor in a D-mode
partition. -/
def handlerCore (pool : BitVec 7) (c : Nat) (s : State) : Bool :=
  ownsCore pool c s && (partOf (coreHall c) s).isNone &&
  !(hallAt (coreHall c) s).halts.any (fun e => e.2 || e.1 == pool.toNat)
/-- Core k of R216. -/
def placeHandler (pool : BitVec 7) (last : Option Nat) (s : State) : Option Nat :=
  let near := match last with
    | none => none
    | some c =>
      let cs := ((List.range 256).map (fun i => 256 * coreHall c + i)).filter (fun x => handlerCore pool x s)
      match cs with
      | [] => none
      | x :: rest => some (rest.foldl (fun b y => if torusDist y c < torusDist b c then y else b) x)
  match near with
  | some c => some c
  | none => (List.range 4096).find? (fun c => handlerCore pool c s)

/-- The lowest handler record not in use. -/
def freeHandler (pool : BitVec 7) (s : State) : Option Nat :=
  if thEn pool s then (List.range (thCount pool s)).find? (fun i => !(fnAt pool s).busy.contains i) else none

/-- Starts the handler of a waiting trap in record i on core c, of which it is the first strand: none where the record of a trap
that names no stopped strand cannot be written in the handler's own trap area. -/
def startHandler (pool : BitVec 7) (k : Nat) (t : Trap) (i c : Nat) (s : State) : Option State :=
  let base := thBase pool s
  let n := sid pool (BitVec.ofNat 56 (base + 8192 * i))
  let lone : Bool := k == 0 || t.kind == 12#8
  let at_ := if lone then base + 8192 * i + 0x1500 else (strandAt k s).trapAt.toNat
  (if lone then deviceWrite (coreHall c) pool at_ (wordsBytes (recordWords k t (if t.pf then 1 else 0) false 0 (tick s))) s
    else some s).map fun s =>
  let s := setStrand n { strandZero with index := i, core := c, run := .ready, readyTime := tick s } s
  let w (v : Nat) : Word := BitVec.ofNat 64 v
  let l78 := ofWords [w (sidCtx k).toNat, w at_, w t.kind.toNat, w i, w (sidVf k).toNat,
    if t.kind = 17#8 ∨ t.kind = 18#8 then t.info2 else 0#64, 0#64, 0#64]
  let s := freshRecord n c
    (freshHeader n ⟨regN pool 0x1108 2 54 s * 4, .ready, if pool = 0#7 then 2 else 1, 7, false, false, 2 ^ 10, base, false, 0⟩) l78 s
  let f := fnAt pool s
  let s := setFn pool { f with busy := i :: f.busy } s
  post 1000000 .dueEviction (argCore c) (post 1 .slotSelect (argCore c) s)

/-- THBUSY and THWAIT (R215). -/
def countHandlers (pool : BitVec 7) (s : State) : State :=
  let f := fnAt pool s
  setRegN pool 0x1120 0 32 f.waiting.length (setRegN pool 0x1118 0 16 f.busy.length s)

/-- Hands over waiting traps, oldest first, while a record is free and a core passes.  Where a handler's own record cannot be written,
the trap goes to the PF pool, or waits there (R217; log 38). -/
def handOver (pool : BitVec 7) : Nat → State → State
  | 0, s => s
  | n + 1, s =>
    match (fnAt pool s).waiting with
    | [] => s
    | (k, t) :: rest =>
      match freeHandler pool s, placeHandler pool (if k = 0 then none else some (strandAt k s).core) s with
      | some i, some c =>
        let on := setFn pool { fnAt pool s with waiting := rest } s
        (match startHandler pool k t i c on with
         | some s => handOver pool n s
         | none => if pool = 0#7 then s else handOver pool n (queueTrap 0#7 k { t with pf := true } on))
      | _, _ => s

/-- HANDLER_HANDOVER: what still waits is counted and reported (R216). -/
def execHandlerHandover (s : State) : Outcome State Fault Refusal :=
  let pool := s.ev.vf
  let s := handOver pool (fnAt pool s).waiting.length s
  let s := countHandlers pool s
  .next (if (fnAt pool s).waiting.isEmpty then s else raiseCause pool 7 s)

/-- THCTX_WRITE, THCNT_WRITE: `v` is the word written. -/
def execThctxWrite (s : State) : Outcome State Fault Refusal := hostWrite s fun s => .next (writeThctx s.ev.vf s.ev.v s)
def execThcntWrite (s : State) : Outcome State Fault Refusal := hostWrite s fun s => .next (writeThcnt s.ev.vf s.ev.v s)

/-! ### Stopping a function (R221): `v` is the word written to VFSTOP -/

def vfStat (n : Nat) (s : State) : State := setRegN 0 0x2408 0 2 n s
/-- The target of a request. -/
def vfTarget (v : Word) : BitVec 7 := BitVec.ofNat 7 (bitsN v 0 7)
/-- A request is taken: it names a VF, with go, from the PF. -/
def vfRequest (op : Nat) (apply : Instr) (s : State) : State :=
  let v := s.ev.v
  if s.ev.vf ≠ 0#7 then s
  else
    let s := setReg 0 0x2400 (BitVec.ofNat 64 (bitsN v 0 9)) s
    if !bitB v 63 then s
    else if bitsN v 7 2 ≠ op ∨ vfTarget v = 0#7 then vfStat 3 s
    else postAt (nextBoundary s) apply (argVf (vfTarget v)) (vfStat 1 s)

/-- VF_STOP; it also refuses a request of no known op. -/
def execVfStop (s : State) : Outcome State Fault Refusal := .next (vfRequest 1 .vfStopApply s)
/-- VF_RESUME. -/
def execVfResume (s : State) : Outcome State Fault Refusal := .next (vfRequest 2 .vfResumeApply s)

/-- VF_STOP_APPLY: state becomes 2 when the strands have left their slots, running tile tasks are over and copies have paused; with
`flag`, a look after the first, which a resume has made void. -/
def execVfStopApply (s : State) : Outcome State Fault Refusal :=
  let vf := s.ev.vf
  if s.ev.flag && !(fnAt vf s).stopped then .next s else
  let s := if s.ev.flag then s
    else
      let s := setFn vf { fnAt vf s with stopped := true } s
      s.strands.foldl (fun s e =>
        if sidVf e.1 == vf && e.2.slot.isSome then
          askLeave e.1 (modStrand e.1 (fun t => if t.stall.isNone then { t with hold := 0 } else t) s)
        else s) s
  let busy := s.strands.any (fun e => sidVf e.1 == vf && e.2.slot.isSome) ||
    s.quads.any (fun e => (match e.2.running with | some t => t.vf == vf | none => false) || e.2.active.any (fun j => j.vf == vf))
  .next (if busy then post 1000 .vfStopApply { s.ev with flag := true } s else vfStat 2 s)

/-- A core looks for work again, and for strands that have come due meanwhile (R99, R100). -/
def lookForWork (c : Nat) (s : State) : State := post 2 .dueEviction (argCore c) (post 1 .slotSelect (argCore c) s)
/-- Looks again at everything a function may now go on with. -/
def restart (vf : BitVec 7) (s : State) : State :=
  let s := (List.range 64).foldl (fun s q =>
    if regN vf (qoff q) 63 1 s = 1 then pollAt s.wheel vf q (post 1 .queuePacketFetch (argQueue vf q) s) else s) s
  let s := (s.strands.filter (fun e => sidVf e.1 == vf && e.2.run == .ready)).foldl (fun s e => lookForWork e.2.core s) s
  let s := s.launches.foldl (fun s e =>
    if e.2.vf == vf then (e.2.places.eraseDups).foldl (fun s c => post 1 .slotSelect (argCore c) s) s else s) s
  resumeHeld vf s

/-- VF_RESUME_APPLY. -/
def execVfResumeApply (s : State) : Outcome State Fault Refusal :=
  let vf := s.ev.vf
  let s := unpost (fun d => d.ev == .vfStopApply && d.args.vf == vf && d.args.flag) s
  .next (restart vf (vfStat 0 (setFn vf { fnAt vf s with stopped := false } s)))

/-! ### Debug authorisation (R227, R228) -/

def mailBytes (vf : BitVec 7) (off n : Nat) (s : State) : List Byte :=
  (List.range n).map (fun i => BitVec.ofNat 8 (regN vf ((off + i) / 8 * 8) (8 * ((off + i) % 8)) 8 s))

/-- DBGSUB_GO: the token is taken, and the nonce replaced. -/
def execDbgsubGo (s : State) : Outcome State Fault Refusal :=
  hostWrite s fun s =>
  let vf := s.ev.vf
  if vf = 0#7 ∨ !bitB s.ev.v 0 then .next s
  else
    let f := fnAt vf s
    let above := (mailBytes vf (0x40000 + 288) 224 s).all (fun b => b == 0#8)
    let s := setFn vf { f with token := BitVec.ofNat 2304 (ofBytes (mailBytes vf 0x40000 288 s)), nonces := f.nonces + 1 } s
    .next (post 2000 .debugTokenVerified { argVf vf with flag := above } (setRegN vf 0x40228 0 4 1 s))

/-- Bytes of a token. -/
def tokenField (t : BitVec 2304) (off n : Nat) : Nat := bitsN t (8 * off) (8 * n)
def tokenBytes (t : BitVec 2304) (off n : Nat) : List Byte := toBytes n (tokenField t off n)
/-- 96 bytes of two 48-byte big numbers, as a verifier takes them. -/
def pairOf (bs : List Byte) : BitVec 768 := BitVec.ofNat 768 (ofBytes bs)

/-- The checks of R228. -/
def tokenGood (vf : BitVec 7) (s : State) : Bool :=
  let f := fnAt vf s
  let t := f.token
  toBytes 48 (Config.sha384 (tokenBytes t 96 96)).toNat == mailBytes vf 0x40280 48 s &&
  tokenField t 0 48 == (Config.sha384 (toBytes 96 Config.deviceKey.toNat)).toNat &&
  tokenField t 48 1 == vf.toNat && decide (tokenField t 49 1 < 4) && tokenField t 50 6 == 0 &&
  decide (tick s < tokenField t 56 8) &&
  tokenField t 64 32 == (Config.nonce (vf.toNat * 2 ^ 32 + (f.nonces - 1))).toNat &&
  Config.ecdsaVerify (pairOf (tokenBytes t 96 96)) (Config.sha384 (tokenBytes t 0 192)) (pairOf (tokenBytes t 192 96))

/-- DEBUG_TOKEN_VERIFIED. -/
def execDebugTokenVerified (s : State) : Outcome State Fault Refusal :=
  let vf := s.ev.vf
  if s.ev.flag && tokenGood vf s then
    let f := fnAt vf s
    let until_ := tokenField f.token 56 8
    let s := setFn vf { f with tokenUntil := until_ } s
    .next (postAt (2 * (until_ + 1)) .debugAuthExpire (argVf vf)
      (setRegN vf 0x40228 0 4 (2 + 4 * tokenField f.token 49 1) s))
  else .next (setRegN vf 0x40228 0 4 3 s)

/-- Halls under some halt of a function. -/
def haltMask (vf : BitVec 7) (s : State) : Nat :=
  (List.range 16).foldl (fun m h => if (hallAt h s).halts.any (fun e => e.1 == vf.toNat) then m + 2 ^ h else m) 0

/-- The end of an authorisation: catch clears, halts are released, caught strands go to the pool, event 6. -/
def endAuth (vf : BitVec 7) (s : State) : State :=
  let s := setRegN vf 0x40230 0 1 0 (setRegN vf 0x40228 0 4 0 s)
  let s := if haltMask vf s = 0 then s
    else postAt (nextBoundary s) .hallHaltRelease { argVf vf with v := BitVec.ofNat 64 (haltMask vf s), n := 1#8 } s
  let s := s.strands.foldl (fun s e =>
    if sidVf e.1 == vf && e.2.run == .trapped && e.2.trapTo == 2#2 && e.2.trap.isNone then
      let t : Trap := ⟨BitVec.ofNat 8 (hdrN e.1 7 56 8 (withHeader e.1 s)), 0, 0, 0, 0, 0, 0, [], false⟩
      queueTrap vf e.1 t (modStrand e.1 (fun x => { x with trapTo := 0#2 }) s)
    else s) s
  pushDbg vf ⟨6, 0, 0, 0, 0⟩ s

def authorised (vf : BitVec 7) (right : Nat) (s : State) : Bool :=
  vf == 0#7 || (regN vf 0x40228 0 2 s == 2 && regN vf 0x40228 (2 + right) 1 s == 1)

/-- DBGSTAT_END. -/
def execDbgstatEnd (s : State) : Outcome State Fault Refusal :=
  hostWrite s fun s =>
  let vf := s.ev.vf
  .next (if bitB s.ev.v 4 ∧ regN vf 0x40228 0 2 s = 2 then endAuth vf s else s)

/-- DEBUG_AUTH_EXPIRE. -/
def execDebugAuthExpire (s : State) : Outcome State Fault Refusal :=
  let vf := s.ev.vf
  .next (if regN vf 0x40228 0 2 s = 2 ∧ (fnAt vf s).tokenUntil < tick s then endAuth vf s else s)

/-- DBGCTL_WRITE. -/
def execDbgctlWrite (s : State) : Outcome State Fault Refusal :=
  hostWrite s fun s =>
  let vf := s.ev.vf
  .next (if authorised vf 0 s then setRegN vf 0x40230 0 1 (bitsN s.ev.v 0 1) s else s)

/-- DBGKEY_WRITE: `wide` is the hash; a write of one of its words through REGISTER_WRITE counts as the first for that word
(log 46). -/
def execDbgkeyWrite (s : State) : Outcome State Fault Refusal :=
  hostWrite s fun s =>
  let vf := s.ev.vf
  let f := fnAt vf s
  if f.keySet ≠ 0#6 then .next s
  else
    let s := setFn vf { f with keySet := 0x3F#6 } s
    .next ((List.range 6).foldl (fun s i => setReg vf (0x40280 + 8 * i) (BitVec.ofNat 64 (bitsN s.ev.wide (64 * i) 64)) s) s)

/-- DBGEV: the oldest event queued. -/
def dbgEvent (vf : BitVec 7) (s : State) : Word :=
  match (fnAt vf s).events with
  | [] => 0#64
  | e :: _ => BitVec.ofNat 64 (e.ev.toNat + 2 ^ 4 * e.hall.toNat + 2 ^ 8 * e.bar.toNat + 2 ^ 12 * e.lvl.toNat)
/-- DBGEV_READ. -/
def execDbgevRead (s : State) : Outcome State Fault Refusal :=
  let vf := s.ev.vf
  let f := fnAt vf s
  match f.events with
  | [] => hostReadClear 0#64 s s
  | e :: rest => hostReadClear (dbgEvent vf s) (setReg vf 0x40270 (e.addr.setWidth 64) (setFn vf { f with events := rest } s)) s

/-! ### Strand commands (R229, R232) -/

def dbgRes (vf : BitVec 7) (code : Nat) (s : State) : State := setRegN vf 0x40248 0 3 code s
/-- The strand STRSEL names. -/
def selStrand (vf : BitVec 7) (s : State) : Nat :=
  sid (if vf = 0#7 then BitVec.ofNat 7 (regN 0 0x40238 56 7 s) else vf) (BitVec.ofNat 56 (regN vf 0x40238 0 56 s))

/-- A strand command: authorisation, the power state, a VF's name of no strand of its own (code 2), a stop still to be
taken (code 5), then the command; where the manual names no case for codes 2 and 5 the model chose these (log 46). -/
def strandCommand (f : Nat → State → Option State) (s : State) : Outcome State Fault Refusal :=
  hostWrite s fun s =>
  let vf := s.ev.vf
  if !authorised vf 0 s then .next (dbgRes vf 1 s)
  else if s.power ≠ .on then .next (dbgRes vf 4 s)
  else if vf ≠ 0#7 ∧ tfind s.strands (selStrand vf s) = none then .next (dbgRes vf 2 s)
  else if (strandAt (selStrand vf s) s).stopReq then .next (dbgRes vf 5 s)
  else
    match f (selStrand vf s) s with
    | some s => .next (dbgRes vf 0 s)
    | none => .next (dbgRes vf 3 s)

/-- A caught strand, its trap delivered. -/
def caught (k : Nat) (s : State) : Bool :=
  let t := strandAt k s
  t.run == .trapped && t.trapTo == 2#2 && t.trap.isNone

/-- Resumes a caught strand by a disposition. -/
def resumeCaught (disp : Nat) (k : Nat) (s : State) : Option State :=
  if !caught k s then none
  else
    let h := coreHall (strandAt k s).core
    match openLine k 0 h s with
    | .error _ => none
    | .ok s =>
      match openLine k 81 h s with
      | .error _ => none
      | .ok s =>
        let s := modStrand k (fun x => { x with core := returnCore k s }) s
        some (releaseAfter k (returnTrapped k disp (wakeResult k (wakeCauses k 0 s) s)))

/-- STRCMD_STOP. -/
def execStrcmdStop (s : State) : Outcome State Fault Refusal :=
  strandCommand (fun k s =>
    match (strandAt k s).run with
    | .unborn | .trapped | .exited | .lost => none
    | _ => some (modStrand k (fun t => { t with stopReq := true }) s)) s
/-- STRCMD_RESUME. -/
def execStrcmdResume (s : State) : Outcome State Fault Refusal := strandCommand (resumeCaught 0) s
/-- STRCMD_RESUME_RPC. -/
def execStrcmdResumeRpc (s : State) : Outcome State Fault Refusal := strandCommand (resumeCaught 2) s
/-- STRCMD_STEP: the step bit of line 82 is set, with present bit 41 so that it is fetched (R224). -/
def execStrcmdStep (s : State) : Outcome State Fault Refusal :=
  strandCommand (fun k s =>
    if !caught k s then none
    else
      let h := coreHall (strandAt k s).core
      match openLine k 82 h s with
      | .error _ => none
      | .ok s =>
        let s := putWordAnywhere k 0x1480 h (setBits (cachedWord k 0x1480 s) 0 1 1) s
        resumeCaught 0 k (setHdrN k 6 41 1 1 (withHeader k s))) s
/-- STRCMD_END. -/
def execStrcmdEnd (s : State) : Outcome State Fault Refusal :=
  strandCommand (fun k s => if caught k s then some (releaseAfter k (endStrand k s)) else none) s

/-! ### Halls (R230, R231): `v` is the word written to HALTREQ -/

/-- HALTSTAT of a function. -/
def haltStat (vf : BitVec 7) (s : State) : State :=
  let mask (full : Bool) : Nat :=
    (List.range 16).foldl (fun m h => if (hallAt h s).halts.contains (vf.toNat, full) then m + 2 ^ h else m) 0
  setReg vf 0x40258 (BitVec.ofNat 64 (mask true + 2 ^ 16 * mask false)) s

/-- The watchdog's next look at a hall. -/
def watchHall (vf : BitVec 7) (h : Nat) (s : State) : State :=
  let us := regN vf 0x40260 0 32 s
  if us = 0 then s else post (2000 * us) .barrierWatchdog { argVf vf with hall := BitVec.ofNat 4 h } s

/-- A release of a function's halts has still to take effect. -/
def releasePending (vf : BitVec 7) (s : State) : Bool :=
  s.agenda.any (fun d => d.ev == .hallHaltRelease && d.args.vf == vf && d.args.n == 1#8)
/-- A strand the halt of hall h stops is still between two boundaries. -/
def comingToRest (full : Bool) (vf : BitVec 7) (h : Nat) (s : State) : Bool :=
  s.strands.any (fun e => coreHall e.2.core == h && e.2.run == .resident && (full || sidVf e.1 == vf) &&
    (match e.2.wait with
      | .reply g => !(groupReqs g s).any (fun r => r.2.waiting)
      | .answered _ _ _ => true
      | .message _ => true
      | .lanes _ => true
      | _ => false))

/-- HALL_HALT asked for: a hall in which the function owns no island is another function's (code 2), and a halt asked for while a
release is still to take effect is answered busy (code 5; log 46). -/
def askHalt (s : State) : Outcome State Fault Refusal :=
  hostWrite s fun s =>
  let vf := s.ev.vf
  let s := setReg vf 0x40250 (s.ev.v &&& 0xFFFF#64) s
  if !authorised vf 1 s then .next (dbgRes vf 1 s)
  else if s.power ≠ .on then .next (dbgRes vf 4 s)
  else if vf ≠ 0#7 ∧ (hallsOf s.ev.v).any (fun h => (List.range 4).all (fun q => islandOwner (4 * h + q) s != vf)) then
    .next (dbgRes vf 2 s)
  else if releasePending vf s then .next (dbgRes vf 5 s)
  else
    let s := (hallsOf s.ev.v).foldl (fun s h =>
      let x := hallAt h s
      if x.halts.any (fun e => e.1 == vf.toNat) then s
      else
        let full := vf == 0#7 || (List.range 4).all (fun q => islandOwner (4 * h + q) s == vf)
        let s := setHall h { x with halts := x.halts ++ [(vf.toNat, full)] } s
        let s := post 1 .hallHalt { argVf vf with hall := BitVec.ofNat 4 h, n := 1#8 } s
        let s := match partOf h s with | some n => askHold n 3 s | none => s
        watchHall vf h s) s
    .next (haltStat vf (dbgRes vf 0 s))

/-- HALL_HALT: asked for with `n` = 0; with `n` = 1 event 4, once the strands of `hall` it stops are at a boundary (R230). -/
def execHallHalt (s : State) : Outcome State Fault Refusal :=
  if s.ev.n = 0#8 then askHalt s
  else
    let vf := s.ev.vf
    let h := s.ev.hall.toNat
    match (hallAt h s).halts.find? (fun e => e.1 == vf.toNat) with
    | none => .next s
    | some (_, full) =>
      .next (if comingToRest full vf h s then post 1 .hallHalt s.ev s else pushDbg vf ⟨4, BitVec.ofNat 4 h, 0, 0, 0⟩ s)

/-- A hall's cores look for work again, and strands held by its halt become ready. -/
def wakeHall (h : Nat) (s : State) : State :=
  let s := s.strands.foldl (fun s e =>
    if coreHall e.2.core == h && e.2.run == .held && e.2.hold == 9#4 then post 1 .strandWake (argStrand e.1) s else s) s
  (List.range 256).foldl (fun s i => lookForWork (256 * h + i) s) s

/-- HALL_HALT_RELEASE: asked for with `n` = 0, in effect at the next boundary with `n` = 1. -/
def execHallHaltRelease (s : State) : Outcome State Fault Refusal :=
  let vf := s.ev.vf
  if s.ev.n = 0#8 then
    hostWrite s fun s =>
    let s := setReg vf 0x40250 (s.ev.v &&& 0xFFFF#64) s
    if !authorised vf 1 s then .next (dbgRes vf 1 s)
    else if releasePending vf s then .next (dbgRes vf 5 s)
    else .next (postAt (nextBoundary s) .hallHaltRelease { s.ev with n := 1#8 } (dbgRes vf 0 s))
  else
    let s := (hallsOf s.ev.v).foldl (fun s h =>
      let x := hallAt h s
      let s := setHall h { x with halts := x.halts.filter (fun e => e.1 != vf.toNat) } s
      let s := match partOf h s with | some n => askRelease n s | none => s
      wakeHall h s) s
    .next (haltStat vf s)

/-- A barrier instance includes a hall. -/
def instanceHas (key h : Nat) : Bool :=
  let inst := key % 2 ^ 20 / 16
  match key / 2 ^ 20 with
  | 3 => inst / 64 == h
  | 4 => inst == h
  | 5 => true
  | 6 => true
  | _ => false
/-- A hall holds a strand or engine of a launch. -/
def hallHolds (lid h : Nat) (s : State) : Bool :=
  s.strands.any (fun e => e.2.launch == lid && coreHall e.2.core == h && e.2.run != .exited) ||
  s.quads.any (fun e => e.1 / 64 == h && (e.2.tiles.any (fun t => t.launch == lid) ||
    (e.2.copies ++ e.2.active).any (fun j => j.launch == lid) ||
    (match e.2.running with | some t => t.launch == lid | none => false)))

/-- BARRIER_WATCHDOG of a halted hall: event 3 for each overdue barrier, whose instance has no lower hall halted by the function,
and each halted hall with work of its launch (R231). -/
def execBarrierWatchdog (s : State) : Outcome State Fault Refusal :=
  let vf := s.ev.vf
  let h := s.ev.hall.toNat
  let us := regN vf 0x40260 0 32 s
  let halted (g : Nat) : Bool := (hallAt g s).halts.any (fun e => e.1 == vf.toNat)
  if us = 0 ∨ !halted h then .next s
  else
    let late := s.barriers.filter (fun e => e.2.armed && instanceHas e.1 h &&
      !(List.range h).any (fun g => halted g && instanceHas e.1 g) && decide (e.2.since + 2000 * us ≤ s.wheel))
    let s := late.foldl (fun s e =>
      ((List.range 16).filter (fun g => halted g && hallHolds e.2.launch g s)).foldl
        (fun s g => pushDbg vf ⟨3, BitVec.ofNat 4 g, BitVec.ofNat 4 (e.1 % 16), BitVec.ofNat 3 (e.1 / 2 ^ 20 - 1),
          BitVec.ofNat 56 (e.1 % 2 ^ 20 / 16)⟩ s) s) s
    .next (watchHall vf h s)

end Sys2Proof.Machine
end

