-- ==== Sys2Proof/Machine/PowerEvents.lean ====
section
/-! DEFINITION. PowerEvents: sensors, metering, quotas, current limits, the store, island ownership, the emergency save and
the rail cut (R19, R43, R68 to R88, R167, R223). -/

namespace Sys2Proof.Machine

open Host

/-! ### Sensors (R19, R43, R69): `id` is the quadrant, `v` the reading in °C -/

/-- A gallery reading in the quadrant's entry. -/
def galTemp (i t : Nat) (s : State) : State := setIslandN i 50 8 (85 - t) (setIslandN i 32 8 t s)

/-- A junction reading. -/
def jctTemp (i t : Nat) (s : State) : State := setIslandN i 40 8 t s

/-- The compute cores of a quadrant. -/
def quadrantCores (i : Nat) : List Nat :=
  ((List.range 256).map (fun c => 256 * (i / 4) + c)).filter (fun c => coreQuadrant c == i)

/-- Subject of kinds 5 and 6 (R112). -/
def slotSubject (c : Nat) : Word := BitVec.ofNat 64 (2 ^ 32 * (c % 256) + 2 ^ 40 * (c / 256))
/-- The removal or restoration of one slot of one core in the log of its partition. -/
def logSlot (c b : Nat) (on : Bool) (s : State) : State :=
  match partOf (coreHall c) s with
  | some n => logAction n (if on then 6 else 5) (slotSubject c) (BitVec.ofNat 64 b) s
  | none => s

/-- A core's highest barrel slot in rotation goes from `old` to `top` (R79): strands of removed slots are parked. -/
def turnSlots (c old top : Nat) (s : State) : State :=
  if top < old then
    (List.range (old - top)).foldl (fun s j =>
      let b := old - j
      let s := logSlot c b false s
      match slotHolder c b s with
      | some k => askLeave k (modStrand k (fun t => if t.stall.isNone then { t with hold := 0 } else t) s)
      | none => s) s
  else
    let s := (List.range (top - old)).foldl (fun s j => logSlot c (old + 1 + j) true s) s
    post 1 .slotSelect (argCore c) s

/-- The rotation that the hall's throttle in D-mode and R78 step 4 leave a quadrant. -/
def topFor (i : Nat) (s : State) : Nat :=
  let hot : Bool := islandN i 49 1 s == 1 && islandInPart i s
  min (if hot then 1 else 7) (7 - s.ctl.removed)

/-- Brings the rotation of halls to what it shall be, core by core in the order of the log's subjects (R112). -/
def retop (gs : List Nat) (s : State) : State :=
  let moved := (gs.flatMap (fun g => (List.range 4).map (fun q => 4 * g + q))).filter (fun i => islandN i 5 3 s != topFor i s)
  if moved.isEmpty then s
  else
    let t := moved.foldl (fun t i => setIslandN i 5 3 (topFor i s) t) s
    gs.foldl (fun t g => (List.range 256).foldl (fun t c =>
      let c := 256 * g + c
      let i := coreQuadrant c
      if moved.contains i then turnSlots c (islandN i 5 3 s) (topFor i s) t else t) t) t

/-- Every lease of a hall ends early. -/
def endHallLeases (g : Nat) (s : State) : State :=
  (List.range 4).foldl (fun s q => if islandN (4 * g + q) 8 1 s = 1 then endLease (4 * g + q) true s else s) s
/-- Sets or clears the hall's throttle. -/
def throttle (g : Nat) (on : Bool) (s : State) : State :=
  let s := (List.range 4).foldl (fun s q => setIslandN (4 * g + q) 49 1 (if on then 1 else 0) s) s
  (List.range 4).foldl (fun s q => repoint (4 * g + q) s) (retop [g] s)

/-- Refresh of a quadrant's vaults, or with `stack` of its hall's HBM4E stack, doubles or returns: the positions follow at the
boundary (R43). -/
def setDouble (i : Nat) (stack on : Bool) (s : State) : State :=
  let was := if stack then (islandAt i s).stackDbl else islandN i 48 1 s == 1
  if was = on then s
  else
    let s := if stack then setIsland i { islandAt i s with stackDbl := on } s else setIslandN i 48 1 (if on then 1 else 0) s
    postAt (nextBoundary s) (if on then .withdrawableSuspendBegin else .withdrawableSuspendEnd) { argId i with stack := stack } s
/-- A quadrant's gallery begins or ends its part in the hall's throttle, which goes when no gallery of the hall holds it. -/
def setHot (i : Nat) (on : Bool) (s : State) : State :=
  if (islandAt i s).hot = on then s
  else
    let s := setIsland i { islandAt i s with hot := on } s
    if on then endHallLeases (i / 4) (throttle (i / 4) true s)
    else if (List.range 4).any (fun q => (islandAt (4 * (i / 4) + q) s).hot) then s else throttle (i / 4) false s

/-- A reading of the sensor of a hall's HBM4E stack (R43). -/
def readStack (i t : Nat) (s : State) : State :=
  if 85 ≤ t then setDouble i true true s else if t < 80 then setDouble i true false s else s
/-- A gallery reading, and what R19 makes of it: both actions where both thresholds are crossed. -/
def readGallery (i t : Nat) (s : State) : State :=
  let s := galTemp i t s
  let s := if 85 ≤ t then setDouble i false true s else if t < 80 then setDouble i false false s else s
  if 95 ≤ t then setHot i true s else if t < 90 then setHot i false s else s
/-- GALLERY_85C_CROSSING: quadrant `id` reads `v`; `stack` names the sensor of its hall's HBM4E stack. -/
def execGallery85cCrossing (s : State) : Outcome State Fault Refusal :=
  .next (if s.ev.stack then readStack s.ev.id s.ev.v.toNat s else readGallery s.ev.id s.ev.v.toNat s)
/-- GALLERY_80C_RELEASE. -/
def execGallery80cRelease (s : State) : Outcome State Fault Refusal :=
  .next (if s.ev.stack then readStack s.ev.id s.ev.v.toNat s else readGallery s.ev.id s.ev.v.toNat s)
/-- GALLERY_95C_THROTTLE. -/
def execGallery95cThrottle (s : State) : Outcome State Fault Refusal := .next (readGallery s.ev.id s.ev.v.toNat s)
/-- GALLERY_90C_RELEASE. -/
def execGallery90cRelease (s : State) : Outcome State Fault Refusal := .next (readGallery s.ev.id s.ev.v.toNat s)

/-! ### Points, leases and the store (R70, R80, R82) -/

/-- ISLAND_FREQ_CHANGE. -/
def execIslandFreqChange (s : State) : Outcome State Fault Refusal :=
  let i := s.ev.id
  let f := islandPoint i s
  let s := if islandN i 0 5 s < f then setIsland i { islandAt i s with raised := s.wheel } s else s
  .next (setIslandN i 0 5 f s)

/-- One segment's new fraction (R80, R82). -/
def meltSegment (g frac : Nat) (s : State) : State :=
  if regN 0 (0x30300 + 8 * g) 17 1 s = 0 then s
  else
    let s := setRegN 0 (0x30300 + 8 * g) 0 16 frac s
    let s := if 0xF334 ≤ frac then setRegN 0 (0x30300 + 8 * g) 16 1 1 s
      else if frac ≤ 0x6666 then setRegN 0 (0x30300 + 8 * g) 16 1 0 s else s
    if 0xFD71 ≤ frac then endHallLeases g s else s
/-- MELT_UPDATE: `pairs` are segments and what their sensors read. -/
def execMeltUpdate (s : State) : Outcome State Fault Refusal :=
  .next (s.ev.pairs.foldl (fun s p => meltSegment (p.1 % 16) (p.2 % 2 ^ 16) s) s)

/-- LEASE_EXPIRY: `v` is the end the lease had when it was granted. -/
def execLeaseExpiry (s : State) : Outcome State Fault Refusal :=
  let i := s.ev.id
  .next (if islandN i 8 1 s = 1 ∧ (islandAt i s).leaseEnd = s.ev.v.toNat then endLease i false s else s)

/-- SPRINTMAX_WRITE: by the hypervisor alone (`flag`, or the PF's own page). -/
def execSprintmaxWrite (s : State) : Outcome State Fault Refusal :=
  hostWrite s fun s =>
  let vf := s.ev.vf
  if vf ≠ 0#7 ∧ !s.ev.flag then .next s
  else
    let l := bitsN s.ev.v 0 3
    let s := setRegN vf 0x30060 0 3 l s
    .next ((List.range 64).foldl (fun s i =>
      if islandN i 8 1 s = 1 ∧ islandOwner i s = vf ∧ l < islandN i 9 3 s then endLease i true s else s) s)

/-! ### Energy and quotas (R73 to R76) -/

/-- Takes the whole µJ of a charge. -/
def takeCharge (key : Nat) (s : State) : Nat × State :=
  let m := tget s.meter key 0
  (m / 1000000, { s with meter := tput s.meter key (m % 1000000) })

/-- A launch's charge: at its quota it becomes exhausted, and its strands have the trap pending (R76). -/
def chargeLaunch (lid : Nat) (s : State) : State :=
  match tfind s.launches lid with
  | none => s
  | some l =>
    let (c, s) := takeCharge (2 * lid + 1) s
    let u := min (2 ^ 64 - 1) (l.used + c)
    let s := setLaunch lid { l with used := u } s
    if l.quota = 0 ∨ u < l.quota ∨ l.exhausted = true then s
    else
      let s := raiseCause l.vf 3 (setLaunch lid { l with used := u, exhausted := true } s)
      s.strands.foldl (fun s e =>
        if e.2.launch == lid && e.2.run != .exited then setHdrN e.1 3 11 1 1 (withHeader e.1 s) else s) s

/-- EPERIOD in slots. -/
def energyPeriod (vf : BitVec 7) (s : State) : Nat := 2000 * max 1 (min 10000 (regN vf 0x30008 0 14 s))

/-- The function's next update; there is one on its way. -/
def armEnergy (vf : BitVec 7) (s : State) : State :=
  post (energyPeriod vf s) .energyUpdate (argVf vf) (unpost (fun d => d.ev == .energyUpdate && d.args.vf == vf) s)
/-- A function's share of the static power of an island over a period in µs: by occupied barrel slots, or the PF's where none is
occupied; the slots are those occupied at the update (R73; log 49). -/
def staticShare (vf : BitVec 7) (us i : Nat) (s : State) : Nat :=
  let here := s.strands.filter (fun e => e.2.slot.isSome && coreQuadrant e.2.core == i)
  let e := Config.energy 6 (us * 32 + islandN i 0 5 s)
  if here.isEmpty then (if vf = 0#7 then e else 0)
  else e * here.countP (fun x => sidVf x.1 == vf) / here.length

/-- ENERGY_UPDATE. -/
def execEnergyUpdate (s : State) : Outcome State Fault Refusal :=
  let vf := s.ev.vf
  let st := (List.range 64).foldl (fun a i => a + staticShare vf (energyPeriod vf s / 2000) i s) 0
  let key := 2 * vf.toNat
  let (c, s) := takeCharge key { s with meter := tput s.meter key (tget s.meter key 0 + st) }
  let s := setReg vf 0x30000 (BitVec.ofNat 64 (min (2 ^ 64 - 1) ((reg vf 0x30000 s).toNat + c))) s
  let s := ((s.launches.filter (fun e => e.2.vf == vf)).map Prod.fst).foldl (fun s lid => chargeLaunch lid s) s
  .next (armEnergy vf s)

/-- ENERGYSET_WRITE. -/
def execEnergysetWrite (s : State) : Outcome State Fault Refusal :=
  hostWrite s fun s =>
  .next (if s.ev.vf ≠ 0#7 ∧ !s.ev.flag then s else setReg s.ev.vf 0x30000 s.ev.v s)

/-- QADD_WRITE. -/
def execQaddWrite (s : State) : Outcome State Fault Refusal :=
  hostWrite s fun s =>
  let vf := s.ev.vf
  let region := regN vf 0x300A0 13 43 s * 2 ^ 13
  match s.launches.find? (fun e => e.2.vf == vf && pkCtx e.2.packet == region) with
  | none => .next s
  | some (lid, l) =>
    let q := min (2 ^ 64 - 1) (l.quota + s.ev.v.toNat)
    let s := setLaunch lid { l with quota := q, exhausted := l.exhausted && decide (q ≤ l.used) } s
    .next (resumeHeld vf s)

/-! ### Current limits (R17, R78) -/

/-- Island to lower next: not in D-mode, above 0.8 GHz, most recently raised. -/
def lowerNext (s : State) : Option Nat :=
  (((List.range 64).filter (fun i => !islandInPart i s && decide (8 < islandPoint i s))).foldl (fun (b : Option Nat) i =>
    match b with
    | some j => if (islandAt j s).raised < (islandAt i s).raised then some i else some j
    | none => some i) none)
/-- Island to raise back first. -/
def raiseNext (s : State) : Option Nat := (List.range 64).find? (fun i => 0 < (islandAt i s).lowered)
/-- Hall with a lease in force and the highest melt fraction. -/
def hottestLease (s : State) : Option Nat :=
  (((List.range 16).filter (fun g => (List.range 4).any (fun q => islandN (4 * g + q) 8 1 s == 1))).foldl
    (fun (b : Option Nat) g =>
      match b with
      | some j => if meltFrac j s < meltFrac g s then some g else some j
      | none => some g) none)
/-- Every quadrant's rotation after a change of step 4. -/
def retopAll (s : State) : State := retop (List.range 16) s

/-- One more slot goes everywhere (step 4). -/
def removeSlot (s : State) : State := retopAll { s with ctl := { s.ctl with step := 4, removed := min 7 (s.ctl.removed + 1) } }
/-- The next action while a limit would be passed. -/
def limitAction (s : State) : State :=
  if !s.ctl.refuse then { s with ctl := { s.ctl with step := 1, refuse := true } }
  else
    match hottestLease s with
    | some g => endHallLeases g { s with ctl := { s.ctl with step := 2 } }
    | none =>
      match lowerNext s with
      | some i => repoint i (setIsland i { islandAt i s with lowered := (islandAt i s).lowered + 1 }
          { s with ctl := { s.ctl with step := 3 } })
      | none => removeSlot s
/-- Undoes the last action. -/
def undoAction (s : State) : State :=
  if 0 < s.ctl.removed then retopAll { s with ctl := { s.ctl with removed := s.ctl.removed - 1 } }
  else
    match raiseNext s with
    | some i => repoint i (setIsland i { islandAt i s with lowered := (islandAt i s).lowered - 1 }
        { s with ctl := { s.ctl with step := 3 } })
    | none => { s with ctl := { s.ctl with step := 0, refuse := false } }

/-! ### Owners (R167): `id` is the offset written, or the quadrant -/

/-- The strand's launch is suspended: a vacate has taken it off its cores (R106). -/
def setAside (x : Strand) (s : State) : Bool := match tfind s.launches x.launch with | some l => l.suspended | none => false
/-- The quadrant holds work of a function: a strand, a candidate, a tile task or a copy; what a vacate has suspended is not in it
(R106). -/
def quadrantBusy (i : Nat) (vf : BitVec 7) (s : State) : Bool :=
  s.strands.any (fun e => sidVf e.1 == vf && coreQuadrant e.2.core == i && e.2.run != .exited && e.2.run != .unborn &&
    e.2.run != .lost && !(setAside e.2 s && e.2.slot.isNone)) ||
  s.launches.any (fun e => e.2.vf == vf && !e.2.suspended && (List.range e.2.places.length).any (fun k =>
    coreQuadrant (placeOf e.2 k) == i && (nextIndex e.2 k).isSome)) ||
  s.quads.any (fun e => (quadrantCores i).any (fun c => coreQuad c == e.1) && (!e.2.tiles.isEmpty || !e.2.copies.isEmpty ||
    !e.2.active.isEmpty || e.2.running.isSome))

/-- ISLAND_OWNER_WRITE. -/
def execIslandOwnerWrite (s : State) : Outcome State Fault Refusal :=
  let i := (s.ev.id - 0x30900) / 8 % 64
  if s.ev.vf ≠ 0#7 then .next s
  else
    let s := setIsland i { islandAt i s with newOwner := some (BitVec.ofNat 7 (bitsN s.ev.v 0 7)) } s
    .next (post 1 .ownerChange (argId i) (unpost (fun d => d.ev == .ownerChange && d.args.id == i) s))

/-- OWNER_CHANGE. -/
def execOwnerChange (s : State) : Outcome State Fault Refusal :=
  let i := s.ev.id
  match (islandAt i s).newOwner with
  | none => .next s
  | some o =>
    let old := islandOwner i s
    if o = old then .next (setIsland i { islandAt i s with newOwner := none } s)
    else if quadrantBusy i old s then .next (post 1024 .ownerChange (argId i) s)
    else
      let s := setIsland i { islandAt i s with newOwner := none } s
      let s := setRegN 0 (0x30900 + 8 * i) 0 7 o.toNat s
      let s := (quadrantCores i).foldl (fun s c =>
        let s := clearPad c s
        setCore c { coreAt c s with codebook := 0, rng := 1#32, barred := [] } s) s
      let s := ((quadrantCores i).map coreQuad).eraseDups.foldl (fun s q =>
        setQuad q { quadAt q s with lastB := none, buf := [] } s) s
      let s := { s with streams := s.streams.filter (fun e => !(quadrantCores i).contains e.2.core) }
      .next (post 1 .handlerHandover (argVf o) (repoint i s))

/-- SAVELIST_READ. -/
def execSavelistRead (s : State) : Outcome State Fault Refusal :=
  let vf := s.ev.vf
  let f := fnAt vf s
  hostReadClear ((f.lost.head?).getD 0#64) (setFn vf { f with lost := f.lost.drop 1 } s) s

/-! ### The emergency save (R84 to R86) -/

/-- The save area of a hall. -/
def saveBase (h : Nat) (s : State) : Nat := 2 ^ 48 + h * 2 ^ 36 + regN 0 0x30380 30 6 s * 2 ^ 30
def saveWord (h off : Nat) (s : State) : Nat := memVal (keyOf 0#7 s) (saveBase h s + off) 8 s
def putSave (h off v : Nat) (s : State) : State := memWrite (keyOf 0#7 s) (saveBase h s + off) (toBytes 8 v) s
/-- Entry e of a hall's save record, without its sealed bit. -/
def saveEntry (h e : Nat) (s : State) : Nat := saveWord h (4096 + 16 * e) s % 2 ^ 63
/-- Contexts already in the record. -/
def savedContexts (h : Nat) (s : State) : List Nat := (List.range (saveWord h 16 s)).map (fun e => saveEntry h e s)

/-- The next context of a priority with lines in the hall's caches and no entry yet. -/
def nextContext (h p : Nat) (s : State) : Option Nat :=
  let here (ln : Line) : Bool := ln.rc.any (fun c => coreHall c.place == h) || (hcAt h ln).isSome
  let done := savedContexts h s
  (s.lines.find? (fun e => here e.2 && !done.contains (keySid e.1) && basePrio (keySid e.1) s == p)).map (fun e => keySid e.1)

/-- One context: its entry, and its lines on their way to the record. -/
def saveContext (h p k : Nat) (s : State) : State :=
  let e := saveWord h 16 s
  let s := putSave h (4096 + 16 * e) k s
  let s := putSave h (4096 + 16 * e + 8) p s
  let s := putSave h 16 (e + 1) s
  let (ok, s) := writeBackRest k s
  if !ok then s
  else
    (writeBackHeader k (withHeader k s)).2
/-- The last entry of a hall's record is sealed, where every line of the context is in memory (R84, R85). -/
def sealEntry (h : Nat) (s : State) : State :=
  let off := 4096 + 16 * (saveWord h 16 s - 1)
  let k := saveWord h off s % 2 ^ 63
  if uncached k s then putSave h off (k + 2 ^ 63) s else s
/-- Lines of the last entry's context are on their way to memory. -/
def entryOut (h : Nat) (s : State) : Bool := writeBacksOut (saveEntry h (saveWord h 16 s - 1) s) s

/-- Priority of the launch that bound a window. -/
def windowPrio (w : Window) (s : State) : Nat :=
  match s.launches.find? (fun e => e.2.vf == w.vf && pkCtx e.2.packet == w.owner.toNat) with
  | some e => pkPrio e.2.packet
  | none => 0
/-- Windows of a hall, dirty or being written back, whose launches have a priority; one whose write-back failed stays. -/
def hallWindows (h p : Nat) (s : State) : List (Nat × Nat) :=
  (List.range 256).flatMap (fun i =>
    let c := 256 * h + i
    ((coreAt c s).windows.filter (fun e => windowPrio e.2 s == p && e.2.state == 3#2 && (!e.2.err || e.2.busy))).map
      (fun e => (c, e.1)))

/-- The image of a core's scratchpad in the save area, under its owner's key. -/
def savePad (h i : Nat) (s : State) : State :=
  let c := 256 * h + i
  let vf := islandOwner (coreQuadrant c) s
  let base := saveBase h s + 2 ^ 28 + 2 ^ 21 * i
  let s := clearRange (keyOf vf s) base (2 ^ 21) s
  let cells := (s.spad.filter (fun e => decide (spadKey c 0 ≤ e.1) && decide (e.1 < spadKey c 0 + 2 ^ 21))).map
    (fun e => (base + (e.1 - spadKey c 0), e.2))
  let s := { s with mem := s.mem.filter (fun e => decide (e.1 < base)) ++ cells ++ s.mem.filter (fun e => decide (base ≤ e.1)) }
  memWrite (keyOf 0#7 s) (saveBase h s + 64 + i) [BitVec.ofNat 8 (1 + 2 * vf.toNat)] s

/-- What every debugger's halt comes to when a save begins (R232). -/
def endHalts (s : State) : State :=
  (List.range 16).foldl (fun s h =>
    let x := hallAt h s
    let s := x.halts.foldl (fun s e => pushDbg (BitVec.ofNat 7 e.1) ⟨5, BitVec.ofNat 4 h, 0, 0, 0⟩ s) s
    let s := setHall h { x with halts := [] } s
    x.halts.foldl (fun s e => haltStat (BitVec.ofNat 7 e.1) s) s) s

/-- The save areas as a save or a cut finds them: zero but for the state and the time (R86). -/
def openAreas (state : Nat) (s : State) : State :=
  (List.range 16).foldl (fun s h =>
    putSave h 8 (tick s) (putSave h 0 state (clearRange (keyOf 0#7 s) (saveBase h s) (2 ^ 30) s))) s

/-- The save begins: issue stops, leases end, islands drop; the halls start once tile tasks and copies have come to rest (R84). -/
def beginSave (s : State) : State :=
  let s := { s with power := .saving }
  let s := (List.range 64).foldl (fun s i => if islandN i 8 1 s = 1 then endLease i true s else repoint i s) s
  let s := endHalts s
  let s := (List.range 16).foldl (fun s n => if regN 0 (0x2200 + 8 * n) 23 1 s = 1 then holdPart n 4 s else s) s
  let s := if s.snap.busy then
      setRegN 0 0x60618 0 4 4 { unpost (fun d => d.ev == .snapshotTaken || d.ev == .snapshotTake) s with
        snap := { s.snap with busy := false, held := false } }
    else s
  post 1 .emergencySave { EvArgs.none with flag := true, n := 2#8 } s

/-- Nothing is under way that would bring lines or data to a core: tile tasks have completed, copies paused, accesses of strands
ended, and lines on the transit channel arrived. -/
def atRest (s : State) : Bool :=
  s.quads.all (fun e => e.2.running.isNone && e.2.active.all (fun j => j.back)) &&
  s.reqs.all (fun e => e.2.arrived || e.2.peer.isSome) &&
  s.tmsgs.all (fun e => match e.2.kind with
    | .carry | .lineRequest | .lineReply | .lineWriteback | .writebackAck | .controlDelta => false
    | _ => true)
/-- Requests that wait for a condition are withdrawn: their instructions have taken no effect (R320). -/
def withdrawAll (s : State) : State :=
  s.reqs.foldl (fun s e => if e.2.waiting ∧ e.2.peer.isNone then withdrawReq e.1 s else s) s

/-- SAVESTAT becomes 1 and every hall begins its record, once the module is at rest. -/
def startSave (s : State) : State :=
  let s := withdrawAll s
  if !atRest s then post 64 .emergencySave s.ev s
  else
    let s := openAreas 1 (setRegN 0 0x30388 0 2 1 s)
    (List.range 16).foldl (fun s h => post 1000 .emergencySave { argHall h with flag := true, w := 7#64 } s) s

/-- One hall's next piece of work: contexts of a priority, each sealed once its lines are in memory (`stack` marks one still to
be), then its windows, then the scratchpads. -/
def saveMore (a : EvArgs) (s : State) : State :=
  let h := a.hall.toNat
  let p := a.w.toNat
  let on (s : State) : State :=
    post 1 .emergencySave (if p = 0 then { a with n := 1#8, id := 0 } else { a with w := BitVec.ofNat 64 (p - 1) }) s
  if a.n = 0#8 then
    if a.stack then
      if entryOut h s then post 100 .emergencySave a s else post 1 .emergencySave { a with stack := false } (sealEntry h s)
    else
      match nextContext h p s with
      | some k => post 1000 .emergencySave { a with stack := true } (saveContext h p k s)
      | none =>
        let ws := hallWindows h p s
        let s := ws.foldl (fun s e =>
          let w := windowAt e.1 e.2 s
          if w.busy then s else match startWindow (sid w.vf w.owner) e.1 e.2 true s with | .started s => s | _ => s) s
        if ws.any (fun e => (windowAt e.1 e.2 s).busy) then post 1000 .emergencySave a s else on s
  else if a.id < 256 then
    post 1000 .emergencySave { a with id := a.id + 1 } (savePad h a.id s)
  else
    let s := putSave h 0 2 s
    if s.agenda.any (fun d => d.ev == .emergencySave && d.args.flag) then s
    else post 1 .saveComplete EvArgs.none s

/-- SAVE_COMPLETE. -/
def execSaveComplete (s : State) : Outcome State Fault Refusal :=
  if s.power ≠ .saving then .next s
  else .next (raiseCause 0 6 (setRegN 0 0x30388 0 2 2 { s with power := .saved }))

/-! ### The rail cut and the resume (R84, R87, R88, R223) -/

/-- What lives on the core rails is gone: caches, scratchpads, engines, requests under way. -/
def cutState (s : State) : State :=
  { s with
    power := .cut
    agenda := s.agenda.filter (fun d => d.ev != .emergencySave && d.ev != .saveComplete && d.ev != .copyChunk &&
      d.ev != .tileTaskStart && d.ev != .tileTaskComplete)
    lines := [], lineErr := [], spad := [], spadEmpty := [], spadErr := [], shadow := [], streams := [], flits := [], reqs := []
    walks := [], quads := []
    cores := s.cores.map (fun e => (e.1, { coreZero with
      dlist := e.2.dlist, dnext := e.2.dnext, epochs := e.2.epochs, barred := e.2.barred }))
    launches := s.launches.map (fun (e : Nat × Launch) => (e.1, { e.2 with engine := 0 }))
    strands := s.strands.map (fun (e : Nat × Strand) => (e.1, { e.2 with
      loads := 0, stores := 0, pending := [], errored := [], stall := none, fetching := [],
      wait := match e.2.wait with | .barrier b t => .barrier b t | _ => .none })) }

/-- The rails are cut: entries not sealed and pads not saved stay unmarked; a save that had not begun its records leaves empty
ones (R87). -/
def cutRails (s : State) : State :=
  if s.power = .cut then s
  else
    let begun := regN 0 0x30388 0 2 s = 1 ∨ regN 0 0x30388 0 2 s = 2
    let s := if s.power = .on then beginSave s else s
    let s := if begun then (List.range 16).foldl (fun s h => putSave h 0 3 s) s else openAreas 3 s
    setRegN 0 0x30388 0 2 3 (cutState s)
/-- A junction reading, and what R19 makes of it: a cut overrides the save. -/
def readJunction (i t : Nat) (s : State) : State :=
  let s := jctTemp i t s
  let s := if 105 ≤ t ∧ s.power = .on then beginSave s else s
  if 115 ≤ t then cutRails s else s
/-- EMERGENCY_SAVE: quadrant `id` reads `v`; `flag` marks the work of a save that has begun, with `n` = 2 its start. -/
def execEmergencySave (s : State) : Outcome State Fault Refusal :=
  if s.ev.flag then
    .next (if s.power ≠ .saving then s else if s.ev.n = 2#8 then startSave s else saveMore s.ev s)
  else .next (readJunction s.ev.id s.ev.v.toNat s)
/-- RAIL_CUT: quadrant `id` reads `v`. -/
def execRailCut (s : State) : Outcome State Fault Refusal := .next (readJunction s.ev.id s.ev.v.toNat s)

/-! ### Samples of current and power (R17, R78) -/

/-- POWER_SAMPLE: `v` is the core-rail current in A, `w` the package power in W; `pairs` are quadrants with what their
sensors read in the period, the gallery's °C in the low byte and the junction's in the next. -/
def execPowerSample (s : State) : Outcome State Fault Refusal :=
  let a := s.ev.v.toNat
  let w := s.ev.w.toNat
  let s := s.ev.pairs.foldl (fun s p => readGallery (p.1 % 64) (p.2 % 256) (readJunction (p.1 % 64) (p.2 / 256 % 256) s)) s
  let s := { s with ctl := { s.ctl with amps := a, watts := w, sinceGrant := 0 } }
  if 20000 < a then .next (removeSlot { s with ctl := { s.ctl with refuse := true, okSince := none } })
  else if 17000 < a ∨ 10000 < w then .next (limitAction { s with ctl := { s.ctl with okSince := none } })
  else if a * 100 ≤ 17000 * 95 ∧ w * 100 ≤ 10000 * 95 then
    match s.ctl.okSince with
    | none => .next { s with ctl := { s.ctl with okSince := some (tick s) } }
    | some t => .next (if t + 100000 ≤ tick s then undoAction s else s)
  else .next { s with ctl := { s.ctl with okSince := none } }

/-! ### The resume (R84, R88, R223) -/

/-- A context or core reported lost to a function (R88). -/
def reportLost (vf : BitVec 7) (a : Nat) (s : State) : State :=
  let f := fnAt vf s
  setRegN vf 0x30390 0 32 (regN vf 0x30390 0 32 s + 1) (setFn vf { f with lost := f.lost ++ [BitVec.ofNat 64 a] } s)

/-- Unsealed contexts of a hall's record are lost. -/
def loseContexts (h : Nat) (s : State) : State :=
  (List.range (saveWord h 16 s)).foldl (fun s e =>
    if saveWord h (4096 + 16 * e) s < 2 ^ 63 then
      let k := saveEntry h e s
      reportLost (sidVf k) (sidCtx k).toNat (modStrand k (fun t => { t with run := .lost, slot := none, wait := .none }) s)
    else s) s
/-- A core's scratchpad as the save area has it. -/
def loadPad (h i : Nat) (s : State) : State :=
  let c := 256 * h + i
  let base := saveBase h s + 2 ^ 28 + 2 ^ 21 * i
  let key := keyOf (BitVec.ofNat 7 (memVal (keyOf 0#7 s) (saveBase h s + 64 + i) 1 s / 2)) s
  let cells := (List.range (2 ^ 21)).filterMap (fun o =>
    let b := memByte key (base + o) s
    if b = 0#8 then none else some (spadKey c o, b))
  let inPad (a : Nat) : Bool := decide (spadKey c 0 ≤ a) && decide (a < spadKey c 0 + 2 ^ 21)
  { s with spad := cells.foldl (fun m e => cellPut m e.1 e.2) (s.spad.filter (fun e => !inPad e.1)) }
/-- Core i of a hall is marked saved. -/
def padSaved (h i : Nat) (s : State) : Bool := memVal (keyOf 0#7 s) (saveBase h s + 64 + i) 1 s % 2 == 1
/-- A core's scratchpad after a cut: from the save area if it was saved, zero and reported otherwise. -/
def refillPad (h i : Nat) (s : State) : State :=
  if padSaved h i s then loadPad h i s
  else reportLost (islandOwner (coreQuadrant (256 * h + i)) s) (1 + 2 ^ 12 * h + 2 ^ 4 * i) s
/-- Every scratchpad marked saved is refilled. -/
def reloadPads (s : State) : State :=
  (List.range 16).foldl (fun s h => (List.range 256).foldl (fun s i => if padSaved h i s then loadPad h i s else s) s) s
/-- The trap of a sealed strand as a pool takes it: its kind, and the number of its partition (R216). -/
def sealedTrap (k : Nat) (s : State) : Trap :=
  ⟨BitVec.ofNat 8 (hdrN k 7 56 8 (withHeader k s)), 0, 0, 0, 0, 0,
    BitVec.ofNat 64 ((partOf (coreHall (strandAt k s).core) s).getD 0), [], (strandAt k s).trapTo == 1#2⟩
/-- Trapped strands are handed to their pools again, or to the debugger while the authorisation holds (R223, R227). -/
def handAgain (s : State) : State :=
  s.strands.foldl (fun s e =>
    let vf := sidVf e.1
    if e.2.run != .trapped || e.2.trap.isSome then s
    else if e.2.trapTo = 2#2 ∧ authorised vf 0 s ∧ (fnAt vf s).events.length < 64 then pushDbg vf ⟨1, 0, 0, 0, sidCtx e.1⟩ s
    else
      let pool := if e.2.trapTo = 1#2 then 0#7 else vf
      if (fnAt pool s).waiting.any (fun w => w.1 == e.1) then s
      else queueTrap pool e.1 (sealedTrap e.1 s)
        (modStrand e.1 (fun x => { x with trapTo := if x.trapTo = 2#2 then 0#2 else x.trapTo }) s)) s

/-- The cores issue again after a save: the islands of D-mode partitions are back at 2.000 GHz before their release (R72). -/
def releaseSave (s : State) : State :=
  let s := setRegN 0 0x30388 0 2 0 { s with power := .on }
  let s := (List.range 64).foldl (fun s i => if islandInPart i s then setIslandN i 0 5 20 s else repoint i s) s
  let s := (List.range 16).foldl (fun s n => if regN 0 (0x2200 + 8 * n) 23 1 s = 1 then askRelease n s else s) s
  ((s.strands.map (fun e => sidVf e.1)) ++ s.launches.map (fun e => e.2.vf)).eraseDups.foldl (fun s vf => restart vf s) s

/-- The module comes back after a cut: lost contexts and pads are listed, saved pads refilled, the rest resumes (R88). -/
def recoverCut (s : State) : State :=
  let s := (List.range 16).foldl (fun s h => loseContexts h s) s
  let s := (List.range 16).foldl (fun s h => (List.range 256).foldl (fun s i => refillPad h i s) s) s
  handAgain (releaseSave s)
/-- Boot steps n to 8 run again, each with its procedure of R61 and its end a slot away; then the module comes back. -/
def stepsAgain (a : EvArgs) (n : Nat) (s : State) : State :=
  if 8 < n then recoverCut s
  else
    match stepChoice n s with
    | .run c => post 1 .savectlResume { a with n := BitVec.ofNat 8 n } (startStep n c s)
    | _ => { s with phase := { s.phase with phase := .recovery } }

/-- SAVECTL_RESUME: `v` is the word written; every junction reads below 95 °C after a save, 60 °C after a cut.  After a cut, `n` = 7
or 8 marks the end of that boot step, which the hardware fails where bit `n` of `w` is set; bits 12 + k of `w` say what it fails in
the start that then follows. -/
def execSavectlResume (s : State) : Outcome State Fault Refusal :=
  let cool (t : Nat) : Bool := (List.range 64).all (fun i => decide (islandN i 40 8 s < t))
  let n := s.ev.n.toNat
  if n = 7 ∨ n = 8 then
    if s.power ≠ .cut ∨ !bootStarted n s then .next s
    else if stepWorks n s.ev.w s then .next (stepsAgain s.ev (n + 1) (stepPassed n (passStep n s)))
    else .next (resetModule (some { EvArgs.none with v := s.ev.w >>> 12 }) (failStep n s))
  else if s.ev.vf ≠ 0#7 ∨ !bitB s.ev.v 2 ∨ bootStarted 7 s ∨ bootStarted 8 s then .next s
  else
    match s.power with
    | .saved => .next (if cool 95 then releaseSave (reloadPads s) else s)
    | .cut => .next (if cool 60 then stepsAgain s.ev 7 s else s)
    | _ => .next s

end Sys2Proof.Machine
end

