-- ==== Sys2Proof/Machine/HostEvents.lean ====
section
/-! DEFINITION. HostEvents: the host's accesses, register writes, queues' registers, interrupts, function enabling and
reset, module start and recovery, pairing, attestation and snapshots (R5, R6, R49 to R67, R166). -/

namespace Sys2Proof.Machine

open Host

/-! ### MW1 (R51, R62): `v` the offset, `n` the bytes, `w` the data -/

/-- Where byte i of a host access lies. -/
def hostByte (vf : BitVec 7) (u : Use) (a : Nat) (s : State) : Option Nat :=
  match xlateNow 0 vf 1 u (BitVec.ofNat 64 a) s with
  | .ok x => some (x.pa a)
  | _ => none
/-- Places of all the bytes of an access, or none if one faults. -/
def hostBytes (vf : BitVec 7) (u : Use) (a : Nat) (s : State) : Nat → Option (List Nat)
  | 0 => some []
  | n + 1 =>
    match hostBytes vf u a s n, hostByte vf u (a + n) s with
    | some l, some p => some (l ++ [p])
    | _, _ => none
def apBase (vf : BitVec 7) (s : State) : Nat := regN vf 0x1000 26 30 s * 2 ^ 26

/-- A host access faulted: HOSTFAULT keeps the first offset since it was last read. -/
def hostFault (vf : BitVec 7) (o : Word) (s : State) : State :=
  let f := fnAt vf s
  let s := if f.faulted then s else setReg vf 0x1008 o (setFn vf { f with faulted := true } s)
  raiseCause vf 4 s
/-- Where MW1 ends (R50). -/
def mw1Size (vf : BitVec 7) (s : State) : Nat := 2 ^ (fnAt vf s).aperture
/-- A host access lies in MW1; one past its end reaches nothing: all ones, or discarded (PRESUMED from PCIe, log 44). -/
def inMw1 (vf : BitVec 7) (o n : Nat) (s : State) : Bool := decide (o + n ≤ mw1Size vf s)

/-- The staging window answers in place of MW1. -/
def inStaging (vf : BitVec 7) (s : State) : Bool := s.phase.phase == .recovery && vf == 0#7

/-- HOST_MW1_READ. -/
def execHostMw1Read (s : State) : Outcome State Fault Refusal :=
  let vf := s.ev.vf
  let n := min 8 s.ev.n.toNat
  let o := s.ev.v
  if hostClosed vf s then .next (hostAnswer vf (BitVec.allOnes 64) s)
  else if inStaging vf s then
    .next (hostAnswer vf (BitVec.ofNat 64 (ofBytes ((List.range n).map (fun i => cellGet s.phase.staging (o.toNat + i))))) s)
  else if !inMw1 vf o.toNat n s then .next (hostAnswer vf (BitVec.allOnes 64) s)
  else
    match hostBytes vf .read (apBase vf s + o.toNat) s n with
    | some ps => .next (hostAnswer vf (BitVec.ofNat 64 (ofBytes (ps.map (fun p => memByte (keyOf vf s) p s)))) s)
    | none => .next (hostAnswer vf (BitVec.allOnes 64) (hostFault vf o s))

/-- HOST_MW1_WRITE. -/
def execHostMw1Write (s : State) : Outcome State Fault Refusal :=
  let vf := s.ev.vf
  let n := min 8 s.ev.n.toNat
  let o := s.ev.v
  let bs := toBytes n s.ev.w.toNat
  if hostClosed vf s then .next s
  else if inStaging vf s then
    if 2 ^ 26 < o.toNat + n then .next s
    else .next { s with phase := { s.phase with staging := putBytes bs o.toNat s.phase.staging } }
  else if !inMw1 vf o.toNat n s then .next s
  else
    match hostBytes vf .write (apBase vf s + o.toNat) s n with
    | some ps =>
      .next ((ps.zip bs).foldl (fun s e => bankChanged e.1 (memWrite (keyOf vf s) e.1 [e.2] s)) s)
    | none => .next (hostFault vf o s)

/-- HOSTFAULT_READ. -/
def execHostfaultRead (s : State) : Outcome State Fault Refusal :=
  let vf := s.ev.vf
  hostReadClear (reg vf 0x1008 s) (setReg vf 0x1008 0#64 (setFn vf { fnAt vf s with faulted := false } s)) s

/-! ### Queue registers (R52 to R54): `id` the offset, `v` the word -/

def offQueue (off : Nat) : Nat := off / 64 % 64

/-- LQBASE_WRITE. -/
def execLqbaseWrite (s : State) : Outcome State Fault Refusal :=
  hostWrite s fun s =>
  let vf := s.ev.vf
  let q := offQueue s.ev.id
  let o := qoff q
  let v := s.ev.v
  let s := if regN vf o 63 1 s = 1 then setRegN vf o 63 1 (bitsN v 63 1) s else setReg vf o (v &&& 0x80FFFFFFFFFFF01F#64) s
  let z := regN vf o 0 5 s
  if regN vf o 63 1 s = 0 then .next s
  else if z < 4 ∨ 16 < z then .next (stopQueue vf q 4 s)
  else .next (post 1 .queuePacketFetch (argQueue vf q) s)

/-- LQTAIL_WRITE. -/
def execLqtailWrite (s : State) : Outcome State Fault Refusal :=
  hostWrite s fun s =>
  let vf := s.ev.vf
  let q := offQueue s.ev.id
  .next (post 1 .queuePacketFetch (argQueue vf q) (setRegN vf (qoff q + 8) 0 32 (bitsN s.ev.v 0 32) s))

/-- LQSTAT_ERR_CLEAR: code keeps the last reason until another stop (DESIGN CHOICE, log 45). -/
def execLqstatErrClear (s : State) : Outcome State Fault Refusal :=
  hostWrite s fun s =>
  let vf := s.ev.vf
  let q := offQueue s.ev.id
  if !bitB s.ev.v 8 then .next s
  else .next (post 1 .queuePacketFetch (argQueue vf q) (setRegN vf (qoff q + 24) 8 1 0 s))

/-! ### Interrupts (R55) -/

/-- The cause of a bit still holds: a queue with err, a launch exhausted, a host fault or failed arrival not yet read, a
trap without a handler.  Bits 1, 2, 5 and 6 report what happened at one moment, and nothing of theirs persists (DESIGN
CHOICE, log 36). -/
def causeHolds (vf : BitVec 7) (bit : Nat) (s : State) : Bool :=
  match bit with
  | 0 => (List.range 64).any (fun q => regN vf (qoff q + 24) 8 1 s == 1)
  | 3 => s.launches.any (fun e => e.2.vf == vf && e.2.exhausted)
  | 4 => (fnAt vf s).faulted
  | 7 => !(fnAt vf s).waiting.isEmpty
  | 8 => reg vf 0x1018 s != 0#64
  | _ => false

/-- INTCAUSE_CLEAR. -/
def execIntcauseClear (s : State) : Outcome State Fault Refusal :=
  hostWrite s fun s =>
  let vf := s.ev.vf
  let w := s.ev.v
  .next ((List.range 9).foldl (fun s b =>
    if bitB w b ∧ regN vf 0x28000 b 1 s = 1 then
      let s := setRegN vf 0x28000 b 1 0 s
      if causeHolds vf b s then raiseCause vf b s else s
    else s) s)

/-! ### Grants (R57, R63) -/

def grantStat (g n : Nat) (s : State) : State := setRegN 0 (0x60208 + 16 * g) 0 2 n s
def grantFn (g : Nat) (s : State) : BitVec 7 := BitVec.ofNat 7 (regN 0 (0x60200 + 16 * g) 6 7 s)
/-- What a grant reads before its peer answers: none, refused for its max or its function, or waiting. -/
def judgeGrant (g : Nat) (s : State) : State :=
  let max := regN 0 (0x60200 + 16 * g) 20 9 s
  let lf := grantFn g s
  if regN 0 (0x60200 + 16 * g) 63 1 s = 0 then grantStat g 0 s
  else if max = 0 ∨ 256 < max ∨ (lf ≠ 0#7 ∧ !(fnAt lf s).enabled) then grantStat g 3 s
  else grantStat g 1 s
/-- A function's grants are judged again when it becomes enabled or is no longer. -/
def judgeGrants (vf : BitVec 7) (s : State) : State :=
  (List.range 64).foldl (fun s g =>
    if regN 0 (0x60200 + 16 * g) 63 1 s = 1 ∧ grantFn g s = vf then judgeGrant g s else s) s
/-- The circuits of a pairing end at the next boundary. -/
def endPairing (g : Nat) (s : State) : State :=
  ((s.circs.filter (fun e => (match e.2.pod with | some p => p.grant == g | none => false) && !e.2.ending)).map Prod.fst).foldl
    (fun t n => endPaths n (nextBoundary s) true t) s

/-! ### Functions (R49, R56, R166) -/

/-- FUNCTION_ENABLE: `n` is the size of MW1 as a power of two, 26 to 40, as the hypervisor sets it (R50, log 44). -/
def execFunctionEnable (s : State) : Outcome State Fault Refusal :=
  let vf := s.ev.vf
  let f := fnAt vf s
  if vf = 0#7 ∨ f.enabled ∨ s.phase.phase = .recovery then .next s
  else
    .next (armEnergy vf
      (judgeGrants vf (setFn vf { f with enabled := true, kgen := f.kgen + 1, aperture := max 26 (min 40 s.ev.n.toNat) } s)))

/-- Steps 1 to 4 of a reset, which ends the function's debug authorisation (R228). -/
def resetBegins (vf : BitVec 7) (s : State) : State :=
  let s := if regN vf 0x40228 0 2 s = 2 then endAuth vf s else s
  let s := (List.range 64).foldl (fun s q =>
    setQueue (lqueueKey vf q) queueZero (setRegN vf (qoff q + 24) 0 9 (5 + 2 ^ 8) s)) s
  let s := setFn vf { fnAt vf s with resetting := true, stopped := true } s
  let s := { s with strands := s.strands.map (fun (e : Nat × Strand) =>
    if sidVf e.1 == vf then (e.1, { e.2 with run := Run.exited, slot := none, wait := .none }) else e) }
  let s := { s with quads := s.quads.map (fun (e : Nat × Quad) => (e.1, { e.2 with
    tiles := e.2.tiles.filter (fun t => t.vf != vf), copies := e.2.copies.filter (fun j => j.vf != vf),
    active := e.2.active.filter (fun j => j.vf != vf) })) }
  let at_ := nextBoundary s
  let s := ((s.circs.filter (fun e => e.2.vf == vf && !e.2.ending)).map Prod.fst).foldl (fun s n => endPaths n at_ true s) s
  postAt at_ .functionLevelReset { argVf vf with n := 1#8 } s

/-- Steps 5 to 7: the key, the SRAM-layer and register-cache state, the registers. -/
def resetEnds (vf : BitVec 7) (s : State) : State :=
  let mine (k : Nat) : Bool := sidVf k == vf
  let s := { s with
    strands := s.strands.filter (fun e => !mine e.1)
    lines := s.lines.filter (fun e => !mine (keySid e.1))
    lineErr := s.lineErr.filter (fun e => !mine (keySid e))
    streams := s.streams.filter (fun e => !mine (e.1 / 8))
    cores := s.cores.map (fun (e : Nat × Core) => (e.1, { e.2 with msgs := e.2.msgs.filter (fun m =>
      match tfind s.launches m.launch with | some l => l.vf != vf | none => false) }))
    launches := s.launches.filter (fun e => e.2.vf != vf)
    barriers := s.barriers.map (fun e => if e.2.vf == vf then (e.1, { e.2 with armed := false }) else e)
    reqs := s.reqs.filter (fun e => e.2.vf != vf)
    tmsgs := s.tmsgs.filter (fun e => e.2.vf != vf)
    walks := s.walks.filter (fun e => e.2.vf != vf)
    moves := s.moves.filter (fun e => e.2.vf != vf)
    mw0 := s.mw0.filter (fun e => e.1 / 2 ^ 20 != vf.toNat) }
  -- what of the function's is still on the agenda would change registers after step 7
  let s := unpost (fun d => d.args.vf == vf && d.ev != .vfStopApply && d.ev != .vfResumeApply) s
  let pf := fnAt 0 s
  let s := setFn 0 { pf with waiting := pf.waiting.filter (fun w => !mine w.1) } s
  let s := (List.range 64).foldl (fun s i =>
    if islandOwner i s = vf then
      let s := (quadrantCores i).foldl (fun s c => setCore c { coreAt c (clearPad c s) with codebook := 0 } (clearPad c s)) s
      ((quadrantCores i).map coreQuad).eraseDups.foldl (fun s q => setQuad q { quadAt q s with lastB := none, buf := [] } s) s
    else s) s
  let f := fnAt vf s
  judgeGrants vf (dropXlats 5 0 vf none (setFn vf { fnZero with kgen := f.kgen + 1, nonces := f.nonces, aperture := f.aperture } s))

/-- FUNCTION_LEVEL_RESET: `n` = 1 marks its end, once the function's tile tasks and accesses are over. -/
def execFunctionLevelReset (s : State) : Outcome State Fault Refusal :=
  let vf := s.ev.vf
  if vf = 0#7 then .next s
  else if s.ev.n = 0#8 then .next (resetBegins vf s)
  else
    let busy := s.quads.any (fun e => match e.2.running with | some t => t.vf == vf | none => false) ||
      s.reqs.any (fun e => e.2.vf == vf && !e.2.arrived && !e.2.waiting) || s.circs.any (fun e => e.2.vf == vf)
    .next (if busy then post 1024 .functionLevelReset s.ev s else resetEnds vf s)

/-! ### Pairing (R57, R63) -/

/-- PODID_WRITE. -/
def execPodidWrite (s : State) : Outcome State Fault Refusal :=
  if s.ev.vf ≠ 0#7 ∨ s.phase.phase = .recovery then .next s
  else
    let v := s.ev.v
    let en := if bitB v 8 ∧ bootByte 10 s % 4 ≠ 1 then regN 0 0x60100 8 1 s else bitsN v 8 1
    .next (setRegN 0 0x60100 8 1 en (setRegN 0 0x60100 0 6 (bitsN v 0 6) s))

/-- PAIRGRANT_WRITE: `id` is the offset. -/
def execPairgrantWrite (s : State) : Outcome State Fault Refusal :=
  if s.ev.vf ≠ 0#7 ∨ s.phase.phase = .recovery then .next s
  else
    let g := (s.ev.id - 0x60200) / 16 % 64
    let v := s.ev.v
    let s := judgeGrant g (setReg 0 (0x60200 + 16 * g) (v &&& 0x800000001FFFFFFF#64) s)
    .next (if bitB v 63 then s else endPairing g s)
/-- PAIRING_MATCH: grant `id`; the peer's grant corresponds with `flag`, and `v` is the peer's max. -/
def execPairingMatch (s : State) : Outcome State Fault Refusal :=
  let g := s.ev.id % 64
  if regN 0 0x60100 8 1 s = 0 ∨ regN 0 (0x60200 + 16 * g) 63 1 s = 0 ∨ regN 0 (0x60208 + 16 * g) 0 2 s ≠ 1 then .next s
  else .next (grantStat g (if s.ev.flag then 2 else 3) { s with peerMax := tput s.peerMax g s.ev.v.toNat })

/-! ### Start and recovery (R58 to R62) -/

/-- Release to the hypervisor: memory is zero, nothing runs yet. -/
def releaseModule (s : State) : State :=
  let (w, s) := freeWord s
  let s := measure 5 (moduleConfig s) (setReg 0 0x60610 w s)
  let s := { s with phase := { s.phase with phase := .running }, mem := [], memKey := [], memTags := [], memEmpty := [], memErr := [] }
  armDecay (armEnergy 0 s)

/-- The start goes on with step n: the first step not skipped is begun, and its end is a slot away (R61). -/
def bootFrom (a : EvArgs) : Nat → Nat → State → State
  | 0, _, s => s
  | fuel + 1, n, s =>
    if 11 < n then releaseModule s
    else
      match stepChoice n s with
      | .recovery => { s with phase := { s.phase with phase := .recovery } }
      | .skip => bootFrom a fuel (n + 1) (skipStep n s)
      | .run c => post 1 .moduleStart { a with n := BitVec.ofNat 8 n } (startStep n c s)

/-- MODULE_START: with `n` = 0 a start begins, with `n` = k step k of it ends.  `v` says, by bit k, which steps the hardware
fails in this start, by bits 12 + k, 24 + k and so on which it fails in the starts that follow a failure. -/
def execModuleStart (s : State) : Outcome State Fault Refusal :=
  let n := s.ev.n.toNat
  if s.phase.phase ≠ .off then .next s
  else if n = 0 then .next (bootFrom s.ev 12 1 (startedFailed s))
  else if !bootStarted n s then .next s
  else if stepWorks n s.ev.v s then .next (bootFrom s.ev 12 (n + 1) (stepPassed n (passStep n s)))
  else .next (resetModule (some { s.ev with n := 0#8, v := s.ev.v >>> 12 }) (failStep n s))

/-- LOSS_OF_POWER: a boot step under way stays started in the record; a flash write under way leaves no good image. -/
def execLossOfPower (s : State) : Outcome State Fault Refusal :=
  let s := if s.phase.flashing then { s with phase := { s.phase with flash := [] } } else s
  .next (resetModule none s)

def recStat (n : Nat) (s : State) : State := setRegN 0 0x60808 0 4 n s
/-- The staged image. -/
def staged (s : State) : List Byte :=
  let len := ofBytes ((List.range 4).map (fun i => cellGet s.phase.staging (12 + i)))
  (List.range (256 + min len (2 ^ 25 + 1))).map (fun i => cellGet s.phase.staging i)

/-- RECGO_WRITE: an accepted image is kept as checked until it is in flash; the fused minimum rises when step 1 of the next
start accepts it (DESIGN CHOICE, log 45). -/
def execRecgoWrite (s : State) : Outcome State Fault Refusal :=
  if s.ev.vf ≠ 0#7 ∨ !bitB s.ev.v 0 then .next s
  else if s.phase.phase ≠ .recovery then .next (recStat 10 s)
  else
    let c := imageCode (staged s) s.phase.minSvn
    if s.phase.flashing then .next s
    else if c = 0 then
      .next (post 2000 .recoveryFlashDone EvArgs.none
        (recStat 2 { s with phase := { s.phase with flashing := true, checked := staged s } }))
    else .next (recStat c s)

/-- RECOVERY_FLASH_DONE: with `flag` the write failed. -/
def execRecoveryFlashDone (s : State) : Outcome State Fault Refusal :=
  if !s.phase.flashing then .next s
  else if s.ev.flag then .next (recStat 9 { s with phase := { s.phase with flashing := false } })
  else
    let s := { s with phase := { s.phase with flash := s.phase.checked, flashing := false } }
    .next (resetModule (some EvArgs.none) (setReg 0 0x60000 0#64 (setReg 0 0x60008 0#64 s)))

/-- BOOTREC_CLEAR: `id` is the byte's offset, `v` the byte written. -/
def execBootrecClear (s : State) : Outcome State Fault Refusal :=
  let step := s.ev.id - 0x60000 + 1
  if s.ev.vf ≠ 0#7 ∨ s.phase.phase ≠ .recovery ∨ bitsN s.ev.v 0 8 ≠ 0 ∨ 11 < step then .next s
  else .next (setBoot step 0 s)

/-! ### Attestation (R64, R65) -/

/-- ATTREQ_WRITE. -/
def execAttreqWrite (s : State) : Outcome State Fault Refusal :=
  hostWrite s fun s =>
  let vf := s.ev.vf
  if !bitB s.ev.v 0 then .next s
  else if s.agenda.any (fun d => d.ev == .attestationReportReady && d.args.vf == vf) then .next (setRegN vf 0x50028 0 2 3 s)
  else .next (post 2000000 .attestationReportReady (argVf vf) (setRegN vf 0x50028 0 2 1 s))

/-- Words of bytes, eight at a time. -/
def bytesWords : Nat → List Byte → List Word
  | 0, _ => []
  | _, [] => []
  | n + 1, bs => BitVec.ofNat 64 (ofBytes (bs.take 8)) :: bytesWords n (bs.drop 8)

/-- The report of a function: the module's entries and the function's own. -/
def reportBytes (vf : BitVec 7) (s : State) : List Byte × State :=
  let (w, s) := freeWord s
  let log := (measure 6 (toBytes 8 w.toNat) s).phase.log
  let f := fnAt vf s
  let body := toBytes 4 1 ++ toBytes 2 vf.toNat ++ toBytes 2 log.length ++ toBytes 8 f.kgen ++
    toBytes 1 (regN vf 0x40228 0 4 s) ++ List.replicate 7 0#8 ++ mailBytes vf 0x50000 32 s ++
    toBytes 96 Config.deviceKey.toNat ++
    log.flatMap (fun e => toBytes 48 e.2.toNat ++ toBytes 1 e.1.toNat ++ List.replicate 15 0#8)
  (body ++ toBytes 96 (Config.deviceSign (Config.sha384 body)).toNat, s)

/-- ATTESTATION_REPORT_READY. -/
def execAttestationReportReady (s : State) : Outcome State Fault Refusal :=
  let vf := s.ev.vf
  let (bs, s) := reportBytes vf s
  let ws := bytesWords bs.length bs
  let s := ((List.range ws.length).zip ws).foldl (fun s e => setReg vf (0x51000 + 8 * e.1) e.2 s) s
  .next (raiseCause vf 5 (setRegN vf 0x50028 0 2 2 (setRegN vf 0x50030 0 16 bs.length s)))

/-! ### Snapshots (R66, R67): `v` is the word written to SNAPCTL -/

def snapStat (n : Nat) (s : State) : State := setRegN 0 0x60618 0 4 n s
/-- Key of an image outside the module: pod store or host, and SNAPDST. -/
def imageKey (host : Bool) (s : State) : Nat := (if host then 2 ^ 64 else 0) + (reg 0 0x60608 s).toNat
/-- Slots an operation takes (R22). -/
def snapSpan (host : Bool) : Nat := if host then 10800000000 else 1800000000
/-- SNAPSTAT.moved: of an operation under way, the share of SNAPSIZE of the time gone (log 47). -/
def snapMoved (s : State) : Nat :=
  if s.snap.busy ∧ 0 < s.snap.span then
    (reg 0 0x60610 s).toNat / 256 * min s.snap.span (s.wheel - s.snap.since) / s.snap.span
  else regN 0 0x60618 8 56 s
/-- Keeps what an operation has moved when it ends. -/
def keepMoved (n : Nat) (s : State) : State := setRegN 0 0x60618 8 56 n s
/-- What an image's configuration record is compared in. -/
def configOf (s : State) : List Nat :=
  (List.range 16).map (fun h => (hallAt h s).w) ++
  (List.range 128).map (fun v => if (fnAt (BitVec.ofNat 7 v) s).enabled then 1 else 0) ++
  (List.range 64).map (fun i => (islandOwner i s).toNat) ++
  (List.range 16).map (fun n => (reg 0 (0x2200 + 8 * n) s).toNat) ++
  s.circs.flatMap (fun e => [e.1, e.2.vf.toNat, e.2.q] ++
    e.2.paths.flatMap (fun p => [p.inj, endsSrc p.ends, p.ends.dstKind, endsDst p.ends]))

/-- SNAPSHOT_TAKE: a request, then, with `flag`, the boundary at which the cores are held. -/
def execSnapshotTake (s : State) : Outcome State Fault Refusal :=
  if s.ev.flag then
    let s := { s with snap := { s.snap with held := true } }
    if s.quads.any (fun e => e.2.running.isSome) then .next (post 100 .snapshotTake s.ev s)
    else
      let s := (s.lines.map Prod.fst).foldl (fun s key => letGo key s) s
      let s := { s with snap := { s.snap with since := s.wheel, span := snapSpan s.snap.host } }
      .next (post (snapSpan s.snap.host) .snapshotTaken EvArgs.none (snapStat 2 s))
  else if s.ev.vf ≠ 0#7 ∨ s.phase.phase = .recovery then .next s
  else if s.snap.busy then .next (snapStat 11 s)
  else
    let s := { s with snap := { s.snap with
      busy := true, host := bitB s.ev.v 2, place := imageKey (bitB s.ev.v 2) s, since := s.wheel, span := 0 } }
    let s := (List.range 16).foldl (fun s n => if regN 0 (0x2200 + 8 * n) 23 1 s = 1 then askHold n 5 s else s) s
    .next (postAt (nextBoundary s) .snapshotTake { s.ev with flag := true } (snapStat 1 s))

/-- The image of the module. -/
def takeImage (s : State) : Image where
  mem := s.mem
  memKey := s.memKey
  tags := s.memTags
  empty := s.memEmpty
  err := s.memErr
  spad := s.spad
  spadEmpty := s.spadEmpty
  shadow := s.shadow
  lines := (s.lines.filter (fun e => !e.2.hc.isEmpty)).map (fun e => (e.1, { e.2 with rc := none }))
  cores := s.cores.map (fun (e : Nat × Core) => (e.1, { e.2 with icache := [], ifaults := [], filling := [], tlb := [] }))
  streams := s.streams
  quads := s.quads
  strands := s.strands
  launches := s.launches
  barriers := s.barriers
  kgens := s.fns.map (fun e => (e.1, e.2.kgen))
  config := configOf s
  snapKey := s.snap.keys
  wrapped := Config.wrapKey Config.identityKey (Config.snapshotKey s.snap.keys)
  keys := s.fns.map (fun e => (e.1, Config.wrapKey (Config.snapshotKey s.snap.keys) (Config.functionKey e.1 e.2.kgen)))

/-- SNAPSHOT_TAKEN. -/
def execSnapshotTaken (s : State) : Outcome State Fault Refusal :=
  if !s.snap.busy then .next s
  else
    let s := { s with snap := { s.snap with
      busy := false, keys := s.snap.keys + 1, images := tput s.snap.images s.snap.place (takeImage s) } }
    .next (raiseCause 0 6 (snapStat 3 (keepMoved (regN 0 0x60610 8 56 s) s)))

/-- SNAPSHOT_RELEASE. -/
def execSnapshotRelease (s : State) : Outcome State Fault Refusal :=
  if s.ev.vf ≠ 0#7 then .next s
  else if s.snap.busy then .next (snapStat 11 s)
  else
    let s := snapStat 0 { s with snap := { s.snap with held := false } }
    let s := (List.range 16).foldl (fun s n => if regN 0 (0x2200 + 8 * n) 23 1 s = 1 then askRelease n s else s) s
    .next (((s.strands.map (fun e => sidVf e.1)) ++ s.launches.map (fun e => e.2.vf)).eraseDups.foldl (fun s vf => restart vf s) s)

/-- A strand, launch or engine work exists on the module. -/
def workExists (s : State) : Bool :=
  s.strands.any (fun e => e.2.run != .exited && e.2.run != .unborn) || !s.launches.isEmpty ||
  s.quads.any (fun e => !e.2.tiles.isEmpty || !e.2.copies.isEmpty || !e.2.active.isEmpty || e.2.running.isSome)

/-- SNAPSHOT_RESTORE: `n` says of the image at the source whether it is another module's (bit 0) or damaged outside (bit 1),
and `w` names the first 1 MiB that then fails.  A source at which nothing was ever stored holds no image that
authenticates. -/
def execSnapshotRestore (s : State) : Outcome State Fault Refusal :=
  let host := bitB s.ev.v 2
  let begins (s : State) : State :=
    let s := { s with snap := { s.snap with
      busy := true, held := true, host := host, place := imageKey host s, mine := !bitB s.ev.n 0, intact := !bitB s.ev.n 1,
      chunk := s.ev.w.toNat, since := s.wheel, span := snapSpan host } }
    post (snapSpan host) .snapshotRestored EvArgs.none (snapStat 6 s)
  if s.ev.vf ≠ 0#7 ∨ s.phase.phase = .recovery then .next s
  else if s.snap.busy ∨ workExists s then .next (snapStat 11 s)
  else
    match tfind s.snap.images (imageKey host s) with
    | none => .next (if bitB s.ev.n 0 then begins s else snapStat 9 s)
    | some i => .next (if i.config ≠ configOf s then snapStat 10 s else begins s)

/-- The image's function keys are installed (R67 step 4). -/
def putKeys (i : Image) (s : State) : State :=
  i.kgens.foldl (fun s e => setFn (BitVec.ofNat 7 e.1) { fnAt (BitVec.ofNat 7 e.1) s with kgen := e.2 } s) s
/-- Entries of a list below a bound from one list and the rest from another. -/
def joinAt {α : Type} (key : α → Nat) (bound : Nat) (low high : List α) : List α :=
  low.filter (fun e => decide (key e < bound)) ++ high.filter (fun e => decide (bound ≤ key e))
/-- The physical address a 1 MiB chunk of memory begins at, HBM4E first as R66 names the contents (log 47). -/
def chunkStart (c : Nat) : Nat :=
  if c < 16 * 2 ^ 16 then 2 ^ 48 + c * 2 ^ 20 else (c - 16 * 2 ^ 16) * 2 ^ 20
/-- The entries memory holds once the image has been written up to address b. -/
def writtenTo {α : Type} (key : α → Nat) (b : Nat) (image old : List α) : List α :=
  if b < 2 ^ 48 then joinAt key b image (joinAt key (2 ^ 48) old image)
  else joinAt key (2 ^ 48) old (joinAt key b image old)
/-- A damaged image: memory up to the failing chunk. -/
def putDamaged (i : Image) (s : State) : State :=
  let b := chunkStart s.snap.chunk
  putKeys i { s with
    mem := writtenTo Prod.fst b i.mem s.mem
    memKey := writtenTo (fun e => e.1 * 32) b i.memKey s.memKey
    memTags := writtenTo (fun e => e.1 * 32) b i.tags s.memTags
    memEmpty := writtenTo (fun e => e * 8) b i.empty s.memEmpty
    memErr := writtenTo (fun e => e * 32) b i.err s.memErr }

/-- The image is written back (R67 steps 4 to 6). -/
def putImage (i : Image) (s : State) : State :=
  let s := { s with
    mem := i.mem, memKey := i.memKey, memTags := i.tags, memEmpty := i.empty, memErr := i.err
    spad := i.spad, spadEmpty := i.spadEmpty, spadErr := [], shadow := i.shadow
    lines := i.lines, cores := i.cores, streams := i.streams, quads := i.quads
    strands := i.strands, launches := i.launches, barriers := i.barriers }
  putKeys i s

/-- SNAPSHOT_RESTORED: the wrapped snapshot key tells whose image it is; a damaged one stops the restore at its chunk, and
the module holds. -/
def execSnapshotRestored (s : State) : Outcome State Fault Refusal :=
  if !s.snap.busy then .next s
  else
    let full := regN 0 0x60610 8 56 s
    let s := { s with snap := { s.snap with busy := false } }
    match tfind s.snap.images s.snap.place with
    | none => .next (snapStat 8 (keepMoved 0 { s with snap := { s.snap with held := false } }))
    | some i =>
      if !s.snap.mine ∨ i.wrapped ≠ Config.wrapKey Config.identityKey (Config.snapshotKey i.snapKey) then
        .next (snapStat 8 (keepMoved 0 { s with snap := { s.snap with held := false } }))
      else if !s.snap.intact then .next (snapStat 9 (keepMoved (min full (s.snap.chunk * 2 ^ 12)) (putDamaged i s)))
      else .next (raiseCause 0 6 (snapStat 7 (keepMoved full (putImage i s))))

/-- HOST_LINK_LOSS. -/
def execHostLinkLoss (s : State) : Outcome State Fault Refusal :=
  if s.snap.busy ∧ s.snap.host then
    let s := keepMoved (snapMoved s) (unpost (fun d => d.ev == .snapshotTaken || d.ev == .snapshotTake || d.ev == .snapshotRestored) s)
    .next (snapStat 5 { s with snap := { s.snap with busy := false, held := true } })
  else .next s

/-! ### Register writes (R5, R6): `vf` the page, `id` the offset, `v` the word, `flag` the hypervisor writes -/

/-- The events of a register whose write has a behaviour of its own. -/
def ownEvents (off : Nat) (v : Word) : List Instr :=
  if off < 0x1000 then
    (match off % 64 with | 0 => [.lqbaseWrite] | 8 => [.lqtailWrite] | 0x18 => [.lqstatErrClear] | _ => [])
  else if off = 0x1100 then [.thctxWrite]
  else if off = 0x1110 then [.thcntWrite]
  else if off = 0x2000 then (if bitsN v 24 2 = 2 then [.vacateRelease] else [.vacate])
  else if 0x2200 ≤ off ∧ off < 0x2280 then [.dpartWrite]
  else if off = 0x2400 then (if bitsN v 7 2 = 2 then [.vfResume] else [.vfStop])
  else if off = 0x3410 then [.zeroctlGo]
  else if 0x4000 ≤ off ∧ off < 0x4400 then
    (match off % 64 with
     | 0 => [.clbaseWrite]
     | 8 => [.clctlModeWrite] ++ (if bitB v 2 then [.clctlResume] else []) ++ (if bitB v 3 then [.clctlAbort] else [])
     | _ => [])
  else if off = 0x28000 then [.intcauseClear]
  else if off = 0x30010 then [.energysetWrite]
  else if off = 0x30060 then [.sprintmaxWrite]
  else if off = 0x300A8 then [.qaddWrite]
  else if off = 0x30388 then [.savectlResume]
  else if 0x30900 ≤ off ∧ off < 0x30B00 then [.islandOwnerWrite]
  else if off = 0x40220 then [.dbgsubGo]
  else if off = 0x40228 then [.dbgstatEnd]
  else if off = 0x40230 then [.dbgctlWrite]
  else if off = 0x40240 then
    (match bitsN v 0 3 with
     | 1 => [.strcmdStop] | 2 => [.strcmdResume] | 3 => [.strcmdStep] | 4 => [.strcmdResumeRpc] | 5 => [.strcmdEnd] | _ => [])
  else if off = 0x40250 then
    (match bitsN v 16 2 with | 1 => [.hallHalt] | 2 => [.hallHaltRelease] | _ => [])
  else if off = 0x50020 then [.attreqWrite]
  else if 0x60000 ≤ off ∧ off < 0x6000B then [.bootrecClear]
  else if off = 0x60100 then [.podidWrite]
  else if 0x60200 ≤ off ∧ off < 0x60600 ∧ off % 16 = 0 then [.pairgrantWrite]
  else if off = 0x60600 then
    (match bitsN v 0 2 with | 1 => [.snapshotTake] | 2 => [.snapshotRelease] | 3 => [.snapshotRestore] | _ => [])
  else if off = 0x60800 then [.recgoWrite]
  else []

/-- The bits of a register that a write sets (R5): `hyp` for the hypervisor. -/
def rwMask (vf : BitVec 7) (hyp : Bool) (off : Nat) (s : State) : Word :=
  let pf := vf == 0#7
  if off < 0x1000 then (if off % 64 = 0x20 then 0xFF#64 else 0#64)
  else if off = 0x1000 then 0x00FFFFFFFC000000#64
  else if off = 0x3000 ∧ pf then 0x000FFFFFFFFF0001#64
  else if off = 0x3008 ∧ pf then 0x8000000FFFFFFFFF#64
  else if 0x3100 ≤ off ∧ off < 0x3300 ∧ pf then (if off % 16 = 0 then 0x000FFFFFFFFFF01F#64 else 0xFFFFFFFF#64)
  else if off = 0x3400 ∧ pf then 0x000FFFFFFFFF0000#64
  else if off = 0x3408 ∧ pf then 0xFFFFFFFF#64
  else if 0x4000 ≤ off ∧ off < 0x4400 then
    let n := logBlock off
    let m := logMode n s
    if ownsLog vf n s ∧ ((off % 64 = 0x10 ∧ m ≠ 2) ∨ (off % 64 = 0x18 ∧ m ≠ 1)) then 0xFFFFFFFF#64 else 0#64
  else if 0x8000 ≤ off ∧ off < 0xC400 ∧ pf then BitVec.allOnes 64
  else if off = 0x10000 then 0x000FFFFFFFFFFFCF#64
  else if off = 0x10008 then 0xFFFF#64
  else if off = 0x10018 ∧ hyp then 0xFFFFFFFF#64
  else if 0x20000 ≤ off ∧ off < 0x20800 then (if off % 16 = 0 then BitVec.allOnes 64 else 0x1FFFFFFFF#64)
  else if off = 0x28008 then 0xFF#64
  else if off = 0x30008 ∧ hyp then 0x3FFF#64
  else if off = 0x30018 then 0x7#64
  else if 0x30020 ≤ off ∧ off < 0x30060 ∧ hyp then 0x1F#64
  else if off = 0x30068 ∧ hyp then 0xFFFFFFFF#64
  else if off = 0x300A0 then 0x00FFFFFFFFFFE000#64
  else if off = 0x30380 ∧ pf then 0xFC0000000#64
  else if 0x40000 ≤ off ∧ off < 0x40200 then BitVec.allOnes 64
  else if off = 0x40238 then (if pf then 0x7FFFFFFFFFFFFFFF#64 else 0x00FFFFFFFFFFFFFF#64)
  else if off = 0x40250 then 0xFFFF#64
  else if off = 0x40260 then 0xFFFFFFFF#64
  else if 0x40280 ≤ off ∧ off < 0x402B0 then
    (if (fnAt vf s).keySet.getLsbD ((off - 0x40280) / 8) then 0#64 else BitVec.allOnes 64)
  else if 0x50000 ≤ off ∧ off < 0x50020 then BitVec.allOnes 64
  else if off = 0x60608 ∧ pf ∧ s.phase.phase ≠ .recovery then BitVec.allOnes 64
  else 0#64

/-- The transmitter map of a hall as the registers hold it. -/
def mapBytes (h : Nat) (s : State) : List Byte :=
  (List.range 128).flatMap (fun i => toBytes 8 (reg 0 (0x8000 + 1024 * h + 8 * i) s).toNat)

/-- What follows a write of plain fields. -/
def afterWrite (vf : BitVec 7) (off : Nat) (s : State) : State :=
  if off = 0x3008 then armDecay s
  else if 0x8000 ≤ off ∧ off < 0xC000 ∧ vf = 0#7 then
    postAt (nextBoundary s) .registerWrite { argVf 0 with id := off, n := 1#8 } s
  else if off = 0x10008 then cmNext vf s
  else if 0x20000 ≤ off ∧ off < 0x20800 ∧ off % 16 = 8 then
    let vec := (off - 0x20000) / 16
    let pba := 0x24000 + 8 * (vec / 64)
    if regN vf off 32 1 s = 0 ∧ regN vf pba (vec % 64) 1 s = 1 then sendVector vf vec (setRegN vf pba (vec % 64) 1 0 s) else s
  else if 0x40280 ≤ off ∧ off < 0x402B0 then
    setFn vf { fnAt vf s with keySet := (fnAt vf s).keySet ||| (1#6 <<< ((off - 0x40280) / 8)) } s
  else if 0x30018 ≤ off ∧ off < 0x30060 then
    (List.range 64).foldl (fun s i => if islandOwner i s = vf then repoint i s else s) s
  else s

/-- REGISTER_WRITE: a register with a behaviour of its own has its event, ahead of any other; TRANSMAP comes into force at the boundary, marked
by `n` = 1 (R138). -/
def execRegisterWrite (s : State) : Outcome State Fault Refusal :=
  let vf := s.ev.vf
  let off := s.ev.id
  let hyp := vf == 0#7 || s.ev.flag
  if s.ev.n = 1#8 then
    let h := (off - 0x8000) / 1024 % 16
    .next (setHall h { hallAt h s with transmap := some (mapBytes h s) } s)
  else if hostClosed vf s then .next s
  else if off = 0x1010 then .next (writePtbase vf s.ev.v s)
  else if off = 0x1108 then .next (writeThent vf s.ev.v s)
  else
    match ownEvents off s.ev.v with
    | [] =>
      if off = 0x40240 then .next (dbgRes vf (if authorised vf 0 s then 3 else 1) s)
      else
        let m := rwMask vf hyp off s
        if m = 0#64 then .next s
        else .next (afterWrite vf off (setReg vf off ((reg vf off s &&& ~~~m) ||| (s.ev.v &&& m)) s))
    | es => .next { s with agenda := es.map (fun e => ⟨s.wheel, e, s.ev⟩) ++ s.agenda }

/-! ### Register reads (R5, R6, R50): what the host reads of a function's MW0 -/

/-- Write-only bits of a register, which read as zero. -/
def woMask (off : Nat) : Word :=
  if 0x40000 ≤ off ∧ off < 0x40200 then BitVec.allOnes 64
  else if off = 0x2000 ∨ off = 0x2400 ∨ off = 0x3410 then 0x8000000000000000#64
  else if 0x4000 ≤ off ∧ off < 0x4400 ∧ off % 64 = 8 then 0xC#64
  else if off = 0x30010 ∨ off = 0x300A8 ∨ off = 0x40220 ∨ off = 0x40240 ∨ off = 0x50020 ∨ off = 0x60600 ∨ off = 0x60800 then
    BitVec.allOnes 64
  else if off = 0x30388 then 0x4#64
  else if off = 0x40228 then 0x10#64
  else if off = 0x40250 then 0x30000#64
  else 0#64

/-- Registers of the PF alone, which a VF reads as zero (R50, R63, R68, R107, R138, R164, R168, R221). -/
def pfOnly (off : Nat) : Bool :=
  (decide (0x2200 ≤ off) && decide (off < 0x2280)) || off == 0x2400 || off == 0x2408 ||
  (decide (0x3000 ≤ off) && decide (off < 0x3420)) || (decide (0x8000 ≤ off) && decide (off < 0xC400)) ||
  off == 0x30380 || off == 0x30388 || decide (0x60000 ≤ off)

/-- The launch that QLAUNCH selects (R68). -/
def selectedLaunch (vf : BitVec 7) (s : State) : Option Launch :=
  (s.launches.find? (fun e => e.2.vf == vf && pkCtx e.2.packet == regN vf 0x300A0 13 43 s * 2 ^ 13)).map Prod.snd

/-- What a host read of the aligned word at `off` of a function's MW0 returns: all ones while the function is out of the
host's reach, zero in a reserved page, the view of the reading function, a write-only field as zero. -/
def mw0Read (vf : BitVec 7) (off : Nat) (s : State) : Word :=
  let f := fnAt vf s
  if hostClosed vf s then BitVec.allOnes 64
  else if 0x70000 ≤ off ∨ (vf ≠ 0#7 ∧ pfOnly off) then 0#64
  else if 0x60000 ≤ off ∧ s.phase.phase = .recovery ∧ 0x60010 ≤ off ∧ off ≠ 0x60808 then 0#64
  else if off = 0x1118 then BitVec.ofNat 64 f.busy.length
  else if off = 0x1120 then BitVec.ofNat 64 f.waiting.length
  else if 0x4000 ≤ off ∧ off < 0x4400 ∧ !ownsLog vf (logBlock off) s then 0#64
  else if 0x30070 ≤ off ∧ off < 0x300A0 then BitVec.ofNat 64 (min 0xFFFF (sprintP ((off - 0x30070) / 8 + 1)))
  else if off = 0x300B0 then (match selectedLaunch vf s with | some l => BitVec.ofNat 64 l.used | none => 0#64)
  else if off = 0x300B8 then
    (match selectedLaunch vf s with
     | some l => BitVec.ofNat 64 ((if l.exhausted then 1 else 0) + (if submissionsHeld vf s then 2 else 0))
     | none => 4#64)
  else if 0x30100 ≤ off ∧ off < 0x30300 then
    let i := (off - 0x30100) / 8
    if vf = 0#7 ∨ islandOwner i s = vf then islandWord i vf s else 0#64
  else if 0x30300 ≤ off ∧ off < 0x30380 then reg 0 off s
  else if 0x30900 ≤ off ∧ off < 0x30B00 then
    let i := (off - 0x30900) / 8
    if vf = 0#7 ∨ islandOwner i s = vf then (islandOwner i s).setWidth 64 else 0#64
  else if off = 0x30398 then (f.lost.head?).getD 0#64
  else if 0x40200 ≤ off ∧ off < 0x40220 then
    (Config.nonce (vf.toNat * 2 ^ 32 + f.nonces)).extractLsb' (64 * ((off - 0x40200) / 8)) 64
  else if off = 0x40268 then dbgEvent vf s
  else if 0x60200 ≤ off ∧ off < 0x60600 ∧ off % 16 = 8 then
    setBits (reg 0 off s) 8 9 (podCircs ((off - 0x60200) / 16) s)
  else if off = 0x60618 then setBits (reg 0 0x60618 s) 8 56 (snapMoved s)
  else reg vf off s &&& ~~~woMask off

end Sys2Proof.Machine
end

