-- ==== Sys2Proof/Machine/Vector.lean ====
section
/-! DEFINITION. Vector: the meanings of the vector and floating-point instructions (R338 to R365). -/

namespace Sys2Proof.Machine

open Host

/-! ### Lanes (R338, R339) -/

/-- Lane width of a type. -/
def laneBits (ty : BitVec 4) : Nat := 1024 / laneCount ty
/-- Lane j of a register at width w. -/
def laneAt (w x j : Nat) : Nat := x / 2 ^ (w * j) % 2 ^ w
/-- The first n lanes. -/
def lanesOf (w : Nat) : Nat → Nat → List Nat
  | 0, _ => []
  | n + 1, x => x % 2 ^ w :: lanesOf w n (x / 2 ^ w)
/-- A register of lanes. -/
def ofLanes (w : Nat) : List Nat → Nat
  | [] => 0
  | x :: t => x % 2 ^ w + 2 ^ w * ofLanes w t
/-- A number with n bits from lo replaced. -/
def setRange (x lo n v : Nat) : Nat := x % 2 ^ lo + 2 ^ lo * (v % 2 ^ n) + 2 ^ (lo + n) * (x / 2 ^ (lo + n))
/-- Lane i is active under a predicate (R339). -/
def active (pm : BitVec 32) (i : Nat) : Bool := pm.getLsbD (i % 32)

/-- Each active lane computed in ascending order, with a draw for each where the operation rounds (R340); the others
kept: the lanes, the flags, the generator. -/
def mapLanes (pm : BitVec 32) (md : Md) (draws : Bool) (f : Md → Nat → Nat → Nat → Nat × Fl) :
    Nat → List Nat → List Nat → List Nat → BitVec 32 → List Nat × Fl × BitVec 32
  | i, a :: as, b :: bs, c :: cs, g =>
    if active pm i then
      let m := if draws then draw md g else (md, g)
      let r := f m.1 a b c
      let t := mapLanes pm md draws f (i + 1) as bs cs m.2
      (r.1 :: t.1, r.2 ||| t.2.1, t.2.2)
    else
      let t := mapLanes pm md draws f (i + 1) as bs cs g
      (c :: t.1, t.2.1, t.2.2)
  | _, _, _, _, g => ([], 0#5, g)

/-- Lanes of a where the predicate is 1, of b elsewhere. -/
def selectLanes (w : Nat) (pm : BitVec 32) (a b : Vec) : Vec :=
  let n := 1024 / w
  BitVec.ofNat 1024 (ofLanes w
    (((List.range n).zip ((lanesOf w n a.toNat).zip (lanesOf w n b.toNat))).map
      (fun e => if active pm e.1 then e.2.1 else e.2.2)))

/-- Writes a vector result, counting a free value used for a stream's inactive lanes. -/
def finishV (i : Instr) (v : Vec) (s : State) : State := useFresh i (dstV i v s)
/-- Writes a vector result with its flags and draws. -/
def finishF (i : Instr) (v : Nat) (fl : Fl) (g : BitVec 32) (s : State) : State :=
  orFlags fl (keepRng g (finishV i (BitVec.ofNat 1024 v) s))

/-- A lane-wise instruction. -/
def laneOp (turns : Nat) (draws : Bool) (i : Instr) (p : Pfx) (pred : BitVec 3) (ty : BitVec 4)
    (f : Md → Nat → Nat → Nat → Nat × Fl) (s : State) : Outcome State Fault Refusal :=
  issue i s fun s =>
    let w := laneBits ty
    let n := laneCount ty
    let a := lanesOf w n (srcV i .a s).toNat
    let b := if roleOf i .b = .vR then lanesOf w n (srcV i .b s).toNat else a
    let r := mapLanes (readP (cur s) pred.toNat s) (curMd p s) draws f 0 a b (lanesOf w n (oldV i s).toNat)
      (rngOf s.issue.core s)
    .next (retireTurns turns (finishF i (ofLanes w r.1) r.2.1 r.2.2 (consume i s)))

/-- Floating lanes. -/
def floatLanes (turns : Nat) (draws : Bool) (i : Instr) (p : Pfx) (pred : BitVec 3) (ty : BitVec 4)
    (f : Md → Nat → Nat → Nat → Nat × Fl) (s : State) : Outcome State Fault Refusal := laneOp turns draws i p pred ty f s
/-- Lanes that set no flag and take no draw. -/
def intLanes (i : Instr) (p : Pfx) (pred : BitVec 3) (ty : BitVec 4) (f : Nat → Nat → Nat → Nat) (s : State) :
    Outcome State Fault Refusal := laneOp 1 false i p pred ty (fun _ a b c => (f a b c, 0#5)) s
def bitLanes (i : Instr) (pred : BitVec 3) (ty : BitVec 4) (f : Nat → Nat → Nat → Nat) (s : State) :
    Outcome State Fault Refusal := intLanes i Pfx.empty pred ty f s

/-! ### Lane results -/

/-- One rounded result of two operands (R237, R340). -/
def fp2 (ty : Nat) (op : Nat → Val → Val → Val × Fl) (md : Md) (a b : Nat) : Nat × Fl :=
  let (x, f) := readVal ty md.ftz a
  let (y, g) := readVal ty md.ftz b
  let (v, h) := op md.rm x y
  let (r, e) := roundVal ty md v
  (r, f ||| g ||| h ||| e)
/-- One rounded result of one operand. -/
def fp1 (ty : Nat) (op : Val → Val × Fl) (md : Md) (a : Nat) : Nat × Fl :=
  let (x, f) := readVal ty md.ftz a
  let (v, h) := op x
  let (r, e) := roundVal ty md v
  (r, f ||| h ||| e)
/-- ±(a·b) ± c, rounded once (R342, R364). -/
def fmaRes (negP negC : Bool) (ty : Nat) (md : Md) (a b c : Nat) : Nat × Fl :=
  let (x, f) := readVal ty md.ftz a
  let (y, g) := readVal ty md.ftz b
  let (z, k) := readVal ty md.ftz c
  let (v, h) := fmaVal md.rm (if negP then x.neg else x) y (if negC then z.neg else z)
  let (r, e) := roundVal ty md v
  (r, f ||| g ||| k ||| h ||| e)

/-- Minimum and maximum: FP32 and wider results are the chosen value; 8-bit formats return the chosen code (R237,
R342; log 9). -/
def minMaxLane (wantMax : Bool) (ty : Nat) (md : Md) (a b : Nat) : Nat × Fl :=
  let (x, f) := readVal ty md.ftz a
  let (y, g) := readVal ty md.ftz b
  let fl := f ||| g ||| sigFl [x, y]
  match pickMinMax wantMax x y with
  | 0 => (if 12 ≤ ty then a else (roundVal ty { md with sat := false } x).1, fl)
  | 1 => (if 12 ≤ ty then b else (roundVal ty { md with sat := false } y).1, fl)
  | _ => (canonNan ty, fl)

/-- Integer results of R342: 1 VADD, 2 VSUB, 3 VMUL, 4 VMULH, 5 VMIN, 6 VMAX. -/
def vintRes (op ty sat : Nat) (a b _c : Nat) : Nat :=
  let w := tyBits ty
  let sat := if op ≤ 3 then sat else 0
  let uns := if sat = 1 then false else if sat = 2 then true else tyUns ty
  let x := rdInt w uns a
  let y := rdInt w uns b
  match op with
  | 1 => fitInt w sat (x + y)
  | 2 => fitInt w sat (x - y)
  | 3 => fitInt w sat (x * y)
  | 4 => code w (x * y / ((2 ^ w : Nat) : Int))
  | 5 => code w (min x y)
  | _ => code w (max x y)

/-- VADD, VSUB, VMUL on either kind of lane (R342). -/
def arithLanes (op : Nat) (i : Instr) (p : Pfx) (pred : BitVec 3) (ty : BitVec 4) (s : State) :
    Outcome State Fault Refusal :=
  if ty.toNat < 8 then intLanes i p pred ty (vintRes op ty.toNat (intSat p)) s
  else
    floatLanes 1 true i p pred ty (fun md a b _ =>
      fp2 ty.toNat (fun rm x y => if op = 1 then addVal rm x y else if op = 2 then addVal rm x y.neg else mulVal x y) md a b) s

/-- VMIN, VMAX on either kind of lane (R342). -/
def minMaxLanes (wantMax : Bool) (i : Instr) (p : Pfx) (pred : BitVec 3) (ty : BitVec 4) (s : State) :
    Outcome State Fault Refusal :=
  if ty.toNat < 8 then intLanes i p pred ty (vintRes (if wantMax then 6 else 5) ty.toNat 0) s
  else floatLanes 1 true i p pred ty (fun md a b _ => minMaxLane wantMax ty.toNat md a b) s

/-- VABS (R343). -/
def absLane (ty sat a : Nat) : Nat :=
  let w := tyBits ty
  if ty < 8 then
    (if tyUns ty ∨ sat = 2 then a else fitInt w sat ((sgn w a).natAbs : Int))
  else if (decodeVal ty a).isNan then canonNan ty
  else a % 2 ^ (w - 1)
/-- VNEG (R343); DYN8 has no negative zero. -/
def negLane (ty sat a : Nat) : Nat :=
  let w := tyBits ty
  if ty < 8 then
    let uns := if sat = 1 then false else if sat = 2 then true else tyUns ty
    fitInt w sat (-(rdInt w uns a))
  else if (decodeVal ty a).isNan then canonNan ty
  else if ty = 14 ∧ a = 0 then 0
  else (a + 2 ^ (w - 1)) % 2 ^ w

/-- Shifts of R347: 1 left, 2 right unsigned, 3 right signed. -/
def shiftLane (op ty sat a b : Nat) : Nat :=
  let w := tyBits ty
  let sh := b % w
  match op with
  | 1 => fitInt w sat ((if sat = 2 then (a : Int) else sgn w a) * ((2 ^ sh : Nat) : Int))
  | 2 => a / 2 ^ sh
  | _ => code w (sgn w a / ((2 ^ sh : Nat) : Int))

/-- Comparison of two lane codes (R348). -/
def cmpFloat (ty cond : Nat) (md : Md) (a b : Nat) : Bool × Fl :=
  let (x, f) := readVal ty md.ftz (a % 2 ^ tyBits ty)
  let (y, g) := readVal ty md.ftz (b % 2 ^ tyBits ty)
  let (r, h) := cmpVal cond x y
  (r, f ||| g ||| h)
def cmpLanes (ty cond : Nat) (md : Md) (pm : BitVec 32) : List Nat → List Nat → Nat → BitVec 32 × Fl
  | a :: as, b :: bs, i =>
    let t := cmpLanes ty cond md pm as bs (i + 1)
    if active pm i then
      let r := if ty < 8 then (cmpIntV cond (rdInt (tyBits ty) (tyUns ty) a) (rdInt (tyBits ty) (tyUns ty) b), 0#5)
        else cmpFloat ty cond md a b
      ((if r.1 then t.1 ||| (1#32 <<< i) else t.1), r.2 ||| t.2)
    else t
  | _, _, _ => (0#32, 0#5)
/-- The 32 lanes of a part (R348). -/
def partLanes (ty : BitVec 4) (part : Nat) (v : Vec) : List Nat := lanesOf (laneBits ty) 32 (v.toNat / 2 ^ (laneBits ty * (32 * part)))

/-- The permutes of R354: lane j of each active lane comes from a function of the sources. -/
def permLanes (i : Instr) (pred : BitVec 3) (ty : BitVec 4) (f : Nat → Nat → Instr → State → Nat → Nat) (s : State) :
    Outcome State Fault Refusal :=
  issue i s fun s =>
    let w := laneBits ty
    let L := laneCount ty
    let g := f L w i s
    let v := BitVec.ofNat 1024 (ofLanes w ((List.range L).map g))
    .next (retire (finishV i (selectLanes w (readP (cur s) pred.toNat s) v (oldV i s)) (consume i s)))

/-! ### Reductions and scans (R355, R356) -/

/-- Combines two lanes; an absent one leaves the other. -/
def comb {α σ : Type} (f : α → α → σ → α × σ) : Option α → Option α → σ → Option α × σ
  | none, y, st => (y, st)
  | x, none, st => (x, st)
  | some x, some y, st => let r := f x y st; (some r.1, r.2)
def zipComb {α σ : Type} (f : α → α → σ → α × σ) : List (Option α) → List (Option α) → σ → List (Option α) × σ
  | a :: as, b :: bs, st =>
    let r := comb f a b st
    let t := zipComb f as bs r.2
    (r.1 :: t.1, t.2)
  | _, _, st => ([], st)
/-- Halves the lanes until one is left. -/
def treeComb {α σ : Type} (f : α → α → σ → α × σ) : Nat → List (Option α) → σ → Option α × σ
  | 0, t, st => (t.headD none, st)
  | n + 1, t, st =>
    if t.length ≤ 1 then (t.headD none, st)
    else
      let h := t.length / 2
      let r := zipComb f (t.take h) (t.drop h) st
      treeComb f n r.1 r.2
/-- Prefixes: the running value at each active lane, `none` at the others. -/
def scanComb {α σ : Type} (f : α → α → σ → α × σ) : List (Option α) → Option α → σ → List (Option α) × σ
  | [], _, st => ([], st)
  | none :: t, run, st => let r := scanComb f t run st; (none :: r.1, r.2)
  | some x :: t, run, st =>
    let r := comb f run (some x) st
    let u := scanComb f t r.1 r.2
    (r.1 :: u.1, u.2)

/-- Exact integer combination: sums are exact until the end. -/
def intComb (rop : Nat) (x y : Int) : Int := match rop with | 0 => x + y | 1 => min x y | _ => max x y
/-- Floating combination: sums round, with a draw, minimum and maximum choose. -/
def fltComb (rop ty : Nat) (md : Md) (x y : Nat) (st : Fl × BitVec 32) : Nat × (Fl × BitVec 32) :=
  if rop = 0 then
    let m := draw md st.2
    let r := fp2 ty (fun rm => addVal rm) m.1 x y
    (r.1, st.1 ||| r.2, m.2)
  else
    let r := minMaxLane (rop == 2) ty md x y
    (r.1, st.1 ||| r.2, st.2)
/-- Bitwise combination. -/
def bitComb (rop x y : Nat) : Nat := match rop with | 3 => x &&& y | 4 => x ||| y | _ => x ^^^ y
/-- The value of no active lane (R355). -/
def redIdentity (rop ty : Nat) : Nat :=
  let w := tyBits ty
  if ty < 8 then
    match rop with
    | 1 => if tyUns ty then 2 ^ w - 1 else 2 ^ (w - 1) - 1
    | 2 => if tyUns ty then 0 else 2 ^ (w - 1)
    | 3 => 2 ^ w - 1
    | _ => 0
  else match rop with | 1 => infCode ty false | 2 => infCode ty true | _ => 0

/-- The active lanes of a source. -/
def activeLanes (w : Nat) (pm : BitVec 32) (v : Vec) : List (Option Nat) :=
  ((List.range (1024 / w)).zip (lanesOf w (1024 / w) v.toNat)).map (fun e => if active pm e.1 then some e.2 else none)
/-- How integer lanes of a sum are read under a saturation setting (R234). -/
def redUns (rop ty sat : Nat) : Bool := if rop = 0 ∧ sat = 1 then false else if rop = 0 ∧ sat = 2 then true else tyUns ty

def redLanes (rop : Nat) (ty : BitVec 4) (p : Pfx) (pm : BitVec 32) (v : Vec) (s : State) : Nat × Fl × BitVec 32 :=
  let w := laneBits ty
  let t := ty.toNat
  let g := rngOf s.issue.core s
  let ls := activeLanes w pm v
  if t < 8 then
    if 3 ≤ rop then
      (((treeComb (fun x y (u : Unit) => (bitComb rop x y, u)) 8 ls ()).1).getD (redIdentity rop t), 0#5, g)
    else
      let sat := if rop = 0 then intSat p else 0
      let r := (treeComb (fun x y (u : Unit) => (intComb rop x y, u)) 8
        (ls.map (fun o => o.map (fun x => rdInt w (redUns rop t (intSat p)) x))) ()).1
      (match r with | some x => fitInt w sat x | none => redIdentity rop t, 0#5, g)
  else
    let r := treeComb (fltComb rop t (curMd p s)) 8 ls (0#5, g)
    (r.1.getD (redIdentity rop t), r.2.1, r.2.2)

def scanLanes (rop : Nat) (ty : BitVec 4) (p : Pfx) (pm : BitVec 32) (v old : Vec) (s : State) : List Nat × Fl × BitVec 32 :=
  let w := laneBits ty
  let t := ty.toNat
  let g := rngOf s.issue.core s
  let ls := activeLanes w pm v
  let keep (r : List (Option Nat)) : List Nat := (r.zip (lanesOf w (1024 / w) old.toNat)).map (fun e => e.1.getD e.2)
  if t < 8 then
    if 3 ≤ rop then (keep (scanComb (fun x y (u : Unit) => (bitComb rop x y, u)) ls none ()).1, 0#5, g)
    else
      let sat := if rop = 0 then intSat p else 0
      let r := (scanComb (fun x y (u : Unit) => (intComb rop x y, u))
        (ls.map (fun o => o.map (fun x => rdInt w (redUns rop t (intSat p)) x))) none ()).1
      (keep (r.map (fun o => o.map (fun x => fitInt w sat x))), 0#5, g)
  else
    let r := scanComb (fltComb rop t (curMd p s)) ls none (0#5, g)
    (keep r.1, r.2.1, r.2.2)

/-! ### Dot products and quantisation (R357, R359, R360) -/

/-- The exact sum of four products and c (R257, R357). -/
def dotSum (ty : Nat) (md : Md) (acc : Val × Fl) : List (Nat × Nat) → Val × Fl
  | [] => acc
  | (a, b) :: t =>
    let (x, f) := readVal ty md.ftz a
    let (y, g) := readVal ty md.ftz b
    let (m, h) := mulVal x y
    let (v, e) := addVal md.rm acc.1 m
    dotSum ty md (v, acc.2 ||| f ||| g ||| h ||| e) t
def dotLane (ty sat : Nat) (md : Md) (a b c : Nat) : Nat × Fl :=
  let ps := (lanesOf 8 4 a).zip (lanesOf 8 4 b)
  if ty < 8 then
    let uns := if sat = 1 then false else if sat = 2 then true else tyUns ty
    let r := ps.foldl (fun acc e => acc + rdInt 8 uns e.1 * rdInt 8 uns e.2) (rdInt 32 uns c)
    (fitInt 32 sat r, 0#5)
  else
    let (z, f) := readVal 9 md.ftz c
    let (v, g) := dotSum ty md (z, f) ps
    let (r, e) := roundVal 9 md v
    (r, g ||| e)

/-- Element conversions of one block: one draw for each active lane (R255, R359). -/
def quantElems (ty sc : Nat) (nanBlock zeroBlock : Bool) (md : Md) (pm : BitVec 32) :
    Nat → List (Val × Fl) → BitVec 32 → List Nat × Fl × BitVec 32
  | _, [], g => ([], 0#5, g)
  | i, x :: t, g =>
    let act := active pm i
    let m := if act then draw md g else (md, g)
    let r : Nat × Fl :=
      if nanBlock then (canonNan ty, 0#5)
      else if zeroBlock ∨ act = false then (0, 0#5)
      else
        let e := roundVal ty { m.1 with sat := true } (scaleVal (127 - (sc : Int)) x.1)
        (e.1, x.2 ||| e.2)
    let u := quantElems ty sc nanBlock zeroBlock md pm (i + 1) t m.2
    (r.1 :: u.1, r.2 ||| u.2.1, u.2.2)
/-- Scale, elements, flags and generator of one block (R255). -/
def quantise (ty : Nat) (md : Md) (pm : BitVec 32) (xs : List Nat) (g : BitVec 32) : Nat × List Nat × Fl × BitVec 32 :=
  let vs := ((List.range 32).zip xs).map (fun e => if active pm e.1 then readVal 9 md.ftz e.2 else (.fin false 0 0 false, 0#5))
  let sc := blockScale ty (vs.map Prod.fst)
  let zero := (vs.map Prod.fst).all Val.isZero
  let r := quantElems ty sc (sc == 255) zero md pm 0 vs g
  (sc, r.1, r.2.1, r.2.2)
/-- One dequantised lane (R254, R360). -/
def dequant (ty sc : Nat) (md : Md) (x : Nat) : Nat × Fl :=
  if sc = 255 then (canonNan 9, 0#5)
  else
    let (v, f) := readVal ty md.ftz x
    let (r, e) := roundVal 9 md (scaleVal ((sc : Int) - 127) v)
    (r, f ||| sigFl [v] ||| e)

/-! ### Scalar floating point (R361, R362) -/

/-- Turns of FDIV and FSQRT (R193). -/
def divTurns (ty : BitVec 4) : Nat := if ty.toNat = 8 then 4 else 2

/-- A floating result in the low bits of a scalar register. -/
def fpScalar (turns : Nat) (draws : Bool) (i : Instr) (p : Pfx) (ty : BitVec 4) (f : Md → State → Nat × Fl) (s : State) :
    Outcome State Fault Refusal :=
  issue i s fun s =>
    let g := rngOf s.issue.core s
    let m := if draws then draw (curMd p s) g else (curMd p s, g)
    let r := f m.1 s
    .next (retireTurns turns (orFlags r.2 (keepRng m.2 (dstS i .d (zext64 (tyBits ty.toNat) r.1) (consume i s)))))

/-- VADD (R342). -/
def execVadd (p : Pfx) (pred : BitVec 3) (ty : BitVec 4) (rd : BitVec 5) (ra : BitVec 5) (rb : BitVec 5) (s : State) : Outcome State Fault Refusal :=
  arithLanes 1 (.vadd p pred ty rd ra rb) p pred ty s

/-- VSUB (R342). -/
def execVsub (p : Pfx) (pred : BitVec 3) (ty : BitVec 4) (rd : BitVec 5) (ra : BitVec 5) (rb : BitVec 5) (s : State) : Outcome State Fault Refusal :=
  arithLanes 2 (.vsub p pred ty rd ra rb) p pred ty s

/-- VMUL (R342). -/
def execVmul (p : Pfx) (pred : BitVec 3) (ty : BitVec 4) (rd : BitVec 5) (ra : BitVec 5) (rb : BitVec 5) (s : State) : Outcome State Fault Refusal :=
  arithLanes 3 (.vmul p pred ty rd ra rb) p pred ty s

/-- VMULH (R342). -/
def execVmulh (p : Pfx) (pred : BitVec 3) (ty : BitVec 4) (rd : BitVec 5) (ra : BitVec 5) (rb : BitVec 5) (s : State) : Outcome State Fault Refusal :=
  intLanes (.vmulh p pred ty rd ra rb) p pred ty (vintRes 4 ty.toNat (intSat p)) s

/-- VFMA (R342). -/
def execVfma (p : Pfx) (pred : BitVec 3) (ty : BitVec 4) (rd : BitVec 5) (ra : BitVec 5) (rb : BitVec 5) (s : State) : Outcome State Fault Refusal :=
  floatLanes 1 true (.vfma p pred ty rd ra rb) p pred ty (fmaRes false false ty.toNat) s

/-- VFMS (R342). -/
def execVfms (p : Pfx) (pred : BitVec 3) (ty : BitVec 4) (rd : BitVec 5) (ra : BitVec 5) (rb : BitVec 5) (s : State) : Outcome State Fault Refusal :=
  floatLanes 1 true (.vfms p pred ty rd ra rb) p pred ty (fmaRes false true ty.toNat) s

/-- VFNMA (R342). -/
def execVfnma (p : Pfx) (pred : BitVec 3) (ty : BitVec 4) (rd : BitVec 5) (ra : BitVec 5) (rb : BitVec 5) (s : State) : Outcome State Fault Refusal :=
  floatLanes 1 true (.vfnma p pred ty rd ra rb) p pred ty (fmaRes true false ty.toNat) s

/-- VMIN (R237, R342). -/
def execVmin (p : Pfx) (pred : BitVec 3) (ty : BitVec 4) (rd : BitVec 5) (ra : BitVec 5) (rb : BitVec 5) (s : State) : Outcome State Fault Refusal :=
  minMaxLanes false (.vmin p pred ty rd ra rb) p pred ty s

/-- VMAX (R237, R342). -/
def execVmax (p : Pfx) (pred : BitVec 3) (ty : BitVec 4) (rd : BitVec 5) (ra : BitVec 5) (rb : BitVec 5) (s : State) : Outcome State Fault Refusal :=
  minMaxLanes true (.vmax p pred ty rd ra rb) p pred ty s

/-- VDIV (R342). -/
def execVdiv (p : Pfx) (pred : BitVec 3) (ty : BitVec 4) (rd : BitVec 5) (ra : BitVec 5) (rb : BitVec 5) (s : State) : Outcome State Fault Refusal :=
  floatLanes 4 true (.vdiv p pred ty rd ra rb) p pred ty (fun md a b _ => fp2 ty.toNat (fun _ => divVal) md a b) s

/-- VABS (R343). -/
def execVabs (p : Pfx) (pred : BitVec 3) (ty : BitVec 4) (rd : BitVec 5) (ra : BitVec 5) (s : State) : Outcome State Fault Refusal :=
  intLanes (.vabs p pred ty rd ra) p pred ty (fun a _ _ => absLane ty.toNat (intSat p) a) s

/-- VNEG (R343). -/
def execVneg (p : Pfx) (pred : BitVec 3) (ty : BitVec 4) (rd : BitVec 5) (ra : BitVec 5) (s : State) : Outcome State Fault Refusal :=
  intLanes (.vneg p pred ty rd ra) p pred ty (fun a _ _ => negLane ty.toNat (intSat p) a) s

/-- VRCP (R344). -/
def execVrcp (p : Pfx) (pred : BitVec 3) (ty : BitVec 4) (rd : BitVec 5) (ra : BitVec 5) (s : State) : Outcome State Fault Refusal :=
  floatLanes 1 false (.vrcp p pred ty rd ra) p pred ty (fun md a _ _ => approxOp 2 ty.toNat md a) s

/-- VRSQ (R344). -/
def execVrsq (p : Pfx) (pred : BitVec 3) (ty : BitVec 4) (rd : BitVec 5) (ra : BitVec 5) (s : State) : Outcome State Fault Refusal :=
  floatLanes 1 false (.vrsq p pred ty rd ra) p pred ty (fun md a _ _ => approxOp 3 ty.toNat md a) s

/-- VEXP2 (R344). -/
def execVexp2 (p : Pfx) (pred : BitVec 3) (ty : BitVec 4) (rd : BitVec 5) (ra : BitVec 5) (s : State) : Outcome State Fault Refusal :=
  floatLanes 1 false (.vexp2 p pred ty rd ra) p pred ty (fun md a _ _ => approxOp 4 ty.toNat md a) s

/-- VLOG2 (R344). -/
def execVlog2 (p : Pfx) (pred : BitVec 3) (ty : BitVec 4) (rd : BitVec 5) (ra : BitVec 5) (s : State) : Outcome State Fault Refusal :=
  floatLanes 1 false (.vlog2 p pred ty rd ra) p pred ty (fun md a _ _ => approxOp 5 ty.toNat md a) s

/-- VSQRT (R343). -/
def execVsqrt (p : Pfx) (pred : BitVec 3) (ty : BitVec 4) (rd : BitVec 5) (ra : BitVec 5) (s : State) : Outcome State Fault Refusal :=
  floatLanes 4 true (.vsqrt p pred ty rd ra) p pred ty (fun md a _ _ => fp1 ty.toNat sqrtVal md a) s

/-- VAND (R345). -/
def execVand (p : Pfx) (pred : BitVec 3) (rd : BitVec 5) (ra : BitVec 5) (rb : BitVec 5) (s : State) : Outcome State Fault Refusal :=
  bitLanes (.vand p pred rd ra rb) pred 2#4 (fun a b _ => a &&& b) s

/-- VOR (R345). -/
def execVor (p : Pfx) (pred : BitVec 3) (rd : BitVec 5) (ra : BitVec 5) (rb : BitVec 5) (s : State) : Outcome State Fault Refusal :=
  bitLanes (.vor p pred rd ra rb) pred 2#4 (fun a b _ => a ||| b) s

/-- VXOR (R345). -/
def execVxor (p : Pfx) (pred : BitVec 3) (rd : BitVec 5) (ra : BitVec 5) (rb : BitVec 5) (s : State) : Outcome State Fault Refusal :=
  bitLanes (.vxor p pred rd ra rb) pred 2#4 (fun a b _ => a ^^^ b) s

/-- VLOGT (R346). -/
def execVlogt (p : Pfx) (pred : BitVec 3) (ty : BitVec 4) (rd : BitVec 5) (ra : BitVec 5) (rb : BitVec 5) (vc : BitVec 5) (table : BitVec 8) (s : State) : Outcome State Fault Refusal :=
  issue (.vlogt p pred ty rd ra rb vc table) s fun s =>
    let k := cur s
    let i : Instr := (.vlogt p pred ty rd ra rb vc table)
    let r := logtBits table (srcV i .a s) (srcV i .b s) (readV k vc s)
    .next (retire (finishV i (selectLanes (laneBits ty) (readP k pred.toNat s) r (oldV i s)) (consume i s)))

/-- VSHL (R347). -/
def execVshl (p : Pfx) (pred : BitVec 3) (ty : BitVec 4) (rd : BitVec 5) (ra : BitVec 5) (rb : BitVec 5) (s : State) : Outcome State Fault Refusal :=
  intLanes (.vshl p pred ty rd ra rb) p pred ty (fun a b _ => shiftLane 1 ty.toNat (intSat p) a b) s

/-- VSHR (R347). -/
def execVshr (p : Pfx) (pred : BitVec 3) (ty : BitVec 4) (rd : BitVec 5) (ra : BitVec 5) (rb : BitVec 5) (s : State) : Outcome State Fault Refusal :=
  intLanes (.vshr p pred ty rd ra rb) p pred ty (fun a b _ => shiftLane 2 ty.toNat (intSat p) a b) s

/-- VSAR (R347). -/
def execVsar (p : Pfx) (pred : BitVec 3) (ty : BitVec 4) (rd : BitVec 5) (ra : BitVec 5) (rb : BitVec 5) (s : State) : Outcome State Fault Refusal :=
  intLanes (.vsar p pred ty rd ra rb) p pred ty (fun a b _ => shiftLane 3 ty.toNat (intSat p) a b) s

/-- VCMP (R348). -/
def execVcmp (p : Pfx) (pred : BitVec 3) (ty : BitVec 4) (cond : BitVec 3) (rd : BitVec 5) (ra : BitVec 5) (rb : BitVec 5) (part : BitVec 3) (s : State) : Outcome State Fault Refusal :=
  issue (.vcmp p pred ty cond rd ra rb part) s fun s =>
    let i : Instr := (.vcmp p pred ty cond rd ra rb part)
    let md := curMd p s
    let r := cmpLanes ty.toNat cond.toNat md (readP (cur s) pred.toNat s)
      (partLanes ty part.toNat (srcV i .a s)) (partLanes ty part.toNat (srcV i .b s)) 0
    .next (retire (orFlags r.2 (dstP i r.1 (consume i s))))

/-- VSEL (R349). -/
def execVsel (p : Pfx) (pred : BitVec 3) (ty : BitVec 4) (rd : BitVec 5) (ra : BitVec 5) (rb : BitVec 5) (s : State) : Outcome State Fault Refusal :=
  issue (.vsel p pred ty rd ra rb) s fun s =>
    let i : Instr := (.vsel p pred ty rd ra rb)
    .next (retire (dstV i (selectLanes (laneBits ty) (readP (cur s) pred.toNat s) (srcV i .a s) (srcV i .b s)) (consume i s)))

/-- VCVT (R350, R351). -/
def execVcvt (p : Pfx) (pred : BitVec 3) (ty : BitVec 4) (rd : BitVec 5) (ra : BitVec 5) (dpart : BitVec 3) (spart : BitVec 3) (sty : BitVec 4) (s : State) : Outcome State Fault Refusal :=
  issue (.vcvt p pred ty rd ra dpart spart sty) s fun s =>
    let i : Instr := (.vcvt p pred ty rd ra dpart spart sty)
    let n := convLanes sty ty
    let wd := 1024 / laneCount ty
    let ws := 1024 / laneCount sty
    let src := lanesOf ws n ((srcV i .a s).toNat / 2 ^ (ws * (spart.toNat * n)))
    let old := (oldV i s).toNat
    let base := dpart.toNat * n
    let rounds := !(exactPair sty.toNat ty.toNat) && !(tyInt sty.toNat && tyInt ty.toNat)
    let r := mapLanes (readP (cur s) pred.toNat s) (curMd p s) rounds
      (fun md x _ _ => convert sty.toNat ty.toNat md (intSat p) x) base src src
      (lanesOf wd n (old / 2 ^ (wd * base))) (rngOf s.issue.core s)
    let v := setRange old (wd * base) (wd * n) (ofLanes wd r.1)
    .next (retire (finishF i v r.2.1 r.2.2 (consume i s)))

/-- VBCST (R352). -/
def execVbcst (p : Pfx) (pred : BitVec 3) (ty : BitVec 4) (rd : BitVec 5) (ra : BitVec 5) (s : State) : Outcome State Fault Refusal :=
  issue (.vbcst p pred ty rd ra) s fun s =>
    let i : Instr := (.vbcst p pred ty rd ra)
    let w := laneBits ty
    let x := (srcS i .a s).toNat % 2 ^ w
    let v := ofLanes w (List.replicate (laneCount ty) x)
    .next (retire (finishV i (selectLanes w (readP (cur s) pred.toNat s) (BitVec.ofNat 1024 v) (oldV i s)) (consume i s)))

/-- VMOVS to a scalar (R353). -/
def execVmovsToScalar (p : Pfx) (ty : BitVec 4) (rd : BitVec 5) (ra : BitVec 5) (rb : BitVec 5) (s : State) : Outcome State Fault Refusal :=
  scalarOp (.vmovsToScalar p ty rd ra rb) (fun s =>
    let i : Instr := (.vmovsToScalar p ty rd ra rb)
    let w := laneBits ty
    let x := laneAt w (srcV i .a s).toNat ((srcS i .b s).toNat % laneCount ty)
    if ty.toNat ≤ 2 then sext64 w x else zext64 w x) s

/-- VMOVS to a lane (R353). -/
def execVmovsToLane (p : Pfx) (ty : BitVec 4) (rd : BitVec 5) (ra : BitVec 5) (rb : BitVec 5) (s : State) : Outcome State Fault Refusal :=
  issue (.vmovsToLane p ty rd ra rb) s fun s =>
    let i : Instr := (.vmovsToLane p ty rd ra rb)
    let w := laneBits ty
    let j := (srcS i .b s).toNat % laneCount ty
    let v := setRange (oldV i s).toNat (w * j) w ((srcS i .a s).toNat % 2 ^ w)
    .next (retire (finishV i (BitVec.ofNat 1024 v) (consume i s)))

/-- VPERM (R354). -/
def execVperm (p : Pfx) (pred : BitVec 3) (ty : BitVec 4) (rd : BitVec 5) (ra : BitVec 5) (rb : BitVec 5) (s : State) : Outcome State Fault Refusal :=
  permLanes (.vperm p pred ty rd ra rb) pred ty (fun L w i s =>
    let bv := (srcV i .b s).toNat
    (fun a _ b j => laneAt w a (b j % L)) (srcV i .a s).toNat (oldV i s).toNat (laneAt w bv)) s

/-- VSHUF (R354). -/
def execVshuf (p : Pfx) (pred : BitVec 3) (ty : BitVec 4) (rd : BitVec 5) (ra : BitVec 5) (rb : BitVec 5) (s : State) : Outcome State Fault Refusal :=
  permLanes (.vshuf p pred ty rd ra rb) pred ty (fun L w i s =>
    let bv := (srcV i .b s).toNat
    (fun a o b j => let x := b j % (2 * L); if x < L then laneAt w a x else laneAt w o (x - L)) (srcV i .a s).toNat (oldV i s).toNat (laneAt w bv)) s

/-- VSLD (R354). -/
def execVsld (p : Pfx) (pred : BitVec 3) (ty : BitVec 4) (rd : BitVec 5) (ra : BitVec 5) (rb : BitVec 5) (s : State) : Outcome State Fault Refusal :=
  permLanes (.vsld p pred ty rd ra rb) pred ty (fun L w i s =>
    let m := (srcS i .b s).toNat % L
    fun j => let x := j + m; if x < L then laneAt w (srcV i .a s).toNat x else laneAt w (oldV i s).toNat (x - L)) s

/-- VRED (R355, R356). -/
def execVred (p : Pfx) (pred : BitVec 3) (ty : BitVec 4) (rd : BitVec 5) (ra : BitVec 5) (rop : BitVec 3) (s : State) : Outcome State Fault Refusal :=
  issue (.vred p pred ty rd ra rop) s fun s =>
    let i : Instr := (.vred p pred ty rd ra rop)
    let r := redLanes rop.toNat ty p (readP (cur s) pred.toNat s) (srcV i .a s) s
    let v := if ty.toNat ≤ 2 then sext64 (laneBits ty) r.1 else zext64 (laneBits ty) r.1
    .next (retire (orFlags r.2.1 (keepRng r.2.2 (dstS i .d v (consume i s)))))

/-- VSCAN (R355, R356). -/
def execVscan (p : Pfx) (pred : BitVec 3) (ty : BitVec 4) (rd : BitVec 5) (ra : BitVec 5) (rop : BitVec 3) (s : State) : Outcome State Fault Refusal :=
  issue (.vscan p pred ty rd ra rop) s fun s =>
    let i : Instr := (.vscan p pred ty rd ra rop)
    let w := laneBits ty
    let r := scanLanes rop.toNat ty p (readP (cur s) pred.toNat s) (srcV i .a s) (oldV i s) s
    .next (retire (finishF i (ofLanes w r.1) r.2.1 r.2.2 (consume i s)))

/-- VDOT4 (R357). -/
def execVdot4 (p : Pfx) (pred : BitVec 3) (ty : BitVec 4) (rd : BitVec 5) (ra : BitVec 5) (rb : BitVec 5) (s : State) : Outcome State Fault Refusal :=
  issue (.vdot4 p pred ty rd ra rb) s fun s =>
    let i : Instr := (.vdot4 p pred ty rd ra rb)
    let r := mapLanes (readP (cur s) pred.toNat s) (curMd p s) (8 ≤ ty.toNat) (fun md a b c => dotLane ty.toNat (intSat p) md a b c)
      0 (lanesOf 32 32 (srcV i .a s).toNat) (lanesOf 32 32 (srcV i .b s).toNat) (lanesOf 32 32 (oldV i s).toNat)
      (rngOf s.issue.core s)
    .next (retire (finishF i (ofLanes 32 r.1) r.2.1 r.2.2 (consume i s)))

/-- VLUT (R358). -/
def execVlut (p : Pfx) (pred : BitVec 3) (ty : BitVec 4) (rd : BitVec 5) (ra : BitVec 5) (part : BitVec 5) (s : State) : Outcome State Fault Refusal :=
  issue (.vlut p pred ty rd ra part) s fun s =>
    let i : Instr := (.vlut p pred ty rd ra part)
    let w := laneBits ty
    let L := laneCount ty
    let cb := (coreAt s.issue.core s).codebook.toNat
    let codes := lanesOf 4 L ((srcV i .a s).toNat / 2 ^ (4 * (part.toNat * L)))
    let v := ofLanes w (codes.map (fun c => if w = 8 then laneAt 8 cb c else code w (sgn 8 (laneAt 8 cb c))))
    .next (retire (finishV i (selectLanes w (readP (cur s) pred.toNat s) (BitVec.ofNat 1024 v) (oldV i s)) (consume i s)))

/-- VQNT (R255, R359). -/
def execVqnt (p : Pfx) (pred : BitVec 3) (ty : BitVec 4) (rd : BitVec 5) (ra : BitVec 5) (rb : BitVec 5) (s : State) : Outcome State Fault Refusal :=
  issue (.vqnt p pred ty rd ra rb) s fun s =>
    let i : Instr := (.vqnt p pred ty rd ra rb)
    let r := quantise ty.toNat (curMd p s) (readP (cur s) pred.toNat s) (lanesOf 32 32 (srcV i .a s).toNat) (rngOf s.issue.core s)
    let v := BitVec.ofNat 1024 (ofLanes (tyBits ty.toNat) r.2.1)
    .next (retire (orFlags r.2.2.1 (keepRng r.2.2.2 (dstS i .b (BitVec.ofNat 64 r.1) (dstV i v (consume i s))))))

/-- VDQNT (R254, R360). -/
def execVdqnt (p : Pfx) (pred : BitVec 3) (ty : BitVec 4) (rd : BitVec 5) (ra : BitVec 5) (rb : BitVec 5) (s : State) : Outcome State Fault Refusal :=
  issue (.vdqnt p pred ty rd ra rb) s fun s =>
    let i : Instr := (.vdqnt p pred ty rd ra rb)
    let sc := bitsN (srcS i .b s) 0 8
    let r := mapLanes (readP (cur s) pred.toNat s) (curMd p s) true (fun md x _ _ => dequant ty.toNat sc md x)
      0 (lanesOf (tyBits ty.toNat) 32 (srcV i .a s).toNat) (List.replicate 32 0) (lanesOf 32 32 (oldV i s).toNat)
      (rngOf s.issue.core s)
    .next (retire (finishF i (ofLanes 32 r.1) r.2.1 r.2.2 (consume i s)))

/-- FADD (R362). -/
def execFadd (p : Pfx) (ty : BitVec 4) (rd : BitVec 5) (ra : BitVec 5) (rb : BitVec 5) (s : State) : Outcome State Fault Refusal :=
  fpScalar 1 true (.fadd p ty rd ra rb) p ty (fun md s => fp2 ty.toNat (fun rm => addVal rm) md (srcS (.fadd p ty rd ra rb) .a s).toNat (srcS (.fadd p ty rd ra rb) .b s).toNat) s

/-- FSUB (R362). -/
def execFsub (p : Pfx) (ty : BitVec 4) (rd : BitVec 5) (ra : BitVec 5) (rb : BitVec 5) (s : State) : Outcome State Fault Refusal :=
  fpScalar 1 true (.fsub p ty rd ra rb) p ty (fun md s => fp2 ty.toNat (fun rm a b => addVal rm a b.neg) md (srcS (.fsub p ty rd ra rb) .a s).toNat (srcS (.fsub p ty rd ra rb) .b s).toNat) s

/-- FMUL (R362). -/
def execFmul (p : Pfx) (ty : BitVec 4) (rd : BitVec 5) (ra : BitVec 5) (rb : BitVec 5) (s : State) : Outcome State Fault Refusal :=
  fpScalar 1 true (.fmul p ty rd ra rb) p ty (fun md s => fp2 ty.toNat (fun _ => mulVal) md (srcS (.fmul p ty rd ra rb) .a s).toNat (srcS (.fmul p ty rd ra rb) .b s).toNat) s

/-- FDIV (R362). -/
def execFdiv (p : Pfx) (ty : BitVec 4) (rd : BitVec 5) (ra : BitVec 5) (rb : BitVec 5) (s : State) : Outcome State Fault Refusal :=
  fpScalar (divTurns ty) true (.fdiv p ty rd ra rb) p ty (fun md s => fp2 ty.toNat (fun _ => divVal) md (srcS (.fdiv p ty rd ra rb) .a s).toNat (srcS (.fdiv p ty rd ra rb) .b s).toNat) s

/-- FSQRT (R362). -/
def execFsqrt (p : Pfx) (ty : BitVec 4) (rd : BitVec 5) (ra : BitVec 5) (s : State) : Outcome State Fault Refusal :=
  fpScalar (divTurns ty) true (.fsqrt p ty rd ra) p ty (fun md s => fp1 ty.toNat sqrtVal md (srcS (.fsqrt p ty rd ra) .a s).toNat) s

/-- FMIN (R237, R362). -/
def execFmin (p : Pfx) (ty : BitVec 4) (rd : BitVec 5) (ra : BitVec 5) (rb : BitVec 5) (s : State) : Outcome State Fault Refusal :=
  fpScalar 1 true (.fmin p ty rd ra rb) p ty (fun md s => minMaxLane false ty.toNat md (srcS (.fmin p ty rd ra rb) .a s).toNat (srcS (.fmin p ty rd ra rb) .b s).toNat) s

/-- FMAX (R237, R362). -/
def execFmax (p : Pfx) (ty : BitVec 4) (rd : BitVec 5) (ra : BitVec 5) (rb : BitVec 5) (s : State) : Outcome State Fault Refusal :=
  fpScalar 1 true (.fmax p ty rd ra rb) p ty (fun md s => minMaxLane true ty.toNat md (srcS (.fmax p ty rd ra rb) .a s).toNat (srcS (.fmax p ty rd ra rb) .b s).toNat) s

/-- FCLASS (R363). -/
def execFclass (p : Pfx) (ty : BitVec 4) (rd : BitVec 5) (ra : BitVec 5) (s : State) : Outcome State Fault Refusal :=
  scalarOp (.fclass p ty rd ra) (fun s => BitVec.ofNat 64 (classMask ty.toNat ((srcS (.fclass p ty rd ra) .a s).toNat % 2 ^ tyBits ty.toNat))) s

/-- FFMA (R364). -/
def execFfma (p : Pfx) (ty : BitVec 4) (rd : BitVec 5) (ra : BitVec 5) (rb : BitVec 5) (neg : BitVec 2) (rc : BitVec 5) (s : State) : Outcome State Fault Refusal :=
  fpScalar 1 true (.ffma p ty rd ra rb neg rc) p ty (fun md s => fmaRes (neg.getLsbD 1) (neg.getLsbD 0) ty.toNat md (srcS (.ffma p ty rd ra rb neg rc) .a s).toNat (srcS (.ffma p ty rd ra rb neg rc) .b s).toNat (readS (cur s) rc s).toNat) s

/-- FCMP (R364). -/
def execFcmp (p : Pfx) (cond : BitVec 3) (ty : BitVec 4) (rd : BitVec 5) (ra : BitVec 5) (rb : BitVec 5) (s : State) : Outcome State Fault Refusal :=
  issue (.fcmp p cond ty rd ra rb) s fun s =>
    let i : Instr := (.fcmp p cond ty rd ra rb)
    let r := cmpFloat ty.toNat cond.toNat (curMd p s) (srcS i .a s).toNat (srcS i .b s).toNat
    .next (retire (orFlags r.2 (dstP i (predOfBool r.1) (consume i s))))

/-- FCVT (R365). -/
def execFcvt (p : Pfx) (rd : BitVec 5) (ra : BitVec 5) (dt : BitVec 4) (sty : BitVec 4) (s : State) : Outcome State Fault Refusal :=
  issue (.fcvt p rd ra dt sty) s fun s =>
    let i : Instr := (.fcvt p rd ra dt sty)
    let g := rngOf s.issue.core s
    let m := if exactPair sty.toNat dt.toNat then (curMd p s, g) else draw (curMd p s) g
    let n := tyBits dt.toNat
    let r := convert sty.toNat dt.toNat m.1 0 ((srcS i .a s).toNat % 2 ^ tyBits sty.toNat)
    let v := if dt.toNat ≤ 3 then sext64 n r.1 else zext64 n r.1
    .next (retire (orFlags r.2 (keepRng m.2 (dstS i .d v (consume i s)))))

end Sys2Proof.Machine
end

