-- ==== Sys2Proof/Machine/Rep.lean ====
section
/-! DEFINITION. Rep: the repeat prefix and the block moves (R303 to R305). -/

namespace Sys2Proof.Machine

open Host

/-! ### REP (R303) -/

/-- One performance of a repeated instruction: the meaning of each instruction that takes a type-4 prefix (R275); any
other body is an orphan prefix (R270). -/
def repBody (body : Instr) (s : State) : Outcome State Fault Refusal :=
  match body with
  | .add p w rd ra rb => execAdd p w rd ra rb s
  | .sub p w rd ra rb => execSub p w rd ra rb s
  | .mul p w rd ra rb => execMul p w rd ra rb s
  | .mulh p w rd ra rb => execMulh p w rd ra rb s
  | .mulhu p w rd ra rb => execMulhu p w rd ra rb s
  | .div p w rd ra rb => execDiv p w rd ra rb s
  | .divu p w rd ra rb => execDivu p w rd ra rb s
  | .rem p w rd ra rb => execRem p w rd ra rb s
  | .remu p w rd ra rb => execRemu p w rd ra rb s
  | .and p w rd ra rb => execAnd p w rd ra rb s
  | .or p w rd ra rb => execOr p w rd ra rb s
  | .xor p w rd ra rb => execXor p w rd ra rb s
  | .andn p w rd ra rb => execAndn p w rd ra rb s
  | .orn p w rd ra rb => execOrn p w rd ra rb s
  | .xnor p w rd ra rb => execXnor p w rd ra rb s
  | .shl p w rd ra rb => execShl p w rd ra rb s
  | .shr p w rd ra rb => execShr p w rd ra rb s
  | .sar p w rd ra rb => execSar p w rd ra rb s
  | .rot p w rd ra rb => execRot p w rd ra rb s
  | .min p w rd ra rb => execMin p w rd ra rb s
  | .max p w rd ra rb => execMax p w rd ra rb s
  | .minu p w rd ra rb => execMinu p w rd ra rb s
  | .maxu p w rd ra rb => execMaxu p w rd ra rb s
  | .addImm p w rd ra imm => execAddImm p w rd ra imm s
  | .subImm p w rd ra imm => execSubImm p w rd ra imm s
  | .mulImm p w rd ra imm => execMulImm p w rd ra imm s
  | .mulhImm p w rd ra imm => execMulhImm p w rd ra imm s
  | .mulhuImm p w rd ra imm => execMulhuImm p w rd ra imm s
  | .divImm p w rd ra imm => execDivImm p w rd ra imm s
  | .divuImm p w rd ra imm => execDivuImm p w rd ra imm s
  | .remImm p w rd ra imm => execRemImm p w rd ra imm s
  | .remuImm p w rd ra imm => execRemuImm p w rd ra imm s
  | .andImm p w rd ra imm => execAndImm p w rd ra imm s
  | .orImm p w rd ra imm => execOrImm p w rd ra imm s
  | .xorImm p w rd ra imm => execXorImm p w rd ra imm s
  | .andnImm p w rd ra imm => execAndnImm p w rd ra imm s
  | .ornImm p w rd ra imm => execOrnImm p w rd ra imm s
  | .xnorImm p w rd ra imm => execXnorImm p w rd ra imm s
  | .shlImm p w rd ra imm => execShlImm p w rd ra imm s
  | .shrImm p w rd ra imm => execShrImm p w rd ra imm s
  | .sarImm p w rd ra imm => execSarImm p w rd ra imm s
  | .rotImm p w rd ra imm => execRotImm p w rd ra imm s
  | .minImm p w rd ra imm => execMinImm p w rd ra imm s
  | .maxImm p w rd ra imm => execMaxImm p w rd ra imm s
  | .minuImm p w rd ra imm => execMinuImm p w rd ra imm s
  | .maxuImm p w rd ra imm => execMaxuImm p w rd ra imm s
  | .addi p rd ra imm => execAddi p rd ra imm s
  | .addiLong p rd ra imm => execAddiLong p rd ra imm s
  | .fshl p rd ra rb k => execFshl p rd ra rb k s
  | .fshr p rd ra rb k => execFshr p rd ra rb k s
  | .fshlReg p rd ra rb rc => execFshlReg p rd ra rb rc s
  | .fshrReg p rd ra rb rc => execFshrReg p rd ra rb rc s
  | .logt p rd ra rb rc table => execLogt p rd ra rb rc table s
  | .clz p w rd ra => execClz p w rd ra s
  | .ctz p w rd ra => execCtz p w rd ra s
  | .popc p w rd ra => execPopc p w rd ra s
  | .brev p w rd ra => execBrev p w rd ra s
  | .bswap p w rd ra => execBswap p w rd ra s
  | .sext p w rd ra => execSext p w rd ra s
  | .zext p w rd ra => execZext p w rd ra s
  | .bfx p rd ra len lsb => execBfx p rd ra len lsb s
  | .bfxu p rd ra len lsb => execBfxu p rd ra len lsb s
  | .bfi p rd ra len lsb => execBfi p rd ra len lsb s
  | .mov p rd ra => execMov p rd ra s
  | .sel p rd ra rb neg pn => execSel p rd ra rb neg pn s
  | .addp p rd ra rb sh => execAddp p rd ra rb sh s
  | .tagsImm p rd ra tag => execTagsImm p rd ra tag s
  | .tagsReg p rd ra rb => execTagsReg p rd ra rb s
  | .ld p post zx w rd ra imm => execLd p post zx w rd ra imm s
  | .ldLong p post zx w rd ra imm => execLdLong p post zx w rd ra imm s
  | .st p post w rd ra imm => execSt p post w rd ra imm s
  | .stLong p post w rd ra imm => execStLong p post w rd ra imm s
  | .ldv p post rd ra imm => execLdv p post rd ra imm s
  | .ldvLong p post rd ra imm => execLdvLong p post rd ra imm s
  | .stv p post rd ra imm => execStv p post rd ra imm s
  | .stvLong p post rd ra imm => execStvLong p post rd ra imm s
  | .ldg p pred ty rd ra rb => execLdg p pred ty rd ra rb s
  | .stx p pred ty rd ra rb => execStx p pred ty rd ra rb s
  | .ldb p zx rd ra rb => execLdb p zx rd ra rb s
  | .stb p rd ra rb => execStb p rd ra rb s
  | .tagld p rd ra imm => execTagld p rd ra imm s
  | .tagldLong p rd ra imm => execTagldLong p rd ra imm s
  | .tagst p rd ra imm => execTagst p rd ra imm s
  | .tagstLong p rd ra imm => execTagstLong p rd ra imm s
  | .vadd p pred ty rd ra rb => execVadd p pred ty rd ra rb s
  | .vsub p pred ty rd ra rb => execVsub p pred ty rd ra rb s
  | .vmul p pred ty rd ra rb => execVmul p pred ty rd ra rb s
  | .vmulh p pred ty rd ra rb => execVmulh p pred ty rd ra rb s
  | .vfma p pred ty rd ra rb => execVfma p pred ty rd ra rb s
  | .vfms p pred ty rd ra rb => execVfms p pred ty rd ra rb s
  | .vfnma p pred ty rd ra rb => execVfnma p pred ty rd ra rb s
  | .vmin p pred ty rd ra rb => execVmin p pred ty rd ra rb s
  | .vmax p pred ty rd ra rb => execVmax p pred ty rd ra rb s
  | .vabs p pred ty rd ra => execVabs p pred ty rd ra s
  | .vneg p pred ty rd ra => execVneg p pred ty rd ra s
  | .vrcp p pred ty rd ra => execVrcp p pred ty rd ra s
  | .vrsq p pred ty rd ra => execVrsq p pred ty rd ra s
  | .vexp2 p pred ty rd ra => execVexp2 p pred ty rd ra s
  | .vlog2 p pred ty rd ra => execVlog2 p pred ty rd ra s
  | .vsqrt p pred ty rd ra => execVsqrt p pred ty rd ra s
  | .vand p pred rd ra rb => execVand p pred rd ra rb s
  | .vor p pred rd ra rb => execVor p pred rd ra rb s
  | .vxor p pred rd ra rb => execVxor p pred rd ra rb s
  | .vlogt p pred ty rd ra rb vc table => execVlogt p pred ty rd ra rb vc table s
  | .vshl p pred ty rd ra rb => execVshl p pred ty rd ra rb s
  | .vshr p pred ty rd ra rb => execVshr p pred ty rd ra rb s
  | .vsar p pred ty rd ra rb => execVsar p pred ty rd ra rb s
  | .vcmp p pred ty cond rd ra rb part => execVcmp p pred ty cond rd ra rb part s
  | .vsel p pred ty rd ra rb => execVsel p pred ty rd ra rb s
  | .vcvt p pred ty rd ra dpart spart sty => execVcvt p pred ty rd ra dpart spart sty s
  | .vbcst p pred ty rd ra => execVbcst p pred ty rd ra s
  | .vmovsToScalar p ty rd ra rb => execVmovsToScalar p ty rd ra rb s
  | .vmovsToLane p ty rd ra rb => execVmovsToLane p ty rd ra rb s
  | .vperm p pred ty rd ra rb => execVperm p pred ty rd ra rb s
  | .vshuf p pred ty rd ra rb => execVshuf p pred ty rd ra rb s
  | .vsld p pred ty rd ra rb => execVsld p pred ty rd ra rb s
  | .vred p pred ty rd ra rop => execVred p pred ty rd ra rop s
  | .vscan p pred ty rd ra rop => execVscan p pred ty rd ra rop s
  | .vdot4 p pred ty rd ra rb => execVdot4 p pred ty rd ra rb s
  | .vlut p pred ty rd ra part => execVlut p pred ty rd ra part s
  | .vqnt p pred ty rd ra rb => execVqnt p pred ty rd ra rb s
  | .vdqnt p pred ty rd ra rb => execVdqnt p pred ty rd ra rb s
  | .vdiv p pred ty rd ra rb => execVdiv p pred ty rd ra rb s
  | _ => .next (trapNow 2 1 s)

/-- The count register is readable and zero: nothing is executed. -/
def repDone (cnt : BitVec 5) (s : State) : Bool :=
  let k := cur s
  ((lineOfCode (codeS cnt)).all (fun n => !lackWords (lineKey k n.1) n.2 s)) && !(curStrand s).pending.contains (codeS cnt) &&
  !(curStrand s).errored.any (fun e => e.reg == codeS cnt) && readS k cnt s == 0#64

/-- What follows a performed step: the advances after the instruction's own writes, the decrement, and the pc, which
stays at the chain while steps remain. -/
def repAdvance (cnt adv0 adv1 : BitVec 5) (step : BitVec 11) (s : State) : State :=
  let k := cur s
  let add (r : BitVec 5) (s : State) : State := if r = 0#5 then s else writeS k r (readS k r s + step.signExtend 64) s
  let s := add adv1 (add adv0 s)
  let n := readS k cnt s - 1
  let s := writeS k cnt n s
  if n = 0#64 then s else midway (setHdrN k 0 0 56 s.issue.pc.toNat s)

/-- REP: a load whose destination the advances need waits for its data before it retires. -/
def execRep (cnt adv0 adv1 : BitVec 5) (step : BitVec 11) (body : Instr) (s : State) : Outcome State Fault Refusal :=
  if repDone cnt s then .next (retire s)
  else
    issue (.rep cnt adv0 adv1 step body) s fun s =>
      let needs := (writeCodes body).any (fun c => c == codeS cnt || c == codeS adv0 || c == codeS adv1)
      match repBody body { s with issue := { s.issue with await := needs } } with
      | .next t => .next (if t.issue.retired then repAdvance cnt adv0 adv1 step t else t)
      | r => r

/-! ### MCPY and MSET (R304, R305) -/

/-- Bytes of a step. -/
def stepBytes (n rd ra : Word) (two : Bool) : Nat :=
  let k := min n.toNat (32 - bitsN rd 0 5)
  if two then min k (32 - bitsN ra 0 5) else k

/-- A step is done: the pointers and the count move, and the pc stays until the count is 0. -/
def moveDone (rd ra rb : BitVec 5) (two : Bool) (n : Nat) (s : State) : State :=
  let k := cur s
  let bump (r : BitVec 5) (s : State) : State := writeS k r (addrAdd (readS k r s) (BitVec.ofNat 64 n)) s
  let s := bump rd s
  let s := if two then bump ra s else s
  let left := readS k rb s - BitVec.ofNat 64 n
  let s := writeS k rb left s
  if left = 0#64 then retire s else midway (retireTo s.issue.pc s)

/-- The write of a step: k bytes at the address in rd.  Bytes that were read wait in the strand while the write cannot
go out yet, and go with it when it travels to the write's home (DEDUCED, log 15). -/
def moveWrite (p : Pfx) (rd ra rb : BitVec 5) (two : Bool) (n data : Nat) (s : State) : Outcome State Fault Refusal :=
  let k := cur s
  let a := readS k rd s
  match check ⟨n, 1, .write, tagged p, true⟩ a s with
  | .stop s => .next s
  | .pad off =>
    let c := s.issue.core
    let s := dirtyWindows c off n (spadWrite c off (toBytes n data) s)
    .next (moveDone rd ra rb two n (raceNote k c off n true s))
  | .mem pa tc =>
    match travelTarget k pa s with
    | some t => .next (startTravel k t (some pa) s)
    | none =>
      if countFull false s then .next (stallWith 3 s.issue.ctx s)
      else if granuleBusy k pa n (routeFor s.issue.vf s.issue.core pa (hdrDmode k s) s) s then .next s
      else
        let (g, s) := sendGroup (reqOf 1 0 0 false 0 noReturn false s) ((pieces 16 9 pa a n data 0).map (fun x => (x, tc))) s
        if tc then .next (waitGroup g s) else .next (moveDone rd ra rb two n s)

/-- Keeps the bytes read while the write is made. -/
def keepRead (v : Nat) (s : State) : State := modStrand (cur s) (fun t => { t with wait := .answered 0 (BitVec.ofNat 256 v) 0 })  s

/-- The read of a step, after the write has been checked. -/
def moveRead (p : Pfx) (rd ra rb : BitVec 5) (n : Nat) (s : State) : Outcome State Fault Refusal :=
  let k := cur s
  let a := readS k ra s
  match check ⟨n, 1, .read, tagged p, true⟩ a s with
  | .stop s => .next s
  | x =>
    match check ⟨n, 1, .write, tagged p, true⟩ (readS k rd s) s with
    | .stop s => .next s
    | _ =>
      match x with
      | .stop s => .next s
      | .pad off =>
        let c := s.issue.core
        if spadErrAt c off n s then .next (trapAddr 13 0 a s)
        else
          let v := spadVal c off n s
          moveWrite p rd ra rb true n v (keepRead v (raceNote k c off n false s))
      | .mem pa tc =>
        match travelTarget k pa s with
        | some t => .next (startTravel k t (some pa) s)
        | none =>
          if countFull true s then .next (stallWith 3 s.issue.ctx s)
          else if granuleBusy k pa n (routeFor s.issue.vf s.issue.core pa (hdrDmode k s) s) s then .next s
          else
            let (g, s) := sendGroup (reqOf 0 0 0 false 0 0 false s) [(⟨pa, a, n, 0, 0⟩, tc)] s
            .next (waitGroup g s)

/-- A step of MCPY or MSET at its turn: its first issue, its bytes read, or its write acknowledged. -/
def moveStep (i : Instr) (p : Pfx) (rd ra rb : BitVec 5) (two : Bool) (s : State) : Outcome State Fault Refusal :=
  issue i s fun s =>
    let k := cur s
    let n := stepBytes (readS k rb s) (readS k rd s) (readS k ra s) two
    match (curStrand s).wait with
    | .answered g v _ =>
      if g = 0 then moveWrite p rd ra rb two n v.toNat s
      else
        let rs := groupReqs g s
        let s := dropGroup g s
        match groupFailure rs, rs with
        | some r, _ => .next (replyTrap r s)
        | none, (_, r) :: _ =>
          if r.kind = 0#4 then moveWrite p rd ra rb two n r.value.toNat (keepRead r.value.toNat s)
          else .next (moveDone rd ra rb two n s)
        | none, [] => .next (moveDone rd ra rb two n s)
    | _ =>
      if readS k rb s = 0#64 then .next (retire s)
      else if two then moveRead p rd ra rb n s
      else
        let b := bitsN (readS k ra s) 0 8
        moveWrite p rd ra rb false n (ofBytes (List.replicate n (BitVec.ofNat 8 b))) s

/-- MCPY (R304). -/
def execMcpy (p : Pfx) (rd ra rb : BitVec 5) (s : State) : Outcome State Fault Refusal :=
  moveStep (.mcpy p rd ra rb) p rd ra rb true s
/-- MSET (R304). -/
def execMset (p : Pfx) (rd ra rb : BitVec 5) (s : State) : Outcome State Fault Refusal :=
  moveStep (.mset p rd ra rb) p rd ra rb false s

end Sys2Proof.Machine
end

