-- ==== Sys2Proof/Machine/Dispatch.lean ====
section
/-! DEFINITION. Dispatch: one arm per constructor of Instr, each one call of its meaning. -/

namespace Sys2Proof.Machine

open Host

def exec (i : Instr) (s : State) : Host.Outcome State Fault Refusal :=
  match i with
  | .gallery85cCrossing => Sys2Proof.Machine.execGallery85cCrossing s
  | .gallery80cRelease => Sys2Proof.Machine.execGallery80cRelease s
  | .gallery95cThrottle => Sys2Proof.Machine.execGallery95cThrottle s
  | .gallery90cRelease => Sys2Proof.Machine.execGallery90cRelease s
  | .emergencySave => Sys2Proof.Machine.execEmergencySave s
  | .saveComplete => Sys2Proof.Machine.execSaveComplete s
  | .railCut => Sys2Proof.Machine.execRailCut s
  | .savectlResume => Sys2Proof.Machine.execSavectlResume s
  | .withdrawableSuspendBegin => Sys2Proof.Machine.execWithdrawableSuspendBegin s
  | .withdrawableSuspendEnd => Sys2Proof.Machine.execWithdrawableSuspendEnd s
  | .powerSample => Sys2Proof.Machine.execPowerSample s
  | .energyUpdate => Sys2Proof.Machine.execEnergyUpdate s
  | .energysetWrite => Sys2Proof.Machine.execEnergysetWrite s
  | .qaddWrite => Sys2Proof.Machine.execQaddWrite s
  | .sprintmaxWrite => Sys2Proof.Machine.execSprintmaxWrite s
  | .islandFreqChange => Sys2Proof.Machine.execIslandFreqChange s
  | .meltUpdate => Sys2Proof.Machine.execMeltUpdate s
  | .leaseExpiry => Sys2Proof.Machine.execLeaseExpiry s
  | .islandOwnerWrite => Sys2Proof.Machine.execIslandOwnerWrite s
  | .ownerChange => Sys2Proof.Machine.execOwnerChange s
  | .savelistRead => Sys2Proof.Machine.execSavelistRead s
  | .flitInject => Sys2Proof.Machine.execFlitInject s
  | .flitHop => Sys2Proof.Machine.execFlitHop s
  | .floorTransfer => Sys2Proof.Machine.execFloorTransfer s
  | .configFlit => Sys2Proof.Machine.execConfigFlit s
  | .memoryRequestArrive => Sys2Proof.Machine.execMemoryRequestArrive s
  | .memoryService => Sys2Proof.Machine.execMemoryService s
  | .refreshService => Sys2Proof.Machine.execRefreshService s
  | .memoryAccessDone => Sys2Proof.Machine.execMemoryAccessDone s
  | .memoryReplyInject => Sys2Proof.Machine.execMemoryReplyInject s
  | .cmSetup => Sys2Proof.Machine.execCmSetup s
  | .cmTeardown => Sys2Proof.Machine.execCmTeardown s
  | .cmResize => Sys2Proof.Machine.execCmResize s
  | .cmSetWheel => Sys2Proof.Machine.execCmSetWheel s
  | .cmReadEntry => Sys2Proof.Machine.execCmReadEntry s
  | .circuitActivate => Sys2Proof.Machine.execCircuitActivate s
  | .teardownSuspend => Sys2Proof.Machine.execTeardownSuspend s
  | .teardownRemove => Sys2Proof.Machine.execTeardownRemove s
  | .wheelChange => Sys2Proof.Machine.execWheelChange s
  | .hallLockLoss => Sys2Proof.Machine.execHallLockLoss s
  | .floorEntryClear => Sys2Proof.Machine.execFloorEntryClear s
  | .hallRelock => Sys2Proof.Machine.execHallRelock s
  | .floorEntryRestore => Sys2Proof.Machine.execFloorEntryRestore s
  | .podFlitReceive => Sys2Proof.Machine.execPodFlitReceive s
  | .podAck => Sys2Proof.Machine.execPodAck s
  | .podLockLoss => Sys2Proof.Machine.execPodLockLoss s
  | .podOpticalLock => Sys2Proof.Machine.execPodOpticalLock s
  | .podResume => Sys2Proof.Machine.execPodResume s
  | .partitionHold => Sys2Proof.Machine.execPartitionHold s
  | .partitionRelease => Sys2Proof.Machine.execPartitionRelease s
  | .hostMw1Read => Sys2Proof.Machine.execHostMw1Read s
  | .hostMw1Write => Sys2Proof.Machine.execHostMw1Write s
  | .hostfaultRead => Sys2Proof.Machine.execHostfaultRead s
  | .lqbaseWrite => Sys2Proof.Machine.execLqbaseWrite s
  | .lqtailWrite => Sys2Proof.Machine.execLqtailWrite s
  | .lqstatErrClear => Sys2Proof.Machine.execLqstatErrClear s
  | .queuePacketFetch => Sys2Proof.Machine.execQueuePacketFetch s
  | .intcauseClear => Sys2Proof.Machine.execIntcauseClear s
  | .functionLevelReset => Sys2Proof.Machine.execFunctionLevelReset s
  | .podidWrite => Sys2Proof.Machine.execPodidWrite s
  | .pairgrantWrite => Sys2Proof.Machine.execPairgrantWrite s
  | .pairingMatch => Sys2Proof.Machine.execPairingMatch s
  | .moduleStart => Sys2Proof.Machine.execModuleStart s
  | .recgoWrite => Sys2Proof.Machine.execRecgoWrite s
  | .recoveryFlashDone => Sys2Proof.Machine.execRecoveryFlashDone s
  | .bootrecClear => Sys2Proof.Machine.execBootrecClear s
  | .attreqWrite => Sys2Proof.Machine.execAttreqWrite s
  | .attestationReportReady => Sys2Proof.Machine.execAttestationReportReady s
  | .snapshotTake => Sys2Proof.Machine.execSnapshotTake s
  | .snapshotTaken => Sys2Proof.Machine.execSnapshotTaken s
  | .snapshotRelease => Sys2Proof.Machine.execSnapshotRelease s
  | .snapshotRestore => Sys2Proof.Machine.execSnapshotRestore s
  | .snapshotRestored => Sys2Proof.Machine.execSnapshotRestored s
  | .hostLinkLoss => Sys2Proof.Machine.execHostLinkLoss s
  | .dependencePoll => Sys2Proof.Machine.execDependencePoll s
  | .dispatchBegin => Sys2Proof.Machine.execDispatchBegin s
  | .slotSelect => Sys2Proof.Machine.execSlotSelect s
  | .launchRetire => Sys2Proof.Machine.execLaunchRetire s
  | .donefaultRead => Sys2Proof.Machine.execDonefaultRead s
  | .dueEviction => Sys2Proof.Machine.execDueEviction s
  | .stallEviction => Sys2Proof.Machine.execStallEviction s
  | .strandWake => Sys2Proof.Machine.execStrandWake s
  | .vacate => Sys2Proof.Machine.execVacate s
  | .vacateDone => Sys2Proof.Machine.execVacateDone s
  | .vacateRelease => Sys2Proof.Machine.execVacateRelease s
  | .dpartWrite => Sys2Proof.Machine.execDpartWrite s
  | .clbaseWrite => Sys2Proof.Machine.execClbaseWrite s
  | .clctlModeWrite => Sys2Proof.Machine.execClctlModeWrite s
  | .logPause => Sys2Proof.Machine.execLogPause s
  | .clctlResume => Sys2Proof.Machine.execClctlResume s
  | .clctlAbort => Sys2Proof.Machine.execClctlAbort s
  | .lineFetchDone => Sys2Proof.Machine.execLineFetchDone s
  | .keptWritebackRetry => Sys2Proof.Machine.execKeptWritebackRetry s
  | .transitFlitSend => Sys2Proof.Machine.execTransitFlitSend s
  | .travelDepart => Sys2Proof.Machine.execTravelDepart s
  | .carryArrive => Sys2Proof.Machine.execCarryArrive s
  | .lineRequest => Sys2Proof.Machine.execLineRequest s
  | .lineReply => Sys2Proof.Machine.execLineReply s
  | .transitLineWriteback => Sys2Proof.Machine.execTransitLineWriteback s
  | .writebackAck => Sys2Proof.Machine.execWritebackAck s
  | .remoteAccessRequest => Sys2Proof.Machine.execRemoteAccessRequest s
  | .remoteAccessReply => Sys2Proof.Machine.execRemoteAccessReply s
  | .controlDelta => Sys2Proof.Machine.execControlDelta s
  | .walkComplete => Sys2Proof.Machine.execWalkComplete s
  | .windowFillComplete => Sys2Proof.Machine.execWindowFillComplete s
  | .windowWritebackComplete => Sys2Proof.Machine.execWindowWritebackComplete s
  | .migrationDecay => Sys2Proof.Machine.execMigrationDecay s
  | .pageMoveFlip => Sys2Proof.Machine.execPageMoveFlip s
  | .zeroctlGo => Sys2Proof.Machine.execZeroctlGo s
  | .zeroComplete => Sys2Proof.Machine.execZeroComplete s
  | .loadReply => Sys2Proof.Machine.execLoadReply s
  | .storeAck => Sys2Proof.Machine.execStoreAck s
  | .atomicReply => Sys2Proof.Machine.execAtomicReply s
  | .feResend => Sys2Proof.Machine.execFeResend s
  | .withdrawal => Sys2Proof.Machine.execWithdrawal s
  | .streamMemoryFetch => Sys2Proof.Machine.execStreamMemoryFetch s
  | .streamMemoryWrite => Sys2Proof.Machine.execStreamMemoryWrite s
  | .streamFlitArrive => Sys2Proof.Machine.execStreamFlitArrive s
  | .tileTaskStart => Sys2Proof.Machine.execTileTaskStart s
  | .tileTaskComplete => Sys2Proof.Machine.execTileTaskComplete s
  | .copyChunk => Sys2Proof.Machine.execCopyChunk s
  | .messageArrive => Sys2Proof.Machine.execMessageArrive s
  | .msndResend => Sys2Proof.Machine.execMsndResend s
  | .asyncTrapTake => Sys2Proof.Machine.execAsyncTrapTake s
  | .trapDeliver => Sys2Proof.Machine.execTrapDeliver s
  | .handlerHandover => Sys2Proof.Machine.execHandlerHandover s
  | .thctxWrite => Sys2Proof.Machine.execThctxWrite s
  | .thcntWrite => Sys2Proof.Machine.execThcntWrite s
  | .vfStop => Sys2Proof.Machine.execVfStop s
  | .vfStopApply => Sys2Proof.Machine.execVfStopApply s
  | .vfResume => Sys2Proof.Machine.execVfResume s
  | .vfResumeApply => Sys2Proof.Machine.execVfResumeApply s
  | .dbgsubGo => Sys2Proof.Machine.execDbgsubGo s
  | .debugTokenVerified => Sys2Proof.Machine.execDebugTokenVerified s
  | .dbgstatEnd => Sys2Proof.Machine.execDbgstatEnd s
  | .debugAuthExpire => Sys2Proof.Machine.execDebugAuthExpire s
  | .dbgctlWrite => Sys2Proof.Machine.execDbgctlWrite s
  | .dbgkeyWrite => Sys2Proof.Machine.execDbgkeyWrite s
  | .dbgevRead => Sys2Proof.Machine.execDbgevRead s
  | .strcmdStop => Sys2Proof.Machine.execStrcmdStop s
  | .strcmdResume => Sys2Proof.Machine.execStrcmdResume s
  | .strcmdStep => Sys2Proof.Machine.execStrcmdStep s
  | .strcmdResumeRpc => Sys2Proof.Machine.execStrcmdResumeRpc s
  | .strcmdEnd => Sys2Proof.Machine.execStrcmdEnd s
  | .hallHalt => Sys2Proof.Machine.execHallHalt s
  | .hallHaltRelease => Sys2Proof.Machine.execHallHaltRelease s
  | .barrierWatchdog => Sys2Proof.Machine.execBarrierWatchdog s
  | .registerWrite => Sys2Proof.Machine.execRegisterWrite s
  | .add p w rd ra rb => Sys2Proof.Machine.execAdd p w rd ra rb s
  | .sub p w rd ra rb => Sys2Proof.Machine.execSub p w rd ra rb s
  | .mul p w rd ra rb => Sys2Proof.Machine.execMul p w rd ra rb s
  | .mulh p w rd ra rb => Sys2Proof.Machine.execMulh p w rd ra rb s
  | .mulhu p w rd ra rb => Sys2Proof.Machine.execMulhu p w rd ra rb s
  | .div p w rd ra rb => Sys2Proof.Machine.execDiv p w rd ra rb s
  | .divu p w rd ra rb => Sys2Proof.Machine.execDivu p w rd ra rb s
  | .rem p w rd ra rb => Sys2Proof.Machine.execRem p w rd ra rb s
  | .remu p w rd ra rb => Sys2Proof.Machine.execRemu p w rd ra rb s
  | .and p w rd ra rb => Sys2Proof.Machine.execAnd p w rd ra rb s
  | .or p w rd ra rb => Sys2Proof.Machine.execOr p w rd ra rb s
  | .xor p w rd ra rb => Sys2Proof.Machine.execXor p w rd ra rb s
  | .andn p w rd ra rb => Sys2Proof.Machine.execAndn p w rd ra rb s
  | .orn p w rd ra rb => Sys2Proof.Machine.execOrn p w rd ra rb s
  | .xnor p w rd ra rb => Sys2Proof.Machine.execXnor p w rd ra rb s
  | .shl p w rd ra rb => Sys2Proof.Machine.execShl p w rd ra rb s
  | .shr p w rd ra rb => Sys2Proof.Machine.execShr p w rd ra rb s
  | .sar p w rd ra rb => Sys2Proof.Machine.execSar p w rd ra rb s
  | .rot p w rd ra rb => Sys2Proof.Machine.execRot p w rd ra rb s
  | .min p w rd ra rb => Sys2Proof.Machine.execMin p w rd ra rb s
  | .max p w rd ra rb => Sys2Proof.Machine.execMax p w rd ra rb s
  | .minu p w rd ra rb => Sys2Proof.Machine.execMinu p w rd ra rb s
  | .maxu p w rd ra rb => Sys2Proof.Machine.execMaxu p w rd ra rb s
  | .addImm p w rd ra imm => Sys2Proof.Machine.execAddImm p w rd ra imm s
  | .subImm p w rd ra imm => Sys2Proof.Machine.execSubImm p w rd ra imm s
  | .mulImm p w rd ra imm => Sys2Proof.Machine.execMulImm p w rd ra imm s
  | .mulhImm p w rd ra imm => Sys2Proof.Machine.execMulhImm p w rd ra imm s
  | .mulhuImm p w rd ra imm => Sys2Proof.Machine.execMulhuImm p w rd ra imm s
  | .divImm p w rd ra imm => Sys2Proof.Machine.execDivImm p w rd ra imm s
  | .divuImm p w rd ra imm => Sys2Proof.Machine.execDivuImm p w rd ra imm s
  | .remImm p w rd ra imm => Sys2Proof.Machine.execRemImm p w rd ra imm s
  | .remuImm p w rd ra imm => Sys2Proof.Machine.execRemuImm p w rd ra imm s
  | .andImm p w rd ra imm => Sys2Proof.Machine.execAndImm p w rd ra imm s
  | .orImm p w rd ra imm => Sys2Proof.Machine.execOrImm p w rd ra imm s
  | .xorImm p w rd ra imm => Sys2Proof.Machine.execXorImm p w rd ra imm s
  | .andnImm p w rd ra imm => Sys2Proof.Machine.execAndnImm p w rd ra imm s
  | .ornImm p w rd ra imm => Sys2Proof.Machine.execOrnImm p w rd ra imm s
  | .xnorImm p w rd ra imm => Sys2Proof.Machine.execXnorImm p w rd ra imm s
  | .shlImm p w rd ra imm => Sys2Proof.Machine.execShlImm p w rd ra imm s
  | .shrImm p w rd ra imm => Sys2Proof.Machine.execShrImm p w rd ra imm s
  | .sarImm p w rd ra imm => Sys2Proof.Machine.execSarImm p w rd ra imm s
  | .rotImm p w rd ra imm => Sys2Proof.Machine.execRotImm p w rd ra imm s
  | .minImm p w rd ra imm => Sys2Proof.Machine.execMinImm p w rd ra imm s
  | .maxImm p w rd ra imm => Sys2Proof.Machine.execMaxImm p w rd ra imm s
  | .minuImm p w rd ra imm => Sys2Proof.Machine.execMinuImm p w rd ra imm s
  | .maxuImm p w rd ra imm => Sys2Proof.Machine.execMaxuImm p w rd ra imm s
  | .addi p rd ra imm => Sys2Proof.Machine.execAddi p rd ra imm s
  | .addiLong p rd ra imm => Sys2Proof.Machine.execAddiLong p rd ra imm s
  | .fshl p rd ra rb k => Sys2Proof.Machine.execFshl p rd ra rb k s
  | .fshr p rd ra rb k => Sys2Proof.Machine.execFshr p rd ra rb k s
  | .fshlReg p rd ra rb rc => Sys2Proof.Machine.execFshlReg p rd ra rb rc s
  | .fshrReg p rd ra rb rc => Sys2Proof.Machine.execFshrReg p rd ra rb rc s
  | .logt p rd ra rb rc table => Sys2Proof.Machine.execLogt p rd ra rb rc table s
  | .clz p w rd ra => Sys2Proof.Machine.execClz p w rd ra s
  | .ctz p w rd ra => Sys2Proof.Machine.execCtz p w rd ra s
  | .popc p w rd ra => Sys2Proof.Machine.execPopc p w rd ra s
  | .brev p w rd ra => Sys2Proof.Machine.execBrev p w rd ra s
  | .bswap p w rd ra => Sys2Proof.Machine.execBswap p w rd ra s
  | .sext p w rd ra => Sys2Proof.Machine.execSext p w rd ra s
  | .zext p w rd ra => Sys2Proof.Machine.execZext p w rd ra s
  | .bfx p rd ra len lsb => Sys2Proof.Machine.execBfx p rd ra len lsb s
  | .bfxu p rd ra len lsb => Sys2Proof.Machine.execBfxu p rd ra len lsb s
  | .bfi p rd ra len lsb => Sys2Proof.Machine.execBfi p rd ra len lsb s
  | .li p rd imm => Sys2Proof.Machine.execLi p rd imm s
  | .liLong p rd imm => Sys2Proof.Machine.execLiLong p rd imm s
  | .lih rd ra imm => Sys2Proof.Machine.execLih rd ra imm s
  | .mov p rd ra => Sys2Proof.Machine.execMov p rd ra s
  | .sel p rd ra rb neg pn => Sys2Proof.Machine.execSel p rd ra rb neg pn s
  | .cmp p cond w rd ra rb => Sys2Proof.Machine.execCmp p cond w rd ra rb s
  | .cmpImm p cond w rd ra imm => Sys2Proof.Machine.execCmpImm p cond w rd ra imm s
  | .pand p rd ra rb => Sys2Proof.Machine.execPand p rd ra rb s
  | .por p rd ra rb => Sys2Proof.Machine.execPor p rd ra rb s
  | .pxor p rd ra rb => Sys2Proof.Machine.execPxor p rd ra rb s
  | .pnot p rd ra => Sys2Proof.Machine.execPnot p rd ra s
  | .lea p rd ra rb imm => Sys2Proof.Machine.execLea p rd ra rb imm s
  | .leaLong p rd ra rb imm => Sys2Proof.Machine.execLeaLong p rd ra rb imm s
  | .addp p rd ra rb sh => Sys2Proof.Machine.execAddp p rd ra rb sh s
  | .tagsImm p rd ra tag => Sys2Proof.Machine.execTagsImm p rd ra tag s
  | .tagsReg p rd ra rb => Sys2Proof.Machine.execTagsReg p rd ra rb s
  | .br ext neg pn imm => Sys2Proof.Machine.execBr ext neg pn imm s
  | .brLong ext neg pn imm => Sys2Proof.Machine.execBrLong ext neg pn imm s
  | .j ext imm => Sys2Proof.Machine.execJ ext imm s
  | .jLong ext imm => Sys2Proof.Machine.execJLong ext imm s
  | .jl ext rd imm => Sys2Proof.Machine.execJl ext rd imm s
  | .jlLong ext rd imm => Sys2Proof.Machine.execJlLong ext rd imm s
  | .jlr ext rd ra imm => Sys2Proof.Machine.execJlr ext rd ra imm s
  | .jlrLong ext rd ra imm => Sys2Proof.Machine.execJlrLong ext rd ra imm s
  | .ret ra => Sys2Proof.Machine.execRet ra s
  | .loop ext rd imm => Sys2Proof.Machine.execLoop ext rd imm s
  | .loopLong ext rd imm => Sys2Proof.Machine.execLoopLong ext rd imm s
  | .rep cnt adv0 adv1 step body => Sys2Proof.Machine.execRep cnt adv0 adv1 step body s
  | .mcpy p rd ra rb => Sys2Proof.Machine.execMcpy p rd ra rb s
  | .mset p rd ra rb => Sys2Proof.Machine.execMset p rd ra rb s
  | .nop => Sys2Proof.Machine.execNop s
  | .csrr p rd csr => Sys2Proof.Machine.execCsrr p rd csr s
  | .csrw p ra csr => Sys2Proof.Machine.execCsrw p ra csr s
  | .csrx p rd ra csr => Sys2Proof.Machine.execCsrx p rd ra csr s
  | .ld p post zx w rd ra imm => Sys2Proof.Machine.execLd p post zx w rd ra imm s
  | .ldLong p post zx w rd ra imm => Sys2Proof.Machine.execLdLong p post zx w rd ra imm s
  | .st p post w rd ra imm => Sys2Proof.Machine.execSt p post w rd ra imm s
  | .stLong p post w rd ra imm => Sys2Proof.Machine.execStLong p post w rd ra imm s
  | .ldv p post rd ra imm => Sys2Proof.Machine.execLdv p post rd ra imm s
  | .ldvLong p post rd ra imm => Sys2Proof.Machine.execLdvLong p post rd ra imm s
  | .stv p post rd ra imm => Sys2Proof.Machine.execStv p post rd ra imm s
  | .stvLong p post rd ra imm => Sys2Proof.Machine.execStvLong p post rd ra imm s
  | .ldg p pred ty rd ra rb => Sys2Proof.Machine.execLdg p pred ty rd ra rb s
  | .stx p pred ty rd ra rb => Sys2Proof.Machine.execStx p pred ty rd ra rb s
  | .ldb p zx rd ra rb => Sys2Proof.Machine.execLdb p zx rd ra rb s
  | .stb p rd ra rb => Sys2Proof.Machine.execStb p rd ra rb s
  | .lda p scope w rd ra imm => Sys2Proof.Machine.execLda p scope w rd ra imm s
  | .ldaLong p scope w rd ra imm => Sys2Proof.Machine.execLdaLong p scope w rd ra imm s
  | .stl p scope w rd ra imm => Sys2Proof.Machine.execStl p scope w rd ra imm s
  | .stlLong p scope w rd ra imm => Sys2Proof.Machine.execStlLong p scope w rd ra imm s
  | .lde p rd ra imm => Sys2Proof.Machine.execLde p rd ra imm s
  | .ldeLong p rd ra imm => Sys2Proof.Machine.execLdeLong p rd ra imm s
  | .stf p rd ra imm => Sys2Proof.Machine.execStf p rd ra imm s
  | .stfLong p rd ra imm => Sys2Proof.Machine.execStfLong p rd ra imm s
  | .few p rd ra imm => Sys2Proof.Machine.execFew p rd ra imm s
  | .fewLong p rd ra imm => Sys2Proof.Machine.execFewLong p rd ra imm s
  | .fer p rd ra imm => Sys2Proof.Machine.execFer p rd ra imm s
  | .ferLong p rd ra imm => Sys2Proof.Machine.execFerLong p rd ra imm s
  | .touch p rd ra imm => Sys2Proof.Machine.execTouch p rd ra imm s
  | .touchLong p rd ra imm => Sys2Proof.Machine.execTouchLong p rd ra imm s
  | .tagld p rd ra imm => Sys2Proof.Machine.execTagld p rd ra imm s
  | .tagldLong p rd ra imm => Sys2Proof.Machine.execTagldLong p rd ra imm s
  | .tagst p rd ra imm => Sys2Proof.Machine.execTagst p rd ra imm s
  | .tagstLong p rd ra imm => Sys2Proof.Machine.execTagstLong p rd ra imm s
  | .amo p scope aop rd ra rb => Sys2Proof.Machine.execAmo p scope aop rd ra rb s
  | .cas p scope rd ra rb => Sys2Proof.Machine.execCas p scope rd ra rb s
  | .red p scope aop ra rb => Sys2Proof.Machine.execRed p scope aop ra rb s
  | .amoI32 p scope aop rd ra rb => Sys2Proof.Machine.execAmoI32 p scope aop rd ra rb s
  | .casI32 p scope rd ra rb => Sys2Proof.Machine.execCasI32 p scope rd ra rb s
  | .redI32 p scope aop ra rb => Sys2Proof.Machine.execRedI32 p scope aop ra rb s
  | .casQ p scope rd ra rb => Sys2Proof.Machine.execCasQ p scope rd ra rb s
  | .fence p scope kinds => Sys2Proof.Machine.execFence p scope kinds s
  | .bar p num level => Sys2Proof.Machine.execBar p num level s
  | .barArm p num level ra => Sys2Proof.Machine.execBarArm p num level ra s
  | .bara p num level rd => Sys2Proof.Machine.execBara p num level rd s
  | .barw p num level ra => Sys2Proof.Machine.execBarw p num level ra s
  | .tbi p ra rb => Sys2Proof.Machine.execTbi p ra rb s
  | .tba p rd ra rb => Sys2Proof.Machine.execTba p rd ra rb s
  | .tbw p rd ra rb => Sys2Proof.Machine.execTbw p rd ra rb s
  | .tbt p rd ra rb => Sys2Proof.Machine.execTbt p rd ra rb s
  | .waitc p t c st l => Sys2Proof.Machine.execWaitc p t c st l s
  | .msnd p ra rb => Sys2Proof.Machine.execMsnd p ra rb s
  | .mrcv p rd ra => Sys2Proof.Machine.execMrcv p rd ra s
  | .mrcvFrom p rd ra => Sys2Proof.Machine.execMrcvFrom p rd ra s
  | .fill p rd ra rb force cls => Sys2Proof.Machine.execFill p rd ra rb force cls s
  | .vadd p pred ty rd ra rb => Sys2Proof.Machine.execVadd p pred ty rd ra rb s
  | .vsub p pred ty rd ra rb => Sys2Proof.Machine.execVsub p pred ty rd ra rb s
  | .vmul p pred ty rd ra rb => Sys2Proof.Machine.execVmul p pred ty rd ra rb s
  | .vmulh p pred ty rd ra rb => Sys2Proof.Machine.execVmulh p pred ty rd ra rb s
  | .vfma p pred ty rd ra rb => Sys2Proof.Machine.execVfma p pred ty rd ra rb s
  | .vfms p pred ty rd ra rb => Sys2Proof.Machine.execVfms p pred ty rd ra rb s
  | .vfnma p pred ty rd ra rb => Sys2Proof.Machine.execVfnma p pred ty rd ra rb s
  | .vmin p pred ty rd ra rb => Sys2Proof.Machine.execVmin p pred ty rd ra rb s
  | .vmax p pred ty rd ra rb => Sys2Proof.Machine.execVmax p pred ty rd ra rb s
  | .vabs p pred ty rd ra => Sys2Proof.Machine.execVabs p pred ty rd ra s
  | .vneg p pred ty rd ra => Sys2Proof.Machine.execVneg p pred ty rd ra s
  | .vrcp p pred ty rd ra => Sys2Proof.Machine.execVrcp p pred ty rd ra s
  | .vrsq p pred ty rd ra => Sys2Proof.Machine.execVrsq p pred ty rd ra s
  | .vexp2 p pred ty rd ra => Sys2Proof.Machine.execVexp2 p pred ty rd ra s
  | .vlog2 p pred ty rd ra => Sys2Proof.Machine.execVlog2 p pred ty rd ra s
  | .vsqrt p pred ty rd ra => Sys2Proof.Machine.execVsqrt p pred ty rd ra s
  | .vand p pred rd ra rb => Sys2Proof.Machine.execVand p pred rd ra rb s
  | .vor p pred rd ra rb => Sys2Proof.Machine.execVor p pred rd ra rb s
  | .vxor p pred rd ra rb => Sys2Proof.Machine.execVxor p pred rd ra rb s
  | .vlogt p pred ty rd ra rb vc table => Sys2Proof.Machine.execVlogt p pred ty rd ra rb vc table s
  | .vshl p pred ty rd ra rb => Sys2Proof.Machine.execVshl p pred ty rd ra rb s
  | .vshr p pred ty rd ra rb => Sys2Proof.Machine.execVshr p pred ty rd ra rb s
  | .vsar p pred ty rd ra rb => Sys2Proof.Machine.execVsar p pred ty rd ra rb s
  | .vcmp p pred ty cond rd ra rb part => Sys2Proof.Machine.execVcmp p pred ty cond rd ra rb part s
  | .vsel p pred ty rd ra rb => Sys2Proof.Machine.execVsel p pred ty rd ra rb s
  | .vcvt p pred ty rd ra dpart spart sty => Sys2Proof.Machine.execVcvt p pred ty rd ra dpart spart sty s
  | .vbcst p pred ty rd ra => Sys2Proof.Machine.execVbcst p pred ty rd ra s
  | .vmovsToScalar p ty rd ra rb => Sys2Proof.Machine.execVmovsToScalar p ty rd ra rb s
  | .vmovsToLane p ty rd ra rb => Sys2Proof.Machine.execVmovsToLane p ty rd ra rb s
  | .vperm p pred ty rd ra rb => Sys2Proof.Machine.execVperm p pred ty rd ra rb s
  | .vshuf p pred ty rd ra rb => Sys2Proof.Machine.execVshuf p pred ty rd ra rb s
  | .vsld p pred ty rd ra rb => Sys2Proof.Machine.execVsld p pred ty rd ra rb s
  | .vred p pred ty rd ra rop => Sys2Proof.Machine.execVred p pred ty rd ra rop s
  | .vscan p pred ty rd ra rop => Sys2Proof.Machine.execVscan p pred ty rd ra rop s
  | .vdot4 p pred ty rd ra rb => Sys2Proof.Machine.execVdot4 p pred ty rd ra rb s
  | .vlut p pred ty rd ra part => Sys2Proof.Machine.execVlut p pred ty rd ra part s
  | .vqnt p pred ty rd ra rb => Sys2Proof.Machine.execVqnt p pred ty rd ra rb s
  | .vdqnt p pred ty rd ra rb => Sys2Proof.Machine.execVdqnt p pred ty rd ra rb s
  | .vdiv p pred ty rd ra rb => Sys2Proof.Machine.execVdiv p pred ty rd ra rb s
  | .fadd p ty rd ra rb => Sys2Proof.Machine.execFadd p ty rd ra rb s
  | .fsub p ty rd ra rb => Sys2Proof.Machine.execFsub p ty rd ra rb s
  | .fmul p ty rd ra rb => Sys2Proof.Machine.execFmul p ty rd ra rb s
  | .fdiv p ty rd ra rb => Sys2Proof.Machine.execFdiv p ty rd ra rb s
  | .fsqrt p ty rd ra => Sys2Proof.Machine.execFsqrt p ty rd ra s
  | .fmin p ty rd ra rb => Sys2Proof.Machine.execFmin p ty rd ra rb s
  | .fmax p ty rd ra rb => Sys2Proof.Machine.execFmax p ty rd ra rb s
  | .fclass p ty rd ra => Sys2Proof.Machine.execFclass p ty rd ra s
  | .ffma p ty rd ra rb neg rc => Sys2Proof.Machine.execFfma p ty rd ra rb neg rc s
  | .fcmp p cond ty rd ra rb => Sys2Proof.Machine.execFcmp p cond ty rd ra rb s
  | .fcvt p rd ra dt sty => Sys2Proof.Machine.execFcvt p rd ra dt sty s
  | .tsub p rd ra => Sys2Proof.Machine.execTsub p rd ra s
  | .tsubCopy p ra => Sys2Proof.Machine.execTsubCopy p ra s
  | .tqry p rd ra => Sys2Proof.Machine.execTqry p rd ra s
  | .tqryCopy p rd ra => Sys2Proof.Machine.execTqryCopy p rd ra s
  | .tcan p rd ra => Sys2Proof.Machine.execTcan p rd ra s
  | .tcanCopy p rd ra => Sys2Proof.Machine.execTcanCopy p rd ra s
  | .lutld p ra rb => Sys2Proof.Machine.execLutld p ra rb s
  | .lutrd p rd h => Sys2Proof.Machine.execLutrd p rd h s
  | .rbind p rd ra rb => Sys2Proof.Machine.execRbind p rd ra rb s
  | .rlook p rd ra => Sys2Proof.Machine.execRlook p rd ra s
  | .revict p rd ra => Sys2Proof.Machine.execRevict p rd ra s
  | .rinv p rd ra => Sys2Proof.Machine.execRinv p rd ra s
  | .rinvUnbind p rd ra => Sys2Proof.Machine.execRinvUnbind p rd ra s
  | .sbind p ra qn => Sys2Proof.Machine.execSbind p ra qn s
  | .sunb p qn => Sys2Proof.Machine.execSunb p qn s
  | .sqry p rd qn => Sys2Proof.Machine.execSqry p rd qn s
  | .spawn p rd ra rb => Sys2Proof.Machine.execSpawn p rd ra rb s
  | .launch p rd ra rb => Sys2Proof.Machine.execLaunch p rd ra rb s
  | .exit p => Sys2Proof.Machine.execExit p s
  | .yield p => Sys2Proof.Machine.execYield p s
  | .park p rd ra => Sys2Proof.Machine.execPark p rd ra s
  | .swapctx p ra => Sys2Proof.Machine.execSwapctx p ra s
  | .migr p rd ra => Sys2Proof.Machine.execMigr p rd ra s
  | .migrAddr p rd ra => Sys2Proof.Machine.execMigrAddr p rd ra s
  | .home p rd ra => Sys2Proof.Machine.execHome p rd ra s
  | .policy p rd ra => Sys2Proof.Machine.execPolicy p rd ra s
  | .lease p rd ra rb => Sys2Proof.Machine.execLease p rd ra rb s
  | .lrel p rd => Sys2Proof.Machine.execLrel p rd s
  | .dnext p => Sys2Proof.Machine.execDnext p s
  | .trap p imm => Sys2Proof.Machine.execTrap p imm s
  | .eret p ra disp => Sys2Proof.Machine.execEret p ra disp s
  | .bkpt p => Sys2Proof.Machine.execBkpt p s
  | .tlbi p scope ra rb page => Sys2Proof.Machine.execTlbi p scope ra rb page s
  | .idle p rd ra => Sys2Proof.Machine.execIdle p rd ra s
  | .lossOfPower => Sys2Proof.Machine.execLossOfPower s
  | .functionEnable => Sys2Proof.Machine.execFunctionEnable s
  | .uncorrectableError => Sys2Proof.Machine.execUncorrectableError s
  | .instructionCacheFill => Sys2Proof.Machine.execInstructionCacheFill s
  | .illegalInstruction => Sys2Proof.Machine.execIllegalInstruction s

end Sys2Proof.Machine
end

