-- ==== Sys2Proof/Machine/Step.lean ====
section
/-! DEFINITION. Step: one step of the machine, and placing an instruction where it fetches. -/

namespace Sys2Proof.Machine

/-- One step: the earliest event due, or the next issue turn (R192, R209; log 1). -/
def step (s : State) : Host.Outcome State Fault Refusal :=
  match plan s with
  | .run i s => exec i s
  | .rest s => .next s

/-- The state whose next step fetches and runs an instruction of the opcode table (log 14). -/
def State.withFetchWord (s : State) (nbits w : Nat) : State := placeWords (tableWords nbits w) s

end Sys2Proof.Machine
end

