-- ==== Sys2Proof/Safety.lean ====
section
/-! DEFINITION. Safety: what counts as a safe run, and the terms the statements use: what an issue leaves as it was,
what a result gives, and what each instruction of a kind computes. -/

namespace Sys2Proof

/-- A run of n steps that stops with neither a fault nor a refusal. -/
def Safe (n : Nat) (s : Machine.State) : Prop := ∃ t, core.run n s = .next t

namespace Machine

/-! ### Issue -/

/-- An accepted instruction (R270) that passes the issue checks of a state (R126, R194, R207, R210), of a strand whose header
stands in the register cache (R122). -/
def runs (i : Instr) (s : State) : Bool :=
  encodable i && operable i s && (lineAt (lineKey (cur s) 0) s).rc.isSome

/-- An accepted instruction that nothing of R211 stops before its level is judged. -/
def judged (i : Instr) (s : State) : Bool :=
  encodable i && (erroredFor i s).isNone &&
  !((streamsOf i isReadRole ++ streamsOf i isWriteRole).any (fun u => scalarTooWide (cur s) u s))

/-- The instruction has retired and its strand goes on at an address (R209). -/
def Retired (pc : BitVec 56) (s t : State) : Prop := t.issue.retired = true ∧ hdrPc (cur s) t = pc

/-- The instruction has retired and its strand goes on at the next word. -/
def Done (s t : State) : Prop := Retired s.issue.npc s t

/-! ### What an issue leaves as it was -/

/-- Everything but records, strands, the issue in progress, stream bindings, the agenda, the cores, the charges not yet
drawn and the counter of free values. -/
def others (s : State) : State :=
  { s with lines := [], strands := [], issue := State.reset.issue, streams := [], agenda := [], cores := [],
           meter := [], fresh := 0 }

/-- What the device keeps of a strand, without what an issue of its own changes (R100, R102, R128, R193). -/
def quiet (x : Strand) : Strand :=
  { x with issued := 0, stall := none, hold := 0, wait := .none, suppress := false, stepped := false, busyTurns := 0,
           fault := none, touching := none, mid := none }

/-- Stream registers an instruction names (R197). -/
def namedStreams (i : Instr) : List Nat :=
  [Fld.a, Fld.b, Fld.d].filterMap (fun f => if clsOf i f = 1#2 then some (regOf i f).toNat else none)

/-- Every register the instruction does not write keeps its contents; every register it neither writes nor reads
synchronised keeps its full bit (R195). -/
structure SameRegs (i : Instr) (s t : State) : Prop where
  scalars : ∀ r : BitVec 5, codeS r ∉ writeCodes i → readS (cur s) r t = readS (cur s) r s
  preds : ∀ n < 8, codeP n ∉ writeCodes i → readP (cur s) n t = readP (cur s) n s
  vectors : ∀ j : BitVec 5, codeV j ∉ writeCodes i → readV (cur s) j t = readV (cur s) j s
  fulls : ∀ c < 72, c ∉ writeCodes i → c ∉ syncCodes i → fullBit (cur s) c t = fullBit (cur s) c s

/-- The rest of the strand's record: the header beside the pc, and lines 70 to 83 beside FCSR where the instruction may
write it (R118, R129). -/
structure SameRecord (i : Instr) (s t : State) : Prop where
  upper : bitsN (hdr (cur s) 0 t) 56 8 = bitsN (hdr (cur s) 0 s) 56 8
  header : ∀ n, 1 ≤ n → n < 8 → hdr (cur s) n t = hdr (cur s) n s
  control : ∀ n, 560 ≤ n → n < 672 → (n = 640 → usesFcsr i = false) →
    cachedWord (cur s) (8 * n) t = cachedWord (cur s) (8 * n) s

/-- Everything beside the strand and its record: other records, other strands, streams not named, every byte of memory
and scratchpad, the cores (but for the generator of a rounding instruction's own core, R247), and all other state. -/
structure SameOthers (i : Instr) (s t : State) : Prop where
  lines : ∀ key, key < cur s ∨ cur s + 84 * 64 ≤ key → lineAt key t = lineAt key s
  strands : ∀ j, j ≠ cur s → strandAt j t = strandAt j s
  self : quiet (strandAt (cur s) t) = quiet (strandAt (cur s) s)
  streams : ∀ key, key ∉ (namedStreams i).map (streamKey (cur s)) → tget t.streams key streamZero = tget s.streams key streamZero
  bytes : ∀ key a, memByte key a t = memByte key a s
  pads : ∀ c o, spadByte c o t = spadByte c o s
  cores : ∀ c, (c = s.issue.core → usesFcsr i = false) → coreAt c t = coreAt c s
  core : { coreAt s.issue.core t with rng := 0#32 } = { coreAt s.issue.core s with rng := 0#32 }
  issue : t.issue = { s.issue with retired := true }
  agenda : namedStreams i = [] → syncCodes i = [] → t.agenda = s.agenda
  rest : others t = others s

/-- The frame of an instruction that computes in registers. -/
structure Frame (i : Instr) (s t : State) : Prop where
  regs : SameRegs i s t
  record : SameRecord i s t
  others : SameOthers i s t

/-! ### What a result gives -/

/-- A scalar result at a field: the register whole and full, s0 reading zero, or the bytes of one element at the end of
an outbound stream (R195, R197, R272, R287). -/
def GaveS (i : Instr) (f : Fld) (v : Word) (s t : State) : Prop :=
  if clsOf i f = 1#2 then
    (streamAt (cur s) (regOf i f).toNat t).buf =
      (streamAt (cur s) (regOf i f).toNat s).buf ++ toBytes (2 ^ (streamAt (cur s) (regOf i f).toNat s).esz) v.toNat
  else
    readS (cur s) (regOf i f) t = (if regOf i f = 0#5 then 0#64 else v) ∧ fullBit (cur s) (codeS (regOf i f)) t = true

/-- A predicate result: p0 reads all ones (R272). -/
def GaveP (i : Instr) (v : BitVec 32) (s t : State) : Prop :=
  readP (cur s) (regOf i .d).toNat t = (if regOf i .d = 0#5 then BitVec.allOnes 32 else v) ∧
  fullBit (cur s) (codeP (regOf i .d).toNat) t = true

/-- A vector result: the register, full where it is written whole, or 128 bytes of an outbound stream (R195, R197,
R339). -/
def GaveV (i : Instr) (v : Vec) (s t : State) : Prop :=
  if clsOf i .d = 1#2 then
    (streamAt (cur s) (regOf i .d).toNat t).buf = (streamAt (cur s) (regOf i .d).toNat s).buf ++ toBytes 128 v.toNat
  else
    readV (cur s) (regOf i .d) t = v ∧
    fullBit (cur s) (codeV (regOf i .d)) t =
      (!(writesPart i) || (fullBit (cur s) (codeV (regOf i .d)) s && !(syncCodes i).contains (codeV (regOf i .d))))

/-- Flags a lane or operation raised are ORed into FCSR (R249). -/
def Raised (fl : Fl) (s t : State) : Prop := readFcsr (cur s) t = readFcsr (cur s) s ||| (fl.setWidth 16 <<< 5)

/-! ### Scalar and predicate results -/

/-- Both operands from registers (R288). -/
def alu2 (op : Nat) (i : Instr) (p : Pfx) (w : BitVec 2) : Option (State → Word) :=
  some (fun s => aluRes op w (intSat p) (srcS i .a s) (srcS i .b s))
/-- The second operand is the immediate (R288). -/
def alu1 (op : Nat) (i : Instr) (p : Pfx) (w : BitVec 2) (imm : BitVec 32) : Option (State → Word) :=
  some (fun s => aluRes op w (intSat p) (srcS i .a s) (immS p.ext imm))
/-- One operand (R294). -/
def count1 (op : Nat) (i : Instr) (w : BitVec 2) : Option (State → Word) := some (fun s => countRes op w (srcS i .a s))

/-- What each scalar instruction computes (R288 to R300, R353, R363, R375). -/
def scalarValue (i : Instr) : Option (State → Word) :=
  match i with
  | .add p w _ _ _ => alu2 1 i p w
  | .sub p w _ _ _ => alu2 2 i p w
  | .mul p w _ _ _ => alu2 3 i p w
  | .mulh p w _ _ _ => alu2 4 i p w
  | .mulhu p w _ _ _ => alu2 5 i p w
  | .div p w _ _ _ => alu2 6 i p w
  | .divu p w _ _ _ => alu2 7 i p w
  | .rem p w _ _ _ => alu2 8 i p w
  | .remu p w _ _ _ => alu2 9 i p w
  | .and p w _ _ _ => alu2 10 i p w
  | .or p w _ _ _ => alu2 11 i p w
  | .xor p w _ _ _ => alu2 12 i p w
  | .andn p w _ _ _ => alu2 13 i p w
  | .orn p w _ _ _ => alu2 14 i p w
  | .xnor p w _ _ _ => alu2 15 i p w
  | .shl p w _ _ _ => alu2 16 i p w
  | .shr p w _ _ _ => alu2 17 i p w
  | .sar p w _ _ _ => alu2 18 i p w
  | .rot p w _ _ _ => alu2 19 i p w
  | .min p w _ _ _ => alu2 20 i p w
  | .max p w _ _ _ => alu2 21 i p w
  | .minu p w _ _ _ => alu2 22 i p w
  | .maxu p w _ _ _ => alu2 23 i p w
  | .addImm p w _ _ imm => alu1 1 i p w imm
  | .subImm p w _ _ imm => alu1 2 i p w imm
  | .mulImm p w _ _ imm => alu1 3 i p w imm
  | .mulhImm p w _ _ imm => alu1 4 i p w imm
  | .mulhuImm p w _ _ imm => alu1 5 i p w imm
  | .divImm p w _ _ imm => alu1 6 i p w imm
  | .divuImm p w _ _ imm => alu1 7 i p w imm
  | .remImm p w _ _ imm => alu1 8 i p w imm
  | .remuImm p w _ _ imm => alu1 9 i p w imm
  | .andImm p w _ _ imm => alu1 10 i p w imm
  | .orImm p w _ _ imm => alu1 11 i p w imm
  | .xorImm p w _ _ imm => alu1 12 i p w imm
  | .andnImm p w _ _ imm => alu1 13 i p w imm
  | .ornImm p w _ _ imm => alu1 14 i p w imm
  | .xnorImm p w _ _ imm => alu1 15 i p w imm
  | .shlImm p w _ _ imm => alu1 16 i p w imm
  | .shrImm p w _ _ imm => alu1 17 i p w imm
  | .sarImm p w _ _ imm => alu1 18 i p w imm
  | .rotImm p w _ _ imm => alu1 19 i p w imm
  | .minImm p w _ _ imm => alu1 20 i p w imm
  | .maxImm p w _ _ imm => alu1 21 i p w imm
  | .minuImm p w _ _ imm => alu1 22 i p w imm
  | .maxuImm p w _ _ imm => alu1 23 i p w imm
  | .addi p _ _ imm => some (fun s => aluRes 1 3#2 (intSat p) (srcS i .a s) (immS p.ext imm))
  | .addiLong p _ _ imm => some (fun s => aluRes 1 3#2 (intSat p) (srcS i .a s) (immS p.ext imm))
  | .fshl _ _ _ _ k => some (fun s => fshlRes (srcS i .a s) (srcS i .b s) k.toNat)
  | .fshr _ _ _ _ k => some (fun s => fshrRes (srcS i .a s) (srcS i .b s) k.toNat)
  | .fshlReg _ _ _ _ rc => some (fun s => fshlRes (srcS i .a s) (srcS i .b s) ((readS (cur s) rc s).toNat % 64))
  | .fshrReg _ _ _ _ rc => some (fun s => fshrRes (srcS i .a s) (srcS i .b s) ((readS (cur s) rc s).toNat % 64))
  | .logt _ _ _ _ rc tab => some (fun s => logtBits tab (srcS i .a s) (srcS i .b s) (readS (cur s) rc s))
  | .clz _ w _ _ => count1 1 i w
  | .ctz _ w _ _ => count1 2 i w
  | .popc _ w _ _ => count1 3 i w
  | .brev _ w _ _ => count1 4 i w
  | .bswap _ w _ _ => count1 5 i w
  | .sext _ w _ _ => count1 6 i w
  | .zext _ w _ _ => count1 7 i w
  | .bfx _ _ _ len lsb => some (fun s => bfxRes (srcS i .a s) len.toNat lsb.toNat)
  | .bfxu _ _ _ len lsb => some (fun s => bfxuRes (srcS i .a s) len.toNat lsb.toNat)
  | .bfi _ _ _ len lsb => some (fun s => bfiRes (srcS i .d s) (srcS i .a s) len.toNat lsb.toNat)
  | .li p _ imm => some (fun _ => immS p.ext imm)
  | .liLong p _ imm => some (fun _ => immS p.ext imm)
  | .lih _ _ imm => some (fun s => imm ++ (srcS i .a s).setWidth 32)
  | .mov _ _ _ => some (fun s => srcS i .a s)
  | .sel _ _ _ _ neg pn => some (fun s =>
      if (readP (cur s) pn.toNat s).getLsbD 0 != (neg == 1#1) then srcS i .a s else srcS i .b s)
  | .lea p _ _ _ imm => some (fun s => addrAdd (srcS i .a s) (srcS i .b s + immS p.ext imm))
  | .leaLong p _ _ _ imm => some (fun s => addrAdd (srcS i .a s) (srcS i .b s + immS p.ext imm))
  | .addp _ _ _ _ sh => some (fun s => addrAdd (srcS i .a s) (srcS i .b s <<< sh.toNat))
  | .tagsImm _ _ _ tag => some (fun s => setBits (srcS i .a s) 56 4 tag.toNat)
  | .tagsReg _ _ _ _ => some (fun s => setBits (srcS i .a s) 56 4 ((srcS i .b s).toNat % 16))
  | .fclass _ ty _ _ => some (fun s => BitVec.ofNat 64 (classMask ty.toNat ((srcS i .a s).toNat % 2 ^ tyBits ty.toNat)))
  | .vmovsToScalar _ ty _ _ _ => some (fun s =>
      let x := laneAt (laneBits ty) (srcV i .a s).toNat ((srcS i .b s).toNat % laneCount ty)
      if ty.toNat ≤ 2 then sext64 (laneBits ty) x else zext64 (laneBits ty) x)
  | .lutrd _ _ h => some (fun s => (coreAt s.issue.core s).codebook.extractLsb' (64 * h.toNat) 64)
  | _ => none

/-- What each predicate instruction computes (R298, R299). -/
def predValue (i : Instr) : Option (State → BitVec 32) :=
  match i with
  | .cmp _ cond w _ _ _ => some (fun s => predOfBool (cmpRes cond w (srcS i .a s) (srcS i .b s)))
  | .cmpImm p cond w _ _ imm => some (fun s => predOfBool (cmpRes cond w (srcS i .a s) (immS p.ext imm)))
  | .pand _ _ _ _ => some (fun s => srcP i .a s &&& srcP i .b s)
  | .por _ _ _ _ => some (fun s => srcP i .a s ||| srcP i .b s)
  | .pxor _ _ _ _ => some (fun s => srcP i .a s ^^^ srcP i .b s)
  | .pnot _ _ _ => some (fun s => ~~~(srcP i .a s))
  | _ => none

/-! ### Floating scalars -/

/-- What each floating scalar instruction gives: whether it rounds with a draw, its prefixes, its register and its flags
under the modifiers (R248, R362, R364, R365). -/
def floatValue (i : Instr) : Option (Bool × Pfx × (Md → State → Word × Fl)) :=
  let put (ty : BitVec 4) (r : Nat × Fl) : Word × Fl := (zext64 (tyBits ty.toNat) r.1, r.2)
  match i with
  | .fadd p ty _ _ _ => some (true, p, fun md s => put ty (fp2 ty.toNat (fun rm => addVal rm) md (srcS i .a s).toNat (srcS i .b s).toNat))
  | .fsub p ty _ _ _ => some (true, p, fun md s => put ty (fp2 ty.toNat (fun rm a b => addVal rm a b.neg) md (srcS i .a s).toNat (srcS i .b s).toNat))
  | .fmul p ty _ _ _ => some (true, p, fun md s => put ty (fp2 ty.toNat (fun _ => mulVal) md (srcS i .a s).toNat (srcS i .b s).toNat))
  | .fdiv p ty _ _ _ => some (true, p, fun md s => put ty (fp2 ty.toNat (fun _ => divVal) md (srcS i .a s).toNat (srcS i .b s).toNat))
  | .fsqrt p ty _ _ => some (true, p, fun md s => put ty (fp1 ty.toNat sqrtVal md (srcS i .a s).toNat))
  | .fmin p ty _ _ _ => some (true, p, fun md s => put ty (minMaxLane false ty.toNat md (srcS i .a s).toNat (srcS i .b s).toNat))
  | .fmax p ty _ _ _ => some (true, p, fun md s => put ty (minMaxLane true ty.toNat md (srcS i .a s).toNat (srcS i .b s).toNat))
  | .ffma p ty _ _ _ neg rc => some (true, p, fun md s =>
      put ty (fmaRes (neg.getLsbD 1) (neg.getLsbD 0) ty.toNat md (srcS i .a s).toNat (srcS i .b s).toNat (readS (cur s) rc s).toNat))
  | .fcvt p _ _ dt sty => some (!exactPair sty.toNat dt.toNat, p, fun md s =>
      let r := convert sty.toNat dt.toNat md 0 ((srcS i .a s).toNat % 2 ^ tyBits sty.toNat)
      (if dt.toNat ≤ 3 then sext64 (tyBits dt.toNat) r.1 else zext64 (tyBits dt.toNat) r.1, r.2))
  | _ => none

/-- The generator after the draws of the active lanes from i to i + n - 1 (R246, R247). -/
def genAfter (pm : BitVec 32) (i : Nat) (g : BitVec 32) : Nat → BitVec 32
  | 0 => g
  | n + 1 => if active pm (i + n) then xorshift (genAfter pm i g n) else genAfter pm i g n

/-- The modifiers of a lane: with stochastic rounding, the output drawn for it. -/
def laneMd (draws : Bool) (md : Md) (g : BitVec 32) : Md :=
  if draws = true ∧ md.rm = 5 then { md with rnd := (xorshift g).toNat } else md

/-! ### Vector results -/

/-- A vector instruction that works lane by lane: prefixes, predicate, lane width, whether lanes draw, and a lane's value
and flags under modifiers. -/
structure LaneForm where
  p : Pfx
  pred : BitVec 3
  w : Nat
  draws : Bool
  f : State → Md → Nat → Nat × Fl

/-- Lanes of the two sources and of the old destination. -/
def lanes3 (i : Instr) (p : Pfx) (pred : BitVec 3) (ty : BitVec 4) (draws : Bool) (f : Md → Nat → Nat → Nat → Nat × Fl) :
    Option LaneForm :=
  some ⟨p, pred, laneBits ty, draws, fun s md j =>
    f md (laneAt (laneBits ty) (srcV i .a s).toNat j)
      (if roleOf i .b = .vR then laneAt (laneBits ty) (srcV i .b s).toNat j else laneAt (laneBits ty) (srcV i .a s).toNat j)
      (laneAt (laneBits ty) (oldV i s).toNat j)⟩
/-- Integer and bitwise lanes. -/
def lanesI (i : Instr) (p : Pfx) (pred : BitVec 3) (ty : BitVec 4) (f : Nat → Nat → Nat → Nat) : Option LaneForm :=
  lanes3 i p pred ty false (fun _ a b c => (f a b c, 0#5))
/-- Lanes that come from places of the sources (R352, R354, R358). -/
def lanesOfSources (pred : BitVec 3) (ty : BitVec 4) (f : State → Nat → Nat) : Option LaneForm :=
  some ⟨Pfx.empty, pred, laneBits ty, false, fun s _ j => (f s j, 0#5)⟩

/-- What each lane-wise instruction computes (R342 to R347, R352, R354, R357, R358, R360). -/
def laneForm (i : Instr) : Option LaneForm :=
  match i with
  | .vadd p pred ty _ _ _ =>
    if ty.toNat < 8 then lanesI i p pred ty (vintRes 1 ty.toNat (intSat p))
    else lanes3 i p pred ty true (fun md a b _ => fp2 ty.toNat (fun rm x y => addVal rm x y) md a b)
  | .vsub p pred ty _ _ _ =>
    if ty.toNat < 8 then lanesI i p pred ty (vintRes 2 ty.toNat (intSat p))
    else lanes3 i p pred ty true (fun md a b _ => fp2 ty.toNat (fun rm x y => addVal rm x y.neg) md a b)
  | .vmul p pred ty _ _ _ =>
    if ty.toNat < 8 then lanesI i p pred ty (vintRes 3 ty.toNat (intSat p))
    else lanes3 i p pred ty true (fun md a b _ => fp2 ty.toNat (fun _ x y => mulVal x y) md a b)
  | .vmulh p pred ty _ _ _ => lanesI i p pred ty (vintRes 4 ty.toNat (intSat p))
  | .vmin p pred ty _ _ _ =>
    if ty.toNat < 8 then lanesI i p pred ty (vintRes 5 ty.toNat 0)
    else lanes3 i p pred ty true (fun md a b _ => minMaxLane false ty.toNat md a b)
  | .vmax p pred ty _ _ _ =>
    if ty.toNat < 8 then lanesI i p pred ty (vintRes 6 ty.toNat 0)
    else lanes3 i p pred ty true (fun md a b _ => minMaxLane true ty.toNat md a b)
  | .vfma p pred ty _ _ _ => lanes3 i p pred ty true (fmaRes false false ty.toNat)
  | .vfms p pred ty _ _ _ => lanes3 i p pred ty true (fmaRes false true ty.toNat)
  | .vfnma p pred ty _ _ _ => lanes3 i p pred ty true (fmaRes true false ty.toNat)
  | .vdiv p pred ty _ _ _ => lanes3 i p pred ty true (fun md a b _ => fp2 ty.toNat (fun _ => divVal) md a b)
  | .vabs p pred ty _ _ => lanesI i p pred ty (fun a _ _ => absLane ty.toNat (intSat p) a)
  | .vneg p pred ty _ _ => lanesI i p pred ty (fun a _ _ => negLane ty.toNat (intSat p) a)
  | .vrcp p pred ty _ _ => lanes3 i p pred ty false (fun md a _ _ => approxOp 2 ty.toNat md a)
  | .vrsq p pred ty _ _ => lanes3 i p pred ty false (fun md a _ _ => approxOp 3 ty.toNat md a)
  | .vexp2 p pred ty _ _ => lanes3 i p pred ty false (fun md a _ _ => approxOp 4 ty.toNat md a)
  | .vlog2 p pred ty _ _ => lanes3 i p pred ty false (fun md a _ _ => approxOp 5 ty.toNat md a)
  | .vsqrt p pred ty _ _ => lanes3 i p pred ty true (fun md a _ _ => fp1 ty.toNat sqrtVal md a)
  | .vand _ pred _ _ _ => lanesI i Pfx.empty pred 2#4 (fun a b _ => a &&& b)
  | .vor _ pred _ _ _ => lanesI i Pfx.empty pred 2#4 (fun a b _ => a ||| b)
  | .vxor _ pred _ _ _ => lanesI i Pfx.empty pred 2#4 (fun a b _ => a ^^^ b)
  | .vshl p pred ty _ _ _ => lanesI i p pred ty (fun a b _ => shiftLane 1 ty.toNat (intSat p) a b)
  | .vshr p pred ty _ _ _ => lanesI i p pred ty (fun a b _ => shiftLane 2 ty.toNat (intSat p) a b)
  | .vsar p pred ty _ _ _ => lanesI i p pred ty (fun a b _ => shiftLane 3 ty.toNat (intSat p) a b)
  | .vlogt _ pred ty _ _ _ vc tab => lanesOfSources pred ty (fun s j =>
      laneAt (laneBits ty) (logtBits tab (srcV i .a s) (srcV i .b s) (readV (cur s) vc s)).toNat j)
  | .vbcst _ pred ty _ _ => lanesOfSources pred ty (fun s _ => (srcS i .a s).toNat % 2 ^ laneBits ty)
  | .vperm _ pred ty _ _ _ => lanesOfSources pred ty (fun s j =>
      laneAt (laneBits ty) (srcV i .a s).toNat (laneAt (laneBits ty) (srcV i .b s).toNat j % laneCount ty))
  | .vshuf _ pred ty _ _ _ => lanesOfSources pred ty (fun s j =>
      let x := laneAt (laneBits ty) (srcV i .b s).toNat j % (2 * laneCount ty)
      if x < laneCount ty then laneAt (laneBits ty) (srcV i .a s).toNat x
      else laneAt (laneBits ty) (oldV i s).toNat (x - laneCount ty))
  | .vsld _ pred ty _ _ _ => lanesOfSources pred ty (fun s j =>
      let x := j + (srcS i .b s).toNat % laneCount ty
      if x < laneCount ty then laneAt (laneBits ty) (srcV i .a s).toNat x
      else laneAt (laneBits ty) (oldV i s).toNat (x - laneCount ty))
  | .vlut _ pred ty _ _ part => lanesOfSources pred ty (fun s j =>
      let c := laneAt 8 (coreAt s.issue.core s).codebook.toNat (laneAt 4 (srcV i .a s).toNat (part.toNat * laneCount ty + j))
      if laneBits ty = 8 then c else code (laneBits ty) (sgn 8 c))
  | .vdot4 p pred ty _ _ _ =>
    some ⟨p, pred, 32, decide (8 ≤ ty.toNat), fun s md j =>
      dotLane ty.toNat (intSat p) md (laneAt 32 (srcV i .a s).toNat j) (laneAt 32 (srcV i .b s).toNat j)
        (laneAt 32 (oldV i s).toNat j)⟩
  | .vdqnt p pred ty _ _ _ =>
    some ⟨p, pred, 32, true, fun s md j =>
      dequant ty.toNat ((srcS i .b s).toNat % 256) md (laneAt (tyBits ty.toNat) (srcV i .a s).toNat j)⟩
  | _ => none

/-- A lane of a lane-wise result: computed where the predicate is 1, kept elsewhere (R339). -/
def laneResult (i : Instr) (n : LaneForm) (s : State) (j : Nat) : Nat :=
  let pm := readP (cur s) n.pred.toNat s
  if active pm j then
    (n.f s (laneMd n.draws (curMd n.p s) (genAfter pm 0 (rngOf s.issue.core s) j)) j).1 % 2 ^ n.w
  else laneAt n.w (oldV i s).toNat j

/-- Flags of the active lanes. -/
def laneFlags (n : LaneForm) (s : State) : Fl :=
  let pm := readP (cur s) n.pred.toNat s
  (List.range (1024 / n.w)).foldl (fun fl j =>
    if active pm j then fl ||| (n.f s (laneMd n.draws (curMd n.p s) (genAfter pm 0 (rngOf s.issue.core s) j)) j).2 else fl) 0#5

/-! ### Reductions -/

/-- The active lanes among the first n, in ascending order. -/
def activeList (w : Nat) (pm : BitVec 32) (v : Vec) (n : Nat) : List Nat :=
  ((List.range n).filter (fun j => active pm j)).map (fun j => laneAt w v.toNat j)

/-- An integer reduction of a list (R355): sums exact before the saturation setting applies. -/
def intReduce (rop : Nat) (ty : BitVec 4) (sat : Nat) (l : List Nat) : Nat :=
  let w := laneBits ty
  match l with
  | [] => redIdentity rop ty.toNat
  | x :: t =>
    if 3 ≤ rop then t.foldl (bitComb rop) x
    else
      fitInt w (if rop = 0 then sat else 0)
        (t.foldl (fun acc y => intComb rop acc (rdInt w (redUns rop ty.toNat sat) y)) (rdInt w (redUns rop ty.toNat sat) x))

/-! ### Control transfers, and instructions that compute in registers -/

/-- Branches and plain jumps: negate, predicate, target (R301). -/
def branchForm (i : Instr) : Option (Bool × Nat × (State → BitVec 56)) :=
  match i with
  | .br ext neg pn imm => some (neg == 1#1, pn.toNat, fun s => s.issue.pc + (immS ext imm <<< 2).setWidth 56)
  | .brLong ext neg pn imm => some (neg == 1#1, pn.toNat, fun s => s.issue.pc + (immS ext imm <<< 2).setWidth 56)
  | .j ext imm => some (false, 0, fun s => s.issue.pc + (immS ext imm <<< 2).setWidth 56)
  | .jLong ext imm => some (false, 0, fun s => s.issue.pc + (immS ext imm <<< 2).setWidth 56)
  | _ => none
/-- Jumps that link (R301). -/
def linkForm (i : Instr) : Option (State → BitVec 56) :=
  match i with
  | .jl ext _ imm => some (fun s => s.issue.pc + (immS ext imm <<< 2).setWidth 56)
  | .jlLong ext _ imm => some (fun s => s.issue.pc + (immS ext imm <<< 2).setWidth 56)
  | _ => none
/-- Jumps to a register: whether they link, and the target (R301). -/
def registerForm (i : Instr) : Option (Bool × (State → Word)) :=
  match i with
  | .jlr ext _ _ imm => some (true, fun s => addrAdd (srcS i .a s) (immS ext imm))
  | .jlrLong ext _ _ imm => some (true, fun s => addrAdd (srcS i .a s) (immS ext imm))
  | .ret _ => some (false, fun s => srcS i .a s)
  | _ => none
/-- LOOP: its counter and target (R302). -/
def loopForm (i : Instr) : Option (BitVec 5 × (State → BitVec 56)) :=
  match i with
  | .loop ext rd imm => some (rd, fun s => s.issue.pc + (immS ext imm <<< 2).setWidth 56)
  | .loopLong ext rd imm => some (rd, fun s => s.issue.pc + (immS ext imm <<< 2).setWidth 56)
  | _ => none

/-- Other vector and predicate results: compare, select, convert, one lane, reduce, scan, quantise. -/
def otherVector : Instr → Bool
  | .vcmp .. | .fcmp .. | .vsel .. | .vcvt .. | .vmovsToLane .. | .vred .. | .vscan .. | .vqnt .. | .nop => true
  | _ => false

/-- The instructions that only compute in registers, whatever their operands. -/
def computes (i : Instr) : Bool :=
  (scalarValue i).isSome || (predValue i).isSome || (floatValue i).isSome || (laneForm i).isSome || otherVector i ||
  (branchForm i).isSome || (linkForm i).isSome || (loopForm i).isSome

/-- The division instructions of R235. -/
def divides : Instr → Bool
  | .div .. | .divu .. | .rem .. | .remu .. | .divImm .. | .divuImm .. | .remImm .. | .remuImm .. => true
  | _ => false

/-! ### Control registers -/

/-- What a write of a control register leaves (R245, R247, R278, R151, R215): a mode of 6 or 7 is not taken, a generator is
never 0, a read-only register is as it was. -/
def CsrWritten (csr : BitVec 12) (v : Word) (s t : State) : Prop :=
  (csr = 0x000#12 →
    readFcsr (cur s) t = (if 6 ≤ v.toNat % 8 then (v &&& 0x3F8#64).setWidth 16 ||| (readFcsr (cur s) s &&& 7#16)
      else (v &&& 0x3FF#64).setWidth 16)) ∧
  (csr = 0x001#12 → rngOf (strandAt (cur s) s).core t = (if v.setWidth 32 = 0#32 then 1#32 else v.setWidth 32)) ∧
  (csr = 0x100#12 → reg s.issue.vf 0x1010 t = v &&& 0x000FFFFFFFFFE001#64) ∧
  (csr = 0x102#12 → reg s.issue.vf 0x1108 t = v &&& 0x00FFFFFFFFFFFFFC#64) ∧
  (csr = 0x101#12 → regionHolds s.issue.vf (bitsN v 13 43 * 2 ^ 13) (thCount s.issue.vf s) s = true →
    reg s.issue.vf 0x1100 t = v &&& 0x00FFFFFFFFFFE001#64) ∧
  (csr = 0x103#12 → regionHolds s.issue.vf (thBase s.issue.vf s) (bitsN v 0 16) s = true →
    reg s.issue.vf 0x1110 t = v &&& 0xFFFF#64) ∧
  (csr ∉ [0x000#12, 0x001#12, 0x100#12, 0x101#12, 0x102#12, 0x103#12] → others t = others s ∧ readFcsr (cur s) t = readFcsr (cur s) s)

/-! ### Memory accesses -/

/-- Every byte of memory and of the scratchpads is as it was. -/
def SameBytes (s t : State) : Prop :=
  (∀ key a, memByte key a t = memByte key a s) ∧ (∀ c o, spadByte c o t = spadByte c o s)

/-- n bytes of a core's scratchpad hold v, low byte first, and every other byte of memory and of the scratchpads is as it
was. -/
def PadWritten (c off n v : Nat) (s t : State) : Prop :=
  (∀ key a, memByte key a t = memByte key a s) ∧
  (∀ c' o, o < 2 ^ 21 → spadByte c' o t =
    (if c' = c ∧ off ≤ o ∧ o < off + n then BitVec.ofNat 8 (v / 256 ^ (o - off)) else spadByte c' o s))

/-- A first access that its checks place in the core's scratchpad (R155, R160). -/
def ToPad (r : Rules) (a : Word) (off : Nat) (s : State) : Prop := answer s = none ∧ check r a s = .pad off
/-- A first access that goes out to memory: checked, homed here, with room in the count and no granule busy (R155, R173,
R194, R206). -/
def ToMemory (load : Bool) (r : Rules) (a : Word) (pa : Nat) (tagchk : Bool) (s : State) : Prop :=
  answer s = none ∧ check r a s = .mem pa tagchk ∧ travelTarget (cur s) pa s = none ∧ countFull load s = false ∧
  granuleBusy (cur s) pa r.n (routeFor s.issue.vf s.issue.core pa (hdrDmode (cur s) s) s) s = false
/-- The replies of the access have come, all good (R319). -/
def Answered (g : Nat) (s : State) : Prop := answer s = some g ∧ groupFailure (groupReqs g s) = none
/-- The value that the replies of a group make, low byte first. -/
def groupValue (g : Nat) (s : State) : Nat :=
  (groupReqs g s).foldl (fun v e => v + e.2.value.toNat % 2 ^ (8 * e.2.size) * 2 ^ (8 * e.2.off)) 0

/-- A load or store of registers: prefixes, bytes, address, and the base register with its value after (R308, R311). -/
structure AccessForm where
  p : Pfx
  n : Nat
  ea : State → Word
  adv : Option (BitVec 5 × (State → Word))

/-- An access at a base and an offset, or at the base with the base advanced. -/
def formOf (i : Instr) (p : Pfx) (n : Nat) (post : Bool) (ra : BitVec 5) {w : Nat} (imm : BitVec w) : AccessForm :=
  ⟨p, n, fun s => if post then srcS i .a s else addrAdd (srcS i .a s) (immS p.ext imm),
   if post then some (ra, fun s => addrAdd (srcS i .a s) (immS p.ext imm)) else none⟩

/-- The base register after a post form. -/
def BaseMoved (f : AccessForm) (s t : State) : Prop :=
  match f.adv with
  | none => True
  | some (ra, v) => readS (cur s) ra t = (if ra = 0#5 then 0#64 else v s)

/-- Scalar loads: the access, whether it sign-extends, and whether it retires only with its data (R310, R311, R315). -/
def loadForm (i : Instr) : Option (AccessForm × Bool × Bool) :=
  match i with
  | .ld p post zx w _ ra imm => some (formOf i p (2 ^ w.toNat) (post == 1#1) ra imm, zx == 0#1, false)
  | .ldLong p post zx w _ ra imm => some (formOf i p (2 ^ w.toNat) (post == 1#1) ra imm, zx == 0#1, false)
  | .lda p _ w _ ra imm => some (formOf i p (2 ^ w.toNat) false ra imm, true, true)
  | .ldaLong p _ w _ ra imm => some (formOf i p (2 ^ w.toNat) false ra imm, true, true)
  | _ => none
/-- Vector loads (R310, R311). -/
def vectorLoadForm (i : Instr) : Option AccessForm :=
  match i with
  | .ldv p post _ ra imm => some (formOf i p 128 (post == 1#1) ra imm)
  | .ldvLong p post _ ra imm => some (formOf i p 128 (post == 1#1) ra imm)
  | _ => none
/-- Stores: the access, the bytes stored, and the scope of a release, which retires when performed (R310, R311, R315). -/
def storeForm (i : Instr) : Option (AccessForm × (State → Nat) × Option Nat) :=
  match i with
  | .st p post w _ ra imm => some (formOf i p (2 ^ w.toNat) (post == 1#1) ra imm, fun s => bitsN (srcS i .d s) 0 (8 * 2 ^ w.toNat), none)
  | .stLong p post w _ ra imm => some (formOf i p (2 ^ w.toNat) (post == 1#1) ra imm, fun s => bitsN (srcS i .d s) 0 (8 * 2 ^ w.toNat), none)
  | .stl p scope w _ ra imm => some (formOf i p (2 ^ w.toNat) false ra imm, fun s => bitsN (srcS i .d s) 0 (8 * 2 ^ w.toNat), some scope.toNat)
  | .stlLong p scope w _ ra imm => some (formOf i p (2 ^ w.toNat) false ra imm, fun s => bitsN (srcS i .d s) 0 (8 * 2 ^ w.toNat), some scope.toNat)
  | .stv p post _ ra imm => some (formOf i p 128 (post == 1#1) ra imm, fun s => (srcV i .d s).toNat, none)
  | .stvLong p post _ ra imm => some (formOf i p 128 (post == 1#1) ra imm, fun s => (srcV i .d s).toNat, none)
  | _ => none

/-- Full/empty instructions: their code in R326 and their address (R317). -/
def fullEmptyForm (i : Instr) : Option (Nat × Pfx × (State → Word)) :=
  match i with
  | .lde p _ _ imm => some (24, p, fun s => addrAdd (srcS i .a s) (immS p.ext imm))
  | .ldeLong p _ _ imm => some (24, p, fun s => addrAdd (srcS i .a s) (immS p.ext imm))
  | .stf p _ _ imm => some (25, p, fun s => addrAdd (srcS i .a s) (immS p.ext imm))
  | .stfLong p _ _ imm => some (25, p, fun s => addrAdd (srcS i .a s) (immS p.ext imm))
  | .few p _ _ imm => some (26, p, fun s => addrAdd (srcS i .a s) (immS p.ext imm))
  | .fewLong p _ _ imm => some (26, p, fun s => addrAdd (srcS i .a s) (immS p.ext imm))
  | .fer p _ _ imm => some (27, p, fun s => addrAdd (srcS i .a s) (immS p.ext imm))
  | .ferLong p _ _ imm => some (27, p, fun s => addrAdd (srcS i .a s) (immS p.ext imm))
  | _ => none

/-- Atomics of one register: operation (16 compares), 32 bits wide, no result, prefixes, scope (R323, R325). -/
def atomicForm (i : Instr) : Option (Nat × Bool × Bool × Pfx × Nat) :=
  match i with
  | .amo p scope aop _ _ _ => some (aop.toNat, false, false, p, scope.toNat)
  | .red p scope aop _ _ => some (aop.toNat, false, true, p, scope.toNat)
  | .cas p scope _ _ _ => some (16, false, false, p, scope.toNat)
  | .amoI32 p scope aop _ _ _ => some (aop.toNat, true, false, p, scope.toNat)
  | .redI32 p scope aop _ _ => some (aop.toNat, true, true, p, scope.toNat)
  | .casI32 p scope _ _ _ => some (16, true, false, p, scope.toNat)
  | _ => none

/-- Tag instructions: whether they load, prefixes, address (R322). -/
def tagForm (i : Instr) : Option (Bool × Pfx × (State → Word)) :=
  match i with
  | .tagld p _ _ imm => some (true, p, fun s => addrAdd (srcS i .a s) (immS p.ext imm))
  | .tagldLong p _ _ imm => some (true, p, fun s => addrAdd (srcS i .a s) (immS p.ext imm))
  | .tagst p _ _ imm => some (false, p, fun s => addrAdd (srcS i .a s) (immS p.ext imm))
  | .tagstLong p _ _ imm => some (false, p, fun s => addrAdd (srcS i .a s) (immS p.ext imm))
  | _ => none
/-- TOUCH and its address (R321). -/
def touchForm (i : Instr) : Option (State → Word) :=
  match i with
  | .touch p _ _ imm => some (fun s => addrAdd (srcS i .a s) (immS p.ext imm))
  | .touchLong p _ _ imm => some (fun s => addrAdd (srcS i .a s) (immS p.ext imm))
  | _ => none
/-- The window an address of TOUCH names: by its offset in the scratchpad aperture, by its key elsewhere (R321). -/
def touchedWindow (a : Word) (s : State) : Option Nat :=
  if bitsN a 48 8 = 0xFE then windowOf s.issue.core (bitsN a 0 21) s else windowByKey s.issue.core a s

/-- Transaction-barrier instructions: code in R326, and how the object is used (R331, R332). -/
def barrierForm (i : Instr) : Option (Nat × Use × Pfx) :=
  match i with
  | .tbi p _ _ => some (32, .write, p)
  | .tba p _ _ _ => some (33, .both, p)
  | .tbw p _ _ _ => some (34, .read, p)
  | .tbt p _ _ _ => some (35, .read, p)
  | _ => none

/-- Level-barrier instructions: level and number (R329). -/
def levelForm (i : Instr) : Option (BitVec 3 × BitVec 4) :=
  match i with
  | .barArm _ num level _ => some (level, num)
  | .bar _ num level => some (level, num)
  | .bara _ num level _ => some (level, num)
  | .barw _ num level _ => some (level, num)
  | _ => none

/-- One strand has arrived at a level barrier: the phase moves and the count reloads at the last (R90). -/
def Arrived (key : Nat) (s t : State) : Prop :=
  ((barrierAt key s).pending ≤ 1 →
    (barrierAt key t).phase = (barrierAt key s).phase + 1#4 ∧ (barrierAt key t).pending = (barrierAt key s).initial) ∧
  (1 < (barrierAt key s).pending →
    (barrierAt key t).phase = (barrierAt key s).phase ∧ (barrierAt key t).pending = (barrierAt key s).pending - 1)

/-! ### Structures in memory, tasks and bindings -/

/-- A structure of n bytes that an instruction reads as one load: its contents, and the state after the read (R367). -/
def StructRead (a : Word) (n : Nat) (s : State) (v : Nat) (u : State) : Prop :=
  (∃ off, check ⟨n, n, .read, true, true⟩ a s = .pad off ∧ spadErrAt s.issue.core off n s = false ∧
    v = spadVal s.issue.core off n s ∧ u = raceNote (cur s) s.issue.core off n false s) ∨
  (∃ pa tc, check ⟨n, n, .read, true, true⟩ a s = .mem pa tc ∧ overlapBusy (cur s) pa n s = false ∧
    (tc = true → tagMismatch pa n (BitVec.ofNat 4 (bitsN a 56 4)) s = none) ∧ memErrAt pa n s = false ∧
    v = memVal (keyOf s.issue.vf s) pa n s ∧ u = s)

/-- Eight bytes of a structure written as one store, and the state after it (R367). -/
def StructWritten (a : Word) (v : Nat) (s u : State) : Prop :=
  (∃ off, check ⟨8, 8, .write, true, true⟩ a s = .pad off ∧
    u = raceNote (cur s) s.issue.core off 8 true
      (dirtyWindows s.issue.core off 8 (spadWrite s.issue.core off (toBytes 8 v) s))) ∨
  (∃ pa tc, check ⟨8, 8, .write, true, true⟩ a s = .mem pa tc ∧ overlapBusy (cur s) pa 8 s = false ∧
    (bitsN a 48 8 < 0xFD → pageMoving s.issue.vf (bitsN a 0 56) s = false) ∧
    (tc = true → tagMismatch pa 8 (BitVec.ofNat 4 (bitsN a 56 4)) s = none) ∧
    u = bankChanged pa (memWrite (keyOf s.issue.vf s) pa (toBytes 8 v) s))

/-- The instruction completes and its scalar result is v. -/
def Results (i : Instr) (v : Word) (s : State) : Prop := ∃ t, exec i s = .next t ∧ Done s t ∧ GaveS i .d v s t

/-- The strand has no access outstanding and no deferred error, so it may leave its slot (R125, R210). -/
def MayLeave (s : State) : Prop := outstanding (curStrand s) = false ∧ (curStrand s).errored = []

/-- The strand at its turn steps one instruction (R224, R225). -/
def stepping (s : State) : Bool := bitB (cachedWord (cur s) 0x1480 s) 0

/-- Line numbers of two records do not meet. -/
def Apart (j k : Nat) : Prop := j + 84 * 64 ≤ k ∨ k + 84 * 64 ≤ j

/-- A map of scalar registers with one changed. -/
def upd (f : BitVec 5 → Word) (r : BitVec 5) (v : Word) (x : BitVec 5) : Word := if x = r then v else f x

/-- Scalar registers after a repeated instruction's own writes and the steps that follow (R303). -/
def repRegs (f : BitVec 5 → Word) (cnt adv0 adv1 : BitVec 5) (step : BitVec 11) : BitVec 5 → Word :=
  let f := upd f adv0 (f adv0 + step.signExtend 64)
  let f := upd f adv1 (f adv1 + step.signExtend 64)
  upd f cnt (f cnt - 1)

/-- Scalar registers after a step of n bytes of a block move (R304). -/
def moveRegs (f : BitVec 5 → Word) (rd ra rb : BitVec 5) (two : Bool) (n : Nat) : BitVec 5 → Word :=
  let f := upd f rd (addrAdd (f rd) (BitVec.ofNat 64 n))
  let f := if two then upd f ra (addrAdd (f ra) (BitVec.ofNat 64 n)) else f
  upd f rb (f rb - BitVec.ofNat 64 n)

/-! ### Events of the module -/

/-- An event stands on the agenda at a slot, its arguments as P says. -/
def Scheduled (ev : Instr) (slot : Nat) (P : EvArgs → Prop) (t : State) : Prop :=
  ∃ d ∈ t.agenda, d.ev = ev ∧ d.slot = slot ∧ P d.args

/-- A cause bit of a function's INTCAUSE is 1 (R55). -/
def Caused (vf : BitVec 7) (bit : Nat) (t : State) : Prop := regN vf 0x28000 bit 1 t = 1

/-- No request waits at a bank. -/
def BankQuiet (pa : Nat) (s : State) : Prop := (bankAt (bankOf pa) s).waits = []

/-- No lease is in force in a hall's quadrants. -/
def NoLease (g : Nat) (t : State) : Prop := ∀ q < 4, islandN (4 * g + q) 8 1 t = 0

/-- A record of the circuit manager has a reserved bit, or an uncorrectable error (R38). -/
def recordBad (r : BitVec 512) (a : Nat) (s : State) : Bool :=
  bitsN r 225 31 != 0 || bitsN r 288 192 != 0 || bitsN r 488 24 != 0 || memErrAt a 64 s

/-- A function's ring holds a record of an event's op, where the manager reaches it (R37, R38, R7). -/
def RingHas (ev : Instr) (s : State) : Prop :=
  cmHead s.ev.vf s ≠ cmTail s.ev.vf s ∧ cmReachable s.ev.vf (cmAddr s.ev.vf s) s = true ∧ cmEvent (cmRecord s.ev.vf s) = ev

/-- The manager has answered a record: its status byte, the head one on, the function's cause 1 (R37). -/
def RingAnswered (status : Nat) (s t : State) : Prop :=
  cmHead s.ev.vf t = (cmHead s.ev.vf s + 1) % 2 ^ 16 ∧ Caused s.ev.vf 1 t ∧
  memVal (keyOf s.ev.vf s) (cmAddr s.ev.vf s + 60) 1 t = status

/-- Stages of a circuit's paths after a change of those an event names. -/
def Staged (n : Nat) (f : Nat → Stage → Stage) (s t : State) : Prop :=
  ∀ v, circAt n s = some v → ∃ w, circAt n t = some w ∧ w.paths.length = v.paths.length ∧
    ∀ j p, v.paths[j]? = some p → ∃ q, w.paths[j]? = some q ∧ q.stage = f j p.stage

/-- The copies of a line in hall context caches and on the transit channel hold different words, one at a place (R124). -/
def Exclusive (ln : Line) : Prop := ln.hc.Pairwise (fun a b => a.place ≠ b.place ∧ a.mask &&& b.mask = 0#8)

/-- A register cache has room for a line, and every hall's cache for n lines (R122, R124). -/
def RcRoom (core : Nat) (s : State) : Prop := cacheLoad core s < Config.registerCacheLines
def HcRoom (n : Nat) (s : State) : Prop := s.lines.length + n ≤ Config.hallCacheLines

/-- Every word of line l of a record stands in a cache. -/
def Whole (k l : Nat) (s : State) : Prop :=
  haveMask (lineAt (lineKey k l) s) = 255#8

/-- A message of a kind stands in the transit queues, of which P holds (R137). -/
def Queued (P : TMsg → Prop) (t : State) : Prop := ∃ id m, tfind t.tmsgs id = some m ∧ P m

/-- A strand has stopped at a trap of a kind and cause (R208, R212). -/
def Stopped (k kind cause : Nat) (P : Trap → Prop) (t : State) : Prop :=
  (strandAt k t).run = .trapped ∧
  ∃ x, (strandAt k t).trap = some x ∧ x.kind = BitVec.ofNat 8 kind ∧ x.cause = BitVec.ofNat 8 cause ∧ P x

/-- The states of VACSTAT, ZEROSTAT, LQSTAT and DBGRES after a command. -/
def VacAnswer (vf : BitVec 7) (state why : Nat) (t : State) : Prop :=
  regN vf 0x2008 0 2 t = state ∧ regN vf 0x2008 8 8 t = why
def ZeroAnswer (state why : Nat) (t : State) : Prop := regN 0 0x3418 0 2 t = state ∧ regN 0 0x3418 8 8 t = why
def QueueStopped (vf : BitVec 7) (q code : Nat) (t : State) : Prop :=
  regN vf (qoff q + 24) 0 8 t = code ∧ regN vf (qoff q + 24) 8 1 t = 1 ∧ Caused vf 0 t
def Commanded (vf : BitVec 7) (code : Nat) (t : State) : Prop := regN vf 0x40248 0 3 t = code

/-- A strand or hall command of a function that the host does not reach is discarded; one of a function that is not authorised,
or while the module saves, is turned away (R56, R229, R232). -/
def TurnsAway (i : Instr) (right : Nat) (s : State) : Prop :=
  (hostClosed s.ev.vf s = true → exec i s = .next s) ∧
  (hostClosed s.ev.vf s = false → authorised s.ev.vf right s = false → ∃ t, exec i s = .next t ∧ Commanded s.ev.vf 1 t) ∧
  (hostClosed s.ev.vf s = false → authorised s.ev.vf right s = true → s.power ≠ .on →
    ∃ t, exec i s = .next t ∧ Commanded s.ev.vf 4 t)

/-- Memory, the scratchpads and the snapshot images in canonical form. -/
def memoryForm (s : State) : Bool :=
  Memory.wf s.mem && Memory.wf s.spad && s.snap.images.all (fun e => Memory.wf e.2.mem && Memory.wf e.2.spad)

end Machine

end Sys2Proof
end

