-- ==== Sys2Proof/Certificates/Slice0/Obligations.lean ====
section
/-! DEFINITION. Obligations: the statements for the provers. -/

open Sys2Proof Sys2Proof.Machine

/-! ### Scalar instructions -/

/-- R287 to R300, R353, R363, R375: an accepted scalar instruction that may issue retires, and its register (or outbound
stream) holds its value.

R298, R353: a compare gives all ones or zero.

R298: the conditions of the compare instructions on the low n bits.

Completes (exec answers a next state, for every state and operands that meet conditions on them alone): add, sub, mul, mulh,
mulhu, div, divu, rem, remu, and, or, xor, andn, orn, xnor, shl, shr, sar, rot, min, max, minu, maxu, addImm, subImm, mulImm,
mulhImm, mulhuImm, divImm, divuImm, remImm, remuImm, andImm, orImm, xorImm, andnImm, ornImm, xnorImm, shlImm, shrImm, sarImm,
rotImm, minImm, maxImm, minuImm, maxuImm, addi, addiLong, fshl, fshr, fshlReg, fshrReg, logt, clz, ctz, popc, brev, bswap,
sext, zext, bfx, bfxu, bfi, li, liLong, lih, mov, sel, cmp, cmpImm, pand, por, pxor, pnot, lea, leaLong, addp, tagsImm,
tagsReg, vmovsToScalar, fclass, lutrd. -/
def Obligations.ResultsAndConditions : Prop :=
  (∀ (i : Instr) (f : State → Word) (s : State), scalarValue i = some f → runs i s = true →
      ∃ t, exec i s = .next t ∧ Done s t ∧ GaveS i .d (f s) s t) ∧
  (∀ (i : Instr) (f : State → BitVec 32) (s : State), predValue i = some f → runs i s = true →
      ∃ t, exec i s = .next t ∧ Done s t ∧ GaveP i (f s) s t) ∧
  (∀ (w : BitVec 2) (x y : Word),
      let n := widthOf w
      let a : BitVec n := x.setWidth n
      let b : BitVec n := y.setWidth n
      cmpRes 0 w x y = decide (a = b) ∧ cmpRes 1 w x y = decide (a ≠ b) ∧ cmpRes 2 w x y = a.slt b ∧
      cmpRes 3 w x y = b.sle a ∧ cmpRes 4 w x y = a.ult b ∧ cmpRes 5 w x y = b.ule a ∧
      cmpRes 6 w x y = decide (a &&& b ≠ 0) ∧ cmpRes 7 w x y = decide (a &&& b = 0) ∧
      predOfBool true = BitVec.allOnes 32 ∧ predOfBool false = 0)

/-- R299: PAND, POR, PXOR and PNOT on all 32 bits; fn[1:0] selects the operation, a nonzero fn[6:2] or PNOT's rb is illegal
with cause 0, and a field of 8 to 31 with cause 1. -/
def Obligations.PredicateRule : Prop :=
  (∀ p d a b s,
    (runs (.pand p d a b) s = true → ∃ t, exec (.pand p d a b) s = .next t ∧ Done s t ∧
      GaveP (.pand p d a b) (srcP (.pand p d a b) .a s &&& srcP (.pand p d a b) .b s) s t) ∧
    (runs (.por p d a b) s = true → ∃ t, exec (.por p d a b) s = .next t ∧ Done s t ∧
      GaveP (.por p d a b) (srcP (.por p d a b) .a s ||| srcP (.por p d a b) .b s) s t) ∧
    (runs (.pxor p d a b) s = true → ∃ t, exec (.pxor p d a b) s = .next t ∧ Done s t ∧
      GaveP (.pxor p d a b) (srcP (.pxor p d a b) .a s ^^^ srcP (.pxor p d a b) .b s) s t) ∧
    (runs (.pnot p d a) s = true → ∃ t, exec (.pnot p d a) s = .next t ∧ Done s t ∧
      GaveP (.pnot p d a) (~~~(srcP (.pnot p d a) .a s)) s t)) ∧
  (∀ (d a b : BitVec 5) (hi : BitVec 5) (op : BitVec 2),
    let word : Code := 0#3 ++ 12#7 ++ d ++ a ++ b ++ hi ++ op
    (hi ≠ 0#5 ∨ (op = 3#2 ∧ b ≠ 0#5) → decode [word] = .trap 1 0 1) ∧
    (hi = 0#5 → (op = 3#2 → b = 0#5) → 8 ≤ d.toNat ∨ 8 ≤ a.toNat ∨ 8 ≤ b.toNat → decode [word] = .trap 1 1 1) ∧
    (hi = 0#5 → (op = 3#2 → b = 0#5) → d.toNat < 8 → a.toNat < 8 → b.toNat < 8 → decode [word] = .ok
      (if op = 0#2 then .pand .empty d a b else if op = 1#2 then .por .empty d a b
        else if op = 2#2 then .pxor .empty d a b else .pnot .empty d a) 1))

/-- R287, R195, R209: what the instructions that compute in registers leave as it was. -/
def Obligations.RegisterInstructionsFrame : Prop :=
  ∀ (i : Instr) (s : State), computes i = true → runs i s = true → ∃ t, exec i s = .next t ∧ Frame i s t

/-- R289: the operations of opcodes 0x00 and 0x01 without saturation, as operations on n-bit words.

R292 to R295, R300: funnel shifts, counts, bit fields and address arithmetic, bit by bit. -/
def Obligations.IntegerAndBitOperations : Prop :=
  (∀ (w : BitVec 2) (x y : Word),
      let n := widthOf w
      let a : BitVec n := x.setWidth n
      let b : BitVec n := y.setWidth n
      let s := b.toNat % n
      aluRes 1 w 0 x y = (a + b).signExtend 64 ∧ aluRes 2 w 0 x y = (a - b).signExtend 64 ∧
      aluRes 3 w 0 x y = (a * b).signExtend 64 ∧
      aluRes 4 w 0 x y = (BitVec.ofInt n (a.toInt * b.toInt / 2 ^ n)).signExtend 64 ∧
      aluRes 5 w 0 x y = (BitVec.ofNat n (a.toNat * b.toNat / 2 ^ n)).setWidth 64 ∧
      aluRes 10 w 0 x y = (a &&& b).signExtend 64 ∧ aluRes 11 w 0 x y = (a ||| b).signExtend 64 ∧
      aluRes 12 w 0 x y = (a ^^^ b).signExtend 64 ∧ aluRes 13 w 0 x y = (a &&& ~~~b).signExtend 64 ∧
      aluRes 14 w 0 x y = (a ||| ~~~b).signExtend 64 ∧ aluRes 15 w 0 x y = (~~~(a ^^^ b)).signExtend 64 ∧
      aluRes 16 w 0 x y = (a <<< s).signExtend 64 ∧ aluRes 17 w 0 x y = (a >>> s).signExtend 64 ∧
      aluRes 18 w 0 x y = (a.sshiftRight s).signExtend 64 ∧ aluRes 19 w 0 x y = (a.rotateLeft s).signExtend 64 ∧
      aluRes 20 w 0 x y = (if a.slt b then a else b).signExtend 64 ∧
      aluRes 21 w 0 x y = (if a.slt b then b else a).signExtend 64 ∧
      aluRes 22 w 0 x y = (if a.ult b then a else b).setWidth 64 ∧
      aluRes 23 w 0 x y = (if a.ult b then b else a).setWidth 64) ∧
  ((∀ (a b : Word) (k j : Nat), k < 64 → j < 64 →
      (fshlRes a b k).getLsbD j = (if k ≤ j then a.getLsbD (j - k) else b.getLsbD (64 - k + j)) ∧
      (fshrRes a b k).getLsbD j = (if j + k < 64 then b.getLsbD (j + k) else a.getLsbD (j + k - 64))) ∧
    (∀ (a : Word) (len lsb j : Nat), 1 ≤ len → lsb + len ≤ 64 → j < 64 →
      (bfxuRes a len lsb).getLsbD j = (decide (j < len) && a.getLsbD (lsb + j)) ∧
      (bfxRes a len lsb).getLsbD j = a.getLsbD (lsb + min j (len - 1))) ∧
    (∀ (d a : Word) (len lsb j : Nat), 1 ≤ len → lsb + len ≤ 64 → j < 64 →
      (bfiRes d a len lsb).getLsbD j = (if lsb ≤ j ∧ j < lsb + len then a.getLsbD (j - lsb) else d.getLsbD j)) ∧
    (∀ (t : BitVec 8) (a b c : Word) (j : Nat), j < 64 →
      (logtBits t a b c).getLsbD j =
        t.getLsbD (4 * (a.getLsbD j).toNat + 2 * (b.getLsbD j).toNat + (c.getLsbD j).toNat)) ∧
    (∀ (a b : Word), (addrAdd a b).toNat = a.toNat / 2 ^ 56 * 2 ^ 56 + (a.toNat + b.toNat) % 2 ^ 56) ∧
    (∀ (w : BitVec 2) (x : Word) (j : Nat), j < widthOf w →
      (countRes 4 w x).getLsbD j = x.getLsbD (widthOf w - 1 - j) ∧
      (countRes 5 w x).getLsbD j = x.getLsbD (8 * (widthOf w / 8 - 1 - j / 8) + j % 8) ∧
      countRes 6 w x = (x.setWidth (widthOf w)).signExtend 64 ∧ countRes 7 w x = (x.setWidth (widthOf w)).setWidth 64))

/-- R234: under a saturation setting ADD, SUB, MUL and SHL clamp the exact result to the signed or the unsigned range, and
the other operations are as without one (DIV's own corner is in DivisionRule).

R342, R345, R347: the integer lanes of w bits, wrapping and saturating. -/
def Obligations.SaturationAndIntegerLanes : Prop :=
  (∀ (w : BitVec 2) (x y : Word),
      let n := widthOf w
      let a : BitVec n := x.setWidth n
      let b : BitVec n := y.setWidth n
      let s := b.toNat % n
      let smin : Int := -(2 ^ (n - 1))
      let smax : Int := 2 ^ (n - 1) - 1
      let umax : Int := 2 ^ n - 1
      let cs (r : Int) : Word := (BitVec.ofInt n (max smin (min smax r))).signExtend 64
      let cu (r : Int) : Word := (BitVec.ofInt n (max 0 (min umax r))).signExtend 64
      aluRes 1 w 1 x y = cs (a.toInt + b.toInt) ∧ aluRes 2 w 1 x y = cs (a.toInt - b.toInt) ∧
      aluRes 3 w 1 x y = cs (a.toInt * b.toInt) ∧ aluRes 16 w 1 x y = cs (a.toInt * 2 ^ s) ∧
      aluRes 1 w 2 x y = cu ((a.toNat : Int) + b.toNat) ∧ aluRes 2 w 2 x y = cu ((a.toNat : Int) - b.toNat) ∧
      aluRes 3 w 2 x y = cu ((a.toNat : Int) * b.toNat) ∧ aluRes 16 w 2 x y = cu ((a.toNat : Int) * 2 ^ s) ∧
      ∀ op sat, op ≠ 1 → op ≠ 2 → op ≠ 3 → op ≠ 6 → op ≠ 16 → sat < 3 → aluRes op w sat x y = aluRes op w 0 x y) ∧
  (∀ (ty : Nat), ty ∈ [0, 1, 2, 4, 5, 6] → ∀ (a b c : Nat),
      let w := tyBits ty
      let x : BitVec w := BitVec.ofNat w a
      let y : BitVec w := BitVec.ofNat w b
      let s := b % w
      let uns := decide (4 ≤ ty)
      vintRes 1 ty 0 a b c = (x + y).toNat ∧ vintRes 2 ty 0 a b c = (x - y).toNat ∧ vintRes 3 ty 0 a b c = (x * y).toNat ∧
      vintRes 4 ty 0 a b c =
        (if uns then BitVec.ofNat w (x.toNat * y.toNat / 2 ^ w) else BitVec.ofInt w (x.toInt * y.toInt / 2 ^ w)).toNat ∧
      vintRes 5 ty 0 a b c = (if (if uns then x.ult y else x.slt y) then x else y).toNat ∧
      vintRes 6 ty 0 a b c = (if (if uns then x.ult y else x.slt y) then y else x).toNat ∧
      vintRes 1 ty 1 a b c = (BitVec.ofInt w (max (-(2 ^ (w - 1))) (min (2 ^ (w - 1) - 1) (x.toInt + y.toInt)))).toNat ∧
      vintRes 1 ty 2 a b c = min (2 ^ w - 1) (x.toNat + y.toNat) ∧
      vintRes 2 ty 2 a b c = x.toNat - y.toNat ∧
      (a < 2 ^ w → shiftLane 1 ty 0 a b = (x <<< s).toNat ∧ shiftLane 2 ty 0 a b = (x >>> s).toNat ∧
        shiftLane 3 ty 0 a b = (x.sshiftRight s).toNat))

/-- R235: division truncates toward zero, a remainder takes the sign of the dividend, the edge cases are those of the
table, no other saturation setting changes them, and the eight instructions retire, never trapping on their operands. -/
def Obligations.DivisionRule : Prop :=
  (∀ (w : BitVec 2) (sat : Nat) (x y : Word), sat < 3 →
    let n := widthOf w
    let a : BitVec n := x.setWidth n
    let b : BitVec n := y.setWidth n
    let least : Int := -(2 ^ (n - 1))
    (b ≠ 0 → ¬(a.toInt = least ∧ b.toInt = -1) → aluRes 6 w sat x y = (BitVec.ofInt n (a.toInt.tdiv b.toInt)).signExtend 64) ∧
    (b ≠ 0 → aluRes 7 w sat x y = (BitVec.ofNat n (a.toNat / b.toNat)).setWidth 64) ∧
    (b ≠ 0 → ¬(a.toInt = least ∧ b.toInt = -1) → aluRes 8 w sat x y = (BitVec.ofInt n (a.toInt.tmod b.toInt)).signExtend 64) ∧
    (b ≠ 0 → aluRes 9 w sat x y = (BitVec.ofNat n (a.toNat % b.toNat)).setWidth 64) ∧
    (b = 0 → aluRes 6 w sat x y = BitVec.allOnes 64 ∧ aluRes 7 w sat x y = (BitVec.allOnes n).setWidth 64 ∧
      aluRes 8 w sat x y = a.signExtend 64 ∧ aluRes 9 w sat x y = a.setWidth 64) ∧
    (a.toInt = least → b.toInt = -1 →
      aluRes 6 w sat x y = (BitVec.ofInt n (if sat = 1 then 2 ^ (n - 1) - 1 else least)).signExtend 64 ∧
      aluRes 8 w sat x y = 0#64)) ∧
  (∀ (i : Instr) (f : State → Word) (s : State), divides i = true → scalarValue i = some f → runs i s = true →
    ∃ t, exec i s = .next t ∧ Done s t ∧ GaveS i .d (f s) s t)

/-! ### Control transfers and NOP -/

/-- R301: the branches and jumps go to the instruction's address plus four times the signed offset, or on to the next
word; JL links.

R301, R261: JLR and RET go to a register's address, computed before the link is written; with a target whose two low
bits are not zero they take the misalignment trap, whose addr is the target (log 13).

Completes (exec answers a next state, for every state and operands that meet conditions on them alone): br, brLong, j, jLong,
jl, jlLong, jlr, jlrLong, ret. -/
def Obligations.BranchesAndTargets : Prop :=
  (∀ (i : Instr) (s : State), runs i s = true →
      (∀ neg pn target, branchForm i = some (neg, pn, target) →
        ∃ t, exec i s = .next t ∧
          Retired (if (readP (cur s) pn s).getLsbD 0 != neg then target s else s.issue.npc) s t ∧ Frame i s t) ∧
      (∀ target, linkForm i = some target →
        ∃ t, exec i s = .next t ∧ Retired (target s) s t ∧ GaveS i .d (s.issue.npc.setWidth 64) s t)) ∧
  (∀ (i : Instr) (link : Bool) (target : State → Word) (s : State), registerForm i = some (link, target) → runs i s = true →
      ((target s).toNat % 4 = 0 →
        ∃ t, exec i s = .next t ∧ Retired ((target s).setWidth 56) s t ∧ Frame i s t ∧
          (link = true → GaveS i .d (s.issue.npc.setWidth 64) s t)) ∧
      ((target s).toNat % 4 ≠ 0 → exec i s = .next (trapFull 4 0 (target s) 0 0 s)))

/-- R302: LOOP counts its register down while it is not zero, and branches while it stays nonzero; s0 as its counter is an
illegal instruction of cause 1.

Completes (exec answers a next state, for every state and operands that meet conditions on them alone): loop, loopLong. -/
def Obligations.LoopRule : Prop :=
  (∀ ext imm imm', decodeFault (.loop ext 0 imm) = some 1#8 ∧ decodeFault (.loopLong ext 0 imm') = some 1#8) ∧
  ∀ (i : Instr) (rd : BitVec 5) (target : State → BitVec 56) (s : State), loopForm i = some (rd, target) → runs i s = true →
    ∃ t, exec i s = .next t ∧
      (readS (cur s) rd s = 0#64 → readS (cur s) rd t = 0#64 ∧ Done s t) ∧
      (readS (cur s) rd s ≠ 0#64 → readS (cur s) rd t = readS (cur s) rd s - 1#64 ∧
        Retired (if readS (cur s) rd s = 1#64 then s.issue.npc else target s) s t)

/-- R306: NOP does nothing for one turn.

Completes (exec answers a next state, for every state and operands that meet conditions on them alone): nop. -/
def Obligations.NopDoesNothing : Prop :=
  ∀ s, runs .nop s = true → ∃ t, exec .nop s = .next t ∧ Done s t ∧ Frame .nop s t ∧ (∀ c < 72, fullBit (cur s) c t = fullBit (cur s) c s)

/-! ### Floating scalars, control registers -/

/-- R246, R247, R249, R361, R362, R364, R365: a floating scalar instruction gives its rounded value, ORs its flags into
FCSR, and takes one output of its core's generator where it rounds in the stochastic mode.

Completes (exec answers a next state, for every state and operands that meet conditions on them alone): fadd, fsub, fmul,
fdiv, fsqrt, fmin, fmax, ffma, fcvt. -/
def Obligations.FloatScalarResult : Prop :=
  ∀ (i : Instr) (draws : Bool) (p : Pfx) (f : Md → State → Word × Fl) (s : State),
    floatValue i = some (draws, p, f) → runs i s = true →
    let g := rngOf s.issue.core s
    let r := f (laneMd draws (curMd p s) g) s
    ∃ t, exec i s = .next t ∧ Done s t ∧ GaveS i .d r.1 s t ∧ Raised r.2 s t ∧
      rngOf s.issue.core t = (if draws = true ∧ (curMd p s).rm = 5 then xorshift g else g)

/-- R278, R307: the control registers are read, written and exchanged at the levels of R278; a level too low takes the
privilege trap with the number in info1.

Completes (exec answers a next state, for every state and operands that meet conditions on them alone): csrr, csrw, csrx. -/
def Obligations.ControlRegisters : Prop :=
  ∀ (s : State),
    (∀ p rd csr, runs (.csrr p rd csr) s = true →
      (csr = 0x010#12 → hdrDmode (cur s) s = false) →
      ∃ t, exec (.csrr p rd csr) s = .next t ∧ Done s t ∧ GaveS (.csrr p rd csr) .d (csrValue csr.toNat s) s t) ∧
    (∀ p ra csr, runs (.csrw p ra csr) s = true →
      ∃ t, exec (.csrw p ra csr) s = .next t ∧ Done s t ∧ CsrWritten csr (srcS (.csrw p ra csr) .a s) s t) ∧
    (∀ p rd ra csr, runs (.csrx p rd ra csr) s = true →
      (csr = 0x010#12 → hdrDmode (cur s) s = false) →
      ∃ t, exec (.csrx p rd ra csr) s = .next t ∧ Done s t ∧ GaveS (.csrx p rd ra csr) .d (csrValue csr.toNat s) s t ∧
        CsrWritten csr (srcS (.csrx p rd ra csr) .a s) s t) ∧
    (∀ i csr, judged i s = true → 0x100 ≤ csr.toNat → hdrPriv (cur s) s = 0 → (operands i).p.notag = false →
      (∃ p r, i = .csrr p r csr ∨ i = .csrw p r csr ∨ ∃ r', i = .csrx p r r' csr) →
      operable i s = false ∧ exec i s = .next (trapFull 3 1 0 (BitVec.ofNat 64 csr.toNat) 0 s))

/-! ### Vector instructions -/

/-- R339, R340, R342 to R347, R352, R354, R357, R358, R360: a lane-wise instruction computes its active lanes in
ascending order, keeps the others, ORs the active lanes' flags, and draws once for each active lane it rounds.

Completes (exec answers a next state, for every state and operands that meet conditions on them alone): vadd, vsub, vmul,
vmulh, vfma, vfms, vfnma, vmin, vmax, vabs, vneg, vrcp, vrsq, vexp2, vlog2, vsqrt, vand, vor, vxor, vlogt, vshl, vshr, vsar,
vbcst, vperm, vshuf, vsld, vdot4, vlut, vdqnt, vdiv. -/
def Obligations.LanewiseResult : Prop :=
  ∀ (i : Instr) (n : LaneForm) (s : State), laneForm i = some n → runs i s = true →
    ∃ t v, exec i s = .next t ∧ Done s t ∧ GaveV i v s t ∧
      (∀ j < 1024 / n.w, laneAt n.w v.toNat j = laneResult i n s j) ∧ Raised (laneFlags n s) s t ∧
      rngOf s.issue.core t =
        (if n.draws = true ∧ (curMd n.p s).rm = 5 then
          genAfter (readP (cur s) n.pred.toNat s) 0 (rngOf s.issue.core s) (1024 / n.w) else rngOf s.issue.core s)

/-- R348, R364: VCMP and FCMP write a predicate; VCMP's bit j is the condition on lane 32·part + j where the mask is 1, and
0 elsewhere.

R349, R353: VSEL takes each lane from one of two sources; VMOVS writes one lane and keeps the others.

Completes (exec answers a next state, for every state and operands that meet conditions on them alone): vcmp, vsel,
vmovsToLane, fcmp. -/
def Obligations.VectorCompareAndSelect : Prop :=
  ((∀ p pred ty cond rd ra rb part s,
      let i : Instr := .vcmp p pred ty cond rd ra rb part
      let w := laneBits ty
      let md := curMd p s
      let r (j : Nat) : Bool × Fl :=
        let a := laneAt w (srcV i .a s).toNat (32 * part.toNat + j)
        let b := laneAt w (srcV i .b s).toNat (32 * part.toNat + j)
        if ty.toNat < 8 then (cmpIntV cond.toNat (rdInt (tyBits ty.toNat) (tyUns ty.toNat) a) (rdInt (tyBits ty.toNat) (tyUns ty.toNat) b), 0#5)
        else cmpFloat ty.toNat cond.toNat md a b
      let on (j : Nat) : Bool := active (readP (cur s) pred.toNat s) j
      runs i s = true →
      ∃ t v, exec i s = .next t ∧ Done s t ∧ GaveP i v s t ∧ (∀ j < 32, v.getLsbD j = (on j && (r j).1)) ∧
        Raised ((List.range 32).foldl (fun fl j => if on j then fl ||| (r j).2 else fl) 0#5) s t) ∧
    (∀ p cond ty rd ra rb s,
      let i : Instr := .fcmp p cond ty rd ra rb
      let r := cmpFloat ty.toNat cond.toNat (curMd p s) (srcS i .a s).toNat (srcS i .b s).toNat
      runs i s = true → ∃ t, exec i s = .next t ∧ Done s t ∧ GaveP i (predOfBool r.1) s t ∧ Raised r.2 s t)) ∧
  ((∀ p pred ty rd ra rb s,
      let i : Instr := .vsel p pred ty rd ra rb
      let w := laneBits ty
      runs i s = true →
      ∃ t v, exec i s = .next t ∧ Done s t ∧ GaveV i v s t ∧ ∀ j < laneCount ty, laneAt w v.toNat j =
        (if (readP (cur s) pred.toNat s).getLsbD (j % 32) then laneAt w (srcV i .a s).toNat j else laneAt w (srcV i .b s).toNat j)) ∧
    (∀ p ty rd ra rb s,
      let i : Instr := .vmovsToLane p ty rd ra rb
      let w := laneBits ty
      runs i s = true →
      ∃ t v, exec i s = .next t ∧ Done s t ∧ GaveV i v s t ∧ ∀ j < laneCount ty, laneAt w v.toNat j =
        (if j = (srcS i .b s).toNat % laneCount ty then (srcS i .a s).toNat % 2 ^ w else laneAt w (oldV i s).toNat j)))

/-- R350, R351: VCVT converts the lanes of one part of the source into the lanes of one part of the destination; lanes that
the predicate masks, and lanes outside the part, are kept.

R255, R359: VQNT writes the codes of one block and its scale; an inactive element's code is 0.

Completes (exec answers a next state, for every state and operands that meet conditions on them alone): vcvt, vqnt. -/
def Obligations.VectorConvertAndQuantise : Prop :=
  (∀ p pred ty rd ra dpart spart sty s,
      let i : Instr := .vcvt p pred ty rd ra dpart spart sty
      let n := convLanes sty ty
      let base := dpart.toNat * n
      let pm := readP (cur s) pred.toNat s
      let g := rngOf s.issue.core s
      let draws := !(exactPair sty.toNat ty.toNat) && !(tyInt sty.toNat && tyInt ty.toNat)
      let r (j : Nat) : Nat × Fl := convert sty.toNat ty.toNat (laneMd draws (curMd p s) (genAfter pm base g j)) (intSat p)
        (laneAt (laneBits sty) (srcV i .a s).toNat (spart.toNat * n + j))
      runs i s = true →
      ∃ t v, exec i s = .next t ∧ Done s t ∧ GaveV i v s t ∧
        (∀ j < laneCount ty, laneAt (laneBits ty) v.toNat j =
          (if base ≤ j ∧ j < base + n ∧ active pm j = true then (r (j - base)).1 % 2 ^ laneBits ty
           else laneAt (laneBits ty) (oldV i s).toNat j)) ∧
        Raised ((List.range n).foldl (fun fl j => if active pm (base + j) then fl ||| (r j).2 else fl) 0#5) s t) ∧
  (∀ p pred ty rd ra rb s,
      let i : Instr := .vqnt p pred ty rd ra rb
      let pm := readP (cur s) pred.toNat s
      let r := quantise ty.toNat (curMd p s) pm (lanesOf 32 32 (srcV i .a s).toNat) (rngOf s.issue.core s)
      runs i s = true →
      ∃ t v, exec i s = .next t ∧ Done s t ∧ Raised r.2.2.1 s t ∧
        (∀ j < 32, laneAt (tyBits ty.toNat) v.toNat j = r.2.1.getD j 0 % 2 ^ tyBits ty.toNat) ∧
        ((clsOf i .d = 1#2 ∧ clsOf i .b = 1#2 ∧ rd = rb →
          (streamAt (cur s) rd.toNat t).buf = (streamAt (cur s) rd.toNat s).buf ++ toBytes 128 v.toNat ++
            toBytes (2 ^ (streamAt (cur s) rd.toNat s).esz) r.1)) ∧
        (¬(clsOf i .d = 1#2 ∧ clsOf i .b = 1#2 ∧ rd = rb) → GaveV i v s t ∧ GaveS i .b (BitVec.ofNat 64 r.1) s t) ∧
        (∀ j < 32, active pm j = false → r.1 ≠ 255 → laneAt (tyBits ty.toNat) v.toNat j = 0))

/-- R355, R356: integer reductions and scans over the active lanes, in any type; floating ones in the order of R356, with
their flags.

Completes (exec answers a next state, for every state and operands that meet conditions on them alone): vred, vscan. -/
def Obligations.ReductionsAndScans : Prop :=
  (∀ p pred ty rd ra rop s,
    let i : Instr := .vred p pred ty rd ra rop
    let pm := readP (cur s) pred.toNat s
    let x := srcV i .a s
    let r := if ty.toNat < 8 then (intReduce rop.toNat ty (intSat p) (activeList (laneBits ty) pm x (laneCount ty)), 0#5)
      else ((redLanes rop.toNat ty p pm x s).1, (redLanes rop.toNat ty p pm x s).2.1)
    runs i s = true →
    ∃ t, exec i s = .next t ∧ Done s t ∧ Raised r.2 s t ∧
      GaveS i .d (if ty.toNat ≤ 2 then sext64 (laneBits ty) r.1 else zext64 (laneBits ty) r.1) s t) ∧
  (∀ p pred ty rd ra rop s,
    let i : Instr := .vscan p pred ty rd ra rop
    let w := laneBits ty
    let pm := readP (cur s) pred.toNat s
    let x := srcV i .a s
    runs i s = true →
    ∃ t v, exec i s = .next t ∧ Done s t ∧ GaveV i v s t ∧
      (ty.toNat < 8 → ∀ j < laneCount ty, laneAt w v.toNat j =
        (if active pm j then intReduce rop.toNat ty (intSat p) (activeList w pm x (j + 1)) else laneAt w (oldV i s).toNat j)) ∧
      (8 ≤ ty.toNat → v = BitVec.ofNat 1024 (ofLanes w (scanLanes rop.toNat ty p pm x (oldV i s) s).1) ∧
        Raised (scanLanes rop.toNat ty p pm x (oldV i s) s).2.1 s t))

/-! ### Loads and stores -/

/-- R308 to R311, R315, R160: a load that its checks place in the scratchpad gives its bytes, extended, with the base
advanced in the post form, and changes no byte.

R308 to R311, R315, R160: a store that its checks place in the scratchpad writes exactly its bytes; a release first
waits for the earlier accesses of its scope.

Completes (exec answers a next state, for every state and operands that meet conditions on them alone): ld, ldLong, st,
stLong, ldv, ldvLong, stv, stvLong, lda, ldaLong, stl, stlLong. -/
def Obligations.ScratchpadLoadsAndStores : Prop :=
  ((∀ (i : Instr) (f : AccessForm) (sx wait : Bool) (off : Nat) (s : State), loadForm i = some (f, sx, wait) → runs i s = true →
      ToPad ⟨f.n, f.n, .read, tagged f.p, true⟩ (f.ea s) off s → spadErrAt s.issue.core off f.n s = false →
      ∃ t, exec i s = .next t ∧ Done s t ∧ BaseMoved f s t ∧ SameBytes s t ∧
        GaveS i .d (if sx then sext64 (8 * f.n) (spadVal s.issue.core off f.n s) else BitVec.ofNat 64 (spadVal s.issue.core off f.n s)) s t) ∧
    (∀ (i : Instr) (f : AccessForm) (off : Nat) (s : State), vectorLoadForm i = some f → runs i s = true →
      ToPad ⟨f.n, f.n, .read, tagged f.p, true⟩ (f.ea s) off s → spadErrAt s.issue.core off f.n s = false →
      ∃ t, exec i s = .next t ∧ Done s t ∧ BaseMoved f s t ∧ SameBytes s t ∧
        GaveV i (BitVec.ofNat 1024 (spadVal s.issue.core off f.n s)) s t)) ∧
  (∀ (i : Instr) (f : AccessForm) (data : State → Nat) (scope : Option Nat) (off : Nat) (s : State),
      storeForm i = some (f, data, scope) → runs i s = true → Memory.wf s.spad = true →
      ToPad ⟨f.n, f.n, .write, tagged f.p, true⟩ (f.ea s) off s →
      (∀ sc, scope = some sc → domainBusy (cur s) sc true true s = false) →
      ∃ t, exec i s = .next t ∧ Done s t ∧ BaseMoved f s t ∧
        (spadErrAt s.issue.core off f.n s = false → PadWritten s.issue.core off f.n (data s) s t))

/-- R194, R206, R309, R319: a load from memory retires when its request has gone out, its register pending and the loads
count one higher; one that must have its data first gives it when the replies have come.

R206, R309, R315: a store to memory retires when its requests have gone out, the stores count one higher and no byte
changed yet; a release, or a store on a tag-checked page, retires when the replies have come.

Completes (exec answers a next state, for every state and operands that meet conditions on them alone): ld, ldLong, st,
stLong, ldv, ldvLong, stv, stvLong, lda, ldaLong, stl, stlLong. -/
def Obligations.MemoryLoadsAndStores : Prop :=
  ((∀ (i : Instr) (f : AccessForm) (sx wait : Bool) (pa : Nat) (s : State), loadForm i = some (f, sx, wait) → runs i s = true →
      ToMemory true ⟨f.n, f.n, .read, tagged f.p, true⟩ (f.ea s) pa false s → wait = false → mustWait i s = false →
      ∃ t, exec i s = .next t ∧ Done s t ∧ BaseMoved f s t ∧ SameBytes s t ∧
        (strandAt (cur s) t).loads = (strandAt (cur s) s).loads + 1 ∧
        (strandAt (cur s) t).pending = (strandAt (cur s) s).pending ++ (pendCode i).toList ∧
        ∃ e ∈ t.reqs, e.2.vf = s.issue.vf ∧ e.2.ctx = s.issue.ctx ∧ e.2.kind = 0#4 ∧ e.2.pa = BitVec.ofNat 52 pa) ∧
    (∀ (i : Instr) (f : AccessForm) (sx wait : Bool) (g : Nat) (s : State), loadForm i = some (f, sx, wait) → runs i s = true →
      Answered g s →
      ∃ t, exec i s = .next t ∧ Done s t ∧ BaseMoved f s t ∧ SameBytes s t ∧
        GaveS i .d (if sx then sext64 (8 * f.n) (groupValue g s) else BitVec.ofNat 64 (groupValue g s)) s t) ∧
    (∀ (i : Instr) (f : AccessForm) (g : Nat) (s : State), vectorLoadForm i = some f → runs i s = true → Answered g s →
      ∃ t, exec i s = .next t ∧ Done s t ∧ BaseMoved f s t ∧ SameBytes s t ∧ GaveV i (BitVec.ofNat 1024 (groupValue g s)) s t)) ∧
  ((∀ (i : Instr) (f : AccessForm) (data : State → Nat) (pa : Nat) (s : State),
      storeForm i = some (f, data, none) → runs i s = true →
      ToMemory false ⟨f.n, f.n, .write, tagged f.p, true⟩ (f.ea s) pa false s →
      ∃ t, exec i s = .next t ∧ Done s t ∧ BaseMoved f s t ∧ SameBytes s t ∧
        (strandAt (cur s) t).stores = (strandAt (cur s) s).stores + 1 ∧
        ∃ e ∈ t.reqs, e.2.vf = s.issue.vf ∧ e.2.ctx = s.issue.ctx ∧ e.2.kind = 1#4 ∧ e.2.pa = BitVec.ofNat 52 pa) ∧
    (∀ (i : Instr) (f : AccessForm) (data : State → Nat) (scope : Option Nat) (g : Nat) (s : State),
      storeForm i = some (f, data, scope) → runs i s = true → Answered g s → (∀ e ∈ groupReqs g s, e.2.tagop = false) →
      ∃ t, exec i s = .next t ∧ Done s t ∧ BaseMoved f s t ∧ SameBytes s t))

/-- R312: a gather whose active lanes all lie in the scratchpad gives each its four bytes, keeps the other lanes and
leaves the register full; a scatter writes each active lane, the highest of several at one address staying.

R159, R314: LDB and STB check the index and the descriptor, then access one element; an index, descriptor or
permission that fails takes the bounds trap with the index and the count.

Completes (exec answers a next state, for every state and operands that meet conditions on them alone): ldg, stx, ldb, stb. -/
def Obligations.GatheredAndBoundedAccess : Prop :=
  ((∀ p pred ty rd ra rb (off : Nat → Nat) s,
      let i : Instr := .ldg p pred ty rd ra rb
      runs i s = true → answer s = none →
      (∀ e ∈ laneAddrs i pred s, check ⟨4, 4, .read, tagged p, true⟩ e.2 s = .pad (off e.1) ∧
        spadErrAt s.issue.core (off e.1) 4 s = false) →
      ∃ t v, exec i s = .next t ∧ Done s t ∧ SameBytes s t ∧
        (∀ j < 32, laneAt 32 v.toNat j =
          (if (readP (cur s) pred.toNat s).getLsbD j then spadVal s.issue.core (off j) 4 s else laneAt 32 (oldV i s).toNat j)) ∧
        (clsOf i .d = 1#2 → (streamAt (cur s) rd.toNat t).buf = (streamAt (cur s) rd.toNat s).buf ++ toBytes 128 v.toNat) ∧
        (clsOf i .d ≠ 1#2 → readV (cur s) rd t = v ∧ fullBit (cur s) (codeV rd) t = true)) ∧
    (∀ p pred ty rd ra rb (off : Nat → Nat) s,
      let i : Instr := .stx p pred ty rd ra rb
      let on (j : Nat) : Bool := decide (j < 32) && (readP (cur s) pred.toNat s).getLsbD j
      runs i s = true → Memory.wf s.spad = true → answer s = none →
      (∀ e ∈ laneAddrs i pred s, check ⟨4, 4, .write, tagged p, true⟩ e.2 s = .pad (off e.1) ∧
        spadErrAt s.issue.core (off e.1) 4 s = false) →
      ∃ t, exec i s = .next t ∧ Done s t ∧ (∀ key a, memByte key a t = memByte key a s) ∧
        (∀ j, on j = true → (∀ k, j < k → on k = true → off k ≠ off j) →
          spadVal s.issue.core (off j) 4 t = laneAt 32 (srcV i .d s).toNat j) ∧
        (∀ c o, o < 2 ^ 21 → (∀ j, on j = true → ¬(c = s.issue.core ∧ off j ≤ o ∧ o < off j + 4)) →
          spadByte c o t = spadByte c o s))) ∧
  ((∀ p zx rd ra rb off a e s,
      let i : Instr := .ldb p zx rd ra rb
      let n := 2 ^ e
      runs i s = true → boundsCheck (readS (cur s) ra s) (readS (cur s) (ra + 1#5) s) (srcS i .b s) false = .ok (a, e) →
      ToPad ⟨n, n, .read, tagged p, true⟩ a off s → spadErrAt s.issue.core off n s = false →
      ∃ t, exec i s = .next t ∧ Done s t ∧ SameBytes s t ∧
        GaveS i .d (if zx = 0#1 then sext64 (8 * n) (spadVal s.issue.core off n s) else BitVec.ofNat 64 (spadVal s.issue.core off n s)) s t) ∧
    (∀ p rd ra rb off a e s,
      let i : Instr := .stb p rd ra rb
      let n := 2 ^ e
      runs i s = true → Memory.wf s.spad = true → boundsCheck (readS (cur s) ra s) (readS (cur s) (ra + 1#5) s) (srcS i .b s) true = .ok (a, e) →
      ToPad ⟨n, n, .write, tagged p, true⟩ a off s → spadErrAt s.issue.core off n s = false →
      ∃ t, exec i s = .next t ∧ Done s t ∧ PadWritten s.issue.core off n (bitsN (srcS i .d s) 0 (8 * n)) s t) ∧
    (∀ i ra store c s, ((∃ p zx rd rb, i = .ldb p zx rd ra rb) ∧ store = false ∨ (∃ p rd rb, i = .stb p rd ra rb) ∧ store = true) →
      runs i s = true → boundsCheck (readS (cur s) ra s) (readS (cur s) (ra + 1#5) s) (srcS i .b s) store = .error c →
      exec i s = .next (trapFull 6 c 0 (srcS i .b s) (BitVec.ofNat 64 (bitsN (readS (cur s) (ra + 1#5) s) 0 40)) s)))

/-- R316 to R319: full/empty accesses of a scratchpad word: LDE takes a full word and empties it, FER leaves it full, STF
fills an empty one, FEW writes any; LDE and FER of an empty word, and STF of a full one, stall with hold 2.

Completes (exec answers a next state, for every state and operands that meet conditions on them alone): lde, ldeLong, stf,
stfLong, few, fewLong, fer, ferLong. -/
def Obligations.FullEmptyAccess : Prop :=
  ∀ (i : Instr) (op : Nat) (p : Pfx) (ea : State → Word) (off : Nat) (s : State),
    fullEmptyForm i = some (op, p, ea) → runs i s = true → Memory.wf s.spad = true →
    ToPad ⟨8, 8, if op = 25 ∨ op = 26 then .write else .read, tagged p, false⟩ (ea s) off s →
    spadErrAt s.issue.core off 8 s = false →
    (op = 25 ∨ op = 26 → domainBusy (cur s) (feScope p (ea s) s) true true s = false) →
    let c := s.issue.core
    let full := spadFull c off s
    (op = 24 ∧ full = true → ∃ t, exec i s = .next t ∧ Done s t ∧ GaveS i .d (BitVec.ofNat 64 (spadVal c off 8 s)) s t ∧
      SameBytes s t ∧ spadFull c off t = false) ∧
    (op = 27 ∧ full = true → ∃ t, exec i s = .next t ∧ Done s t ∧ GaveS i .d (BitVec.ofNat 64 (spadVal c off 8 s)) s t ∧
      SameBytes s t ∧ spadFull c off t = true) ∧
    (op = 26 ∨ (op = 25 ∧ full = false) → ∃ t, exec i s = .next t ∧ Done s t ∧
      PadWritten c off 8 (srcS i .d s).toNat s t ∧ spadFull c off t = true) ∧
    ((op = 24 ∨ op = 27) ∧ full = false ∨ op = 25 ∧ full = true → exec i s = .next (stallWith 2 ((ea s).setWidth 56) s))

/-- R324: the new value of an atomic operation on n-bit words.

R323 to R325: an atomic on a scratchpad location gives the old value and leaves the new one, in one step; a compare
writes only on a match; RED has no result.

Completes (exec answers a next state, for every state and operands that meet conditions on them alone): amo, cas, red, amoI32,
casI32, redI32, casQ. -/
def Obligations.AtomicOperationsAndAccess : Prop :=
  (∀ n, n = 32 ∨ n = 64 → ∀ m b : BitVec n,
      atomNew 0 n m.toNat b.toNat = b.toNat ∧ atomNew 1 n m.toNat b.toNat = (m + b).toNat ∧
      atomNew 2 n m.toNat b.toNat = (m &&& b).toNat ∧ atomNew 3 n m.toNat b.toNat = (m ||| b).toNat ∧
      atomNew 4 n m.toNat b.toNat = (m ^^^ b).toNat ∧ atomNew 5 n m.toNat b.toNat = (if b.slt m then b else m).toNat ∧
      atomNew 6 n m.toNat b.toNat = (if m.slt b then b else m).toNat ∧
      atomNew 7 n m.toNat b.toNat = (if b.ult m then b else m).toNat ∧
      atomNew 8 n m.toNat b.toNat = (if m.ult b then b else m).toNat) ∧
  ((∀ (i : Instr) (op : Nat) (w32 noRet : Bool) (p : Pfx) (scope off : Nat) (s : State),
      atomicForm i = some (op, w32, noRet, p, scope) → runs i s = true → Memory.wf s.spad = true →
      let n := if w32 then 4 else 8
      ToPad ⟨n, n, .both, tagged p, false⟩ (srcS i .a s) off s → spadErrAt s.issue.core off n s = false →
      domainBusy (cur s) scope true true s = false → hdrDmode (cur s) s = false →
      let m := spadVal s.issue.core off n s
      let x := (srcS i .b s).toNat % 2 ^ (8 * n)
      ∃ t, exec i s = .next t ∧ Done s t ∧
        (noRet = false → GaveS i .d (if w32 then sext64 32 m else BitVec.ofNat 64 m) s t) ∧
        (op ≠ 16 → PadWritten s.issue.core off n (atomNew op (8 * n) m x) s t) ∧
        (op = 16 ∧ m = (srcS i .d s).toNat % 2 ^ (8 * n) → PadWritten s.issue.core off n x s t) ∧
        (op = 16 ∧ m ≠ (srcS i .d s).toNat % 2 ^ (8 * n) → SameBytes s t)) ∧
    (∀ p scope rd ra rb off s,
      let i : Instr := .casQ p scope rd ra rb
      let pair (r : BitVec 5) : Nat := (readS (cur s) r s).toNat + 2 ^ 64 * (readS (cur s) (r + 1#5) s).toNat
      runs i s = true → Memory.wf s.spad = true → ToPad ⟨16, 16, .both, tagged p, false⟩ (srcS i .a s) off s → spadErrAt s.issue.core off 16 s = false →
      domainBusy (cur s) scope.toNat true true s = false → hdrDmode (cur s) s = false →
      let m := spadVal s.issue.core off 16 s
      ∃ t, exec i s = .next t ∧ Done s t ∧
        readS (cur s) rd t = (if rd = 0#5 then 0#64 else BitVec.ofNat 64 m) ∧
        readS (cur s) (rd + 1#5) t = BitVec.ofNat 64 (m / 2 ^ 64) ∧
        (m = pair rd → PadWritten s.issue.core off 16 (pair rb) s t) ∧ (m ≠ pair rd → SameBytes s t)))

/-- R309, R321, R322: TAGLD of an aperture gives 0 and TAGST there changes nothing; of memory, TAGST's request goes out, TAGLD
gives the granule's tag when the reply has come and TAGST retires with it (log 12); TOUCH gives the number of the window that holds its address, or all
ones.

Completes (exec answers a next state, for every state and operands that meet conditions on them alone): touch, touchLong,
tagld, tagldLong, tagst, tagstLong. -/
def Obligations.TagsAndTouch : Prop :=
  (∀ (i : Instr) (load : Bool) (p : Pfx) (ea : State → Word) (s : State), tagForm i = some (load, p, ea) → runs i s = true →
    (answer s = none → inAperture (ea s) = true → checkFirst ⟨32, 32, if load then .read else .write, false, false⟩ (ea s) s = none →
      (∀ kd ca, whereIs s.issue.core s.issue.vf (ea s) s ≠ .fault kd ca) →
      ∃ t, exec i s = .next t ∧ Done s t ∧ SameBytes s t ∧ t.memTags = s.memTags ∧ (load = true → GaveS i .d 0 s t)) ∧
    (∀ g, Answered g s → ∃ t, exec i s = .next t ∧ Done s t ∧
      (load = true → GaveS i .d (BitVec.ofNat 64 (groupValue g s % 16)) s t)) ∧
    (∀ pa tc, load = false → inAperture (ea s) = false → ToMemory false ⟨32, 32, .write, false, false⟩ (ea s) pa tc s →
      ∃ t g, exec i s = .next t ∧ (strandAt (cur s) t).wait = .reply g ∧
        (strandAt (cur s) t).stores = (strandAt (cur s) s).stores + 1 ∧
        ∃ e ∈ t.reqs, e.2.grp = g ∧ e.2.tagop = true ∧ e.2.kind = 1#4 ∧ e.2.pa = BitVec.ofNat 52 pa ∧ e.2.data = BitVec.ofNat 128 (bitsN (srcS i .d s) 0 4))) ∧
  (∀ (i : Instr) (ea : State → Word) (s : State), touchForm i = some ea → runs i s = true →
    (touchedWindow (ea s) s = none → ∃ t, exec i s = .next t ∧ Done s t ∧ GaveS i .d (BitVec.allOnes 64) s t) ∧
    (∀ n, touchedWindow (ea s) s = some n → (windowAt s.issue.core n s).state ≠ 0#2 →
      ∃ t, exec i s = .next t ∧ Done s t ∧ GaveS i .d (BitVec.ofNat 64 n) s t) ∧
    (∀ n u, touchedWindow (ea s) s = some n → (windowAt s.issue.core n s).state = 0#2 →
      startWindow (cur s) s.issue.core n false s = .started u →
      exec i s = .next (retire (dstS i .d (BitVec.ofNat 64 n) (consume i u)))))

/-! ### Ordering, barriers, messages -/

/-- R327, R328: FENCE waits while an earlier access of its kinds and domain is open, then retires; kind code drops the
function's lines of the core's instruction cache.

R206, R333: WAITC retires when the four counts are within its limits, and stalls with hold 3 while one is not.

R109, R334, R335: MSND sends once, waits, and retires when the buffer has accepted; MRCV takes the message its form
names out of the buffer, with its value and, unnamed, its sender, and stalls while there is none.

Completes (exec answers a next state, for every state and operands that meet conditions on them alone): fence, waitc, msnd,
mrcv, mrcvFrom. -/
def Obligations.FencesCountersAndMessages : Prop :=
  (∀ p scope kinds s,
      let i : Instr := .fence p scope kinds
      let loads := kinds.getLsbD 0 || kinds.getLsbD 1 || kinds.getLsbD 4
      let stores := kinds.getLsbD 2 || kinds.getLsbD 3 || kinds.getLsbD 4 || kinds.getLsbD 5
      runs i s = true →
      (domainBusy (cur s) scope.toNat loads stores s = true → exec i s = .next (flushStreams (cur s) s)) ∧
      (domainBusy (cur s) scope.toNat loads stores s = false →
        ∃ t, exec i s = .next t ∧ Done s t ∧ SameRegs i s t ∧ SameBytes s t ∧
          (coreAt s.issue.core t).icache =
            (if kinds.getLsbD 5 then (coreAt s.issue.core s).icache.filter (fun l => l.vf != s.issue.vf)
             else (coreAt s.issue.core s).icache))) ∧
  (∀ p t c st l s, runs (.waitc p t c st l) s = true → countFault (cur s) s = none →
      ((strandAt (cur s) s).loads ≤ l.toNat ∧ (strandAt (cur s) s).stores ≤ st.toNat ∧ copyCount (cur s) s ≤ c.toNat ∧
        tileCount (cur s) s ≤ t.toNat → ∃ u, exec (.waitc p t c st l) s = .next u ∧ Done s u ∧ SameRegs (.waitc p t c st l) s u ∧ SameBytes s u) ∧
      (¬((strandAt (cur s) s).loads ≤ l.toNat ∧ (strandAt (cur s) s).stores ≤ st.toNat ∧ copyCount (cur s) s ≤ c.toNat ∧
        tileCount (cur s) s ≤ t.toNat) → exec (.waitc p t c st l) s = .next (stallWith 3 s.issue.ctx s))) ∧
  ((∀ p ra rb s, runs (.msnd p ra rb) s = true →
      (∀ id v st, (curStrand s).wait = .answered id v st → ∃ t, exec (.msnd p ra rb) s = .next t ∧ Done s t) ∧
      (∀ l, (∀ id v st, (curStrand s).wait ≠ .answered id v st) → launchOf (cur s) s = some l →
        indexOk (cur s) (srcS (.msnd p ra rb) .a s).toNat s = true →
        ∃ t m, exec (.msnd p ra rb) s = .next t ∧ (strandAt (cur s) t).wait = .message s.nextId ∧
          tfind t.tmsgs s.nextId = some m ∧ m.kind = .mail ∧ m.id = (srcS (.msnd p ra rb) .a s).toNat ∧
          m.data.head? = some (srcS (.msnd p ra rb) .b s))) ∧
    (∀ p rd ra s,
      let i : Instr := .mrcvFrom p rd ra
      let idx := (srcS i .a s).toNat
      runs i s = true → indexOk (cur s) idx s = true →
      (∀ c m, findMsg (cur s) (some idx) s = some (c, m) → ∃ t, exec i s = .next t ∧ Done s t ∧ GaveS i .d m.value s t ∧
        (coreAt c t).msgs = (coreAt c s).msgs.erase m) ∧
      (findMsg (cur s) (some idx) s = none → exec i s = .next (stallWith 2 s.issue.ctx s))) ∧
    (∀ p rd ra s,
      let i : Instr := .mrcv p rd ra
      runs i s = true → hdrDmode (cur s) s = false →
      (∀ c m, findMsg (cur s) none s = some (c, m) → ∃ t, exec i s = .next t ∧ Done s t ∧
        (rd ≠ ra ∨ clsOf i .d ≠ clsOf i .a → GaveS i .d m.value s t) ∧
        (clsOf i .a ≠ 1#2 → GaveS i .a (BitVec.ofNat 64 m.src) s t) ∧ (coreAt c t).msgs = (coreAt c s).msgs.erase m) ∧
      (findMsg (cur s) none s = none → exec i s = .next (stallWith 2 s.issue.ctx s))))

/-- R89, R90, R329, R330: arming a level barrier, arriving and waiting, arriving with a token, waiting for the token's
phase to end; level strand completes at once; a barrier of another function is barred.

R183, R184, R331, R332: transaction barriers in the scratchpad: TBI writes the object, TBA arrives, TBW waits while the
phase is the token's and traps on an overrun, TBT tests.

Completes (exec answers a next state, for every state and operands that meet conditions on them alone): bar, barArm, bara,
barw, tbi, tba, tbw, tbt. -/
def Obligations.BarrierInstructions : Prop :=
  ((∀ (i : Instr) (level : BitVec 3) (num : BitVec 4) (s : State), levelForm i = some (level, num) → runs i s = true →
      (level = 1#3 → domainBusy (cur s) 1 true true s = false → ∃ t, exec i s = .next t ∧ Done s t) ∧
      (level ≠ 1#3 → (∀ p ra, i ≠ .barArm p num level ra) → barrierBarred level.toNat (curBarrier num level s) false s = true →
        exec i s = .next (trapFull 3 3 0 0 0 s))) ∧
    (∀ p num level ra s, runs (.barArm p num level ra) s = true → level ≠ 1#3 →
      barrierBarred level.toNat (curBarrier num level s) true s = false →
      let n := (srcS (.barArm p num level ra) .a s).toNat
      1 ≤ n → n < 2 ^ 24 → ∃ t, exec (.barArm p num level ra) s = .next t ∧ Done s t ∧
        (barrierAt (curBarrier num level s) t).armed = true ∧ (barrierAt (curBarrier num level s) t).vf = s.issue.vf ∧
        (barrierAt (curBarrier num level s) t).initial = n ∧ (barrierAt (curBarrier num level s) t).pending = n ∧
        (barrierAt (curBarrier num level s) t).phase = (barrierAt (curBarrier num level s) s).phase) ∧
    (∀ p num level s, runs (.bar p num level) s = true → level ≠ 1#3 →
      barrierBarred level.toNat (curBarrier num level s) false s = false → domainBusy (cur s) level.toNat true true s = false →
      ∃ t, exec (.bar p num level) s = .next t ∧ Done s t ∧ Arrived (curBarrier num level s) s t ∧
        (strandAt (cur s) t).wait = .barrier (curBarrier num level s) (barrierAt (curBarrier num level s) s).phase) ∧
    (∀ p num level rd s, runs (.bara p num level rd) s = true → level ≠ 1#3 →
      barrierBarred level.toNat (curBarrier num level s) false s = false → domainBusy (cur s) level.toNat true true s = false →
      ∃ t, exec (.bara p num level rd) s = .next t ∧ Done s t ∧ Arrived (curBarrier num level s) s t ∧
        GaveS (.bara p num level rd) .d ((barrierAt (curBarrier num level s) s).phase.setWidth 64) s t) ∧
    (∀ p num level ra s, runs (.barw p num level ra) s = true → level ≠ 1#3 →
      barrierBarred level.toNat (curBarrier num level s) false s = false →
      let tok : BitVec 4 := (srcS (.barw p num level ra) .a s).setWidth 4
      ((barrierAt (curBarrier num level s) s).phase ≠ tok → ∃ t, exec (.barw p num level ra) s = .next t ∧ Done s t) ∧
      ((barrierAt (curBarrier num level s) s).phase = tok →
        exec (.barw p num level ra) s = .next (stallWith 4 (barrierObj (curBarrier num level s) tok) s)))) ∧
  (∀ (i : Instr) (op : Nat) (u : Use) (p : Pfx) (off : Nat) (s : State), barrierForm i = some (op, u, p) → runs i s = true →
      Memory.wf s.spad = true →
      ToPad ⟨16, 16, u, tagged p, false⟩ (srcS i .a s) off s → spadErrAt s.issue.core off 16 s = false →
      zeroRange op (srcS i .b s) = false → domainBusy (cur s) 5 true true s = false →
      let o : BitVec 128 := BitVec.ofNat 128 (spadVal s.issue.core off 16 s)
      let rb := srcS i .b s
      let o' := tbArrive (bitsN rb 0 20) (bitsN rb 20 36) o
      (op = 32 → ∃ t, exec i s = .next t ∧ Done s t ∧ PadWritten s.issue.core off 16 (tbInit rb).toNat s t) ∧
      (op = 33 → ∃ t, exec i s = .next t ∧ Done s t ∧ PadWritten s.issue.core off 16 o'.toNat s t ∧
        GaveS i .d (BitVec.ofNat 64 (tbPhase o + (if tbPhase o' ≠ tbPhase o then 16 else 0) + (if tbOvr o' then 32 else 0))) s t) ∧
      (op = 34 → tbOvr o = false → tbPhase o ≠ bitsN rb 0 4 → ∃ t, exec i s = .next t ∧ Done s t ∧ SameBytes s t ∧
        GaveS i .d (BitVec.ofNat 64 (tbwResult o)) s t) ∧
      (op = 34 → tbOvr o = false → tbPhase o = bitsN rb 0 4 → exec i s = .next (stallWith 4 ((srcS i .a s).setWidth 56) s)) ∧
      (op = 35 → ∃ t, exec i s = .next t ∧ Done s t ∧ SameBytes s t ∧
        GaveS i .d (BitVec.ofNat 64 (tbtResult (bitsN rb 0 4) o)) s t))

/-- R336, R337: FILL writes a register of another strand of its function and sets it full; a full register, without force,
makes it stall on the target.

Completes (exec answers a next state, for every state and operands that meet conditions on them alone): fill. -/
def Obligations.FillRule : Prop :=
  ∀ p rd ra rb force cls place u s,
    let i : Instr := .fill p rd ra rb force cls
    let a : BitVec 56 := (srcS i .a s).setWidth 56
    let k := sid s.issue.vf a
    let code := fillCode cls rd
    runs i s = true → a.toNat % 2 ^ 13 = 0 → domainBusy (cur s) 5 true true s = false →
    placeAt s.issue.core s.issue.vf (curPriv s) .write false (a.setWidth 64) 8 s = .at_ place →
    ¬((strandAt k s).run = .unborn ∨ (strandAt k s).run = .exited ∨ (strandAt k s).run = .lost) →
    openFill k (coreHall (strandAt k s).core) s = .ok u → hdrN k 5 56 7 u = s.issue.vf.toNat →
    ((strandAt k s).pending = [] ∨ k = cur s) → (k + 84 * 64 ≤ cur s ∨ cur s + 84 * 64 ≤ k ∨ (k = cur s ∧ syncCodes i = [])) →
    (force = 1#1 ∨ fullBit k code u = false → ∃ t, exec i s = .next t ∧ Done s t ∧ fullBit k code t = true ∧
      (cls = 0#2 → readS k rd t = srcS i .b u) ∧ (cls = 1#2 → readP k rd.toNat t = (srcS i .b u).setWidth 32) ∧
      (cls = 2#2 → readV k rd t = srcV i .b u)) ∧
    (force = 0#1 → fullBit k code u = true → exec i s = .next (stallWith 2 a u))

/-! ### Engines -/

/-- R371, R373, R374: TSUB enters an accepted record as a task, gives 0 and counts it, and gives the code of a refused
one; TQRY tells where a task stands; TCAN removes a queued one with code 13.

Completes (exec answers a next state, for every state and operands that meet conditions on them alone): tsub, tqry, tcan. -/
def Obligations.TileInstructions : Prop :=
  (∀ p rd ra s v u1 u2,
    let i : Instr := .tsub p rd ra
    let a := srcS i .a s
    let q := coreQuad s.issue.core
    let r : Rec := BitVec.ofNat 1024 v
    let code := recCode r (readGroups s.issue.core r u1)
    runs i s = true → bitsN a 0 7 = 0 → tileCount (cur s) s ≠ 63 → StructRead a 128 s v u1 →
    groupsErr s.issue.core r u1 = false →
    (∀ u3, code = 0 → findTask q s.issue.vf a u1 = none → (quadAt q u1).tiles.length < 64 →
      StructWritten (addrOff a 120) (rTail r 4) u1 u2 → openCounts (cur s) u2 = .ok u3 →
      ∃ t, exec i s = .next t ∧ Done s t ∧ GaveS i .d 0#64 s t ∧
        ∃ k ∈ (quadAt q t).tiles, k.addr = a ∧ k.record = r ∧ k.vf = s.issue.vf ∧ k.ctx = s.issue.ctx ∧ k.core = s.issue.core) ∧
    (code = 0 → findTask q s.issue.vf a u1 ≠ none → Results i 6#64 s) ∧
    (code ≠ 0 → StructWritten (addrOff a 120) (rTail r 12) u1 u2 → Results i (BitVec.ofNat 64 code) s)) ∧
  (∀ p rd ra s,
    let i : Instr := .tqry p rd ra
    let q := coreQuad s.issue.core
    runs i s = true →
    (findTask q s.issue.vf (srcS i .a s) s = none → Results i 0#64 s) ∧
    (∀ k, findTask q s.issue.vf (srcS i .a s) s = some k →
      ((quadAt q s).running.map Task.order = some k.order → Results i 17#64 s) ∧
      ((quadAt q s).running.map Task.order ≠ some k.order →
        Results i (BitVec.ofNat 64 (20 + 256 * ((quadAt q s).tiles.countP (fun x => decide (x.order < k.order))))) s))) ∧
  (∀ p rd ra s,
    let i : Instr := .tcan p rd ra
    let q := coreQuad s.issue.core
    runs i s = true →
    (findTask q s.issue.vf (srcS i .a s) s = none → Results i 0#64 s) ∧
    (∀ k, findTask q s.issue.vf (srcS i .a s) s = some k →
      ((quadAt q s).running.map Task.order = some k.order → Results i 1#64 s) ∧
      (∀ u, (quadAt q s).running.map Task.order ≠ some k.order → StructWritten (addrOff k.addr 120) (rTail k.record 13) s u →
        ∃ t, exec i s = .next t ∧ Done s t ∧ GaveS i .d 13#64 s t ∧ ∀ x ∈ (quadAt q t).tiles, x.order ≠ k.order)))

/-- R205, R372 to R374: TSUB.copy enters an accepted descriptor as a copy, or resumes the queued copy of that descriptor
which its quota has paused (log 15); TQRY.copy gives its status, place and bytes done;
TCAN.copy removes one that is not active, with code 13.

Completes (exec answers a next state, for every state and operands that meet conditions on them alone): tsubCopy, tqryCopy,
tcanCopy. -/
def Obligations.CopyInstructions : Prop :=
  (∀ p ra s v u1 u2 u3 done,
    let i : Instr := .tsubCopy p ra
    let a := srcS i .a s
    let q := coreQuad s.issue.core
    runs i s = true → bitsN a 0 7 = 0 → copyCount (cur s) s ≠ 63 → StructRead a 128 s v u1 →
    copyStart (BitVec.ofNat 1024 v) none = some done → StructWritten (addrOff a 104) (done + 2 ^ 40) u1 u2 →
    let same := (quadAt q u1).copies.find? (fun j => j.paused && j.vf == s.issue.vf && bitsN j.addr 0 56 == bitsN a 0 56)
    (same = none → (quadAt q u1).copies.length < 64 → openCounts (cur s) u2 = .ok u3 →
      ∃ t, exec i s = .next t ∧ Done s t ∧ ∃ j ∈ (quadAt q t).copies,
        j.addr = a ∧ j.desc = BitVec.ofNat 1024 v ∧ j.done = done ∧ j.vf = s.issue.vf ∧ j.core = s.issue.core) ∧
    (∀ j, same = some j → ∃ t, exec i s = .next t ∧ Done s t ∧ ∀ x ∈ (quadAt q t).copies, x.order = j.order →
      x.paused = false ∧ x.done = done ∧ x.desc = BitVec.ofNat 1024 v)) ∧
  (∀ p rd ra s,
    let i : Instr := .tqryCopy p rd ra
    let q := coreQuad s.issue.core
    runs i s = true →
    (findCopy q s.issue.vf (srcS i .a s) s = none → Results i 0#64 s) ∧
    (∀ j active, findCopy q s.issue.vf (srcS i .a s) s = some (j, active) →
      let ahead := if active then 0 else (quadAt q s).copies.countP (fun x => decide (x.order < j.order))
      let st := if j.paused then 3 else if active then 1 else 4
      Results i (BitVec.ofNat 64 (st + 16 + 256 * (ahead % 256) + 2 ^ 16 * (j.done % 2 ^ 40))) s)) ∧
  (∀ p rd ra s,
    let i : Instr := .tcanCopy p rd ra
    let q := coreQuad s.issue.core
    runs i s = true →
    (findCopy q s.issue.vf (srcS i .a s) s = none → Results i 0#64 s) ∧
    (∀ j, findCopy q s.issue.vf (srcS i .a s) s = some (j, true) → j.paused = false → Results i 1#64 s) ∧
    (∀ j active u, findCopy q s.issue.vf (srcS i .a s) s = some (j, active) → (active && !j.paused) = false →
      StructWritten (addrOff j.addr 104) (j.done + 13 * 2 ^ 40) s u →
      ∃ t, exec i s = .next t ∧ Done s t ∧ GaveS i .d 13#64 s t ∧
        (∀ x ∈ (quadAt q t).copies, x.order ≠ j.order) ∧ ∀ x ∈ (quadAt q t).active, x.order ≠ j.order))

/-- R375: LUTLD replaces the core's codebook, ra its low half.

R161, R162, R376 to R378: RBIND binds a window absent and clean, or gives the code of what is wrong; RLOOK names the
window of an address; REVICT writes a dirty window back, drops a clean one; RINV drops a window, or unbinds it.

Completes (exec answers a next state, for every state and operands that meet conditions on them alone): lutld, rbind, rlook,
revict, rinv, rinvUnbind. -/
def Obligations.WindowsAndCodebook : Prop :=
  (∀ p ra rb s,
      let i : Instr := .lutld p ra rb
      runs i s = true → ∃ t, exec i s = .next t ∧ Done s t ∧
        (coreAt s.issue.core t).codebook = srcS i .b s ++ srcS i .a s ∧ SameRegs i s t ∧ SameBytes s t ∧
        ∀ c, c ≠ s.issue.core → coreAt c t = coreAt c s) ∧
  ((∀ p rd ra rb s,
      let i : Instr := .rbind p rd ra rb
      let c := s.issue.core
      let w := srcS i .d s
      let key := bitsN (srcS i .a s) 0 56
      let desc := srcS i .b s
      let n := bitsN w 0 6
      let off := bitsN w 6 13 * 256
      let ls := bitsN w 19 5
      let bad := bitsN w 24 40 ≠ 0 ∨ ls < 8 ∨ 21 < ls ∨ key % 2 ^ ls ≠ 0 ∨ bitsN desc 0 7 ≠ 0 ∨ off % 2 ^ ls ≠ 0 ∨ 2 ^ 21 < off + 2 ^ ls
      let meets := ∃ e ∈ (coreAt c s).windows, e.1 ≠ n ∧ e.2.bound = true ∧
        rangesMeet off (2 ^ ls) (e.2.spoff.toNat * 256) (2 ^ e.2.lsize.toNat) = true
      let held := (windowAt c n s).bound = true ∧ (windowAt c n s).state ≠ 0#2
      runs i s = true →
      (bad → Results i 1#64 s) ∧ (¬bad → meets → Results i 2#64 s) ∧ (¬bad → ¬meets → held → Results i 3#64 s) ∧
      (¬bad → ¬meets → ¬held → ∃ t, exec i s = .next t ∧ Done s t ∧ GaveS i .d 0#64 s t ∧
        (windowAt c n t).bound = true ∧ (windowAt c n t).state = 0#2 ∧ (windowAt c n t).key.toNat = key ∧
        (windowAt c n t).spoff.toNat * 256 = off ∧ (windowAt c n t).lsize.toNat = ls ∧ (windowAt c n t).desc = desc.setWidth 56)) ∧
    (∀ p rd ra s,
      let i : Instr := .rlook p rd ra
      let c := s.issue.core
      runs i s = true →
      (windowByKey c (srcS i .a s) s = none → Results i (BitVec.allOnes 64) s) ∧
      (∀ n, windowByKey c (srcS i .a s) s = some n →
        Results i (BitVec.ofNat 64 (n + 64 * (windowAt c n s).state.toNat + (if (windowAt c n s).err then 256 else 0))) s)) ∧
    (∀ p rd ra s,
      let i : Instr := .revict p rd ra
      let c := s.issue.core
      let n := (srcS i .a s).toNat
      let v := windowAt c n s
      runs i s = true →
      (n < 64 → v.bound = false → Results i 2#64 s) ∧
      (n < 64 → v.bound = true → v.busy = false → v.state ≠ 3#2 → ∃ t, exec i s = .next t ∧ Done s t ∧ GaveS i .d 0#64 s t ∧
        (windowAt c n t).state = 0#2 ∧ (windowAt c n t).bound = true) ∧
      (∀ u, n < 64 → v.bound = true → v.busy = false → v.state = 3#2 → startWindow (cur s) c n true s = .started u → Results i 1#64 s)) ∧
    (∀ p rd ra s,
      let i : Instr := .rinv p rd ra
      let n := (srcS i .a s).toNat
      let v := windowAt s.issue.core n s
      runs i s = true → (64 ≤ n → exec i s = .next (trapNow 1 1 s)) ∧ (n < 64 → v.bound = false → Results i 2#64 s) ∧
      (n < 64 → v.bound = true → v.state = 1#2 → exec i s = .next s) ∧
      (n < 64 → v.bound = true → v.state ≠ 1#2 → ∃ t, exec i s = .next t ∧ Done s t ∧ GaveS i .d 0#64 s t ∧
        (windowAt s.issue.core n t).state = 0#2 ∧ (windowAt s.issue.core n t).err = false)) ∧
    (∀ p rd ra s,
      let i : Instr := .rinvUnbind p rd ra
      let n := (srcS i .a s).toNat
      let v := windowAt s.issue.core n s
      runs i s = true → n < 64 → (v.bound = false → Results i 2#64 s) ∧
      (v.bound = true → v.state ≠ 1#2 → ∃ t, exec i s = .next t ∧ Done s t ∧ GaveS i .d 0#64 s t ∧
        (windowAt s.issue.core n t).bound = false)))

/-- R196, R379, R380: SBIND binds the descriptor it reads with status 7 where it is malformed; SUNB ends a binding whose
elements are performed; SQRY gives kind, status, bytes buffered and elements counted.

Completes (exec answers a next state, for every state and operands that meet conditions on them alone): sbind, sunb, sqry. -/
def Obligations.StreamInstructions : Prop :=
  (∀ p ra qn s v u,
    let i : Instr := .sbind p ra qn
    let q := qn.toNat
    let d : BitVec 512 := setBits (BitVec.ofNat 512 v) 469 3 0
    runs i s = true → bitsN (srcS i .a s) 0 6 = 0 → StructRead (srcS i .a s) 64 s v u →
    ((streamAt (cur s) q u).kind = 0 ∨ drains (cur s) q u = false) →
    ∃ t st, exec i s = .next t ∧ Done s t ∧ (st = 0 ∨ st = 6 ∨ st = 7) ∧ (sdKind d = 0 → st = 0) ∧
      (sdKind d = 3 ∨ (sdKind d ≠ 0 ∧ sdReserved d = true) → st = 7) ∧
      (streamAt (cur s) q t).desc = setBits d 469 3 st ∧ (streamAt (cur s) q t).buf = [] ∧ (streamAt (cur s) q t).count = 0) ∧
  (∀ p qn s,
    let i : Instr := .sunb p qn
    let x := streamAt (cur s) qn.toNat s
    runs i s = true → (x.kind = 0 ∨ drains (cur s) qn.toNat s = false) →
    ∃ t, exec i s = .next t ∧ Done s t ∧ (streamAt (cur s) qn.toNat t).kind = 0) ∧
  (∀ p rd qn s,
    let i : Instr := .sqry p rd qn
    let x := streamAt (cur s) qn.toNat s
    runs i s = true →
    Results i (BitVec.ofNat 64 (x.kind + 4 * x.status + 32 * (x.buf.length % 2 ^ 13) + 2 ^ 18 * (x.count % 2 ^ 46))) s)

/-! ### Strands -/

/-- R120, R381, R382: SPAWN places a new ready strand of the launch and gives its context, or gives 1 or 3; LAUNCH writes
a packet into its queue and moves the tail, or says why not.

Completes (exec answers a next state, for every state and operands that meet conditions on them alone): spawn, launch. -/
def Obligations.SpawnAndLaunch : Prop :=
  (∀ p rd ra rb s l,
    let i : Instr := .spawn p rd ra rb
    let w := srcS i .d s
    let entry := srcS i .a s
    let idx := pkN l.packet + l.spawnNext
    let core := if bitB w 12 then 256 * bitsN w 0 4 + bitsN w 4 8 else placeOf l (pkPos l.packet idx)
    let n := sid s.issue.vf (indexCtx l.packet idx)
    runs i s = true → launchOf (cur s) s = some l → bitsN w 13 51 = 0 → bitsN entry 0 2 = 0 →
    ¬(hdrDmode (cur s) s = true ∧ bitB w 12 = true) → domainBusy (cur s) 5 true true s = false →
    (pkSpawnMax l.packet ≤ l.spawnNext → Results i 1#64 s) ∧
    (l.spawnNext < pkSpawnMax l.packet → bitB w 12 = true → placeAllowed s.issue.vf l.packet core s = false →
      ∃ t, exec i s = .next t ∧ Done s t ∧ GaveS i .d 3#64 s t ∧
        tfind t.launches (curStrand s).launch = some { l with spawnNext := l.spawnNext + 1 }) ∧
    (∀ key pa, l.spawnNext < pkSpawnMax l.packet → ¬(bitB w 12 = true ∧ placeAllowed s.issue.vf l.packet core s = false) →
      placeAt s.issue.core s.issue.vf 1 .write false ((indexCtx l.packet idx).setWidth 64) 8 s = .at_ (.mem key pa) →
      ∃ t, exec i s = .next t ∧ Done s t ∧ GaveS i .d ((indexCtx l.packet idx).setWidth 64) s t ∧
        (strandAt n t).run = .ready ∧ (strandAt n t).core = core ∧ (strandAt n t).index = idx ∧
        (strandAt n t).launch = (curStrand s).launch)) ∧
  (∀ p rd ra rb s v u,
    let i : Instr := .launch p rd ra rb
    let vf := s.issue.vf
    let q := (srcS i .b s).toNat
    let o := qoff q
    let tail := regN vf (o + 8) 0 32 s
    let head := regN vf (o + 16) 0 32 s
    let size := regN vf o 0 5 s
    let shut := regN vf o 63 1 s = 0 ∨ regN vf (o + 24) 8 1 s = 1
    runs i s = true → bitsN (srcS i .a s) 0 7 = 0 → q < 64 → StructRead (srcS i .a s) 128 s v u →
    domainBusy (cur s) 5 true true u = false →
    (shut → Results i (BitVec.ofNat 64 (2 ^ 63 + 2)) s) ∧
    (¬shut → (tail + 2 ^ 32 - head) % 2 ^ 32 = 2 ^ size → Results i (BitVec.ofNat 64 (2 ^ 63 + 1)) s) ∧
    (∀ x, ¬shut → (tail + 2 ^ 32 - head) % 2 ^ 32 ≠ 2 ^ size →
      let slot := regN vf o 12 44 s * 2 ^ 12 + 128 * (tail % 2 ^ size)
      xlateNow (coreHall s.issue.core) vf 1 .write (BitVec.ofNat 64 slot) u = .ok x →
      ∃ t, exec i s = .next t ∧ Done s t ∧ GaveS i .d (BitVec.ofNat 64 tail) s t ∧
        regN vf (o + 8) 0 32 t = (tail + 1) % 2 ^ 32 ∧
        t.mem = (bankChanged (x.pa slot) (memWrite (keyOf vf s) (x.pa slot) (toBytes 128 v) u)).mem))

/-- R125, R383 to R385: EXIT ends the strand; YIELD makes it ready; PARK and IDLE hold it until its time, and wake it at
once with reason 1 where that has come; SWAPCTX holds it and puts its target in the slot; DNEXT ends it and starts the
slot's next entry with its s1 to s10 and p1 to p7.

R225: a strand that steps takes the single-step trap at YIELD, PARK and IDLE, out of its slot.

Completes (exec answers a next state, for every state and operands that meet conditions on them alone): exit, yield, park,
swapctx, dnext, idle. -/
def Obligations.LeavingTheSlot : Prop :=
  (∀ p s, runs (.exit p) s = true → MayLeave s → undrained (cur s) s = false →
    ∃ t, exec (.exit p) s = .next t ∧ t.issue.retired = true ∧ (strandAt (cur s) t).run = .exited ∧
      (strandAt (cur s) t).slot = none) ∧
  (∀ p s, runs (.yield p) s = true →
    (hdrDmode (cur s) s = true → ∃ t, exec (.yield p) s = .next t ∧ Done s t ∧ SameRegs (.yield p) s t ∧ SameBytes s t) ∧
    (hdrDmode (cur s) s = false → MayLeave s → stepping s = false →
      ∃ t, exec (.yield p) s = .next t ∧ t.issue.retired = true ∧
      (strandAt (cur s) t).run = .ready ∧ (strandAt (cur s) t).slot = none)) ∧
  (∀ i s, (∃ p, i = Instr.yield p ∨ ∃ rd ra, i = Instr.park p rd ra ∨ i = Instr.idle p rd ra) → runs i s = true → MayLeave s →
    hdrDmode (cur s) s = false → stepping s = true → (∃ t, exec i s = .next t ∧ Stopped (cur s) 20 0 (fun _ => True) t)) ∧
  (∀ i s, (∃ p rd ra, i = Instr.park p rd ra ∨ i = Instr.idle p rd ra) → runs i s = true → MayLeave s →
    hdrDmode (cur s) s = false → stepping s = false →
    (tick s < (srcS i .a s).toNat → ∃ t, exec i s = .next t ∧ t.issue.retired = true ∧ (strandAt (cur s) t).run = .held ∧
      (strandAt (cur s) t).hold = 5#4 ∧ (strandAt (cur s) t).slot = none ∧
      ∃ d ∈ t.agenda, d.ev = .strandWake ∧ d.slot = 2 * (srcS i .a s).toNat ∧ d.args.ctx = s.issue.ctx) ∧
    ((srcS i .a s).toNat ≤ tick s → (srcS i .a s).toNat < 2 ^ 56 → ∃ t, exec i s = .next t ∧ t.issue.retired = true ∧
      (strandAt (cur s) t).run = .ready ∧
      (clsOf i .d = 0#2 → regOf i .d ≠ 0#5 → readS (cur s) (regOf i .d) t = 1#64))) ∧
  (∀ p ra s u,
    let i : Instr := .swapctx p ra
    let a := BitVec.ofNat 56 (bitsN (srcS i .a s) 0 56)
    let k := sid s.issue.vf a
    runs i s = true → bitsN a 0 13 = 0 → openFill k (coreHall s.issue.core) s = .ok u → k ≠ cur s →
    hdrN k 5 56 7 u = s.issue.vf.toNat → ((strandAt k u).run = .ready ∨ ((strandAt k u).run = .held ∧ (strandAt k u).hold = 5#4)) →
    hdrPriv k u ≤ hdrPriv (cur s) u → notStarted k u = false → MayLeave u → stepping u = false →
    ∃ t, exec i s = .next t ∧ t.issue.retired = true ∧ (strandAt (cur s) t).run = .held ∧ (strandAt (cur s) t).hold = 5#4 ∧
      (strandAt k t).run = .resident ∧ (strandAt k t).slot = some s.issue.slot ∧ (fnAt s.issue.vf t).gcur = a.setWidth 64 ||| 1#64) ∧
  (∀ p s,
    let i : Instr := .dnext p
    let c := s.issue.core
    let b := s.issue.slot
    let u := endStrand (cur s) s
    runs i s = true → hdrDmode (cur s) s = true → MayLeave s → undrained (cur s) s = false →
    (slotEntry c b u = none → ∃ t, exec i s = .next t ∧ t.issue.retired = true ∧ (strandAt (cur s) t).run = .exited) ∧
    (∀ lid idx l, slotEntry c b u = some (lid, idx) → tfind u.launches lid = some l →
      let n := sid l.vf (indexCtx l.packet idx)
      (strandAt n (runEntry c b u)).run = .resident →
      ∃ t, exec i s = .next t ∧ t.issue.retired = true ∧ (strandAt n t).run = .resident ∧
        (∀ r : BitVec 5, 1 ≤ r.toNat → r.toNat ≤ 10 → readS n r t = readS (cur s) r s) ∧
        (∀ j, 1 ≤ j → j ≤ 7 → readP n j t = readP (cur s) j s)))

/-- R144, R386, R387: MIGR and MIGR.addr travel, or give the strand's hall; HOME gives the place of an address; POLICY
gives the old policy and takes the new one, D-mode keeping mode 1 and retain 1.

R81, R82, R388: LEASE gives the time left to a holder, 0 where no grant is made, and else makes the strand a holder
for the time granted, leaving a lease of another quadrant first; LREL gives the time left and leaves.

Completes (exec answers a next state, for every state and operands that meet conditions on them alone): migr, migrAddr, home,
policy, lease, lrel. -/
def Obligations.TravelPolicyAndLeases : Prop :=
  ((∀ p rd ra s,
      let i : Instr := .migr p rd ra
      let h := bitsN (srcS i .a s) 0 4
      runs i s = true → bitsN (srcS i .a s) 4 60 = 0 →
      (hallTarget (cur s) h (256 * h + s.issue.core % 256) s = none → Results i (BitVec.ofNat 64 (coreHall s.issue.core)) s) ∧
      (∀ c, hallTarget (cur s) h (256 * h + s.issue.core % 256) s = some c →
        ∃ t, exec i s = .next t ∧ (strandAt (cur s) t).run = .transit ∧ (strandAt (cur s) t).goal = some c)) ∧
    (∀ p rd ra s,
      let i : Instr := .migrAddr p rd ra
      runs i s = true →
      (lookOnly (srcS i .a s) s = .ok none → Results i (BitVec.ofNat 64 (coreHall s.issue.core)) s) ∧
      (∀ x pa, lookOnly (srcS i .a s) s = .ok (some (x, pa)) →
        (hallTarget (cur s) (homeOf pa) (bankCore (bankOf pa)) s = none → Results i (BitVec.ofNat 64 (coreHall s.issue.core)) s) ∧
        (∀ c, hallTarget (cur s) (homeOf pa) (bankCore (bankOf pa)) s = some c →
          ∃ t, exec i s = .next t ∧ (strandAt (cur s) t).run = .transit ∧ (strandAt (cur s) t).goal = some c))) ∧
    (∀ p rd ra s,
      let i : Instr := .home p rd ra
      runs i s = true →
      (lookOnly (srcS i .a s) s = .ok none →
        Results i (BitVec.ofNat 64 (coreHall s.issue.core + 16 * (s.issue.core % 256) + 2 ^ 15)) s) ∧
      (∀ x pa, lookOnly (srcS i .a s) s = .ok (some (x, pa)) →
        Results i (BitVec.ofNat 64 (homeOf pa + 16 * (bankCore (bankOf pa) % 256) + (if isHbm pa then 2 ^ 12 else 0) +
          (if pageMoving s.issue.vf (bitsN (srcS i .a s) 0 56) s then 2 ^ 13 else 0) + (if bitB x.leaf 7 then 2 ^ 14 else 0))) s)) ∧
    (∀ p rd ra s,
      let i : Instr := .policy p rd ra
      let w := srcS i .a s
      runs i s = true →
      (bitsN w 11 53 ≠ 0 ∨ bitsN w 0 2 = 3 → exec i s = .next (trapNow 1 1 s)) ∧
      (bitsN w 11 53 = 0 → bitsN w 0 2 ≠ 3 → ∃ t, exec i s = .next t ∧ Done s t ∧ GaveS i .d (hdr (cur s) 2 s) s t ∧
        hdr (cur s) 2 t = (if hdrDmode (cur s) s then setBits (setBits w 0 2 1) 10 1 1 else w)))) ∧
  ((∀ p rd ra rb s,
      let i : Instr := .lease p rd ra rb
      let k := cur s
      let l := (srcS i .a s).toNat
      let q := coreQuadrant s.issue.core
      let elsewhere := hdrN k 3 0 1 s = 1 ∧ 4 * hdrN k 3 4 4 s + hdrN k 3 8 2 s ≠ q
      let u := if elsewhere then leaveLease k s else s
      runs i s = true →
      (6 < l → exec i s = .next (trapNow 1 1 s)) ∧
      (l ≤ 6 → hdrN k 3 0 1 s = 1 → ¬elsewhere → Results i (BitVec.ofNat 64 (leaseLeft q s)) s) ∧
      (l = 0 → hdrN k 3 0 1 s = 0 → Results i 0#64 s) ∧
      (l ≤ 6 → hdrN k 3 0 1 s = 0 ∨ elsewhere → hdrDmode k u = true ∨ leasePolicy k u = 0 → Results i 0#64 s) ∧
      (∀ g v, l ≤ 6 → q < 64 → hdrN k 3 0 1 s = 0 ∨ elsewhere → grantLease k q l (srcS i .b s).toNat u = (g, v) → g ≠ 0 →
        ∃ t, exec i s = .next t ∧ Done s t ∧ GaveS i .d (BitVec.ofNat 64 g) s t ∧ hdrN k 3 0 1 t = 1 ∧
          4 * hdrN k 3 4 4 t + hdrN k 3 8 2 t = q ∧ k ∈ (islandAt q t).holders)) ∧
    (∀ p rd s,
      let i : Instr := .lrel p rd
      let k := cur s
      runs i s = true → (hdrN k 3 0 1 s = 0 → Results i 0#64 s) ∧
      (hdrN k 3 0 1 s = 1 → ∃ t, exec i s = .next t ∧ Done s t ∧ hdrN k 3 0 1 t = 0 ∧
        GaveS i .d (BitVec.ofNat 64 (leaseLeft (4 * hdrN k 3 4 4 s + hdrN k 3 8 2 s) s)) s t)))

/-- R208, R209, R212: taking a synchronous trap stops the strand at its boundary with the kind in its header, the pc and
every register as they were, and names its chain and the word after it. -/
def Obligations.TrapEntry : Prop :=
  ∀ kind cause addr info1 info2 s, kind < 256 → cause < 256 → (lineAt (lineKey (cur s) 0) s).rc.isSome = true →
    let t := trapFull kind cause addr info1 info2 s
    (strandAt (cur s) t).run = .trapped ∧ hdrN (cur s) 7 56 8 t = kind ∧ hdrPc (cur s) t = hdrPc (cur s) s ∧
    t.issue = s.issue ∧ SameBytes s t ∧
    (∀ r, readS (cur s) r t = readS (cur s) r s) ∧ (∀ n, n < 8 → readP (cur s) n t = readP (cur s) n s) ∧
    (∀ j, readV (cur s) j t = readV (cur s) j s) ∧ (∀ c, c < 72 → fullBit (cur s) c t = fullBit (cur s) c s) ∧
    ∃ x, (strandAt (cur s) t).trap = some x ∧ x.kind.toNat = kind ∧ x.cause.toNat = cause ∧ x.epc = s.issue.pc ∧
      x.npc = s.issue.npc ∧ x.addr = addr ∧ x.info1 = info1 ∧ x.info2 = info2 ∧ x.chain = s.issue.words

/-- R219, R389, R390: TRAP takes its trap with the immediate in info1; BKPT takes its own, and retires after a return of
disposition 0; ERET returns a trapped strand ready at the pc of its disposition, at its saved level, or ends it.

R154, R391: TLBI removes a function's translations, or those of one address, from every core of its scope; one of
another function's needs the hypervisor's level.

Completes (exec answers a next state, for every state and operands that meet conditions on them alone): trap, eret, bkpt,
tlbi. -/
def Obligations.TrapsReturnsAndTlbi : Prop :=
  ((∀ p imm s, runs (.trap p imm) s = true →
      ∃ t, exec (.trap p imm) s = .next t ∧ (strandAt (cur s) t).run = .trapped ∧ hdrN (cur s) 7 56 8 t = 23 ∧
        hdrPc (cur s) t = hdrPc (cur s) s ∧ ∃ x, (strandAt (cur s) t).trap = some x ∧ x.kind = 23#8 ∧ x.cause = 0#8 ∧
          x.info1 = imm.setWidth 64 ∧ x.epc = s.issue.pc ∧ x.npc = s.issue.npc) ∧
    (∀ p s, runs (.bkpt p) s = true →
      ((curStrand s).suppress = true → ∃ t, exec (.bkpt p) s = .next t ∧ Done s t) ∧
      ((curStrand s).suppress = false → ∃ t x, exec (.bkpt p) s = .next t ∧ (strandAt (cur s) t).run = .trapped ∧
        (strandAt (cur s) t).trap = some x ∧ x.kind = 19#8 ∧ x.epc = s.issue.pc)) ∧
    (∀ p ra disp s u1 u2,
      let i : Instr := .eret p ra disp
      let f : BitVec 7 := if s.issue.vf = 0#7 then BitVec.ofNat 7 (bitsN (cachedWord (cur s) 0x13A0 s) 0 7) else s.issue.vf
      let a := BitVec.ofNat 56 (bitsN (srcS i .a s) 0 56)
      let k := sid f a
      let x := strandAt k s
      runs i s = true → (s.issue.vf = 0#7 → lackWords (lineKey (cur s) 78) 16#8 s = false) → bitsN a 0 13 = 0 →
      domainBusy (cur s) 5 false true s = false → x.run = .trapped → x.trapTo = 0#2 ∨ (x.trapTo = 1#2 ∧ s.issue.vf = 0#7) →
      openLine k 0 (coreHall x.core) s = .ok u1 → openLine k 81 (coreHall x.core) u1 = .ok u2 →
      hdrN k 5 56 7 u2 = f.toNat → bitsN (cachedWord k 0x1458 u2) 2 2 ≤ hdrPriv (cur s) u2 →
      (disp ≠ 3#2 → (∀ b q, x.wait ≠ .barrier b q) → ∃ t, exec i s = .next t ∧ Done s t ∧ (strandAt k t).run = .ready ∧ (strandAt k t).trap = none ∧
        (Apart (cur s) k → bitB x.wakeBits 1 = false → Exclusive (lineAt (lineKey k 0) u2) → HcRoom 1 u2 → hdrPriv k t = bitsN (cachedWord k 0x1458 u2) 2 2 ∧
          hdrPc k t = BitVec.ofNat 56 (cachedWord k (0x1440 + 8 * disp.toNat) u2).toNat)) ∧
      (disp = 3#2 → undrained k u2 = false → ∃ t, exec i s = .next t ∧ Done s t ∧ (strandAt k t).run = .exited))) ∧
  (∀ p scope ra rb page s,
      let i : Instr := .tlbi p scope ra rb page
      let vf : BitVec 7 := if rb = 0#5 then s.issue.vf else BitVec.ofNat 7 (bitsN (srcS i .b s) 0 7)
      let at_ := if page = 1#1 then some (bitsN (srcS i .a s) 0 56) else none
      let sc := if scope = 0#3 then 5 else scope.toNat
      (judged i s = true → rb ≠ 0#5 → curPriv s < 2 → exec i s = .next (trapNow 3 0 s)) ∧
      (runs i s = true →
        xlatsInUse sc s.issue.core vf (withdrawWaiting sc s.issue.core vf (dropXlats sc s.issue.core vf at_ s)) = false →
        ∃ t, exec i s = .next t ∧ Done s t ∧ SameBytes s t ∧
          ∀ c, coreInScope sc s.issue.core c = true → ∀ x ∈ (coreAt c t).tlb, x ∈ (coreAt c s).tlb ∧
            (x.vf = vf → page = 1#1 ∧ x.base.toNat / 2 ^ x.lsize ≠ bitsN (srcS i .a s) 0 56 / 2 ^ x.lsize)))

/-! ### Repeats and block moves -/

/-- R303: a repeat whose count is 0 executes nothing; otherwise a performed step is followed by the advances, in the order
named, then the decrement, and the pc stays at the chain until the count is 0.

R304, R305: MCPY and MSET with count 0 do nothing; a step in the scratchpad stores its bytes, advances the pointers,
lowers the count by the bytes moved and stays at the instruction until the count is 0.

Completes (exec answers a next state, for every state and operands that meet conditions on them alone): rep, mcpy, mset. -/
def Obligations.RepeatsAndBlockMoves : Prop :=
  ((∀ cnt adv0 adv1 step body s, repDone cnt s = true →
      ∃ t, exec (.rep cnt adv0 adv1 step body) s = .next t ∧ Done s t ∧ SameBytes s t ∧
        (∀ r, readS (cur s) r t = readS (cur s) r s)) ∧
    (∀ cnt adv0 adv1 step body s u,
      let i : Instr := .rep cnt adv0 adv1 step body
      let needs := (writeCodes body).any (fun c => c == codeS cnt || c == codeS adv0 || c == codeS adv1)
      runs i s = true → repDone cnt s = false → repBody body { s with issue := { s.issue with await := needs } } = .next u →
      u.issue.retired = true →
      ∃ t, exec i s = .next t ∧ t.issue.retired = true ∧
        (∀ r, r ≠ 0#5 → readS (cur u) r t = repRegs (fun x => readS (cur u) x u) cnt adv0 adv1 step r) ∧
        hdrPc (cur u) t =
          (if repRegs (fun x => readS (cur u) x u) cnt adv0 adv1 step cnt = 0#64 then hdrPc (cur u) u else u.issue.pc)) ∧
    (∀ cnt adv0 adv1 step p w rd ra rb s,
      let b : Instr := .add p w rd ra rb
      let i : Instr := .rep cnt adv0 adv1 step b
      runs i s = true → operable b s = true → repDone cnt s = false → clsOf b .d = 0#2 →
      let v := aluRes 1 w (intSat p) (srcS b .a s) (srcS b .b s)
      let g := repRegs (upd (fun x => readS (cur s) x s) rd (if rd = 0#5 then 0#64 else v)) cnt adv0 adv1 step
      ∃ t, exec i s = .next t ∧ t.issue.retired = true ∧ SameBytes s t ∧ (∀ r, r ≠ 0#5 → readS (cur s) r t = g r) ∧
        hdrPc (cur s) t = (if g cnt = 0#64 then s.issue.npc else s.issue.pc))) ∧
  ((∀ i p rd ra rb s, (i = Instr.mcpy p rd ra rb ∨ i = Instr.mset p rd ra rb) → runs i s = true →
      (∀ g v st, (curStrand s).wait ≠ .answered g v st) → readS (cur s) rb s = 0#64 →
      ∃ t, exec i s = .next t ∧ Done s t ∧ SameBytes s t ∧ ∀ r, readS (cur s) r t = readS (cur s) r s) ∧
    (∀ p rd ra rb s off,
      let i : Instr := .mset p rd ra rb
      let n := stepBytes (readS (cur s) rb s) (readS (cur s) rd s) (readS (cur s) ra s) false
      let b := bitsN (readS (cur s) ra s) 0 8
      let g := moveRegs (fun x => readS (cur s) x s) rd ra rb false n
      runs i s = true → (∀ g v st, (curStrand s).wait ≠ .answered g v st) → readS (cur s) rb s ≠ 0#64 →
      check ⟨n, 1, .write, tagged p, true⟩ (readS (cur s) rd s) s = .pad off → Memory.wf s.spad = true → off + n ≤ 2 ^ 21 →
      spadErrAt s.issue.core off n s = false →
      ∃ t, exec i s = .next t ∧ t.issue.retired = true ∧
        PadWritten s.issue.core off n (ofBytes (List.replicate n (BitVec.ofNat 8 b))) s t ∧
        (∀ r, r ≠ 0#5 → readS (cur s) r t = g r) ∧ hdrPc (cur s) t = (if g rb = 0#64 then s.issue.npc else s.issue.pc)) ∧
    (∀ p rd ra rb s off src,
      let i : Instr := .mcpy p rd ra rb
      let n := stepBytes (readS (cur s) rb s) (readS (cur s) rd s) (readS (cur s) ra s) true
      let g := moveRegs (fun x => readS (cur s) x s) rd ra rb true n
      runs i s = true → (∀ g v st, (curStrand s).wait ≠ .answered g v st) → readS (cur s) rb s ≠ 0#64 →
      hdrRace (cur s) s = false → check ⟨n, 1, .read, tagged p, true⟩ (readS (cur s) ra s) s = .pad src →
      spadErrAt s.issue.core src n s = false → spadErrAt s.issue.core off n s = false →
      check ⟨n, 1, .write, tagged p, true⟩ (readS (cur s) rd s) s = .pad off →
      check ⟨n, 1, .write, tagged p, true⟩ (readS (cur s) rd s) (keepRead (spadVal s.issue.core src n s) s) = .pad off →
      Memory.wf s.spad = true → off + n ≤ 2 ^ 21 →
      ∃ t, exec i s = .next t ∧ t.issue.retired = true ∧ PadWritten s.issue.core off n (spadVal s.issue.core src n s) s t ∧
        (∀ r, r ≠ 0#5 → readS (cur s) r t = g r) ∧ hdrPc (cur s) t = (if g rb = 0#64 then s.issue.npc else s.issue.pc)))

/-! ### Power, heat and energy -/

/-- R19, R43, R69, R70, R78, R80, R82: a gallery reading goes to the quadrant's entry, sets double refresh at 85 °C and
the hall's throttle at 95 °C, which ends its leases, and lifts them below 80 °C and 90 °C, the throttle when no gallery of
the hall holds it; the withdrawable positions follow at the next boundary; an island takes its point; a segment's fraction
sets refreeze with hysteresis; a lease ends at its term; a lower SPRINTMAX ends higher leases.

Completes (exec answers a next state, for every state and operands that meet conditions on them alone): gallery85cCrossing,
gallery80cRelease, gallery95cThrottle, gallery90cRelease, sprintmaxWrite, islandFreqChange, meltUpdate, leaseExpiry. -/
def Obligations.SensorsAndLeases : Prop :=
  (∀ i s, i ∈ [Instr.gallery85cCrossing, .gallery80cRelease, .gallery95cThrottle, .gallery90cRelease] → s.ev.id < 64 →
    (i = .gallery85cCrossing ∨ i = .gallery80cRelease → s.ev.stack = false) →
    let q := s.ev.id
    let c := s.ev.v.toNat
    let held (u : State) : Prop := ∃ j < 4, 4 * (q / 4) + j ≠ q ∧ (islandAt (4 * (q / 4) + j) u).hot = true
    ∃ t, exec i s = .next t ∧ islandN q 32 8 t = c % 256 ∧
      (85 ≤ c → islandN q 48 1 t = 1 ∧ (islandN q 48 1 s = 0 →
        Scheduled .withdrawableSuspendBegin (nextBoundary s) (fun a => a.id = q ∧ a.stack = false) t)) ∧
      (c < 80 → islandN q 48 1 t = 0 ∧ (islandN q 48 1 s = 1 →
        Scheduled .withdrawableSuspendEnd (nextBoundary s) (fun a => a.id = q ∧ a.stack = false) t)) ∧
      (80 ≤ c → c < 85 → islandN q 48 1 t = islandN q 48 1 s) ∧
      (95 ≤ c → (islandAt q t).hot = true ∧ ((islandAt q s).hot = false →
        NoLease (q / 4) t ∧ ∀ j < 4, islandN (4 * (q / 4) + j) 49 1 t = 1)) ∧
      (c < 90 → (islandAt q t).hot = false ∧ ((islandAt q s).hot = true →
        (¬held s → ∀ j < 4, islandN (4 * (q / 4) + j) 49 1 t = 0) ∧
        (held s → ∀ j < 4, islandN (4 * (q / 4) + j) 49 1 t = islandN (4 * (q / 4) + j) 49 1 s))) ∧
      (90 ≤ c → c < 95 → (islandAt q t).hot = (islandAt q s).hot)) ∧
  (∀ i s, i = Instr.gallery85cCrossing ∨ i = .gallery80cRelease → s.ev.stack = true →
    ∃ t, exec i s = .next t ∧
      (85 ≤ s.ev.v.toNat → (islandAt s.ev.id t).stackDbl = true ∧ ((islandAt s.ev.id s).stackDbl = false →
        Scheduled .withdrawableSuspendBegin (nextBoundary s) (fun a => a.id = s.ev.id ∧ a.stack = true) t)) ∧
      (s.ev.v.toNat < 80 → (islandAt s.ev.id t).stackDbl = false ∧ ((islandAt s.ev.id s).stackDbl = true →
        Scheduled .withdrawableSuspendEnd (nextBoundary s) (fun a => a.id = s.ev.id ∧ a.stack = true) t))) ∧
  (∀ s, ∃ t, exec .islandFreqChange s = .next t ∧ islandN s.ev.id 0 5 t = islandPoint s.ev.id s % 32) ∧
  (∀ s g f, s.ev.pairs = [(g, f)] → g < 16 → f < 2 ^ 16 →
    (regN 0 (0x30300 + 8 * g) 17 1 s = 0 → exec .meltUpdate s = .next s) ∧
    (regN 0 (0x30300 + 8 * g) 17 1 s = 1 → ∃ t, exec .meltUpdate s = .next t ∧ meltFrac g t = f ∧
      meltRefreeze g t = (if 0xF334 ≤ f then true else if f ≤ 0x6666 then false else meltRefreeze g s) ∧
      (0xFD71 ≤ f → NoLease g t))) ∧
  (∀ s, (islandN s.ev.id 8 1 s = 1 → (islandAt s.ev.id s).leaseEnd = s.ev.v.toNat →
      ∃ t, exec .leaseExpiry s = .next t ∧ islandN s.ev.id 8 1 t = 0 ∧ (islandAt s.ev.id t).holders = []) ∧
    ((islandAt s.ev.id s).leaseEnd ≠ s.ev.v.toNat → exec .leaseExpiry s = .next s)) ∧
  (∀ s, (s.ev.vf ≠ 0#7 → s.ev.flag = false → exec .sprintmaxWrite s = .next s) ∧
    (s.ev.vf = 0#7 ∨ s.ev.flag = true → hostClosed s.ev.vf s = false → ∃ t, exec .sprintmaxWrite s = .next t ∧
      regN s.ev.vf 0x30060 0 3 t = s.ev.v.toNat % 8 ∧
      ∀ i < 64, islandN i 8 1 s = 1 → islandOwner i s = s.ev.vf → s.ev.v.toNat % 8 < islandN i 9 3 s → islandN i 8 1 t = 0))

/-- R17, R19, R73 to R76, R78: a metering period adds the charges of the function's work and its share of the static power to
its energy and each launch's to the launch, exhausting one at its quota (log 49); QADD raises a quota and lifts exhaustion;
a sample over 17 kA or 10 kW takes the next action, over 20 kA a slot everywhere, and one within 95 per cent starts the way
back; its sensors' readings go to their quadrants' entries.

Completes (exec answers a next state, for every state and operands that meet conditions on them alone): powerSample,
energyUpdate, energysetWrite, qaddWrite. -/
def Obligations.EnergyAndLimits : Prop :=
  (∀ s,
    let vf := s.ev.vf
    let share := (List.range 64).foldl (fun a i => a + staticShare vf (energyPeriod vf s / 2000) i s) 0
    let drawn := (tget s.meter (2 * vf.toNat) 0 + share) / 1000000
    ∃ t, exec .energyUpdate s = .next t ∧
      (reg vf 0x30000 t).toNat = min (2 ^ 64 - 1) ((reg vf 0x30000 s).toNat + drawn) ∧
      Scheduled .energyUpdate (s.wheel + energyPeriod vf s) (fun a => a.vf = vf) t ∧
      ∀ lid l, tfind s.launches lid = some l → l.vf = vf → l.used < 2 ^ 64 →
        ∃ m, tfind t.launches lid = some m ∧ l.used ≤ m.used ∧ m.quota = l.quota ∧
          (l.quota ≠ 0 → l.quota ≤ m.used → m.exhausted = true)) ∧
  (∀ s, (s.ev.vf ≠ 0#7 → s.ev.flag = false → exec .energysetWrite s = .next s) ∧
    (s.ev.vf = 0#7 ∨ s.ev.flag = true → hostClosed s.ev.vf s = false →
      ∃ t, exec .energysetWrite s = .next t ∧ reg s.ev.vf 0x30000 t = s.ev.v)) ∧
  (∀ s,
    let named (e : Nat × Launch) : Bool := e.2.vf == s.ev.vf && pkCtx e.2.packet == regN s.ev.vf 0x300A0 13 43 s * 2 ^ 13
    (s.launches.find? named = none → exec .qaddWrite s = .next s) ∧
    (∀ lid l, s.launches.find? named = some (lid, l) → hostClosed s.ev.vf s = false → ∃ t, exec .qaddWrite s = .next t ∧
      ∃ m, tfind t.launches lid = some m ∧ m.quota = min (2 ^ 64 - 1) (l.quota + s.ev.v.toNat) ∧
        m.exhausted = (l.exhausted && decide (m.quota ≤ l.used)) ∧ m.used = l.used)) ∧
  (∀ s, ∃ t, exec .powerSample s = .next t ∧
    t.ctl.amps = s.ev.v.toNat ∧ t.ctl.watts = s.ev.w.toNat ∧ t.ctl.sinceGrant = 0 ∧
    (20000 < s.ev.v.toNat → t.ctl.refuse = true ∧ t.ctl.step = 4 ∧ t.ctl.removed = min 7 (s.ctl.removed + 1)) ∧
    (s.ev.v.toNat ≤ 20000 → 17000 < s.ev.v.toNat ∨ 10000 < s.ev.w.toNat → t.ctl.refuse = true ∧ t.ctl.okSince = none ∧
      (s.ctl.refuse = false → t.ctl.step = 1)) ∧
    (s.ev.v.toNat * 100 ≤ 17000 * 95 → s.ev.w.toNat * 100 ≤ 10000 * 95 → s.ctl.okSince = none →
      t.ctl.okSince = some (tick s)) ∧
    (∀ q x, s.ev.pairs = [(q, x)] → q < 64 → islandN q 32 8 t = x % 256 ∧ islandN q 40 8 t = x / 256 % 256))

/-- R84 to R88, R167: a junction at 105 °C begins an emergency save: issue stops, every lease ends, and each hall's record is
begun once the module is at rest; complete, it is reported; at 115 °C the rails are cut, and what they hold is lost; RESUME
goes on once the junctions have cooled, after a cut through boot steps 7 and 8; an owner changes once the quadrant is
empty, its scratchpads zeroed; SAVELIST gives a lost context at a read.

Completes (exec answers a next state, for every state and operands that meet conditions on them alone): emergencySave,
saveComplete, railCut, savectlResume, islandOwnerWrite, ownerChange, savelistRead. -/
def Obligations.SaveCutAndOwners : Prop :=
  (∀ i s, (i = Instr.emergencySave ∧ s.ev.flag = false) ∨ i = .railCut → s.ev.id < 64 →
    let c := s.ev.v.toNat
    ∃ t, exec i s = .next t ∧ islandN s.ev.id 40 8 t = c % 256 ∧ (c < 105 → t.power = s.power) ∧
      (105 ≤ c → c < 115 → s.power = .on → t.power = .saving ∧ (∀ j < 64, islandN j 8 1 t = 0) ∧
        Scheduled .emergencySave (s.wheel + 1) (fun a => a.flag = true ∧ a.n = 2#8) t) ∧
      (115 ≤ c → s.power ≠ .cut → t.power = .cut ∧ regN 0 0x30388 0 2 t = 3 ∧ t.lines = [] ∧ t.spad = [] ∧ t.spadEmpty = [] ∧
        t.streams = [] ∧ t.flits = [] ∧ t.reqs = [] ∧ t.walks = [] ∧ t.quads = [])) ∧
  (∀ s, s.ev.flag = true → (s.power ≠ .saving → exec .emergencySave s = .next s) ∧
    (s.power = .saving → s.ev.n = 2#8 → atRest (withdrawAll s) = true → ∃ t, exec .emergencySave s = .next t ∧
      regN 0 0x30388 0 2 t = 1 ∧ ∀ h : BitVec 4, Scheduled .emergencySave (s.wheel + 1000) (fun a => a.hall = h ∧ a.flag = true) t)) ∧
  (∀ s, (s.power ≠ .saving → exec .saveComplete s = .next s) ∧
    (s.power = .saving → ∃ t, exec .saveComplete s = .next t ∧ t.power = .saved ∧ regN 0 0x30388 0 2 t = 2 ∧ Caused 0 6 t)) ∧
  (∀ s, s.ev.n ≠ 7#8 → s.ev.n ≠ 8#8 →
    (s.ev.vf ≠ 0#7 ∨ bitB s.ev.v 2 = false → exec .savectlResume s = .next s) ∧
    (s.ev.vf = 0#7 → bitB s.ev.v 2 = true → bootStarted 7 s = false → bootStarted 8 s = false →
      s.power = .saved ∨ s.power = .cut →
      ((∃ i < 64, (if s.power = .saved then 95 else 60) ≤ islandN i 40 8 s) → exec .savectlResume s = .next s) ∧
      ((∀ i < 64, islandN i 40 8 s < (if s.power = .saved then 95 else 60)) →
        (s.power = .saved → ∃ t, exec .savectlResume s = .next t ∧ t.power = .on ∧ regN 0 0x30388 0 2 t = 0) ∧
        (∀ c, s.power = .cut → stepChoice 7 s = .run c → ∃ t, exec .savectlResume s = .next t ∧ t.power = .cut ∧
          Scheduled .savectlResume (s.wheel + 1) (fun a => a.n = 7#8) t)))) ∧
  (∀ s, s.ev.n = 8#8 → s.power = .cut → bootStarted 8 s = true → stepWorks 8 s.ev.w s = true →
    ∃ t, exec .savectlResume s = .next t ∧ t.power = .on ∧ regN 0 0x30388 0 2 t = 0) ∧
  (∀ s, (s.ev.vf ≠ 0#7 → exec .islandOwnerWrite s = .next s) ∧
    (s.ev.vf = 0#7 → ∃ t, exec .islandOwnerWrite s = .next t ∧
      (islandAt ((s.ev.id - 0x30900) / 8 % 64) t).newOwner = some (BitVec.ofNat 7 (bitsN s.ev.v 0 7)) ∧
      Scheduled .ownerChange (s.wheel + 1) (fun a => a.id = (s.ev.id - 0x30900) / 8 % 64) t)) ∧
  (∀ s o, s.ev.id < 64 → (islandAt s.ev.id s).newOwner = some o → o ≠ islandOwner s.ev.id s →
    (quadrantBusy s.ev.id (islandOwner s.ev.id s) s = true →
      ∃ t, exec .ownerChange s = .next t ∧ islandOwner s.ev.id t = islandOwner s.ev.id s ∧
        Scheduled .ownerChange (s.wheel + 1024) (fun a => a.id = s.ev.id) t) ∧
    (quadrantBusy s.ev.id (islandOwner s.ev.id s) s = false → ∃ t, exec .ownerChange s = .next t ∧
      islandOwner s.ev.id t = o ∧ (islandAt s.ev.id t).newOwner = none ∧
      ∀ c ∈ quadrantCores s.ev.id, (coreAt c t).windows = [] ∧ (coreAt c t).codebook = 0 ∧
        ∀ off < 2 ^ 21, spadByte c off t = 0#8)) ∧
  (∀ s, (hostClosed s.ev.vf s = true → exec .savelistRead s = .next (hostAnswer s.ev.vf (BitVec.allOnes 64) s)) ∧
    (hostClosed s.ev.vf s = false → ∃ t, exec .savelistRead s = .next t ∧ (fnAt s.ev.vf t).lost = (fnAt s.ev.vf s).lost.drop 1 ∧
      t.outbox = s.outbox ++ [.hostData s.ev.vf (((fnAt s.ev.vf s).lost.head?).getD 0#64)]))

/-! ### Requests, flits and circuits -/

/-- R27 to R36, R41, R42, R206, R318 to R320: a flit crosses one link a slot on its entry, is discarded and counted where
no entry names it, crosses the floor, and is delivered; a standing request leaves in its own slot; a controller performs
a request in its service position, or lists it as waiting; replies are injected, and their data, counts and waits reach
the strand; a withdrawn request has taken no effect.

Completes (exec answers a next state, for every state and operands that meet conditions on them alone): flitInject, flitHop,
floorTransfer, configFlit, memoryRequestArrive, memoryService, refreshService, memoryAccessDone, memoryReplyInject, loadReply,
storeAck, atomicReply, feResend, withdrawal. -/
def Obligations.FlitsAndRequests : Prop :=
  (∀ s f port link rest, tfind s.flits s.ev.id = some f → f.hops = (port, link) :: rest →
    let ok : Bool := match f.circ with
      | none => decide (256 ≤ (hallAt f.hall s).w)
      | some c => entryForwards (entryAt f.node port link (s.wheel % (hallAt f.hall s).w) s) f.vf c f.inp
    (ok = true → port < 4 → ∃ t, exec .flitHop s = .next t ∧
      tfind t.flits s.ev.id = some { f with node := neighbour f.node port, inp := (oppositePort port, link), hops := rest } ∧
      Scheduled .flitHop (s.wheel + 1) (fun a => a.id = s.ev.id) t) ∧
    (ok = true → port = 4 → ∀ r, f.load = .request r → ∃ t, exec .flitHop s = .next t ∧ tfind t.flits s.ev.id = none ∧
      Scheduled .memoryRequestArrive s.wheel (fun a => a.id = r) t) ∧
    (ok = true → port = 5 → ∀ h p rx more, f.floor = some (h, (p, rx) :: more) →
      tget s.floor (floorKey f.hall (channelOf f.node) (s.wheel % 1024)) 0 = 1 + 32 * h + rx →
      ∃ t, exec .flitHop s = .next t ∧ Scheduled .floorTransfer (s.wheel + 12) (fun a => a.id = s.ev.id) t) ∧
    (ok = false → ∃ t, exec .flitHop s = .next t ∧ tfind t.flits s.ev.id = none ∧
      tget t.drops f.node 0 = tget s.drops f.node 0 + 1)) ∧
  (∀ s f h p rx port link rest c, tfind s.flits s.ev.id = some f → f.floor = some (h, (p, rx) :: (port, link) :: rest) →
    f.circ = some c → port < 4 →
    entryForwards (entryAt (attachCore h rx) port link (s.wheel % (hallAt h s).w) s) f.vf c (5, 0) = true →
    ∃ t, exec .floorTransfer s = .next t ∧ ∃ g, tfind t.flits s.ev.id = some g ∧ g.hall = h ∧
      g.node = neighbour (attachCore h rx) port ∧ g.hops = rest ∧ g.floor = none ∧
      Scheduled .flitHop (s.wheel + 1) (fun a => a.id = s.ev.id) t) ∧
  (∀ s r,
    let h := coreHall r.core
    let w := (hallAt h s).w
    let n := transSlot r.core (bankCore (bankOf r.pa.toNat))
    s.ev.n = 1#8 → tfind s.reqs s.ev.id = some r → r.route = .standing → injectionHeld h s = false → 256 ≤ w → n ≠ 0 →
    (s.wheel % w ≠ n → ∃ t, exec .flitInject s = .next t ∧ t.flits = s.flits ∧
      Scheduled .flitInject (nextMod (s.wheel + 1) w n) (fun a => a.id = s.ev.id ∧ a.n = 1#8) t) ∧
    (s.wheel % w = n → standingBusy s.ev.id r s = false → standingHeld r.core s = false →
      ∃ t, exec .flitInject s = .next t ∧ ∃ f, tfind t.flits s.nextId = some f ∧
        f.load = .request s.ev.id ∧ f.standing = true ∧ f.inj = s.wheel ∧ f.vf = r.vf)) ∧
  (∀ s k e, s.ev.pairs = [(k, e)] → ∃ t, exec .configFlit s = .next t ∧ tfind t.entries k = some (BitVec.ofNat 32 e) ∧
    ∀ j, j ≠ k → tfind t.entries j = tfind s.entries j) ∧
  (∀ s r, s.ev.n = 0#8 → tfind s.reqs s.ev.id = some r → r.route = .standing → twoFlits r = false →
    hasStanding (bankHall (bankOf r.pa.toNat)) s = true →
    ∃ t, exec .memoryRequestArrive s = .next t ∧ Scheduled .memoryService
      (nextMod (s.wheel + bankFloor (bankOf r.pa.toNat)) 1024 (standingPos r)) (fun a => a.id = s.ev.id) t) ∧
  (∀ s r,
    let pa := r.pa.toNat
    tfind s.reqs s.ev.id = some r → r.tagchk = false → r.tagop = false → BankQuiet pa s →
    (r.kind = 0#4 → memErrAt pa r.size s = false → ∃ t, exec .memoryService s = .next t ∧ SameBytes s t ∧
      (reqAt s.ev.id t).value = BitVec.ofNat 256 (memVal (keyOf r.vf s) pa r.size s) ∧ (reqAt s.ev.id t).status = 0#8 ∧
      Scheduled .memoryAccessDone (s.wheel + bankA (bankOf pa)) (fun a => a.id = s.ev.id) t) ∧
    (r.kind = 1#4 → ∃ t, exec .memoryService s = .next t ∧ t.mem = (memWrite (keyOf r.vf s) pa (toBytes r.size r.data.toNat) s).mem ∧
      (reqAt s.ev.id t).status = 0#8 ∧ Scheduled .memoryAccessDone (s.wheel + bankA (bankOf pa)) (fun a => a.id = s.ev.id) t) ∧
    (r.kind = 2#4 → 24 ≤ r.op.toNat → (performReq r (charge (payer r s) 0 4 (bankOf pa) s)).2.1 = 3 →
      ∃ t, exec .memoryService s = .next t ∧ SameBytes s t ∧
        (reqAt s.ev.id t).waiting = true ∧ (bankAt (bankOf pa) t).waits = [s.ev.id])) ∧
  (∀ s r, tfind s.reqs s.ev.id = some r → r.route = .near → r.kind = 0#4 → r.peer = none →
    ∃ t, exec .memoryAccessDone s = .next t ∧ t.wheel = s.wheel ∧ Scheduled .loadReply (s.wheel + 1) (fun a => a.id = s.ev.id) t) ∧
  (∀ s r,
    let b := bankOf r.pa.toNat
    tfind s.reqs s.ev.id = some r → r.route = .standing → transSlot r.core (bankCore b) ≠ 0 →
    256 ≤ (hallAt (coreHall (bankCore b)) s).w → injectionHeld (bankHall b) s = false → slotTaken (bankCore b) s = false →
    secondDue (bankCore b) none s = false →
    ∃ t, exec .memoryReplyInject s = .next t ∧ ∃ f, tfind t.flits s.nextId = some f ∧ f.load = .reply s.ev.id ∧ f.dstCore = r.core) ∧
  (∀ s r,
    let k := reqSid r
    tfind s.reqs s.ev.id = some r → r.status = 0#8 → (∀ g, (strandAt k s).wait ≠ .reply g) →
    groupReqs r.grp (setReq s.ev.id { r with arrived := true } s) = [(s.ev.id, { r with arrived := true })] →
    (r.kind = 0#4 → 0 < r.reg → r.reg < 32 → ∃ t, exec .loadReply s = .next t ∧
      readS k (BitVec.ofNat 5 r.reg) t = loadedWord r ∧ fullBit k r.reg t = true ∧ r.reg ∉ (strandAt k t).pending ∧
      (strandAt k t).loads = (strandAt k s).loads - 1 ∧ groupReqs r.grp t = []) ∧
    (r.kind = 1#4 → r.waiting = false → ∃ t, exec .storeAck s = .next t ∧ (strandAt k t).stores = (strandAt k s).stores - 1 ∧
      (strandAt k t).loads = (strandAt k s).loads ∧ groupReqs r.grp t = [])) ∧
  (∀ s r,
    let k := reqSid r
    tfind s.reqs s.ev.id = some r → (r.status = 255#8 → exec .atomicReply s = .next s) ∧
    (r.status = 0#8 → (strandAt k s).wait = .reply r.grp →
      groupReqs r.grp (setReq s.ev.id { r with arrived := true } s) = [(s.ev.id, { r with arrived := true })] →
      ∃ t, exec .atomicReply s = .next t ∧ (strandAt k t).wait = .answered r.grp r.value 0#8)) ∧
  (∀ s r, tfind s.reqs s.ev.id = some r → r.route = .near →
    ∃ t, exec .feResend s = .next t ∧ Scheduled .memoryRequestArrive s.wheel (fun a => a.id = s.ev.id) t) ∧
  (∀ s r, tfind s.reqs s.ev.id = some r → (r.waiting = false → exec .withdrawal s = .next s) ∧
    (r.waiting = true → ∃ t, exec .withdrawal s = .next t ∧ SameBytes s t ∧ groupReqs r.grp t = [] ∧
      (strandAt (reqSid r) t).wait = .none ∧ s.ev.id ∉ (bankAt (bankOf r.pa.toNat) t).waits)) ∧
  (∀ s, exec .refreshService s = .next s)

/-- R25, R37 to R43: each record of a function's ring is answered with its status, the head one on and cause 1; a torn-down
circuit is ending, a wheel change is scheduled, a read entry is shown; paths become live, closing and gone at their
turns, and the circuit goes with its last path.

Completes (exec answers a next state, for every state and operands that meet conditions on them alone):
withdrawableSuspendBegin, withdrawableSuspendEnd, cmSetup, cmTeardown, cmResize, cmSetWheel, cmReadEntry, circuitActivate,
teardownSuspend, teardownRemove, wheelChange. -/
def Obligations.CircuitManagement : Prop :=
  (∀ s,
    let vf := s.ev.vf
    let r := cmRecord vf s
    let bad := recordBad r (cmAddr vf s) s
    Memory.wf s.mem = true →
    (RingHas .cmSetup s → (∃ t, exec .cmSetup s = .next t ∧ RingAnswered (if bad then 5 else (cmPlace vf r false s).1.status) s t ∧
      ∀ c, bad = false → (cmPlace vf r false s).1 = ⟨0, some c, none⟩ → (circAt c t).isSome = true)) ∧
    (RingHas .cmResize s → (∃ t, exec .cmResize s = .next t ∧ RingAnswered (if bad then 5 else (cmPlace vf r true s).1.status) s t)) ∧
    (RingHas .cmTeardown s → (bad = true ∨ circAt (bitsN r 4 11) s = none → (∃ t, exec .cmTeardown s = .next t ∧ RingAnswered 5 s t)) ∧
      (∀ v, bad = false → circAt (bitsN r 4 11) s = some v → v.ending = false → v.vf.toNat = bitsN r 15 7 → vf = 0#7 ∨ vf = v.vf →
        ∃ t, exec .cmTeardown s = .next t ∧
          ((RingAnswered 0 s t ∧ ∃ w, circAt (bitsN r 4 11) t = some w ∧ w.ending = true) ∨ RingAnswered 3 s t))) ∧
    (RingHas .cmSetWheel s → (bad = true ∨ vf ≠ 0#7 → (∃ t, exec .cmSetWheel s = .next t ∧ RingAnswered 5 s t)) ∧
      (bad = false → bitsN r 68 8 ≠ 0 → ∃ t, exec .cmSetWheel s = .next t ∧ RingAnswered 5 s t) ∧
      (bad = false → vf = 0#7 → bitsN r 68 8 = 0 → (∃ j < 8, bitsN r 184 12 = 2 ^ (j + 3)) →
        (hallHasCircuit (bitsN r 64 4) s = true → (∃ t, exec .cmSetWheel s = .next t ∧ RingAnswered 1 s t)) ∧
        (hallHasCircuit (bitsN r 64 4) s = false → namedTurn r s ≤ (s.wheel / 1024 : Nat) → (∃ t, exec .cmSetWheel s = .next t ∧ RingAnswered 3 s t)) ∧
        (hallHasCircuit (bitsN r 64 4) s = false → (s.wheel / 1024 : Nat) < namedTurn r s → (∃ t, exec .cmSetWheel s = .next t ∧
          RingAnswered 0 s t ∧ Scheduled .wheelChange (1024 * (namedTurn r s).toNat)
            (fun a => a.hall.toNat = bitsN r 64 4 ∧ a.v.toNat = bitsN r 184 12) t)))) ∧
    (RingHas .cmReadEntry s → (bad = true ∨ 6 ≤ bitsN r 208 3 → (∃ t, exec .cmReadEntry s = .next t ∧ RingAnswered 5 s t)) ∧
      (bad = false → bitsN r 208 3 < 6 → bitsN r 215 10 < (hallAt (bitsN r 196 4) s).w →
        (∃ t, exec .cmReadEntry s = .next t ∧ RingAnswered 0 s t ∧
          let e := entryAt (256 * bitsN r 196 4 + bitsN r 200 8) (bitsN r 208 3) (bitsN r 211 4) (bitsN r 215 10) s
          memVal (keyOf vf s) (cmAddr vf s + 32) 4 t =
            (if vf = 0#7 ∨ bitB e 0 = false ∨ bitB e 15 = true ∨ bitsN e 8 7 = vf.toNat then e.toNat else 1))))) ∧
  (∀ s,
    let named (j : Nat) : Bool := (s.ev.pairs.map Prod.fst).contains j
    (∃ t, exec .circuitActivate s = .next t ∧ Staged s.ev.id (fun j x => if named j = true ∧ x = .pending then .live else x) s t) ∧
    (∃ t, exec .teardownSuspend s = .next t ∧ Staged s.ev.id (fun j x => if named j then .closing else x) s t) ∧
    (∀ v, circAt s.ev.id s = some v →
      ((∀ j < v.paths.length, named j = true) → (∃ t, exec .teardownRemove s = .next t ∧ circAt s.ev.id t = none)) ∧
      ((∃ j p, v.paths[j]? = some p ∧ named j = false ∧ p.stage ≠ .gone) →
        (∃ t, exec .teardownRemove s = .next t ∧ Staged s.ev.id (fun j x => if named j then .gone else x) s t)))) ∧
  (∀ s, (∃ t, exec .wheelChange s = .next t ∧ (hallAt s.ev.hall.toNat t).w = s.ev.v.toNat)) ∧
  (∀ s, (s.ev.stack = false → (∃ t, exec .withdrawableSuspendBegin s = .next t ∧ (islandAt s.ev.id t).susp = true) ∧
      (∃ t, exec .withdrawableSuspendEnd s = .next t ∧ (islandAt s.ev.id t).susp = false)) ∧
    (s.ev.stack = true → (∃ t, exec .withdrawableSuspendBegin s = .next t ∧ (islandAt s.ev.id t).stackSusp = true) ∧
      (∃ t, exec .withdrawableSuspendEnd s = .next t ∧ (islandAt s.ev.id t).stackSusp = false)))

/-- R45 to R48, R112: a hall or port out of lock is reported, its floor entries go at the next boundary and come back with
its lock; a port delivers a flit in order after its delay, loses lock at the third failed flit in 1,024 slots, which holds the
partitions that use it, slews above four slots of offset, and repeats what is not acknowledged; a partition is held and
released at a boundary.

Completes (exec answers a next state, for every state and operands that meet conditions on them alone): hallLockLoss,
floorEntryClear, hallRelock, floorEntryRestore, podFlitReceive, podAck, podLockLoss, podOpticalLock, podResume, partitionHold,
partitionRelease. -/
def Obligations.LossOfLock : Prop :=
  (∀ s,
    let h := s.ev.hall.toNat
    let x := hallAt h s
    (∃ t, exec .hallLockLoss s = .next t ∧ (hallAt h t).lock = .lost ∧ Caused 0 2 t ∧
      Scheduled .floorEntryClear (nextBoundary s) (fun a => a.hall = s.ev.hall) t) ∧
    (x.lock = .locked → exec .floorEntryClear s = .next s ∧ exec .hallRelock s = .next s) ∧
    (x.lock ≠ .locked → (∃ t, exec .floorEntryClear s = .next t ∧ (∀ e ∈ t.floor, e.1 / 1024 / 32 ≠ h) ∧
        ∀ e ∈ s.floor, e.1 / 1024 / 32 = h → e ∈ (hallAt h t).savedFloor) ∧
      (∃ t, exec .hallRelock s = .next t ∧ (hallAt h t).lock = .relocking ∧ (hallAt h t).holdUntil = s.wheel + x.w ∧
        Scheduled .floorEntryRestore (nextBoundary s + 1024) (fun a => a.hall = s.ev.hall) t)) ∧
    (x.lock = .relocking → (∃ t, exec .floorEntryRestore s = .next t ∧ (hallAt h t).lock = .locked ∧ Caused 0 2 t ∧
      ∀ e ∈ x.savedFloor, (tfind t.floor e.1).isSome = true))) ∧
  (∀ s,
    let i := s.ev.n.toNat % 8
    let p := portAt i s
    (p.state = .locked → s.ev.flag = true → s.ev.v.setWidth 16 = p.expect →
      (∃ t, exec .podFlitReceive s = .next t ∧ (portAt i t).expect = p.expect + 1#16 ∧
        ∀ v h, circAt s.ev.id s = some v → v.pod = some h → h.outward = false → h.port = i →
          Scheduled .flitInject (max s.wheel (s.ev.w.toNat + p.delay)) (fun a => a.id = s.ev.id ∧ a.n = 4#8) t)) ∧
    (p.state = .locked → s.ev.flag = true → s.ev.v.setWidth 16 ≠ p.expect → exec .podFlitReceive s = .next s) ∧
    (p.state = .locked → s.ev.flag = false → 2 ≤ (p.fails.filter (fun n => decide (s.wheel < n + 1024))).length →
      (∃ t, exec .podFlitReceive s = .next t ∧ Scheduled .podLockLoss s.wheel (fun a => a.n = s.ev.n) t)) ∧
    (p.state ≠ .locked → exec .podFlitReceive s = .next s) ∧
    (∃ t, exec .podAck s = .next t ∧ ∀ e ∈ (portAt i t).replay, e ∈ p.replay ∧
      2 ^ 15 ≤ (s.ev.v.toNat % 2 ^ 16 + 2 ^ 16 - e.1 % 2 ^ 16) % 2 ^ 16) ∧
    (p.state = .locked → (∃ t, exec .podLockLoss s = .next t ∧ (portAt i t).state = .lost ∧ Caused 0 2 t ∧
      ∀ n < 16, regN 0 (0x2200 + 8 * n) 23 1 s = 1 → partPort n i s = true →
        Scheduled .partitionHold (nextBoundary s) (fun a => a.n.toNat = n ∧ a.v = 2#64) t)) ∧
    (p.state ≠ .locked → exec .podLockLoss s = .next s) ∧
    (p.state = .locked ∨ bootOutcome 10 s ≠ 1 → exec .podOpticalLock s = .next s) ∧
    (p.state ≠ .locked → bootOutcome 10 s = 1 → (∃ t, exec .podOpticalLock s = .next t ∧ (portAt i t).delay = Config.podDelay i ∧
      (portAt i t).state = (if 4 < s.ev.v.toNat then .slew else .retrain) ∧ (portAt i t).offset = s.ev.v.toNat)) ∧
    (p.state = .retrain ∨ p.state = .slew → (∃ t, exec .podResume s = .next t ∧ (portAt i t).state = .locked ∧ Caused 0 2 t ∧
      (∀ e ∈ p.replay, Out.podFlit (BitVec.ofNat 3 i) (BitVec.ofNat 16 e.1) e.2 ∈ t.outbox) ∧ (portAt i t).offset ≤ 4))) ∧
  (∀ s,
    let n := s.ev.n.toNat
    let p := partAt n s
    (p.held = true → exec .partitionHold s = .next s) ∧
    (p.held = false → (∃ t, exec .partitionHold s = .next t ∧ (partAt n t).held = true ∧ (partAt n t).heldAt = s.wheel)) ∧
    (p.held = false ∨ partBusy n s = true → exec .partitionRelease s = .next s) ∧
    (p.held = true → partBusy n s = false → (∃ t, exec .partitionRelease s = .next t ∧ (partAt n t).held = false ∧
      (partAt n t).heldSlots = p.heldSlots + (s.wheel - p.heldAt))))

/-! ### The host's side -/

/-- R50, R51, R55, R56, R62: a host access within MW1 is translated at the aperture's base and reads or writes memory under
the function's key; one that faults reads all ones, sets INTCAUSE bit 4 and leaves its offset in HOSTFAULT until it is read;
past the aperture (log 44), and of a function in a reset, reads give all ones and writes nothing.

R49, R56, R57, R63, R166: enabling a function gives it a new key and its MW1; a function-level reset stops its queues with
code 5 and its strands, and at its end leaves no strand, launch or register of it and a new key; PODID and PAIRGRANT are the
hypervisor's, a grant's status says whether it is in use, and the peer's grant settles it.

Completes (exec answers a next state, for every state and operands that meet conditions on them alone): hostMw1Read,
hostMw1Write, hostfaultRead, functionLevelReset, podidWrite, pairgrantWrite, pairingMatch, functionEnable. -/
def Obligations.HostAccessesAndFunctions : Prop :=
  ((∀ s,
      let vf := s.ev.vf
      let at_ (u : Use) : Option (List Nat) := hostBytes vf u (apBase vf s + s.ev.v.toNat) s (min 8 s.ev.n.toNat)
      (hostClosed vf s = true ∨ (inStaging vf s = false ∧ inMw1 vf s.ev.v.toNat (min 8 s.ev.n.toNat) s = false) →
        exec .hostMw1Write s = .next s ∧
        ∃ t, exec .hostMw1Read s = .next t ∧ t.outbox = s.outbox ++ [.hostData vf (BitVec.allOnes 64)] ∧ SameBytes s t) ∧
      (hostClosed vf s = false → inStaging vf s = false → inMw1 vf s.ev.v.toNat (min 8 s.ev.n.toNat) s = true →
        (∀ ps, at_ .read = some ps → ∃ t, exec .hostMw1Read s = .next t ∧ SameBytes s t ∧ t.outbox = s.outbox ++
          [.hostData vf (BitVec.ofNat 64 (ofBytes (ps.map (fun p => memByte (keyOf vf s) p s))))]) ∧
        (at_ .read = none → ∃ t, exec .hostMw1Read s = .next t ∧ SameBytes s t ∧ Caused vf 4 t ∧ (fnAt vf t).faulted = true ∧
          t.outbox.getLast? = some (.hostData vf (BitVec.allOnes 64)) ∧
          reg vf 0x1008 t = (if (fnAt vf s).faulted then reg vf 0x1008 s else s.ev.v)) ∧
        (∀ p, s.ev.n = 1#8 → at_ .write = some [p] → Memory.wf s.mem = true → memErrAt p 1 s = false → BankQuiet p s →
          ∃ t, exec .hostMw1Write s = .next t ∧ memByte (keyOf vf s) p t = BitVec.ofNat 8 s.ev.w.toNat ∧
            (∀ a, a ≠ p → memByte (keyOf vf s) a t = memByte (keyOf vf s) a s) ∧
            (∀ key a, a / 32 ≠ p / 32 → memByte key a t = memByte key a s)) ∧
        (at_ .write = none → ∃ t, exec .hostMw1Write s = .next t ∧ SameBytes s t ∧ Caused vf 4 t ∧
          reg vf 0x1008 t = (if (fnAt vf s).faulted then reg vf 0x1008 s else s.ev.v)))) ∧
    (∀ s, (hostClosed s.ev.vf s = false → ∃ t, exec .hostfaultRead s = .next t ∧
        t.outbox = s.outbox ++ [.hostData s.ev.vf (reg s.ev.vf 0x1008 s)] ∧
        reg s.ev.vf 0x1008 t = 0#64 ∧ (fnAt s.ev.vf t).faulted = false) ∧
      (hostClosed s.ev.vf s = true →
        exec .hostfaultRead s = .next (hostAnswer s.ev.vf (BitVec.allOnes 64) s)))) ∧
  ((∀ s, (s.ev.vf = 0#7 ∨ (fnAt s.ev.vf s).enabled = true ∨ s.phase.phase = .recovery → exec .functionEnable s = .next s) ∧
      (s.ev.vf ≠ 0#7 → (fnAt s.ev.vf s).enabled = false → s.phase.phase ≠ .recovery →
        ∃ t, exec .functionEnable s = .next t ∧
        (fnAt s.ev.vf t).enabled = true ∧ (fnAt s.ev.vf t).kgen = (fnAt s.ev.vf s).kgen + 1 ∧
        (26 ≤ s.ev.n.toNat → s.ev.n.toNat ≤ 40 → mw1Size s.ev.vf t = 2 ^ s.ev.n.toNat) ∧
        Scheduled .energyUpdate (s.wheel + energyPeriod s.ev.vf s) (fun a => a.vf = s.ev.vf) t)) ∧
    (∀ s,
      let vf := s.ev.vf
      (vf = 0#7 → exec .functionLevelReset s = .next s) ∧
      (vf ≠ 0#7 → s.ev.n = 0#8 → ∃ t, exec .functionLevelReset s = .next t ∧
        hostClosed vf t = true ∧ (fnAt vf t).stopped = true ∧
        (∀ q < 64, regN vf (qoff q + 24) 0 8 t = 5 ∧ regN vf (qoff q + 24) 8 1 t = 1) ∧
        (∀ e ∈ t.strands, sidVf e.1 = vf → e.2.run = .exited ∧ e.2.slot = none) ∧
        Scheduled .functionLevelReset (nextBoundary s) (fun a => a.vf = vf ∧ a.n = 1#8) t) ∧
      (vf ≠ 0#7 → s.ev.n ≠ 0#8 →
        (∀ e ∈ s.quads, ∀ k, e.2.running = some k → k.vf ≠ vf) → (∀ e ∈ s.reqs, e.2.vf ≠ vf) → (∀ e ∈ s.circs, e.2.vf ≠ vf) →
        ∃ t, exec .functionLevelReset s = .next t ∧ (fnAt vf t).enabled = false ∧ (fnAt vf t).resetting = false ∧
          (fnAt vf t).kgen = (fnAt vf s).kgen + 1 ∧ (∀ e ∈ t.strands, sidVf e.1 ≠ vf) ∧ (∀ e ∈ t.launches, e.2.vf ≠ vf) ∧
          (∀ d ∈ t.agenda, d.args.vf = vf → d.ev = .vfStopApply ∨ d.ev = .vfResumeApply) ∧
          ∀ o < 2 ^ 20, reg vf o t = regReset vf.toNat o)) ∧
    (∀ s, (s.ev.vf ≠ 0#7 ∨ s.phase.phase = .recovery → exec .podidWrite s = .next s ∧ exec .pairgrantWrite s = .next s) ∧
      (s.ev.vf = 0#7 → s.phase.phase ≠ .recovery →
        (∃ t, exec .podidWrite s = .next t ∧ regN 0 0x60100 0 6 t = bitsN s.ev.v 0 6 ∧
          regN 0 0x60100 8 1 t =
            (if bitB s.ev.v 8 ∧ bootByte 10 s % 4 ≠ 1 then regN 0 0x60100 8 1 s else bitsN s.ev.v 8 1)) ∧
        ∀ g < 64, s.ev.id = 0x60200 + 16 * g →
          let lf : BitVec 7 := BitVec.ofNat 7 (bitsN s.ev.v 6 7)
          let bad : Bool := bitsN s.ev.v 20 9 == 0 || decide (256 < bitsN s.ev.v 20 9) || (lf != 0#7 && !(fnAt lf s).enabled)
          ∃ t, exec .pairgrantWrite s = .next t ∧ reg 0 s.ev.id t = s.ev.v &&& 0x800000001FFFFFFF#64 ∧
            regN 0 (0x60208 + 16 * g) 0 2 t = (if bitB s.ev.v 63 = false then 0 else if bad then 3 else 1) ∧
            (bitB s.ev.v 63 = false → ∀ n v h, circAt n s = some v → v.pod = some h → h.grant = g → v.ending = false →
              ∃ w, circAt n t = some w ∧ w.ending = true))) ∧
    (∀ s,
      let g := s.ev.id % 64
      let ready : Prop := regN 0 0x60100 8 1 s = 1 ∧ regN 0 (0x60200 + 16 * g) 63 1 s = 1 ∧ regN 0 (0x60208 + 16 * g) 0 2 s = 1
      (ready → ∃ t, exec .pairingMatch s = .next t ∧ regN 0 (0x60208 + 16 * g) 0 2 t = (if s.ev.flag then 2 else 3) ∧
        tget t.peerMax g 256 = s.ev.v.toNat) ∧
      (¬ ready → exec .pairingMatch s = .next s)))

/-- R5, R52 to R55, R138, R151: a register write changes the fields its writer may write and no other register, or
starts the event the register is defined by; one to a function in a reset is discarded; LQBASE takes only its enable while
enabled and stops the queue on a ring size outside its range; LQTAIL moves and LQSTAT.err clears; INTCAUSE bits not written
stay, and a written one clears unless its cause persists (log 36); TRANSMAP comes into force at the boundary.

R5, R50: a read of MW0 shows write-only fields as zero, reserved pages, and to a VF the PF's registers, as zero, and a
function in a reset as all ones.

Completes (exec answers a next state, for every state and operands that meet conditions on them alone): lqbaseWrite,
lqtailWrite, lqstatErrClear, intcauseClear, registerWrite. -/
def Obligations.RegisterWrites : Prop :=
  (∀ s,
    let vf := s.ev.vf
    let off := s.ev.id
    let m := rwMask vf (vf == 0#7 || s.ev.flag) off s
    (s.ev.n = 1#8 → ∃ t, exec .registerWrite s = .next t ∧
      (hallAt ((off - 0x8000) / 1024 % 16) t).transmap = some (mapBytes ((off - 0x8000) / 1024 % 16) s)) ∧
    (s.ev.n ≠ 1#8 → hostClosed vf s = true → exec .registerWrite s = .next s) ∧
    (s.ev.n ≠ 1#8 → hostClosed vf s = false →
      (off = 0x1010 → ∃ t, exec .registerWrite s = .next t ∧ reg vf 0x1010 t = s.ev.v &&& 0x000FFFFFFFFFE001#64) ∧
      (off = 0x1108 → ∃ t, exec .registerWrite s = .next t ∧ reg vf 0x1108 t = s.ev.v &&& 0x00FFFFFFFFFFFFFC#64) ∧
      (off ≠ 0x1010 → off ≠ 0x1108 →
        (∀ e ∈ ownEvents off s.ev.v, ∃ t, exec .registerWrite s = .next t ∧ Scheduled e s.wheel (fun a => a = s.ev) t) ∧
        (ownEvents off s.ev.v = [] → off ≠ 0x40240 →
          (m = 0#64 → exec .registerWrite s = .next s) ∧
          (m ≠ 0#64 → ∃ t, exec .registerWrite s = .next t ∧ reg vf off t = (reg vf off s &&& ~~~m) ||| (s.ev.v &&& m) ∧
            ∀ vf' o, (off < 0x20000 ∨ 0x20800 ≤ off) → vf'.toNat * 2 ^ 20 + o ≠ vf.toNat * 2 ^ 20 + off →
              reg vf' o t = reg vf' o s))))) ∧
  (∀ s,
    let vf := s.ev.vf
    let q := offQueue s.ev.id
    let o := qoff q
    (hostClosed vf s = true → ∀ i ∈ [Instr.lqbaseWrite, .lqtailWrite, .lqstatErrClear, .intcauseClear], exec i s = .next s) ∧
    (hostClosed vf s = false →
      (regN vf o 63 1 s = 1 → ∃ t, exec .lqbaseWrite s = .next t ∧
        reg vf o t = setBits (reg vf o s) 63 1 (bitsN s.ev.v 63 1)) ∧
      (regN vf o 63 1 s = 0 → ∃ t, exec .lqbaseWrite s = .next t ∧ reg vf o t = s.ev.v &&& 0x80FFFFFFFFFFF01F#64 ∧
        (bitB s.ev.v 63 = true → bitsN s.ev.v 0 5 < 4 ∨ 16 < bitsN s.ev.v 0 5 →
          regN vf (o + 24) 0 8 t = 4 ∧ regN vf (o + 24) 8 1 t = 1 ∧ Caused vf 0 t) ∧
        (bitB s.ev.v 63 = true → 4 ≤ bitsN s.ev.v 0 5 → bitsN s.ev.v 0 5 ≤ 16 →
          Scheduled .queuePacketFetch (s.wheel + 1) (fun a => a.vf = vf ∧ a.q.toNat = q) t)) ∧
      (∃ t, exec .lqtailWrite s = .next t ∧ regN vf (o + 8) 0 32 t = bitsN s.ev.v 0 32 ∧
        Scheduled .queuePacketFetch (s.wheel + 1) (fun a => a.vf = vf ∧ a.q.toNat = q) t) ∧
      (bitB s.ev.v 8 = false → exec .lqstatErrClear s = .next s) ∧
      (bitB s.ev.v 8 = true → ∃ t, exec .lqstatErrClear s = .next t ∧ regN vf (o + 24) 8 1 t = 0 ∧
        regN vf (o + 24) 0 8 t = regN vf (o + 24) 0 8 s ∧
        Scheduled .queuePacketFetch (s.wheel + 1) (fun a => a.vf = vf ∧ a.q.toNat = q) t) ∧
      (∃ t, exec .intcauseClear s = .next t ∧ ∀ b < 9,
        (bitB s.ev.v b = false → regN vf 0x28000 b 1 t = regN vf 0x28000 b 1 s) ∧
        (bitB s.ev.v b = true → regN vf 0x28000 b 1 t =
          (if regN vf 0x28000 b 1 s = 1 ∧ causeHolds vf b s = true then 1 else 0))))) ∧
  (∀ s vf off, (hostClosed vf s = true → mw0Read vf off s = BitVec.allOnes 64) ∧
    (hostClosed vf s = false → mw0Read vf off s &&& woMask off = 0#64 ∧
      (0x70000 ≤ off ∨ (vf ≠ 0#7 ∧ pfOnly off = true) → mw0Read vf off s = 0#64)))

/-! ### Start, recovery, attestation and snapshots -/

/-- R58 to R62, R64: a start runs step by step, each recorded started before it runs and passed or failed after, and a
failure begins a start anew; the last step releases the module with empty memory; a step that may not run again goes to
recovery; a power loss keeps the flash, the fused minimum and the boot record; RECGO checks the staged image, and a flash
write done starts the module afresh with the record cleared; in recovery a record's byte may be cleared.

R64 to R67: a report is asked for, refused while one is made, and then stands in the report's area with its length; a
snapshot is taken at a boundary with the register caches written back, holds the module's state at its destination, is
released, refused where busy, absent, of another configuration, of another module or damaged, and restored whole; a lost
host link ends a snapshot to the host.

Completes (exec answers a next state, for every state and operands that meet conditions on them alone): moduleStart,
recgoWrite, recoveryFlashDone, bootrecClear, attreqWrite, attestationReportReady, snapshotTake, snapshotTaken,
snapshotRelease, snapshotRestore, snapshotRestored, hostLinkLoss, lossOfPower. -/
def Obligations.StartAttestationAndSnapshots : Prop :=
  ((∀ s, (s.phase.phase ≠ .off → exec .moduleStart s = .next s) ∧
      (s.phase.phase = .off → s.ev.n = 0#8 → bootStarted 1 s = false →
        (∀ c, stepChoice 1 s = .run c → ∃ t, exec .moduleStart s = .next t ∧ t.phase.phase = .off ∧ bootStarted 1 t = true ∧
          bootCons 1 t = c % 2 ∧ Scheduled .moduleStart (s.wheel + 1) (fun a => a.n = 1#8 ∧ a.v = s.ev.v) t) ∧
        (stepChoice 1 s = .recovery → ∃ t, exec .moduleStart s = .next t ∧ t.phase.phase = .recovery)) ∧
      (∀ k, s.phase.phase = .off → 1 ≤ k → k ≤ 11 → s.ev.n.toNat = k →
        (bootStarted k s = false → exec .moduleStart s = .next s) ∧
        (bootStarted k s = true → stepWorks k s.ev.v s = false → ∃ t, exec .moduleStart s = .next t ∧
          t.phase.phase = .off ∧ t.phase.flash = s.phase.flash ∧ t.phase.minSvn = s.phase.minSvn ∧
          bootByte k t = 2 + 8 * bootCons k s + 16 * min 3 (bootFails k s + 1) ∧
          Scheduled .moduleStart 0 (fun a => a.n = 0#8) t) ∧
        (bootStarted k s = true → stepWorks k s.ev.v s = true → ∃ t, exec .moduleStart s = .next t ∧
          bootByte k t = 1 + 8 * bootCons k s ∧
          (k = 1 → t.phase.minSvn = max s.phase.minSvn (imgNat s.phase.flash 8 4)) ∧
          (∀ c, k < 11 → stepChoice (k + 1) s = .run c → bootStarted (k + 1) t = true ∧ t.phase.phase = .off ∧
            Scheduled .moduleStart (s.wheel + 1) (fun a => a.n.toNat = k + 1 ∧ a.v = s.ev.v) t) ∧
          (k < 11 → stepChoice (k + 1) s = .recovery → t.phase.phase = .recovery) ∧
          (k = 11 → t.phase.phase = .running ∧ t.mem = [])))) ∧
    (∀ s, ∃ t, exec .lossOfPower s = .next t ∧ t.phase.phase = .off ∧ t.phase.minSvn = s.phase.minSvn ∧ t.mem = [] ∧
      t.strands = [] ∧ t.launches = [] ∧ t.agenda = [] ∧ (s.phase.flashing = false → t.phase.flash = s.phase.flash) ∧
      ∀ n, 1 ≤ n → n ≤ 11 → bootByte n t = bootByte n s) ∧
    (∀ s,
      let c := imageCode (staged s) s.phase.minSvn
      (s.ev.vf ≠ 0#7 ∨ bitB s.ev.v 0 = false → exec .recgoWrite s = .next s) ∧
      (s.ev.vf = 0#7 → bitB s.ev.v 0 = true →
        (s.phase.phase ≠ .recovery → ∃ t, exec .recgoWrite s = .next t ∧ regN 0 0x60808 0 4 t = 10) ∧
        (s.phase.phase = .recovery → s.phase.flashing = true → exec .recgoWrite s = .next s) ∧
        (s.phase.phase = .recovery → s.phase.flashing = false → c ≠ 0 →
          ∃ t, exec .recgoWrite s = .next t ∧ regN 0 0x60808 0 4 t = c) ∧
        (s.phase.phase = .recovery → s.phase.flashing = false → c = 0 →
          ∃ t, exec .recgoWrite s = .next t ∧ regN 0 0x60808 0 4 t = 2 ∧
          t.phase.flashing = true ∧ t.phase.checked = staged s ∧ ∃ d ∈ t.agenda, d.ev = .recoveryFlashDone))) ∧
    (∀ s, (s.phase.flashing = false → exec .recoveryFlashDone s = .next s) ∧
      (s.phase.flashing = true → s.ev.flag = true → ∃ t, exec .recoveryFlashDone s = .next t ∧ regN 0 0x60808 0 4 t = 9 ∧
        t.phase.flash = s.phase.flash) ∧
      (s.phase.flashing = true → s.ev.flag = false → ∃ t, exec .recoveryFlashDone s = .next t ∧
        t.phase.flash = s.phase.checked ∧ t.phase.phase = .off ∧ (∀ n, 1 ≤ n → n ≤ 11 → bootByte n t = 0) ∧
        Scheduled .moduleStart 0 (fun a => a.n = 0#8) t)) ∧
    (∀ s n, 1 ≤ n → n ≤ 11 → s.ev.id = 0x60000 + (n - 1) →
      (s.ev.vf = 0#7 → s.phase.phase = .recovery → bitsN s.ev.v 0 8 = 0 →
        ∃ t, exec .bootrecClear s = .next t ∧ bootByte n t = 0 ∧ ∀ m, 1 ≤ m → m ≤ 11 → m ≠ n → bootByte m t = bootByte m s) ∧
      (s.ev.vf ≠ 0#7 ∨ s.phase.phase ≠ .recovery ∨ bitsN s.ev.v 0 8 ≠ 0 → exec .bootrecClear s = .next s))) ∧
  ((∀ s,
      let vf := s.ev.vf
      let due : Bool := s.agenda.any (fun d => d.ev == .attestationReportReady && d.args.vf == vf)
      (hostClosed vf s = true ∨ bitB s.ev.v 0 = false → exec .attreqWrite s = .next s) ∧
      (hostClosed vf s = false → bitB s.ev.v 0 = true → due = true →
        ∃ t, exec .attreqWrite s = .next t ∧ regN vf 0x50028 0 2 t = 3) ∧
      (hostClosed vf s = false → bitB s.ev.v 0 = true → due = false →
        ∃ t, exec .attreqWrite s = .next t ∧ regN vf 0x50028 0 2 t = 1 ∧
        ∃ d ∈ t.agenda, d.ev = .attestationReportReady ∧ d.args.vf = vf) ∧
      ∃ t, exec .attestationReportReady s = .next t ∧
        regN vf 0x50028 0 2 t = 2 ∧ regN vf 0x50030 0 16 t = (reportBytes vf s).1.length % 2 ^ 16 ∧ Caused vf 5 t ∧
        ∀ i w, (bytesWords (reportBytes vf s).1.length (reportBytes vf s).1)[i]? = some w → reg vf (0x51000 + 8 * i) t = w) ∧
    (∀ s, (s.ev.flag = false → s.ev.vf ≠ 0#7 ∨ s.phase.phase = .recovery → exec .snapshotTake s = .next s) ∧
      (s.ev.flag = false → s.ev.vf = 0#7 → s.phase.phase ≠ .recovery →
        (s.snap.busy = true → ∃ t, exec .snapshotTake s = .next t ∧ regN 0 0x60618 0 4 t = 11) ∧
        (s.snap.busy = false → ∃ t, exec .snapshotTake s = .next t ∧ regN 0 0x60618 0 4 t = 1 ∧ t.snap.busy = true ∧
          t.snap.host = bitB s.ev.v 2 ∧ t.snap.place = imageKey (bitB s.ev.v 2) s ∧
          Scheduled .snapshotTake (nextBoundary s) (fun a => a.flag = true) t ∧
          ∀ n < 16, regN 0 (0x2200 + 8 * n) 23 1 s = 1 →
            Scheduled .partitionHold (nextBoundary s) (fun a => a.n.toNat = n ∧ a.v = 5#64) t)) ∧
      (s.ev.flag = true → (∀ e ∈ s.quads, e.2.running = none) → ∃ t, exec .snapshotTake s = .next t ∧
        regN 0 0x60618 0 4 t = 2 ∧ t.snap.held = true ∧ (∀ key, (lineAt key t).rc = none) ∧
        Scheduled .snapshotTaken (s.wheel + snapSpan s.snap.host) (fun _ => True) t) ∧
      (s.ev.flag = true → (∃ e ∈ s.quads, e.2.running ≠ none) → ∃ t, exec .snapshotTake s = .next t ∧ t.snap.held = true ∧
        ∃ d ∈ t.agenda, d.ev = .snapshotTake ∧ d.args = s.ev)) ∧
    (∀ s, (s.snap.busy = false → exec .snapshotTaken s = .next s ∧ exec .snapshotRestored s = .next s) ∧
      (s.snap.busy = true → ∃ t, exec .snapshotTaken s = .next t ∧ t.snap.busy = false ∧
        tfind t.snap.images s.snap.place = some (takeImage s) ∧ regN 0 0x60618 0 4 t = 3 ∧ Caused 0 6 t) ∧
      (s.snap.busy = true → tfind s.snap.images s.snap.place = none ∨ s.snap.mine = false →
        ∃ t, exec .snapshotRestored s = .next t ∧ regN 0 0x60618 0 4 t = 8 ∧ t.mem = s.mem) ∧
      (∀ i, s.snap.busy = true → s.snap.mine = true → tfind s.snap.images s.snap.place = some i →
        i.wrapped = Config.wrapKey Config.identityKey (Config.snapshotKey i.snapKey) →
        (s.snap.intact = false → ∃ t, exec .snapshotRestored s = .next t ∧ regN 0 0x60618 0 4 t = 9 ∧ t.snap.held = s.snap.held) ∧
        (s.snap.intact = true → ∃ t, exec .snapshotRestored s = .next t ∧ regN 0 0x60618 0 4 t = 7 ∧ Caused 0 6 t ∧
          t.mem = i.mem ∧ t.memKey = i.memKey ∧ t.memTags = i.tags ∧ t.memEmpty = i.empty ∧ t.spad = i.spad ∧
          t.lines = i.lines ∧ t.strands = i.strands ∧ t.launches = i.launches))) ∧
    (∀ s, (s.ev.vf ≠ 0#7 → exec .snapshotRelease s = .next s) ∧
      (s.ev.vf = 0#7 → s.snap.busy = true → ∃ t, exec .snapshotRelease s = .next t ∧ regN 0 0x60618 0 4 t = 11) ∧
      (s.ev.vf = 0#7 → s.snap.busy = false → ∃ t, exec .snapshotRelease s = .next t ∧
        regN 0 0x60618 0 4 t = 0 ∧ t.snap.held = false)) ∧
    (∀ s,
      let at_ := imageKey (bitB s.ev.v 2) s
      let begun (t : State) : Prop := regN 0 0x60618 0 4 t = 6 ∧ t.snap.busy = true ∧ t.snap.held = true ∧ t.snap.place = at_ ∧
        Scheduled .snapshotRestored (s.wheel + snapSpan (bitB s.ev.v 2)) (fun _ => True) t
      (s.ev.vf ≠ 0#7 ∨ s.phase.phase = .recovery → exec .snapshotRestore s = .next s) ∧
      (s.ev.vf = 0#7 → s.phase.phase ≠ .recovery →
        (s.snap.busy = true ∨ workExists s = true → ∃ t, exec .snapshotRestore s = .next t ∧ regN 0 0x60618 0 4 t = 11) ∧
        (s.snap.busy = false → workExists s = false →
          (tfind s.snap.images at_ = none → bitB s.ev.n 0 = false →
            ∃ t, exec .snapshotRestore s = .next t ∧ regN 0 0x60618 0 4 t = 9) ∧
          (∀ i, tfind s.snap.images at_ = some i → i.config ≠ configOf s →
            ∃ t, exec .snapshotRestore s = .next t ∧ regN 0 0x60618 0 4 t = 10) ∧
          (∀ i, tfind s.snap.images at_ = some i → i.config = configOf s →
            ∃ t, exec .snapshotRestore s = .next t ∧ begun t)))) ∧
    (∀ s, (s.snap.busy = true → s.snap.host = true → ∃ t, exec .hostLinkLoss s = .next t ∧ regN 0 0x60618 0 4 t = 5 ∧
        t.snap.busy = false ∧ t.snap.held = true ∧ ∀ d ∈ t.agenda, d.ev ≠ .snapshotTaken) ∧
      (s.snap.busy = false ∨ s.snap.host = false → exec .hostLinkLoss s = .next s)))

/-! ### Queues, slots and retirement -/

/-- R53, R95 to R97: a queue takes one packet from its ring, or stops with the code of what fails; a packet whose
dependences are met begins dispatch, else looks again 20,000 slots later; dispatch makes its launch and moves the head,
where everything is still met; a launch with nothing left retires, arrives at its done barrier or reports DONEFAULT.

Completes (exec answers a next state, for every state and operands that meet conditions on them alone): queuePacketFetch,
dependencePoll, dispatchBegin, launchRetire, donefaultRead. -/
def Obligations.QueueDispatchAndRetire : Prop :=
  (∀ s,
    let vf := s.ev.vf
    let q := s.ev.q.toNat
    let o := qoff q
    let head := regN vf (o + 16) 0 32 s
    let tail := regN vf (o + 8) 0 32 s
    let size := regN vf o 0 5 s
    let x := queueAt (lqueueKey vf q) s
    let fits : Prop := (tail + 2 ^ 32 - head) % 2 ^ 32 ≤ 2 ^ size
    let live : Prop := regN vf o 63 1 s = 1 ∧ regN vf (o + 24) 8 1 s = 0 ∧ (fnAt vf s).stopped = false ∧
      (fnAt vf s).resetting = false ∧ head ≠ tail ∧ x.packet = none ∧ ¬(head ∈ x.held ∧ submissionsHeld vf s = true)
    let got := functionRead vf (regN vf o 12 44 s * 2 ^ 12 + 128 * (head % 2 ^ size)) 128 s
    (¬ fits → ∃ t, exec .queuePacketFetch s = .next t ∧ QueueStopped vf q 1 t) ∧
    (fits → ¬ live → exec .queuePacketFetch s = .next s) ∧
    (fits → live →
      (∀ e, got = .error e → ∃ t, exec .queuePacketFetch s = .next t ∧ QueueStopped vf q (if e = 1 then 6 else 3) t) ∧
      (∀ v, got = .ok v → packetTable vf (BitVec.ofNat 1024 v) s = none →
        ∃ t, exec .queuePacketFetch s = .next t ∧ QueueStopped vf q 2 t) ∧
      (∀ v l, got = .ok v → packetTable vf (BitVec.ofNat 1024 v) s = some l → ∃ t, exec .queuePacketFetch s = .next t ∧
        (queueAt (lqueueKey vf q) t).packet = some (BitVec.ofNat 1024 v) ∧ (queueAt (lqueueKey vf q) t).table = l ∧
        regN vf (o + 16) 0 32 t = head ∧
        Scheduled .dependencePoll s.wheel (fun a => a.vf = vf ∧ a.q.toNat = q) t))) ∧
  (∀ s,
    let vf := s.ev.vf
    let q := s.ev.q.toNat
    let x := queueAt (lqueueKey vf q) s
    let first (p : Packet) : Prop := pkOrdered p = false ∨ tfind s.launches x.last = none
    (x.packet = none ∨ (fnAt vf s).stopped = true → exec .dependencePoll s = .next s ∧ exec .dispatchBegin s = .next s) ∧
    (∀ p, x.packet = some p → (fnAt vf s).stopped = false →
      (depsMet vf p s = .ok true → first p → ∃ t, exec .dependencePoll s = .next t ∧
        ∃ d ∈ t.agenda, d.ev = .dispatchBegin ∧ d.args.vf = vf ∧ d.args.q.toNat = q) ∧
      (∀ m, depsMet vf p s = .ok m → ¬(m = true ∧ first p) → ∃ t, exec .dependencePoll s = .next t ∧
        Scheduled .dependencePoll (s.wheel + 20000) (fun a => a.vf = vf ∧ a.q.toNat = q) t) ∧
      (∀ e, depsMet vf p s = .error e → ∃ t, exec .dependencePoll s = .next t ∧ QueueStopped vf q (if e = 1 then 6 else 3) t ∧
        (queueAt (lqueueKey vf q) t).packet = none) ∧
      (¬(depsMet vf p s = .ok true ∧ first p) → ∃ t, exec .dispatchBegin s = .next t ∧ t.launches = s.launches ∧
        Scheduled .dependencePoll s.wheel (fun a => a.vf = vf ∧ a.q.toNat = q) t) ∧
      (depsMet vf p s = .ok true → first p → pkDmode p = false → ∃ t, exec .dispatchBegin s = .next t ∧
        (∃ l, tfind t.launches s.nextId = some l ∧ l.vf = vf ∧ l.q = q ∧ l.packet = p ∧ l.places = pkPlaces p x.table ∧
          l.live = 0 ∧ l.engine = 0 ∧ l.used = 0 ∧ l.quota = pkQuota p ∧ l.exhausted = false) ∧
        (queueAt (lqueueKey vf q) t).packet = none ∧ (queueAt (lqueueKey vf q) t).last = s.nextId ∧
        regN vf (qoff q + 16) 0 32 t = (regN vf (qoff q + 16) 0 32 s + 1) % 2 ^ 32 ∧
        Scheduled .queuePacketFetch (s.wheel + 1) (fun a => a.vf = vf ∧ a.q.toNat = q) t ∧
        ∀ c ∈ pkPlaces p x.table, Scheduled .slotSelect (s.wheel + 1) (fun a => a.core = BitVec.ofNat 12 c) t))) ∧
  (∀ s, (tfind s.launches s.ev.id = none → exec .launchRetire s = .next s) ∧
    (∀ l, tfind s.launches s.ev.id = some l →
      (launchOver l = false → exec .launchRetire s = .next s) ∧
      (launchOver l = true → ∃ t, exec .launchRetire s = .next t ∧ tfind t.launches s.ev.id = none ∧
        (∀ e ∈ t.strands, e.2.launch ≠ s.ev.id) ∧
        (pkDone l.packet ≠ 0 → arriveDone ((l.places.head?).getD 0) l.vf (BitVec.ofNat 64 (pkDone l.packet)) s = none →
          Caused l.vf 8 t ∧ reg l.vf 0x1018 t =
            (if reg l.vf 0x1018 s = 0#64 then BitVec.ofNat 64 (pkDone l.packet) else reg l.vf 0x1018 s))))) ∧
  (∀ s, (hostClosed s.ev.vf s = true → exec .donefaultRead s = .next (hostAnswer s.ev.vf (BitVec.allOnes 64) s)) ∧
    (hostClosed s.ev.vf s = false → ∃ t, exec .donefaultRead s = .next t ∧ reg s.ev.vf 0x1018 t = 0#64 ∧
      t.outbox = s.outbox ++ [.hostData s.ev.vf (reg s.ev.vf 0x1018 s)]))

/-- R99 to R102, R384: a core chooses a due strand first, the longest ready, else the highest effective priority, and puts
it in its lowest free slot, resident; a due strand with no free slot has the resident of lowest priority leave; a stalled
strand leaves past its threshold once another waits; a woken strand is ready.

Completes (exec answers a next state, for every state and operands that meet conditions on them alone): slotSelect,
dueEviction, stallEviction, strandWake. -/
def Obligations.SlotsAndWakes : Prop :=
  (∀ c s o, choose c s = some o → o ∈ offers c s ∧
    ((∃ x ∈ offers c s, isDue x s = true) → isDue o s = true ∧ ∀ x ∈ offers c s, isDue x s = true → o.ready ≤ x.ready) ∧
    ((∀ x ∈ offers c s, isDue x s = false) → ∀ x ∈ offers c s, x.eff ≤ o.eff ∧
      (x.eff = o.eff → o.ready ≤ x.ready ∧ (x.ready = o.ready → o.idx ≤ x.idx)))) ∧
  (∀ s,
    let c := s.ev.core.toNat
    (coreIdle c s = true → exec .slotSelect s = .next s) ∧
    (coreIdle c s = false → partOf (coreHall c) s = none →
      (freeSlot c s = none ∨ choose c s = none → exec .slotSelect s = .next s) ∧
      (∀ b o, freeSlot c s = some b → choose c s = some o →
        let u := enterOffer c b o s
        (freeSlot c u = none ∨ choose c u = none) →
        (∀ k, o.cand = .strand k → (∃ t, exec .slotSelect s = .next t ∧
          (strandAt k t).slot = some b ∧ (strandAt k t).run = .resident ∧ (strandAt k t).issued = 0)) ∧
        (∀ lid pos idx l, o.cand = .fresh lid pos idx → tfind s.launches lid = some l →
          (∃ t, exec .slotSelect s = .next t ∧
            let k := sid l.vf (indexCtx l.packet idx)
            (strandAt k t).slot = some b ∧ (strandAt k t).run = .resident ∧ (strandAt k t).index = idx ∧
            (strandAt k t).core = c ∧ ∃ m, tfind t.launches lid = some m ∧ m.live = l.live + 1 ∧
              tget m.cursor pos 0 = tget l.cursor pos 0 + 1))))) ∧
  (∀ s r,
    let c := s.ev.core.toNat
    let again := s.wheel + cyclesToSlots c 64 s
    ((∀ o ∈ offers c s, isDue o s = false) → exec .dueEviction s = .next s) ∧
    ((∃ o ∈ offers c s, isDue o s = true) →
      ((freeSlot c s).isSome = true → (∃ t, exec .dueEviction s = .next t ∧ Scheduled .slotSelect s.wheel (fun a => a.core.toNat = c) t)) ∧
      ((freeSlot c s).isSome = false → (∃ e ∈ s.strands, e.2.core = c ∧ e.2.slot.isSome = true ∧ e.2.leaving = true) →
        (∃ t, exec .dueEviction s = .next t ∧ Scheduled .dueEviction again (fun a => a.core.toNat = c) t)) ∧
      ((freeSlot c s).isSome = false → (∀ e ∈ s.strands, e.2.core = c → e.2.slot.isSome = true → e.2.leaving = false) →
        s.strands.filter (fun e => e.2.core == c && e.2.slot.isSome && e.2.run == .resident && decide (8 ≤ e.2.issued) && !isDmode e.1 s) = [r] →
        (∃ t, exec .dueEviction s = .next t ∧ (strandAt r.1 t).leaving = true ∧
          Scheduled .dueEviction again (fun a => a.core.toNat = c) t)))) ∧
  (∀ s,
    let k := sid s.ev.vf s.ev.ctx
    let x := strandAt k s
    let mode := hdrN k 2 0 2 s
    let th := hdrN k 2 2 8 s
    let limit := if mode = 2 then 0 else cyclesToSlots x.core (8 * (if th = 0 then 64 else th)) s
    (x.stall = none → exec .stallEviction s = .next s) ∧
    (∀ since, x.stall = some since → x.slot.isSome = true → x.leaving = false → mode ≠ 1 → hdrDmode k s = false →
      (since + limit ≤ s.wheel → offers x.core s ≠ [] → (∃ t, exec .stallEviction s = .next t ∧ (strandAt k t).leaving = true)) ∧
      (s.wheel < since + limit ∨ offers x.core s = [] → (∃ t, exec .stallEviction s = .next t ∧ Scheduled .stallEviction
        (max (since + limit) (s.wheel + cyclesToSlots x.core 64 s)) (fun a => a.vf = s.ev.vf ∧ a.ctx = s.ev.ctx) t)))) ∧
  (∀ s,
    let k := sid s.ev.vf s.ev.ctx
    let x := strandAt k s
    let ready (t : State) : Prop := (strandAt k t).run = .ready ∧
      Scheduled .slotSelect (s.wheel + 1) (fun a => a.core = BitVec.ofNat 12 x.core) t
    (x.run ≠ .held → exec .strandWake s = .next s) ∧
    (x.run = .held → x.hold = 5#4 →
      (wakeCauses k s.ev.n.toNat s = 0 → exec .strandWake s = .next s) ∧
      (wakeCauses k s.ev.n.toNat s ≠ 0 → (∃ t, exec .strandWake s = .next t ∧ ready t ∧
        (bitB x.wakeBits 1 = true → x.goalStream = false → x.goalReg ≠ 0#5 →
          readS k x.goalReg t = BitVec.ofNat 64 (wakeCauses k s.ev.n.toNat s))))) ∧
    (∀ key tok, x.run = .held → x.hold ≠ 5#4 → x.wait = .barrier key tok →
      (barrierLeft key tok s = false → exec .strandWake s = .next s) ∧
      (barrierLeft key tok s = true → ∃ t, exec .strandWake s = .next t ∧ ready t)) ∧
    (x.run = .held → x.hold ≠ 5#4 → (∀ key tok, x.wait ≠ .barrier key tok) →
      ∃ t, exec .strandWake s = .next t ∧ ready t))

/-- R105, R106: a vacate is refused as malformed, pinned, of a D-mode hall or at work; one accepted bars its cores to the
function; done, the cores are zeroed and its launches moved to the survivors, or suspended where none survives; a release
lifts the bar and the suspension.

R107, R111, R113, R114: a partition's halls change only where no strand is in them and no other partition has them; its
log's base, size and mode are its owner's; a pause holds the partition and tells the owner's pool; RESUME lifts a pause,
not a divergence; ABORT, at the hold, retires the partition's launches and turns the log off.

Completes (exec answers a next state, for every state and operands that meet conditions on them alone): vacate, vacateDone,
vacateRelease, dpartWrite, clbaseWrite, clctlModeWrite, logPause, clctlResume, clctlAbort. -/
def Obligations.VacatingAndPartitions : Prop :=
  ((∀ s,
      let vf := s.ev.vf
      let v := s.ev.v
      let cores := vacCores v
      let pinned : Bool := s.launches.any (fun e => e.2.places.any cores.contains && pkPinned e.2.packet)
      let dpart : Bool := cores.any (fun c => (partOf (coreHall c) s).isSome)
      (hostClosed vf s = true → exec .vacate s = .next s ∧ exec .vacateRelease s = .next s) ∧
      (hostClosed vf s = false → bitB v 63 = false →
        (∃ t, exec .vacate s = .next t ∧ reg vf 0x2000 t = BitVec.ofNat 64 (bitsN v 0 26)) ∧
        (∃ t, exec .vacateRelease s = .next t ∧ reg vf 0x2000 t = BitVec.ofNat 64 (bitsN v 0 26))) ∧
      (hostClosed vf s = false → bitB v 63 = true →
        (vacWorking vf s = true → (∃ t, exec .vacate s = .next t ∧ VacAnswer vf 3 4 t) ∧
          (∃ t, exec .vacateRelease s = .next t ∧ VacAnswer vf 3 4 t)) ∧
        (vacWorking vf s = false → vacMalformed vf v = true →
          (∃ t, exec .vacate s = .next t ∧ VacAnswer vf 3 1 t) ∧ (∃ t, exec .vacateRelease s = .next t ∧ VacAnswer vf 3 1 t)) ∧
        (vacWorking vf s = false → vacMalformed vf v = false →
          (pinned = true → (∃ t, exec .vacate s = .next t ∧ VacAnswer vf 3 2 t)) ∧
          (pinned = false → dpart = true → (∃ t, exec .vacate s = .next t ∧ VacAnswer vf 3 3 t)) ∧
          (pinned = false → dpart = false → (∃ t, exec .vacate s = .next t ∧ VacAnswer vf 1 0 t ∧
            Scheduled .vacateDone (s.wheel + 64) (fun a => a.vf = vf ∧ a.v = v) t ∧
            ∀ c ∈ cores, (vacVictim v).toNat ∈ (coreAt c t).barred)) ∧
          (∃ t, exec .vacateRelease s = .next t ∧ VacAnswer vf 2 0 t ∧
            (∀ c ∈ cores, (vacVictim v).toNat ∉ (coreAt c t).barred) ∧
            ∀ lid l, tfind s.launches lid = some l → l.vf = vacVictim v → l.suspended = true →
              (∃ c ∈ l.orig, c ∈ cores) → ∃ m, tfind t.launches lid = some m ∧ m.suspended = false)))) ∧
    (∀ s,
      let v := s.ev.v
      let cores := vacCores v
      let resident : Prop := ∃ e ∈ s.strands, sidVf e.1 = vacVictim v ∧ e.2.core ∈ cores ∧ e.2.slot.isSome = true
      (resident → (∃ t, exec .vacateDone s = .next t ∧ Scheduled .vacateDone (s.wheel + 1000) (fun a => a = s.ev) t)) ∧
      (¬ resident → (∀ q ∈ vacQuads v, (quadAt q s).tiles = [] ∧ (quadAt q s).copies = [] ∧ (quadAt q s).active = [] ∧
          (quadAt q s).running = none) → (∀ c ∈ cores, busyWindows c s = []) →
        (∃ t, exec .vacateDone s = .next t ∧ VacAnswer s.ev.vf 2 0 t ∧
          (∀ c ∈ cores, (coreAt c t).windows = [] ∧ ∀ off < 2 ^ 21, spadByte c off t = 0#8) ∧
          ∀ lid l, tfind s.launches lid = some l → l.vf = vacVictim v →
            ((∃ c ∈ l.places, c ∈ cores) → (∀ c ∈ l.places, c ∈ cores) →
              ∃ m, tfind t.launches lid = some m ∧ m.suspended = true ∧ m.places = l.places) ∧
            ((∃ c ∈ l.places, c ∉ cores) → ∃ m, tfind t.launches lid = some m ∧ m.suspended = l.suspended ∧
              m.places.length = l.places.length ∧ ∀ c ∈ m.places, c ∉ cores))))) ∧
  ((∀ s n, n < 16 → s.ev.id = 0x2200 + 8 * n →
      let old := reg 0 s.ev.id s
      let v := s.ev.v &&& 0xFFFFFF#64
      let overlap : Bool := (List.range 16).any (fun m => m != n && regN 0 (0x2200 + 8 * m) 23 1 s == 1 &&
        (reg 0 (0x2200 + 8 * m) s &&& v &&& 0xFFFF#64) != 0#64)
      (s.ev.vf ≠ 0#7 → exec .dpartWrite s = .next s) ∧
      (s.ev.vf = 0#7 →
        (bitB v 23 = true → overlap = true → exec .dpartWrite s = .next s) ∧
        (bitB v 23 = true → v ≠ old → (∃ h < 16, bitB v h = true ∧ hallHasStrand h false s = true) →
          exec .dpartWrite s = .next s) ∧
        (bitB v 23 = false ∨ overlap = false → s.strands = [] → (∃ t, exec .dpartWrite s = .next t ∧ reg 0 s.ev.id t = v ∧
          (bitB v 23 = true → v ≠ old → (partAt n t).held = false ∧ (partAt n t).enabledAt = s.wheel))))) ∧
    (∀ s n, n < 16 → s.ev.id / 64 = 0x100 + n →
      let vf := s.ev.vf
      (ownsLog vf n s = false → exec .clbaseWrite s = .next s ∧ exec .clctlModeWrite s = .next s ∧
        exec .clctlResume s = .next s ∧ exec .clctlAbort s = .next s) ∧
      (hostClosed vf s = true → exec .clbaseWrite s = .next s ∧ exec .clctlModeWrite s = .next s ∧
        exec .clctlResume s = .next s ∧ (s.ev.flag = false → exec .clctlAbort s = .next s)) ∧
      (hostClosed vf s = false → ownsLog vf n s = true →
        (∃ t, exec .clbaseWrite s = .next t ∧ regN vf (logOff n) 12 44 t = bitsN s.ev.v 12 44 ∧
          regN vf (logOff n) 0 5 t =
            (if logMode n s ≠ 0 ∧ logSizeOk (bitsN s.ev.v 0 5) = false then regN vf (logOff n) 0 5 s else bitsN s.ev.v 0 5)) ∧
        (∃ t, exec .clctlModeWrite s = .next t ∧ regN vf (logOff n + 8) 0 2 t =
          (if logSizeOk (logSize n s) = false then 0 else bitsN s.ev.v 0 2 % 3)) ∧
        ((partAt n s).paused = false ∨ (partAt n s).diverged = true → exec .clctlResume s = .next s) ∧
        ((partAt n s).paused = true → (partAt n s).diverged = false → (∃ t, exec .clctlResume s = .next t ∧
          ((partAt n s).waitingLog = [] → (partAt n t).paused = false ∧ regN vf (logOff n + 0x20) 0 2 t = 0) ∧
          Scheduled .partitionRelease (nextBoundary s) (fun a => a.n.toNat = n) t)) ∧
        (s.ev.flag = false → (∃ t, exec .clctlAbort s = .next t ∧ (partAt n t).aborting = true ∧
          Scheduled .clctlAbort (nextBoundary s) (fun a => a.flag = true ∧ a.id = s.ev.id ∧ a.vf = vf) t ∧
          ((partAt n s).held = false → Scheduled .partitionHold (nextBoundary s) (fun a => a.n.toNat = n) t))) ∧
        (s.ev.flag = true → (∃ t, exec .clctlAbort s = .next t ∧
          (((∀ e ∈ partLaunches n s, tfind t.launches e.1 = none) ∧ regN vf (logOff n + 8) 0 2 t = 0 ∧
            regN vf (logOff n + 0x10) 0 32 t = regN vf (logOff n + 0x18) 0 32 t ∧ (partAt n t).aborting = false ∧
            (partAt n t).paused = false) ∨
          (partLaunches n s ≠ [] ∧ Scheduled .clctlAbort (s.wheel + 1024) (fun a => a = s.ev) t)))))) ∧
    (∀ s,
      let n := s.ev.n.toNat
      let vf := partOwner n s
      ((partAt n s).paused = false → exec .logPause s = .next s) ∧
      ((partAt n s).paused = true → (∃ t, exec .logPause s = .next t ∧ (partAt n t).held = true ∧
        regN vf (logOff n + 0x20) 0 2 t = 1 ∧ reg vf (logOff n + 0x28) t = s.ev.v ∧
        Scheduled .handlerHandover (s.wheel + 1) (fun a => a.vf = vf) t ∧
        ∃ x, (0, x) ∈ (fnAt vf t).waiting ∧ x.kind = 18#8 ∧ x.cause = BitVec.ofNat 8 s.ev.id ∧ x.info1 = s.ev.v))))

/-! ### Lines, travel and the transit channel -/

/-- R23, R120, R122 to R124, R126, R129, R133, R141: a missing line comes from this hall's cache, as zeros, or from the record,
every word as it stood, or leaves its fault; the holder serves a line from its cache, as zeros or from the record; the reply
is merged; a line written back reaches its home and is acknowledged; a control delta is added into line 80; a strand held for
backing is ready once nothing is kept.

Completes (exec answers a next state, for every state and operands that meet conditions on them alone): lineFetchDone,
keptWritebackRetry, lineRequest, lineReply, transitLineWriteback, writebackAck, controlDelta. -/
def Obligations.LinesOfRecords : Prop :=
  (∀ s,
    let k := sid s.ev.vf s.ev.ctx
    let l := s.ev.n.toNat
    let x := lineAt (lineKey k l) s
    let c := (strandAt k s).core
    let h := coreHall c
    let comes (f : Nat → Word) : Prop := ∃ t, exec .lineFetchDone s = .next t ∧ l ∉ (strandAt k t).fetching ∧
      lackWords (lineKey k l) 255#8 t = false ∧ ∀ i < 8, cachedWord k (64 * l + 8 * i) t = f i
    let faults (kd ca : Nat) : Prop := ∃ t, exec .lineFetchDone s = .next t ∧ l ∉ (strandAt k t).fetching ∧
      ∃ f, (strandAt k t).fault = some f ∧ f.kind = BitVec.ofNat 8 kd ∧ f.cause = BitVec.ofNat 8 ca
    (s.power ≠ .on → ∃ t, exec .lineFetchDone s = .next t ∧ Scheduled .lineFetchDone (s.wheel + 1024) (fun a => a = s.ev) t) ∧
    (s.power = .on → l ∉ (strandAt k s).fetching → exec .lineFetchDone s = .next s) ∧
    (s.power = .on → l ∈ (strandAt k s).fetching → lineKey k l ∈ s.lineErr → lineEmpty x = false → faults 13 2) ∧
    (s.power = .on → l ∈ (strandAt k s).fetching → lineKey k l ∉ s.lineErr → RcRoom c s → l ≠ 80 →
      (∀ b, x.hc = [b] → b.place = h → b.mask = 255#8 → comes (fun i => cachedWord k (64 * l + 8 * i) s)) ∧
      (x.rc = none → x.hc = [] → hdrN k 1 36 1 s = 0 → s.ev.ctx.toNat % 8192 = 0 → l < 84 →
        (l ≠ 0 → lineMaterial k l s = false → comes (lineWord (zeroLine l))) ∧
        (∀ d, lineMaterial k l s = true → readRecLine k l h s = .ok d → comes (lineWord d)) ∧
        (∀ kd ca, lineMaterial k l s = true → readRecLine k l h s = .error (kd, ca) → faults kd ca)))) ∧
  (∀ s, (tfind s.tmsgs s.ev.id = none → exec .lineRequest s = .next s ∧ exec .lineReply s = .next s ∧
      exec .transitLineWriteback s = .next s ∧ exec .controlDelta s = .next s) ∧
    (∀ m, tfind s.tmsgs s.ev.id = some m →
      let k := sid m.vf m.ctx
      let x := lineAt (lineKey k m.id) s
      let c := (strandAt k s).core
      (s.ev.n = 0#8 → x.hc ≠ [] ∨ m.present = false →
        ∃ t, exec .lineRequest s = .next t ∧ Scheduled .lineRequest (s.wheel + 48) (fun a => a.id = s.ev.id ∧ a.n = 1#8) t) ∧
      (s.ev.n ≠ 0#8 →
        let answer (mask : BitVec 8) (ws : List Word) (t : State) : Prop := Queued (fun r =>
          r.kind = .lineReply ∧ r.src = m.dst ∧ r.dst = m.src ∧ r.id = m.id ∧ r.mask = mask ∧ r.data = ws) t
        (∀ b, hcAt m.dst x = some b → ∃ t, exec .lineRequest s = .next t ∧ answer b.mask (lineWords b.data) t ∧
          ∃ o, hcAt onTransit (lineAt (lineKey k m.id) t) = some o ∧ o.mask = b.mask ∧ o.data = b.data) ∧
        (x.hc = [] → m.present = false → ∃ t, exec .lineRequest s = .next t ∧ answer 255#8 (lineWords (zeroLine m.id)) t) ∧
        (∀ d, x.hc = [] → m.present = true → readRecLine k m.id m.dst (dropT s.ev.id s) = .ok d →
          ∃ t, exec .lineRequest s = .next t ∧ answer 255#8 (lineWords d) t)) ∧
      (m.mask = 0#8 → ∃ t, exec .lineReply s = .next t ∧ ∃ f, (strandAt k t).fault = some f ∧
        f.kind = BitVec.ofNat 8 ((m.data[0]?).getD 0).toNat ∧ f.cause = BitVec.ofNat 8 ((m.data[1]?).getD 0).toNat) ∧
      (m.mask = 255#8 → m.dst = coreHall c → m.dst ≠ onTransit → m.id ∈ (strandAt k s).fetching → m.id ≠ 80 → x.rc = none →
        x.hc = [] ∨ (∃ o, x.hc = [o] ∧ o.place = onTransit ∧ o.mask = 255#8 ∧ o.data = ofWords m.data) →
        lineKey k m.id ∉ s.lineErr → RcRoom c s → HcRoom 1 s → ∃ t, exec .lineReply s = .next t ∧
        lackWords (lineKey k m.id) 255#8 t = false ∧
        ∀ i < 8, cachedWord k (64 * m.id + 8 * i) t = lineWord (ofWords m.data) i) ∧
      (s.ev.n = 0#8 → ∃ t, exec .transitLineWriteback s = .next t ∧ SameBytes s t ∧
        ∃ d ∈ t.agenda, d.ev = .transitLineWriteback ∧ d.args.id = s.ev.id ∧ d.args.n = 1#8) ∧
      (s.ev.n ≠ 0#8 → m.mask = 255#8 → m.id % 64 = 0 → Memory.wf s.mem = true → memErrAt m.id 64 s = false →
        m.src ≠ m.dst ∨ uncached k s = false → ∃ t, exec .transitLineWriteback s = .next t ∧
          (∀ i < 8, memVal (keyOf m.vf s) (m.id + 8 * i) 8 t = ((m.data[i]?).getD 0).toNat) ∧
          (m.src ≠ m.dst → Queued (fun r =>
            r.kind = .writebackAck ∧ r.src = m.dst ∧ r.dst = m.src ∧ r.vf = m.vf ∧ r.ctx = m.ctx) t)) ∧
      (Exclusive (lineAt (lineKey k 80) s) → ∃ t, exec .controlDelta s = .next t ∧
        (∀ i < 3, cachedWord k (0x1410 + 8 * i) t = cachedWord k (0x1410 + 8 * i) s + (m.data[i]?).getD 0) ∧
        cachedWord k 0x1428 t = (m.data[3]?).getD 0 ∧ cachedWord k 0x1408 t = (m.data[4]?).getD 0))) ∧
  (∀ s, ∃ t, exec .writebackAck s = .next t ∧ tfind t.tmsgs s.ev.id = none ∧
    ∀ j, j ≠ s.ev.id → tfind t.tmsgs j = tfind s.tmsgs j) ∧
  (∀ s, (∀ e ∈ s.lines, keptLine e.2 = false) → HcRoom s.strands.length s → ∃ t, exec .keptWritebackRetry s = .next t ∧
    ∀ k x, tfind s.strands k = some x → x.run = .held → x.hold = 6#4 → (strandAt k t).run = .ready) ∧
  (∀ s key ln, s.lines.filter (fun e => keptLine e.2) = [(key, ln)] → HcRoom s.strands.length s →
    (∀ y, recXlate (keySid key) .write (64 * keyLine key) (coreHall (strandAt (keySid key) s).core) s ≠ .ok y) →
    ∃ t, exec .keptWritebackRetry s = .next t ∧ ∃ d ∈ t.agenda, d.ev = .keptWritebackRetry)

/-- R137 to R142, R157: a transmitter sends one flit of a message a slot, the last bringing it to its destination 12 or 13
slots later; a strand departs with its carry lines once nothing of it is outstanding, and arrives ready at its core, its
registers as carried, at a halted hall not before the release; a remote access is performed at its home and its reply
delivered.

Completes (exec answers a next state, for every state and operands that meet conditions on them alone): transitFlitSend,
travelDepart, carryArrive, remoteAccessRequest, remoteAccessReply. -/
def Obligations.TransitAndTravel : Prop :=
  (∀ s id m,
    let g := s.ev.hall.toNat
    let d := (g + 1 + s.wheel % 15) % 16
    transitQueue g d s = [(id, m)] → tfind s.tmsgs id = some m → transByte g s.wheel s < 128 →
    (∃ t, exec .transitFlitSend s = .next t ∧ tfind t.tmsgs id = some { m with sent := m.sent + 1 } ∧
      (m.sent + 1 < m.flits → Scheduled .transitFlitSend (s.wheel + 1) (fun a => a.hall.toNat = g) t) ∧
      (m.sent + 1 = m.flits → Scheduled (tEvent m.kind)
        (s.wheel + (if m.kind = .carry ∨ m.kind = .lineReply then 13 else 12)) (fun a => a.id = id) t))) ∧
  (∀ s,
    let k := sid s.ev.vf s.ev.ctx
    let x := strandAt k s
    let h := coreHall x.core
    let target := x.goal.getD x.core
    (outstanding x = true ∨ s.power ≠ .on → (∃ t, exec .travelDepart s = .next t ∧ Scheduled .travelDepart (s.wheel + cyclesToSlots x.core 8 s)
      (fun a => a = s.ev) t)) ∧
    (∀ e rest, outstanding x = false → s.power = .on → x.errored = e :: rest → (∃ t, exec .travelDepart s = .next t ∧
      Stopped k 13 4 (fun y => y.addr = e.addr) t ∧ (strandAt k t).goal = none)) ∧
    (outstanding x = false → s.power = .on → x.errored = [] → (∀ l ∈ [0, 1, 2, 5], Whole k l s) →
      Exclusive (lineAt (lineKey k 0) s) → HcRoom 1 s → hdrN k 1 36 1 s = 0 →
      carriesQueued s.ev.vf h (coreHall target) s < 64 → (∃ t, exec .travelDepart s = .next t ∧
        (strandAt k t).run = .transit ∧ (strandAt k t).slot = none ∧ Queued (fun m =>
          m.kind = .carry ∧ m.src = h ∧ m.dst = coreHall target ∧ m.vf = s.ev.vf ∧ m.ctx = s.ev.ctx ∧ m.flits = 6) t))) ∧
  (∀ s, (tfind s.tmsgs s.ev.id = none → exec .carryArrive s = .next s) ∧
    (∀ m, tfind s.tmsgs s.ev.id = some m →
      let k := sid m.vf m.ctx
      let core := (strandAt k s).goal.getD (256 * m.dst)
      (strandHalted k core s = true → ∃ t, exec .carryArrive s = .next t ∧
        Scheduled .carryArrive (nextBoundary s) (fun a => a = s.ev) t) ∧
      (strandHalted k core s = false → ∃ t, exec .carryArrive s = .next t ∧
        (strandAt k t).run = .ready ∧ (strandAt k t).core = core ∧ (strandAt k t).goal = none ∧
        Scheduled .slotSelect (s.wheel + 1) (fun a => a.core = BitVec.ofNat 12 core) t ∧
        (cacheLoad core s + 4 ≤ Config.registerCacheLines → (∀ l ∈ [0, 1, 2, 5], hcAt onTransit (lineAt (lineKey k l) s) = none) →
          (∀ r : BitVec 5, 1 ≤ r.toNat → r.toNat ≤ 10 → readS k r t = (m.data[7 + r.toNat]?).getD 0) ∧
          hdrPc k t = BitVec.ofNat 56 ((m.data[0]?).getD 0).toNat)))) ∧
  (∀ s, (tfind s.tmsgs s.ev.id = none → exec .remoteAccessRequest s = .next s ∧ exec .remoteAccessReply s = .next s) ∧
    (∀ m r, tfind s.tmsgs s.ev.id = some m → tfind s.reqs m.id = some r →
      (∃ t, exec .remoteAccessRequest s = .next t ∧ tfind t.tmsgs s.ev.id = none ∧
        Scheduled .memoryRequestArrive s.wheel (fun a => a.id = m.id) t) ∧
      (r.peer = none → r.kind = 0#4 ∨ r.kind = 1#4 → ∃ t, exec .remoteAccessReply s = .next t ∧ tfind t.tmsgs s.ev.id = none ∧
        Scheduled (if r.kind = 0#4 then .loadReply else .storeAck) s.wheel (fun a => a.id = m.id) t)))

/-! ### Translation, pages and errors -/

/-- R152, R162, R163, R165, R168, R169, R193: a walk enters its translation or leaves its fault; an instruction line is
filled with its sixteen words; a window's fill or write-back settles its state; counts halve at each decay; a page move
waits for the accesses under way, counts done or abandoned, and drops the page's translations; a range is zeroed with its tags and full bits; an
uncorrectable error marks its granule, word or line.

Completes (exec answers a next state, for every state and operands that meet conditions on them alone): walkComplete,
windowFillComplete, windowWritebackComplete, migrationDecay, pageMoveFlip, zeroctlGo, zeroComplete, uncorrectableError,
instructionCacheFill. -/
def Obligations.TranslationAndPages : Prop :=
  (∀ s, (tfind s.walks s.ev.id = none → exec .walkComplete s = .next s) ∧
    (∀ k, tfind s.walks s.ev.id = some k →
      (∀ x, (walk (coreHall k.core) k.vf k.va.toNat s).res = .ok x → (∃ t, exec .walkComplete s = .next t ∧
        x ∈ (coreAt k.core t).tlb ∧ tfind t.walks s.ev.id = none)) ∧
      (∀ kd ca, (walk (coreHall k.core) k.vf k.va.toNat s).res = .fault kd ca → (∃ t, exec .walkComplete s = .next t ∧
        ⟨k.vf, k.va, BitVec.ofNat 8 kd, BitVec.ofNat 8 ca⟩ ∈ (coreAt k.core t).ifaults ∧
        (coreAt k.core t).tlb = (coreAt k.core s).tlb)) ∧
      ((walk (coreHall k.core) k.vf k.va.toNat s).res = .err → ∃ t, exec .walkComplete s = .next t ∧
        ⟨k.vf, k.va, 13#8, 1#8⟩ ∈ (coreAt k.core t).ifaults))) ∧
  (∀ s,
    let c := s.ev.core.toNat
    let a := s.ev.ctx
    (tlbHit c s.ev.vf a.toNat s = none →
      (∃ t, exec .instructionCacheFill s = .next t ∧ (coreAt c t).icache = (coreAt c s).icache)) ∧
    (∀ x, tlbHit c s.ev.vf a.toNat s = some x →
      (memErrAt (x.pa a.toNat) 64 s = true → (∃ t, exec .instructionCacheFill s = .next t ∧
        (⟨s.ev.vf, a, 13, 3⟩ : IFault) ∈ (coreAt c t).ifaults ∧ (coreAt c t).icache = (coreAt c s).icache)) ∧
      (memErrAt (x.pa a.toNat) 64 s = false → (∃ t, exec .instructionCacheFill s = .next t ∧ ∃ l ∈ (coreAt c t).icache,
        l.vf = s.ev.vf ∧ l.addr = a ∧ l.leaf = x.leaf ∧ l.words.length = 16 ∧
        (homeOf (x.pa a.toNat) = coreHall c → ∀ i < 16, l.words[i]? = some (BitVec.ofNat 32 (memVal (keyOf s.ev.vf s) (x.pa a.toNat + 4 * i) 4 s))))))) ∧
  (∀ s,
    let c := s.ev.core.toNat
    let w := s.ev.id
    let v := windowAt c w s
    (s.ev.flag = false → (∃ t, exec .windowFillComplete s = .next t ∧ (windowAt c w t).state = 2#2 ∧ (windowAt c w t).err = false ∧
      (windowAt c w t).busy = false)) ∧
    (s.ev.flag = true → (∃ t, exec .windowFillComplete s = .next t ∧ (windowAt c w t).state = 0#2 ∧ (windowAt c w t).err = true ∧
      ∀ k ∈ v.waiters, (strandAt k s).touching = some w → ∃ f, (strandAt k t).fault = some f ∧ f.kind = 22#8 ∧ f.cause = 1#8)) ∧
    (v.bound = false ∨ v.state ≠ 3#2 → ∃ t, exec .windowWritebackComplete s = .next t ∧ (windowAt c w t).state = v.state ∧
      (windowAt c w t).busy = (v.busy && v.state == 1#2)) ∧
    (v.bound = true → v.state = 3#2 → ∃ t, exec .windowWritebackComplete s = .next t ∧ (windowAt c w t).busy = false ∧
      (windowAt c w t).state = (if s.ev.flag = true ∨ v.again = true then 3#2 else 0#2) ∧
      (windowAt c w t).err = (v.err || s.ev.flag))) ∧
  (∀ s, (∃ t, exec .migrationDecay s = .next t ∧ (∀ h x, tfind s.halls h = some x → ∃ y, tfind t.halls h = some y ∧
      y.migr = x.migr.map (fun e => (e.1, e.2.map (fun n => n / 2)))) ∧
    ∀ n, nextDecay s = some n → Scheduled .migrationDecay n (fun _ => True) t)) ∧
  (∀ s, (tfind s.moves s.ev.id = none → exec .pageMoveFlip s = .next s) ∧
    (∀ m, tfind s.moves s.ev.id = some m →
      let bad : Bool := memErrAt m.oldPa (2 ^ m.lsize) s || memErrAt m.leafPa 8 s ||
        memVal (keyOf m.vf s) m.leafPa 8 s != m.leaf.toNat
      let busy : Bool := moveBusy m s.ev.flag (withdrawMoved m s)
      (busy = true → ∃ t, exec .pageMoveFlip s = .next t ∧ Scheduled .pageMoveFlip (s.wheel + 64) (fun a => a = s.ev) t) ∧
      (busy = false → s.ev.flag = true → ∃ t, exec .pageMoveFlip s = .next t ∧ tfind t.moves s.ev.id = none) ∧
      (busy = false → s.ev.flag = false → bad = true → (∃ t, exec .pageMoveFlip s = .next t ∧
        regN 0 0x3018 0 32 t = (regN 0 0x3018 0 32 s + 1) % 2 ^ 32 ∧ tfind t.moves s.ev.id = none)) ∧
      (busy = false → s.ev.flag = false → bad = false → (∃ t, exec .pageMoveFlip s = .next t ∧
        regN 0 0x3010 0 32 t = (regN 0 0x3010 0 32 s + 1) % 2 ^ 32 ∧
        Scheduled .pageMoveFlip (s.wheel + 1) (fun a => a.id = s.ev.id ∧ a.flag = true) t ∧
        ∀ e ∈ t.cores, ∀ x ∈ e.2.tlb, x.vf = m.vf → x.base.toNat / 2 ^ x.lsize ≠ m.va.toNat / 2 ^ x.lsize)))) ∧
  (∀ s,
    let vf : BitVec 7 := BitVec.ofNat 7 (bitsN s.ev.v 0 7)
    let pa := regN 0 0x3400 16 36 s * 2 ^ 16
    let n := regN 0 0x3408 0 32 s
    let last := pa + n * 2 ^ 16 - 1
    let outside : Bool := !inMemory pa || !inMemory last || isHbm pa != isHbm last
    let foreign : Bool := (List.range n).any (fun i => zeroForeign vf (pa + 2 ^ 16 * i) s)
    (s.ev.vf ≠ 0#7 → exec .zeroctlGo s = .next s) ∧
    (s.ev.vf = 0#7 → bitB s.ev.v 63 = false → ∃ t, exec .zeroctlGo s = .next t ∧ reg 0 0x3410 t = BitVec.ofNat 64 vf.toNat) ∧
    (s.ev.vf = 0#7 → bitB s.ev.v 63 = true →
      (s.zeroing ≠ none → (∃ t, exec .zeroctlGo s = .next t ∧ ZeroAnswer 3 3 t)) ∧
      (s.zeroing = none → n = 0 → (∃ t, exec .zeroctlGo s = .next t ∧ t.zeroing = none ∧ SameBytes s t)) ∧
      (s.zeroing = none → n ≠ 0 →
        (outside = true → (∃ t, exec .zeroctlGo s = .next t ∧ ZeroAnswer 3 1 t)) ∧
        (outside = false → foreign = true → (∃ t, exec .zeroctlGo s = .next t ∧ ZeroAnswer 3 2 t)) ∧
        (outside = false → foreign = false → vf ≠ 0#7 → (fnAt vf s).enabled = false → (∃ t, exec .zeroctlGo s = .next t ∧ ZeroAnswer 3 4 t)) ∧
        (outside = false → foreign = false → vf = 0#7 ∨ (fnAt vf s).enabled = true → (∃ t, exec .zeroctlGo s = .next t ∧
          ZeroAnswer 1 0 t ∧ regN 0 0x3418 32 32 t = n ∧ t.zeroing = some (pa, n, vf.toNat) ∧
          ∃ d ∈ t.agenda, d.ev = .zeroComplete))))) ∧
  (∀ s, (s.zeroing = none → exec .zeroComplete s = .next s) ∧
    (∀ pa n vf, s.zeroing = some (pa, n, vf) → pa % 32 = 0 → (∃ t, exec .zeroComplete s = .next t ∧ ZeroAnswer 2 0 t ∧
      t.zeroing = none ∧
      (∀ a, pa ≤ a → a < pa + n * 2 ^ 16 →
        memByte (keyOf (BitVec.ofNat 7 vf) s) a t = 0#8 ∧ memFull a t = true ∧ tagAt a t = 0#4) ∧
      (Memory.wf s.mem = true → ∀ key a, a < pa ∨ pa + n * 2 ^ 16 ≤ a → memByte key a t = memByte key a s)))) ∧
  (∀ s, (s.ev.n = 0#8 → (∃ t, exec .uncorrectableError s = .next t ∧ s.ev.id ∈ t.memErr ∧ ∀ g ∈ s.memErr, g ∈ t.memErr)) ∧
    (s.ev.n = 1#8 → (∃ t, exec .uncorrectableError s = .next t ∧ s.ev.id ∈ t.spadErr)) ∧
    (s.ev.n = 2#8 → lineEmpty (lineAt s.ev.id s) = false → (∃ t, exec .uncorrectableError s = .next t ∧ s.ev.id ∈ t.lineErr)) ∧
    (s.ev.n = 2#8 → lineEmpty (lineAt s.ev.id s) = true → exec .uncorrectableError s = .next s))

/-! ### Engines, streams and messages -/

/-- R162, R186, R196 to R206, R335: a stream asks for elements ahead of use, takes those of an access when it ends, writes
its buffered ones in order, ends at its last and stops with the status of a failure; a flit arriving at a binding joins its
buffer or overflows it; a ready tile task starts with the scratchpad as it stands, and completes; a copy runs a chunk, goes
on, pauses or ends; a message is accepted, refused and sent again, or discarded.

Completes (exec answers a next state, for every state and operands that meet conditions on them alone): streamMemoryFetch,
streamMemoryWrite, streamFlitArrive, tileTaskStart, tileTaskComplete, copyChunk, messageArrive, msndResend. -/
def Obligations.EnginesAndMessages : Prop :=
  (∀ s,
    let k := sid s.ev.vf s.ev.ctx
    let q := s.ev.q.toNat
    let x := streamAt k q s
    let w := 2 ^ x.esz
    let out (ev : Instr) (t : State) : Prop := ∃ d ∈ t.agenda, d.ev = ev ∧ d.args.vf = s.ev.vf ∧ d.args.ctx = s.ev.ctx ∧
      d.args.q = s.ev.q ∧ d.args.n = 1#8 ∧ d.args.v = BitVec.ofNat 64 x.order ∧ 0 < d.args.id
    (x.kind ≠ 1 ∨ x.status ≠ 0 → exec .streamMemoryFetch s = .next s ∧ exec .streamMemoryWrite s = .next s) ∧
    (x.kind = 1 → x.status = 0 → s.ev.n ≠ 1#8 →
      (streamOut .streamMemoryFetch k q s = true → exec .streamMemoryFetch s = .next s) ∧
      (streamOut .streamMemoryFetch k q s = false →
        (sdTotal x.desc ≤ fetchIndex x → ∃ t, exec .streamMemoryFetch s = .next t ∧
          (streamAt k q t).status = 1 ∧ (streamAt k q t).buf = x.buf) ∧
        (fetchIndex x < sdTotal x.desc → x.room < w → exec .streamMemoryFetch s = .next s) ∧
        (fetchIndex x < sdTotal x.desc → w ≤ x.room → ∃ t, exec .streamMemoryFetch s = .next t ∧
          t.streams = s.streams ∧ out .streamMemoryFetch t)) ∧
      (streamOut .streamMemoryWrite k q s = true → exec .streamMemoryWrite s = .next s) ∧
      (streamOut .streamMemoryWrite k q s = false →
        (sdTotal x.desc ≤ writeIndex x → ∃ t, exec .streamMemoryWrite s = .next t ∧ (streamAt k q t).status = 1) ∧
        (writeIndex x < sdTotal x.desc → x.buf.length < w → exec .streamMemoryWrite s = .next s) ∧
        (writeIndex x < sdTotal x.desc → w ≤ x.buf.length → streamMoving k q s = true →
          ∃ t, exec .streamMemoryWrite s = .next t ∧ Scheduled .streamMemoryWrite (s.wheel + 1024)
            (fun a => a.vf = s.ev.vf ∧ a.ctx = s.ev.ctx ∧ a.q = s.ev.q) t) ∧
        (writeIndex x < sdTotal x.desc → w ≤ x.buf.length → streamMoving k q s = false →
          ∃ t, exec .streamMemoryWrite s = .next t ∧ t.streams = s.streams ∧ out .streamMemoryWrite t))) ∧
    (x.kind = 1 → x.status = 0 → s.ev.n = 1#8 → s.ev.v = BitVec.ofNat 64 x.order → s.ev.id = 1 →
      let got := engineRead x.core s.ev.vf x.priv.toNat true (sdAddr x.desc (fetchIndex x)) w s
      let put := engineWrite x.core s.ev.vf x.priv.toNat true (sdAddr x.desc (writeIndex x)) w (ofBytes (x.buf.take w)) s
      (∀ e, got = .error e → ∃ t, exec .streamMemoryFetch s = .next t ∧
        (streamAt k q t).status = streamStatus e ∧ (streamAt k q t).buf = x.buf) ∧
      (∀ v, got = .ok v → ∃ t, exec .streamMemoryFetch s = .next t ∧ (streamAt k q t).buf = x.buf ++ toBytes w v) ∧
      (streamMoving k q s = true → ∃ t, exec .streamMemoryWrite s = .next t ∧
        Scheduled .streamMemoryWrite (s.wheel + 1024) (fun a => a = s.ev) t) ∧
      (∀ e, streamMoving k q s = false → put = .error e → ∃ t, exec .streamMemoryWrite s = .next t ∧
        (streamAt k q t).status = streamStatus e ∧ (streamAt k q t).buf = x.buf) ∧
      (∀ u, streamMoving k q s = false → put = .ok u → x.buf.length < 2 * w → ∃ t, exec .streamMemoryWrite s = .next t ∧
        (streamAt k q t).buf = x.buf.drop w ∧ t.mem = u.mem ∧ t.spad = u.spad))) ∧
  (∀ s,
    let c := s.ev.core.toNat
    let n := s.ev.n.toNat
    let found := s.streams.find? (fun e => decide (e.1 % 8 < 4) && e.2.core == c && e.2.kind == 2 && decide (e.2.status < 6) &&
      sdCirc e.2.desc == s.ev.id && sidVf (e.1 / 8) == s.ev.vf)
    (found = none → ∃ t, exec .streamFlitArrive s = .next t ∧ tget t.drops c 0 = tget s.drops c 0 + 1) ∧
    (∀ key x, found = some (key, x) →
      (x.status ≠ 0 → exec .streamFlitArrive s = .next s) ∧
      (x.status = 0 → x.room < n → tfind s.streams key = some x →
        ∃ t, exec .streamFlitArrive s = .next t ∧ (streamAt (key / 8) (key % 8) t).status = 2) ∧
      (x.status = 0 → n ≤ x.room → ∃ t, exec .streamFlitArrive s = .next t ∧
        (streamAt (key / 8) (key % 8) t).buf = x.buf ++ toBytes n s.ev.wide.toNat))) ∧
  (∀ s,
    let q := s.ev.id
    let x := quadAt q s
    let lessWork (lid : Nat) (t : State) : Prop := ∀ l, tfind s.launches lid = some l →
      ∃ m, tfind t.launches lid = some m ∧ m.engine = l.engine - 1
    (x.tiles = [] → exec .tileTaskStart s = .next s) ∧
    (∀ k, x.running = none → x.tiles = [k] →
      (taskReady k s = .ok false ∨ (taskReady k s = .ok true ∧ workHeld k.vf s = true) → exec .tileTaskStart s = .next s) ∧
      (taskReady k s = .ok true → workHeld k.vf s = false → ∃ t, exec .tileTaskStart s = .next t ∧ (quadAt q t).tiles = [] ∧
        (∃ r, (quadAt q t).running = some r ∧ r.order = k.order ∧ r.record = k.record ∧
          ∀ off < 2 ^ 21, Memory.wf s.spad = true → cellGet r.pad (spadKey k.core off) = spadByte k.core off s) ∧
        Scheduled .tileTaskComplete (s.wheel + max 1 (cyclesToSlots k.core (taskCycles k.record) s)) (fun a => a.id = q) t) ∧
      (∀ e, taskReady k s = .error e → ∃ t, exec .tileTaskStart s = .next t ∧ (quadAt q t).tiles = [] ∧ lessWork k.launch t)) ∧
    (x.running = none → exec .tileTaskComplete s = .next s) ∧
    (∀ k, x.running = some k → ∃ t, exec .tileTaskComplete s = .next t ∧ (quadAt q t).running = none ∧
      Scheduled .tileTaskStart (s.wheel + 1) (fun a => a.id = q) t ∧ lessWork k.launch t)) ∧
  (∀ s,
    let q := s.ev.id
    let x := quadAt q s
    let chunk (t : State) : Prop := ∃ d ∈ t.agenda, d.ev = .copyChunk ∧ d.args.id = q ∧ d.args.n = 1#8
    (x.active = [] → x.copies = [] → exec .copyChunk s = .next s) ∧
    (∀ j, x.active = [] → x.copies = [j] → copyHeld j s = false → s.ev.n = 0#8 → chunkOut q s = false →
      ∃ t, exec .copyChunk s = .next t ∧ (quadAt q t).active = [{ j with paused := false }] ∧ (quadAt q t).copies = [] ∧ chunk t) ∧
    (∀ j, x.active = [j] → x.copies = [] → s.ev.n = 1#8 → s.ev.v.toNat = j.order →
      let e := dTotal j.desc
      let n := min (4096 / 2 ^ dEsz j.desc) (e - j.done)
      let ran := copyElems j n j.done (charge j.vf j.launch 3 (n * 2 ^ dEsz j.desc) s)
      chunkMoving j n s = false →
      (∀ c u, ran = (some c, u) → ∃ t, exec .copyChunk s = .next t ∧ (quadAt q t).active = [] ∧ (quadAt q t).copies = []) ∧
      (∀ u, ran = (none, u) →
        (e ≤ j.done + n ∨ copyAborted j u = true →
          ∃ t, exec .copyChunk s = .next t ∧ (quadAt q t).active = [] ∧ (quadAt q t).copies = []) ∧
        (j.done + n < e → copyAborted j u = false → copyHeld j u = true → ∃ t, exec .copyChunk s = .next t ∧
          (quadAt q t).active = [] ∧ (quadAt q t).copies = [{ j with done := j.done + n, paused := true }]) ∧
        (j.done + n < e → copyAborted j u = false → copyHeld j u = false → ∃ t, exec .copyChunk s = .next t ∧
          (quadAt q t).active = [{ j with done := j.done + n }] ∧ chunk t)))) ∧
  (∀ s, (tfind s.tmsgs s.ev.id = none → exec .messageArrive s = .next s ∧ exec .msndResend s = .next s) ∧
    (∀ m, tfind s.tmsgs s.ev.id = some m →
      let lid := ((m.data[2]?).getD 0).toNat
      let heard (t : State) : Prop := tfind t.tmsgs s.ev.id = none ∧
        ((strandAt (sid m.vf m.ctx) s).wait = .message s.ev.id → (strandAt (sid m.vf m.ctx) t).wait = .answered 0 0 0)
      (tfind s.launches lid = none → ∃ t, exec .messageArrive s = .next t ∧ heard t) ∧
      (∀ l, tfind s.launches lid = some l →
        let k := sid m.vf (indexCtx l.packet m.id)
        let c := placeOf l (pkPos l.packet m.id)
        let finished : Prop := (strandAt k s).launch = lid ∧ (strandAt k s).run = .exited
        (finished → ∃ t, exec .messageArrive s = .next t ∧ heard t ∧ t.cores = s.cores) ∧
        (¬ finished → 256 ≤ (coreAt c s).msgs.length → ∃ t, exec .messageArrive s = .next t ∧
          Scheduled .msndResend (s.wheel + cyclesToSlots c 64 s) (fun a => a.id = s.ev.id) t) ∧
        (¬ finished → (coreAt c s).msgs.length < 256 → ∃ t, exec .messageArrive s = .next t ∧ heard t ∧
          (coreAt c t).msgs = (coreAt c s).msgs ++
            [⟨lid, ((m.data[1]?).getD 0).toNat, m.id, m.line.toNat, (m.data[0]?).getD 0⟩])) ∧
      (m.flits = 0 → ∃ t, exec .msndResend s = .next t ∧
        Scheduled .flitInject (s.wheel + 1) (fun a => a.id = s.ev.id ∧ a.n = 2#8) t) ∧
      (m.flits ≠ 0 → m.src < 16 → ∃ t, exec .msndResend s = .next t ∧ tfind t.tmsgs s.ev.id = some { m with sent := 0 } ∧
        ∃ d ∈ t.agenda, d.ev = .transitFlitSend ∧ d.args.hall.toNat = m.src)))

/-! ### Traps, handlers and stopping a function -/

/-- R208 to R211, R270, R277: at a boundary the first pending asynchronous trap is taken, a deferred load error before the
others, with the next instruction's address, and in npc the word after a repeating instruction between its steps; a debug stop and
a quota trap are events of a D-mode log and wait for theirs (log 50); a chain that is no instruction traps with its words.

R221: the hypervisor stops and resumes a function at the next boundary: its strands leave their slots, state becomes 2 when they,
its tile tasks and its copies have come to rest, and its queues, engines and ready strands wait until it goes on; a request that
names no VF or no operation is refused.

Completes (exec answers a next state, for every state and operands that meet conditions on them alone): asyncTrapTake, vfStop,
vfStopApply, vfResume, vfResumeApply, illegalInstruction. -/
def Obligations.PendingTrapsAndStops : Prop :=
  ((∀ s,
      let k := sid s.ev.vf s.ev.ctx
      let x := strandAt k s
      let here (u : State) (y : Trap) : Prop := y.epc = hdrPc k u ∧
        y.npc = (match (strandAt k u).mid with | some (p, n) => if p = hdrPc k u then n else hdrPc k u | none => hdrPc k u)
      let header : Prop := (lineAt (lineKey k 0) s).rc.isSome = true
      (∀ e rest, x.errored = e :: rest → (∃ t, exec .asyncTrapTake s = .next t ∧ (strandAt k t).errored = rest ∧
        (strandAt k t).stepped = x.stepped ∧ Stopped k 13 4 (fun y => y.epc = hdrPc k s ∧
          y.npc = y.epc + BitVec.ofNat 56 (4 * y.chain.length) ∧ y.addr = e.addr ∧ y.info1 = e.pc.setWidth 64) t)) ∧
      (x.errored = [] →
        (x.stepped = true → (∃ t, exec .asyncTrapTake s = .next t ∧ Stopped k 20 0 (here s) t)) ∧
        (x.stepped = false → x.stopReq = true →
          (strandDue k s ≠ 0 → exec .asyncTrapTake s = .next s) ∧
          (∀ w u, strandDue k s = 0 → logStrand k 4 24#64 s = .go w u → (∃ t, exec .asyncTrapTake s = .next t ∧
            Stopped k 24 0 (here u) t ∧ (strandAt k t).stopReq = false))) ∧
        (x.stepped = false → x.stopReq = false →
          (lexpPending k s = true → (∃ t, exec .asyncTrapTake s = .next t ∧
            Stopped k 15 (if x.early then 1 else 0) (fun y => here s y ∧ y.info1 = BitVec.ofNat 64 (hdrN k 3 1 9 s)) t ∧
            (header → hdrN k 3 10 1 t = 0))) ∧
          (lexpPending k s = false → qexhPending k s = true → ∀ w u, strandDue k s = 0 → logStrand k 4 16#64 s = .go w u →
            (∃ t, exec .asyncTrapTake s = .next t ∧ Stopped k 16 0 (fun y => ∀ l, tfind s.launches x.launch = some l →
              y.info1 = BitVec.ofNat 64 l.used ∧ y.info2 = BitVec.ofNat 64 l.quota) t ∧
              ((lineAt (lineKey k 0) u).rc.isSome = true → hdrN k 3 11 1 t = 0))) ∧
          (lexpPending k s = false → qexhPending k s = false → exec .asyncTrapTake s = .next s)))) ∧
    (∀ s, (∃ t, exec .illegalInstruction s = .next t ∧ Stopped (cur s) s.ev.n.toNat s.ev.v.toNat (fun y => y.epc = s.issue.pc ∧
      y.npc = s.issue.npc ∧ y.chain = s.issue.words) t))) ∧
  ((∀ s,
      let v := s.ev.v
      let target : BitVec 7 := BitVec.ofNat 7 (bitsN v 0 7)
      let asks (i apply : Instr) (op : Nat) : Prop :=
        (s.ev.vf ≠ 0#7 → exec i s = .next s) ∧
        (s.ev.vf = 0#7 → bitB v 63 = false → (∃ t, exec i s = .next t ∧ regN 0 0x2408 0 2 t = regN 0 0x2408 0 2 s)) ∧
        (s.ev.vf = 0#7 → bitB v 63 = true → bitsN v 7 2 ≠ op ∨ target = 0#7 → (∃ t, exec i s = .next t ∧ regN 0 0x2408 0 2 t = 3)) ∧
        (s.ev.vf = 0#7 → bitB v 63 = true → bitsN v 7 2 = op → target ≠ 0#7 → (∃ t, exec i s = .next t ∧ regN 0 0x2408 0 2 t = 1 ∧
          Scheduled apply (nextBoundary s) (fun a => a.vf = target) t))
      asks .vfStop .vfStopApply 1 ∧ asks .vfResume .vfResumeApply 2) ∧
    (∀ s,
      let vf := s.ev.vf
      let busy : Bool := s.strands.any (fun e => sidVf e.1 == vf && e.2.slot.isSome) ||
        s.quads.any (fun e => (match e.2.running with | some t => t.vf == vf | none => false) || e.2.active.any (fun j => j.vf == vf))
      let void : Prop := s.ev.flag = true ∧ (fnAt vf s).stopped = false
      (void → exec .vfStopApply s = .next s) ∧
      (s.ev.flag = false → (∃ t, exec .vfStopApply s = .next t ∧ (fnAt vf t).stopped = true ∧
        ∀ k x, tfind s.strands k = some x → sidVf k = vf → x.slot.isSome = true → (strandAt k t).leaving = true)) ∧
      (¬ void → busy = false → (∃ t, exec .vfStopApply s = .next t ∧ regN 0 0x2408 0 2 t = 2)) ∧
      (¬ void → busy = true → (∃ t, exec .vfStopApply s = .next t ∧
        Scheduled .vfStopApply (s.wheel + 1000) (fun a => a.vf = vf ∧ a.flag = true) t))) ∧
    (∀ s, (∃ t, exec .vfResumeApply s = .next t ∧ (fnAt s.ev.vf t).stopped = false ∧ regN 0 0x2408 0 2 t = 0 ∧
      ∀ k x, tfind s.strands k = some x → sidVf k = s.ev.vf → x.run = .ready →
        Scheduled .slotSelect (s.wheel + 1) (fun a => a.core = BitVec.ofNat 12 x.core) t)))

/-- R210, R212, R215 to R218: a trap is delivered once the strand's accesses have completed: its record is written and the
strand sealed for its destination, its slot freed and the trap queued last; where no record can be written it is held for backing
and the hypervisor told; a waiting trap starts a handler in the lowest free record, at THENT and its pool's level, else is counted
and reported; one whose handler's record cannot be written waits in the PF pool (log 38); THCTX and THCNT change only where the
records in use stay inside.

Completes (exec answers a next state, for every state and operands that meet conditions on them alone): trapDeliver,
handlerHandover, thctxWrite, thcntWrite. -/
def Obligations.DeliveryAndHandlers : Prop :=
  (∀ s,
    let k := sid s.ev.vf s.ev.ctx
    let x := strandAt k s
    let h := coreHall x.core
    (x.trap = none → exec .trapDeliver s = .next s) ∧
    (∀ y, x.trap = some y → s.ev.n = 2#8 →
      (writeBacksOut k s = true → ∃ t, exec .trapDeliver s = .next t ∧ Scheduled .trapDeliver (s.wheel + 64) (fun a => a = s.ev) t) ∧
      (writeBacksOut k s = false → ∃ t, exec .trapDeliver s = .next t ∧ (strandAt k t).trap = none ∧ (strandAt k t).hold = 0#4 ∧
        (strandAt k t).slot = none ∧
        (x.trapTo = 2#2 → (fnAt (sidVf k) s).events.length < 64 →
          (fnAt (sidVf k) t).events = (fnAt (sidVf k) s).events ++ [⟨1, 0, 0, 0, sidCtx k⟩]) ∧
        (x.trapTo ≠ 2#2 →
          let pool : BitVec 7 := if x.trapTo = 1#2 then 0#7 else sidVf k
          (fnAt pool t).waiting = (fnAt pool s).waiting ++ [(k, y)] ∧
          Scheduled .handlerHandover (s.wheel + 1) (fun a => a.vf = pool) t))) ∧
    (∀ y, x.trap = some y → s.ev.n = 1#8 → writeBacksOut k s = true → ∃ t, exec .trapDeliver s = .next t ∧
      Scheduled .trapDeliver (s.wheel + 64) (fun a => a.vf = s.ev.vf ∧ a.ctx = s.ev.ctx ∧ a.n = 1#8) t) ∧
    (∀ y, x.trap = some y → s.ev.n = 0#8 →
      let u := if s.ev.flag then s else holdTrapped k y (withHeader k s)
      (outstanding x = true ∨ writeBacksOut k u = true → (∃ t, exec .trapDeliver s = .next t ∧
        Scheduled .trapDeliver (u.wheel + 64) (fun a => a = { s.ev with flag := true }) t ∧
        (∀ n, s.ev.flag = false → hdrDmode k (withHeader k s) = true → y.kind ≠ 17#8 → y.kind ≠ 18#8 →
          partOf (coreHall (strandAt k (withHeader k s)).core) (withHeader k s) = some n →
          Scheduled .partitionHold (nextBoundary { withHeader k s with wheel := (withHeader k s).wheel - 1 })
            (fun a => a = { argPart n with v := 1#64 }) t))) ∧
      (outstanding x = false → writeBacksOut k u = false →
        let w := withHeader k u
        (∀ e rest, x.errored = e :: rest → ¬ (y.kind = 13#8 ∧ y.cause = 4#8) → (∃ t, exec .trapDeliver s = .next t ∧
          (∃ z, (strandAt k t).trap = some z ∧ z.kind = 13#8 ∧ z.cause = 4#8 ∧ z.addr = e.addr) ∧
          (strandAt k t).errored = (strandAt k w).errored.drop 1 ∧
          Scheduled .trapDeliver (w.wheel + 1) (fun a => a = { s.ev with flag := true }) t)) ∧
        (x.errored = [] → (strandAt k w).run = .trapped → handlerIndex k w = none →
          let dest := trapDest k y w
          let name := if hdrN k 1 31 1 w = 1 then hdrN k 1 16 15 w + 2 ^ 15 else 0
          let put (a : Nat) (alt : Bool) := deviceWrite h (sidVf k) a (wordsBytes (recordWords k y dest alt name x.trapTime)) w
          let tlink := hdrN k 4 6 50 w * 64
          let dflt := (sidCtx k).toNat + 0x1500
          let sent (a : Nat) (t : State) : Prop := (strandAt k t).run = .trapped ∧
            (strandAt k t).trapTo = BitVec.ofNat 2 dest ∧ (strandAt k t).trapAt = BitVec.ofNat 56 a
          (put tlink false ≠ none → (∃ t, exec .trapDeliver s = .next t ∧ sent tlink t)) ∧
          (put tlink false = none → put dflt true ≠ none → (∃ t, exec .trapDeliver s = .next t ∧ sent dflt t)) ∧
          (put tlink false = none → put dflt true = none → (∃ t, exec .trapDeliver s = .next t ∧ (strandAt k t).hold = 6#4 ∧
            Scheduled .keptWritebackRetry (w.wheel + 2000000) (fun a => a.vf = sidVf k) t ∧
            ∃ z, (k, z) ∈ (fnAt 0 t).waiting ∧ z.kind = 12#8 ∧ z.addr = BitVec.ofNat 64 dflt)))))) ∧
  (∀ s,
    let pool := s.ev.vf
    let f := fnAt pool s
    (f.waiting = [] → (∃ t, exec .handlerHandover s = .next t ∧ regN pool 0x1118 0 16 t = f.busy.length % 2 ^ 16 ∧
      regN pool 0x1120 0 32 t = 0)) ∧
    (∀ k y, f.waiting = [(k, y)] →
      let place := placeHandler pool (if k = 0 then none else some (strandAt k s).core) s
      let lone : Prop := k = 0 ∨ y.kind = 12#8
      let at_ (i : Nat) := thBase pool s + 8192 * i + 0x1500
      let record (i c : Nat) := deviceWrite (coreHall c) pool (at_ i)
        (wordsBytes (recordWords k y (if y.pf then 1 else 0) false 0 (tick s))) (setFn pool { f with waiting := [] } s)
      (∀ i c, freeHandler pool s = some i → place = some c → (¬ lone ∨ record i c ≠ none) →
        cacheLoad c s + 1 < Config.registerCacheLines → (∃ t, exec .handlerHandover s = .next t ∧
        let n := sid pool (BitVec.ofNat 56 (thBase pool s + 8192 * i))
        (strandAt n t).run = .ready ∧ (strandAt n t).core = c ∧ (fnAt pool t).waiting = [] ∧ i ∈ (fnAt pool t).busy ∧
        hdrPc n t = BitVec.ofNat 56 (regN pool 0x1108 2 54 s * 4) ∧ hdrPriv n t = (if pool = 0#7 then 2 else 1) ∧
        Scheduled .slotSelect (s.wheel + 1) (fun a => a.core = BitVec.ofNat 12 c) t)) ∧
      (∀ i c, freeHandler pool s = some i → place = some c → lone → record i c = none → pool ≠ 0#7 →
        (∃ t, exec .handlerHandover s = .next t ∧ (fnAt pool t).waiting = [] ∧
          (k, { y with pf := true }) ∈ (fnAt 0 t).waiting ∧ Scheduled .handlerHandover (s.wheel + 1) (fun a => a.vf = 0#7) t)) ∧
      (freeHandler pool s = none ∨ place = none → (∃ t, exec .handlerHandover s = .next t ∧ (fnAt pool t).waiting = [(k, y)] ∧
        regN pool 0x1120 0 32 t = 1 ∧ Caused pool 7 t)))) ∧
  (∀ s,
    let vf := s.ev.vf
    (hostClosed vf s = true ∨ regionHolds vf (bitsN s.ev.v 13 43 * 2 ^ 13) (thCount vf s) s = false →
      exec .thctxWrite s = .next s) ∧
    (hostClosed vf s = false → regionHolds vf (bitsN s.ev.v 13 43 * 2 ^ 13) (thCount vf s) s = true →
      (∃ t, exec .thctxWrite s = .next t ∧ reg vf 0x1100 t = s.ev.v &&& 0x00FFFFFFFFFFE001#64 ∧
      Scheduled .handlerHandover (s.wheel + 1) (fun a => a.vf = vf) t)) ∧
    (hostClosed vf s = true ∨ regionHolds vf (thBase vf s) (bitsN s.ev.v 0 16) s = false → exec .thcntWrite s = .next s) ∧
    (hostClosed vf s = false → regionHolds vf (thBase vf s) (bitsN s.ev.v 0 16) s = true → (∃ t, exec .thcntWrite s = .next t ∧
      reg vf 0x1110 t = s.ev.v &&& 0xFFFF#64 ∧ Scheduled .handlerHandover (s.wheel + 1) (fun a => a.vf = vf) t)))

/-! ### Debug -/

/-- R227, R228: a token given is verified 2,000 slots later and authorises until its time, with its rights; the end of an
authorisation clears catch and is an event; DBGCTL is an authorised debugger's; the key's hash is written once; events are
read oldest first.

R219, R224, R229 to R232: strand and hall commands are turned away unauthorised (1), while the module saves (4) or where
the strand does not allow them (3); codes 2 and 5 are the model's use of names the rule lists (log 46); stop asks for the stop trap,
resume returns a caught strand to its instruction, to its replaced pc, or for one step, end exits it; a halt stops a hall's strands,
with event 4 once they are at rest, its release takes effect at the boundary and wakes them; the watchdog reports each overdue
barrier of a halted hall and looks again.

Completes (exec answers a next state, for every state and operands that meet conditions on them alone): dbgsubGo,
debugTokenVerified, dbgstatEnd, debugAuthExpire, dbgctlWrite, dbgkeyWrite, dbgevRead, strcmdStop, strcmdResume, strcmdStep,
strcmdResumeRpc, strcmdEnd, hallHalt, hallHaltRelease, barrierWatchdog. -/
def Obligations.Debugging : Prop :=
  ((∀ s,
      let vf := s.ev.vf
      let above : Bool := (mailBytes vf (0x40000 + 288) 224 s).all (fun b => b == 0#8)
      (hostClosed vf s = true ∨ vf = 0#7 ∨ bitB s.ev.v 0 = false → exec .dbgsubGo s = .next s) ∧
      (hostClosed vf s = false → vf ≠ 0#7 → bitB s.ev.v 0 = true → (∃ t, exec .dbgsubGo s = .next t ∧ regN vf 0x40228 0 4 t = 1 ∧
        (fnAt vf t).nonces = (fnAt vf s).nonces + 1 ∧
        (fnAt vf t).token = BitVec.ofNat 2304 (ofBytes (mailBytes vf 0x40000 288 s)) ∧
        Scheduled .debugTokenVerified (s.wheel + 2000) (fun a => a.vf = vf ∧ a.flag = above) t))) ∧
    (∀ s,
      let vf := s.ev.vf
      let f := fnAt vf s
      (s.ev.flag = true → tokenGood vf s = true → (∃ t, exec .debugTokenVerified s = .next t ∧
        regN vf 0x40228 0 2 t = 2 ∧ regN vf 0x40228 2 2 t = tokenField f.token 49 1 ∧
        (fnAt vf t).tokenUntil = tokenField f.token 56 8 ∧
        Scheduled .debugAuthExpire (2 * (tokenField f.token 56 8 + 1)) (fun a => a.vf = vf) t)) ∧
      (s.ev.flag = false ∨ tokenGood vf s = false → (∃ t, exec .debugTokenVerified s = .next t ∧ regN vf 0x40228 0 4 t = 3))) ∧
    (∀ s,
      let vf := s.ev.vf
      let finished (t : State) : Prop := regN vf 0x40228 0 4 t = 0 ∧ regN vf 0x40230 0 1 t = 0 ∧
        ((fnAt vf s).events.length < 64 → (fnAt vf t).events = (fnAt vf s).events ++ [⟨6, 0, 0, 0, 0⟩]) ∧
        (haltMask vf s ≠ 0 → Scheduled .hallHaltRelease (nextBoundary s) (fun a => a.vf = vf ∧ a.n = 1#8) t)
      (regN vf 0x40228 0 2 s ≠ 2 → exec .dbgstatEnd s = .next s ∧ exec .debugAuthExpire s = .next s) ∧
      (hostClosed vf s = true ∨ bitB s.ev.v 4 = false → exec .dbgstatEnd s = .next s) ∧
      (tick s ≤ (fnAt vf s).tokenUntil → exec .debugAuthExpire s = .next s) ∧
      (hostClosed vf s = false → regN vf 0x40228 0 2 s = 2 → bitB s.ev.v 4 = true → ∃ t, exec .dbgstatEnd s = .next t ∧ finished t) ∧
      (regN vf 0x40228 0 2 s = 2 → (fnAt vf s).tokenUntil < tick s → ∃ t, exec .debugAuthExpire s = .next t ∧ finished t)) ∧
    (∀ s,
      let vf := s.ev.vf
      (hostClosed vf s = true ∨ authorised vf 0 s = false → exec .dbgctlWrite s = .next s) ∧
      (hostClosed vf s = false → authorised vf 0 s = true →
        (∃ t, exec .dbgctlWrite s = .next t ∧ regN vf 0x40230 0 1 t = bitsN s.ev.v 0 1)) ∧
      (hostClosed vf s = true ∨ (fnAt vf s).keySet ≠ 0#6 → exec .dbgkeyWrite s = .next s) ∧
      (hostClosed vf s = false → (fnAt vf s).keySet = 0#6 → (∃ t, exec .dbgkeyWrite s = .next t ∧ (fnAt vf t).keySet = 0x3F#6 ∧
        ∀ i < 6, reg vf (0x40280 + 8 * i) t = BitVec.ofNat 64 (bitsN s.ev.wide (64 * i) 64))) ∧
      (hostClosed vf s = true → ∃ t, exec .dbgevRead s = .next t ∧ (fnAt vf t).events = (fnAt vf s).events ∧
        t.outbox = s.outbox ++ [.hostData vf (BitVec.allOnes 64)]) ∧
      (hostClosed vf s = false → (fnAt vf s).events = [] →
        (∃ t, exec .dbgevRead s = .next t ∧ t.outbox = s.outbox ++ [.hostData vf 0#64])) ∧
      (∀ e rest, hostClosed vf s = false → (fnAt vf s).events = e :: rest →
        (∃ t, exec .dbgevRead s = .next t ∧ (fnAt vf t).events = rest ∧
        reg vf 0x40270 t = e.addr.setWidth 64 ∧ t.outbox = s.outbox ++ [.hostData vf (BitVec.ofNat 64
          (e.ev.toNat + 2 ^ 4 * e.hall.toNat + 2 ^ 8 * e.bar.toNat + 2 ^ 12 * e.lvl.toNat))])))) ∧
  ((∀ s,
      let vf := s.ev.vf
      let k := selStrand vf s
      let x := strandAt k s
      let named : Prop := vf = 0#7 ∨ tfind s.strands k ≠ none
      let open_ : Prop := hostClosed vf s = false ∧ authorised vf 0 s = true ∧ s.power = .on
      let one : Prop := HcRoom 1 s ∧ bitB x.wakeBits 1 = false ∧ Exclusive (lineAt (lineKey k 0) s) ∧ Whole k 0 s ∧ Whole k 81 s
      TurnsAway .strcmdStop 0 s ∧ TurnsAway .strcmdResume 0 s ∧ TurnsAway .strcmdResumeRpc 0 s ∧
      TurnsAway .strcmdStep 0 s ∧ TurnsAway .strcmdEnd 0 s ∧ (s.ev.n = 0#8 → TurnsAway .hallHalt 1 s) ∧
      (∀ i ∈ [Instr.strcmdStop, .strcmdResume, .strcmdResumeRpc, .strcmdStep, .strcmdEnd],
        (open_ → ¬ named → ∃ t, exec i s = .next t ∧ Commanded vf 2 t) ∧
        (open_ → named → x.stopReq = true → ∃ t, exec i s = .next t ∧ Commanded vf 5 t)) ∧
      (open_ → named → x.stopReq = false →
        (x.run = .unborn ∨ x.run = .trapped ∨ x.run = .exited ∨ x.run = .lost → (∃ t, exec .strcmdStop s = .next t ∧ Commanded vf 3 t)) ∧
        (x.run ≠ .unborn → x.run ≠ .trapped → x.run ≠ .exited → x.run ≠ .lost → (∃ t, exec .strcmdStop s = .next t ∧
          Commanded vf 0 t ∧ (strandAt k t).stopReq = true)) ∧
        (caught k s = false → ∀ i ∈ [Instr.strcmdResume, .strcmdResumeRpc, .strcmdStep, .strcmdEnd],
          (∃ t, exec i s = .next t ∧ Commanded vf 3 t)) ∧
        (caught k s = true → one →
          (∃ t, exec .strcmdResume s = .next t ∧ Commanded vf 0 t ∧ (strandAt k t).run = .ready ∧ (strandAt k t).suppress = true ∧
            hdrPc k t = BitVec.ofNat 56 (cachedWord k 0x1440 s).toNat ∧ hdrPriv k t = bitsN (cachedWord k 0x1458 s) 2 2) ∧
          (∃ t, exec .strcmdResumeRpc s = .next t ∧ Commanded vf 0 t ∧ (strandAt k t).run = .ready ∧
            hdrPc k t = BitVec.ofNat 56 (cachedWord k 0x1450 s).toNat ∧ hdrPriv k t = bitsN (cachedWord k 0x1458 s) 2 2) ∧
          (Whole k 82 s → (∃ t, exec .strcmdStep s = .next t ∧ Commanded vf 0 t ∧ (strandAt k t).run = .ready ∧
            bitB (cachedWord k 0x1480 t) 0 = true ∧ hdrPc k t = BitVec.ofNat 56 (cachedWord k 0x1440 s).toNat))) ∧
        (caught k s = true → (∃ t, exec .strcmdEnd s = .next t ∧ Commanded vf 0 t ∧ (strandAt k t).run = .exited)))) ∧
    (∀ s,
      let vf := s.ev.vf
      let whole (h : Nat) : Bool := vf == 0#7 || (List.range 4).all (fun q => islandOwner (4 * h + q) s == vf)
      let foreign : Bool := vf != 0#7 && (hallsOf s.ev.v).any (fun h => (List.range 4).all (fun q => islandOwner (4 * h + q) s != vf))
      s.ev.n = 0#8 → hostClosed vf s = false → authorised vf 1 s = true → s.power = .on →
        (foreign = true → ∃ t, exec .hallHalt s = .next t ∧ Commanded vf 2 t) ∧
        (foreign = false → releasePending vf s = true → ∃ t, exec .hallHalt s = .next t ∧ Commanded vf 5 t) ∧
        (foreign = false → releasePending vf s = false → (∃ t, exec .hallHalt s = .next t ∧ Commanded vf 0 t ∧
          ∀ h < 16, bitB s.ev.v h = true → (∀ e ∈ (hallAt h s).halts, e.1 ≠ vf.toNat) →
            (vf.toNat, whole h) ∈ (hallAt h t).halts ∧
            Scheduled .hallHalt (s.wheel + 1) (fun a => a.vf = vf ∧ a.hall.toNat = h ∧ a.n = 1#8) t ∧
            (regN vf 0x40260 0 32 s ≠ 0 → Scheduled .barrierWatchdog (s.wheel + 2000 * regN vf 0x40260 0 32 s)
              (fun a => a.vf = vf ∧ a.hall.toNat = h) t)))) ∧
    (∀ s,
      let vf := s.ev.vf
      let mine := (hallAt s.ev.hall.toNat s).halts.find? (fun e => e.1 == vf.toNat)
      s.ev.n ≠ 0#8 →
        (mine = none → exec .hallHalt s = .next s) ∧
        (∀ e, mine = some e →
          (comingToRest e.2 vf s.ev.hall.toNat s = true →
            ∃ t, exec .hallHalt s = .next t ∧ Scheduled .hallHalt (s.wheel + 1) (fun a => a = s.ev) t) ∧
          (comingToRest e.2 vf s.ev.hall.toNat s = false → (fnAt vf s).events.length < 64 →
            ∃ t, exec .hallHalt s = .next t ∧ (fnAt vf t).events = (fnAt vf s).events ++ [⟨4, s.ev.hall, 0, 0, 0⟩]))) ∧
    (∀ s,
      let vf := s.ev.vf
      (s.ev.n = 0#8 → hostClosed vf s = true → exec .hallHaltRelease s = .next s) ∧
      (s.ev.n = 0#8 → hostClosed vf s = false → authorised vf 1 s = false → (∃ t, exec .hallHaltRelease s = .next t ∧ Commanded vf 1 t)) ∧
      (s.ev.n = 0#8 → hostClosed vf s = false → authorised vf 1 s = true → releasePending vf s = true →
        (∃ t, exec .hallHaltRelease s = .next t ∧ Commanded vf 5 t)) ∧
      (s.ev.n = 0#8 → hostClosed vf s = false → authorised vf 1 s = true → releasePending vf s = false →
        (∃ t, exec .hallHaltRelease s = .next t ∧ Commanded vf 0 t ∧
        Scheduled .hallHaltRelease (nextBoundary s) (fun a => a.vf = vf ∧ a.v = s.ev.v ∧ a.n = 1#8) t)) ∧
      (s.ev.n ≠ 0#8 → (∃ t, exec .hallHaltRelease s = .next t ∧ ∀ h < 16, bitB s.ev.v h = true →
        (∀ e ∈ (hallAt h t).halts, e.1 ≠ vf.toNat) ∧
        ∀ k x, tfind s.strands k = some x → coreHall x.core = h → x.run = .held → x.hold = 9#4 →
          Scheduled .strandWake (s.wheel + 1) (fun a => a = argStrand k) t))) ∧
    (∀ s,
      let vf := s.ev.vf
      let h := s.ev.hall.toNat
      let us := regN vf 0x40260 0 32 s
      let halted (g : Nat) : Bool := (hallAt g s).halts.any (fun e => e.1 == vf.toNat)
      let late := s.barriers.filter (fun e => e.2.armed && instanceHas e.1 h &&
        !(List.range h).any (fun g => halted g && instanceHas e.1 g) && decide (e.2.since + 2000 * us ≤ s.wheel))
      (us = 0 ∨ halted h = false → exec .barrierWatchdog s = .next s) ∧
      (us ≠ 0 → halted h = true → (∃ t, exec .barrierWatchdog s = .next t ∧
        Scheduled .barrierWatchdog (s.wheel + 2000 * us) (fun a => a.vf = vf ∧ a.hall.toNat = h) t ∧
        (late = [] → (fnAt vf t).events = (fnAt vf s).events) ∧
        (∀ key b, late = [(key, b)] → (List.range 16).filter (fun g => halted g && hallHolds b.launch g s) = [h] →
          (fnAt vf s).events.length < 64 → ∃ e, (fnAt vf t).events = (fnAt vf s).events ++ [e] ∧ e.ev = 3#4 ∧
            e.hall = s.ev.hall ∧ e.bar = BitVec.ofNat 4 (key % 16))))))

/-! ### The step, the encoding and the memory -/

/-- R192, R209, R270, log 1: at a strand's turn, with no event due before it, a step is exec of the instruction that the
words at the pc decode to, those words read one by one until decoding needs no more and npc the address after them, the lines of
its registers counted as used (R123); where a needed word faults, the strand takes that trap; with an event due no later, a step is
exec of that event at its slot; with neither, one slot passes. -/
def Obligations.StepRunsDecoded : Prop :=
  (∀ s turn k i ws,
    let u := beginTurn k turn s
    let x := strandAt k u
    let word (n : Nat) : FetchOne := fetchWord x.core (sidVf k) (hdrPriv k u) (u.issue.pc + BitVec.ofNat 56 (4 * n)) u
    let turned : Prop := (∃ g v st, x.wait = .answered g v st) ∨ ((∀ b tok, x.wait ≠ .barrier b tok) ∧ x.stepped = false ∧
      x.stopReq = false ∧ lexpPending k u = false ∧ qexhPending k u = false ∧ x.leaving = false)
    nextIssue s = some (turn, k) → (∀ d rest, s.agenda = d :: rest → turn < d.slot) → (strandAt k s).busyTurns ≤ 1 →
    baseLines k u = [] → turned → ws.length ≤ 7 →
    (∀ n < ws.length, decode (ws.take n) = .need ∧ ∃ w, ws[n]? = some w ∧ word n = .word w) →
    (decode ws = .ok i ws.length → step s = exec i (touched k i (atWords ws u)) ∧
      (touched k i (atWords ws u)).issue.npc = u.issue.pc + BitVec.ofNat 56 (4 * ws.length)) ∧
    (∀ kd ca v, decode ws = .need → word ws.length = .trap kd ca v →
      step s = .next (trapAddr kd ca ((u.issue.pc + BitVec.ofNat 56 (4 * ws.length)).setWidth 64) (atWords (ws ++ [0#32]) v)))) ∧
  (∀ s d rest, s.agenda = d :: rest → (∀ turn k, nextIssue s = some (turn, k) → d.slot ≤ turn) →
    step s = exec d.ev { s with wheel := max s.wheel d.slot, agenda := rest, ev := d.args }) ∧
  (∀ s, s.agenda = [] → nextIssue s = none → step s = .next { s with wheel := s.wheel + 1 })

/-- R265 to R276: words written out from the formats decode to the instructions they stand for. -/
def Obligations.DecodeWords : Prop :=
  decode [0x00085306#32] = .ok (.add .empty 2 4 5 6) 1 ∧
  decode [0x08085190#32] = .ok (.ld .empty 0 0 3 4 5 16) 1 ∧
  decode [0x48085180#32, 0x64#32] = .ok (.ldLong .empty 0 0 3 4 5 100) 2 ∧
  decode [0x084C4108#32] = .ok (.st .empty 0 2 6 4 8) 1 ∧
  decode [0x0415FFFD#32] = .ok (.br none 1 2 0x1FFFD) 1 ∧
  decode [0x900400C3#32, 0x200A5307#32] = .ok (.rep 3 6 0 8 (.add .empty 3 5 5 6)) 2 ∧
  decode [0x0C485351#32] = .ok (.amo .empty 5 1 4 5 6) 1 ∧
  decode [0x80000123#32, 0x61CE0000#32, 0x456789AB#32] = .ok (.liLong ⟨some 0x123, none, none⟩ 7 0x456789AB) 3 ∧
  decode [0x8400000F#32, 0x300642A1#32] = .ok (.vadd ⟨none, some ⟨7, 1, 0⟩, none⟩ 2 1 3 4 5) 2 ∧
  decode [0x17885309#32] = .ok (.fadd .empty 9 4 5 6) 1 ∧
  decode [0x1DC00280#32] = .ok (.trap .empty 5) 1 ∧
  decode [0x48085180#32] = .need

/-- R15, R25, R49, R60, R68, R69, R80, R118, R164, R166, R227, R247: at reset time is zero, no function but the PF is
enabled, no strand, launch or line exists, memory reads zero under the key boot writes with and in canonical form, W is
1,024, RNGSEED 1, ENERGYPER and BWTIME 1,000, every island at its default point and every segment unmelted; the start is
due.  (Registers without a stated reset value are the model's, log 5, and not named here.) -/
def Obligations.ResetState : Prop :=
  let s := State.reset
  s.wheel = 0 ∧ s.strands = [] ∧ s.launches = [] ∧ s.lines = [] ∧ s.power = .on ∧ s.phase.phase = .off ∧
  Scheduled .moduleStart 0 (fun _ => True) s ∧ Memory.wf s.mem = true ∧ Memory.wf s.spad = true ∧
  (∀ a, memByte (keyOf 0 s) a s = 0#8 ∧ tagAt a s = 0#4 ∧ memFull a s = true) ∧
  (∀ c off, spadByte c off s = 0#8) ∧
  (fnAt 0 s).enabled = true ∧ (∀ vf, vf ≠ 0#7 → (fnAt vf s).enabled = false) ∧
  (∀ h, (hallAt h s).w = 1024) ∧ (∀ c, (coreAt c s).rng = 1#32) ∧
  (∀ vf, reg vf 0x30008 s = 1000#64 ∧ reg vf 0x40260 s = 1000#64) ∧
  (∀ i < 64, islandN i 0 5 s = 22 ∧ islandN i 5 3 s = 7 ∧ islandN i 8 1 s = 0) ∧
  regN 0 0x3008 0 12 s = 256 ∧ regN 0 0x3008 12 16 s = 100 ∧ regN 0 0x3008 28 8 s = 10

/-- R261 to R277: for every well-formed instruction, decoding its words, whatever follows them, gives it back with its
length, and no proper beginning of them is an instruction. -/
def Obligations.DecodeOfEncode : Prop :=
  ∀ i rest, encodable i = true →
    decode (encode i ++ rest) = .ok i (encode i).length ∧ ∀ n < (encode i).length, decode ((encode i).take n) = .need

/-- R270, R277: words that decode to an instruction are that instruction's words: no bit of an encoding is dropped, and
reserved fields are refused. -/
def Obligations.EncodeOfDecode : Prop :=
  ∀ ws i n, decode ws = .ok i n → encodable i = true ∧ ws.take n = encode i

/-- Memory, the scratchpads and a stored snapshot stay in canonical form at every step: addresses rise and no listed byte is
zero, so that equal memories are equal data (R15, R66). -/
def Obligations.StepKeepsMemory : Prop :=
  ∀ s t, memoryForm s = true → step s = .next t → memoryForm t = true
end

