-- ==== Sys2Proof/Laws/Bits.lean ====
section
/-! SUPPORT. Laws of bit fields and of little-endian byte strings (R3). -/

namespace Sys2Proof.Machine

theorem getLsbD_fieldMask (w lo n i : Nat) (hi : i < w) :
    (BitVec.ofNat w ((2 ^ n - 1) * 2 ^ lo)).getLsbD i = (decide (lo ≤ i) && decide (i < lo + n)) := by
  simp only [BitVec.getLsbD_ofNat, hi, decide_true, Bool.true_and, Nat.testBit_mul_two_pow]
  by_cases h : lo ≤ i
  · simp [h, Nat.testBit_two_pow_sub_one]; omega
  · simp [h]

/-- A field write sets the field's bits and leaves the others. -/
theorem getLsbD_setBits {w : Nat} (x : BitVec w) (lo n v i : Nat) (hi : i < w) :
    (setBits x lo n v).getLsbD i = if lo ≤ i ∧ i < lo + n then v.testBit (i - lo) else x.getLsbD i := by
  simp only [setBits, BitVec.getLsbD_or, BitVec.getLsbD_and, BitVec.getLsbD_not, hi, decide_true, Bool.true_and,
    getLsbD_fieldMask w lo n i hi]
  simp only [BitVec.getLsbD_ofNat, hi, decide_true, Bool.true_and, Nat.testBit_mul_two_pow, Nat.testBit_mod_two_pow]
  by_cases h1 : lo ≤ i
  · by_cases h2 : i < lo + n
    · have : i - lo < n := by omega
      simp [h1, h2, this]
    · have : ¬ i - lo < n := by omega
      simp [h1, h2, this]
  · simp [h1]

/-- Reading back the field written. -/
theorem bitsN_setBits {w : Nat} (x : BitVec w) (lo n v : Nat) (h : lo + n ≤ w) :
    bitsN (setBits x lo n v) lo n = v % 2 ^ n := by
  apply Nat.eq_of_testBit_eq
  intro i
  simp only [bitsN, Nat.testBit_mod_two_pow, ← Nat.shiftRight_eq_div_pow, Nat.testBit_shiftRight, BitVec.testBit_toNat]
  by_cases hi : i < n
  · have := getLsbD_setBits x lo n v (lo + i) (by omega)
    simp [hi, this]
  · simp [hi]

/-- Reading another field. -/
theorem bitsN_setBits_other {w : Nat} (x : BitVec w) (lo n v lo' n' : Nat) (h' : lo' + n' ≤ w)
    (h : lo' + n' ≤ lo ∨ lo + n ≤ lo') : bitsN (setBits x lo n v) lo' n' = bitsN x lo' n' := by
  apply Nat.eq_of_testBit_eq
  intro i
  simp only [bitsN, Nat.testBit_mod_two_pow, ← Nat.shiftRight_eq_div_pow, Nat.testBit_shiftRight, BitVec.testBit_toNat]
  by_cases hi : i < n'
  · have := getLsbD_setBits x lo n v (lo' + i) (by omega)
    have hn : ¬ (lo ≤ lo' + i ∧ lo' + i < lo + n) := by omega
    simp [hi, this, hn]
  · simp [hi]

theorem bitB_setBits_one {w : Nat} (x : BitVec w) (b v j : Nat) (hj : j < w) :
    bitB (setBits x b 1 v) j = if j = b then v.testBit 0 else bitB x j := by
  simp only [bitB, getLsbD_setBits x b 1 v j hj]
  by_cases h : j = b
  · subst h; simp
  · have : ¬ (b ≤ j ∧ j < b + 1) := by omega
    rw [if_neg this, if_neg h]

@[simp] theorem length_toBytes (n x : Nat) : (toBytes n x).length = n := by
  induction n generalizing x with
  | zero => rfl
  | succ n ih => simp [toBytes, ih]

/-- Bytes of a number and back (R3). -/
theorem ofBytes_toBytes (n x : Nat) : ofBytes (toBytes n x) = x % 2 ^ (8 * n) := by
  induction n generalizing x with
  | zero => simp [toBytes, ofBytes, Nat.mod_one]
  | succ n ih =>
    simp only [toBytes, ofBytes, ih, BitVec.toNat_ofNat]
    have : 2 ^ (8 * (n + 1)) = 256 * 2 ^ (8 * n) := by rw [show 8 * (n + 1) = 8 + 8 * n by omega, Nat.pow_add]
    rw [this, Nat.mod_mul, show (2 : Nat) ^ 8 = 256 from rfl]

end Sys2Proof.Machine
end

