-- ==== Sys2Proof/Laws/Tables.lean ====
section
/-! SUPPORT. Laws of the keyed tables and of sparse bytes in canonical form (R3). -/

namespace Sys2Proof.Machine

variable {α : Type}

/-! ### Tables: what a write leaves to a read -/

@[simp] theorem tfind_tput_same (t : Table α) (k : Nat) (v : α) : tfind (tput t k v) k = some v := by
  induction t with
  | nil => simp [tput, tfind]
  | cons e t ih =>
    obtain ⟨j, w⟩ := e
    simp only [tput]
    split
    · simp [tfind]
    · split
      · simp [tfind]
      · simp_all [tfind]

theorem tfind_tput_other (t : Table α) (k j : Nat) (v : α) (h : j ≠ k) : tfind (tput t k v) j = tfind t j := by
  induction t with
  | nil => simp [tput, tfind, h]
  | cons e t ih =>
    obtain ⟨i, w⟩ := e
    simp only [tput]
    split
    · simp [tfind, h]
    · split
      · next hik => subst hik; simp [tfind, h]
      · simp only [tfind, ih]

@[simp] theorem tget_tput_same (t : Table α) (k : Nat) (v d : α) : tget (tput t k v) k d = v := by simp [tget]

theorem tget_tput_other (t : Table α) (k j : Nat) (v d : α) (h : j ≠ k) : tget (tput t k v) j d = tget t j d := by
  simp [tget, tfind_tput_other t k j v h]

theorem tget_tput (t : Table α) (k j : Nat) (v d : α) : tget (tput t k v) j d = if j = k then v else tget t j d := by
  split
  · next h => subst h; simp
  · next h => exact tget_tput_other t k j v d h

/-! ### Bytes: what a write leaves to a read, and the canonical form -/

theorem cellGet_below (m : List Host.Cell) (lo a : Nat) (hm : cellsFrom lo m = true) (h : a < lo) : cellGet m a = 0#8 := by
  cases m with
  | nil => rfl
  | cons e t =>
    obtain ⟨j, b⟩ := e
    simp only [cellsFrom, Bool.and_eq_true, decide_eq_true_eq] at hm
    have : a < j := by omega
    simp [cellGet, this]

theorem cellsFrom_le (m : List Host.Cell) (lo lo' : Nat) (h : lo' ≤ lo) (hm : cellsFrom lo m = true) :
    cellsFrom lo' m = true := by
  cases m with
  | nil => rfl
  | cons e t =>
    obtain ⟨j, b⟩ := e
    simp only [cellsFrom, Bool.and_eq_true, decide_eq_true_eq] at hm ⊢
    exact ⟨⟨by omega, hm.1.2⟩, hm.2⟩

/-- A write keeps the canonical form above any bound at or below it. -/
theorem cellsFrom_cellPut (m : List Host.Cell) (lo a : Nat) (b : BitVec 8) (hm : cellsFrom lo m = true) (h : lo ≤ a) :
    cellsFrom lo (cellPut m a b) = true := by
  induction m generalizing lo with
  | nil =>
    simp only [cellPut]
    split <;> simp_all [cellsFrom]
  | cons e t ih =>
    obtain ⟨j, c⟩ := e
    simp only [cellsFrom, Bool.and_eq_true, decide_eq_true_eq] at hm
    simp only [cellPut]
    split
    · next hlt =>
      split
      · simp [cellsFrom, hm]
      · next hb =>
        have ht : cellsFrom (a + 1) ((j, c) :: t) = true := by
          simp only [cellsFrom, Bool.and_eq_true, decide_eq_true_eq]
          exact ⟨⟨by omega, hm.1.2⟩, hm.2⟩
        simp only [cellsFrom, Bool.and_eq_true, decide_eq_true_eq] at ht ⊢
        exact ⟨⟨h, by simpa using hb⟩, ht⟩
    · split
      · next hlt heq =>
        subst heq
        split
        · exact cellsFrom_le t (a + 1) lo (by omega) hm.2
        · next hb =>
          simp only [cellsFrom, Bool.and_eq_true, decide_eq_true_eq]
          exact ⟨⟨h, by simpa using hb⟩, hm.2⟩
      · next hlt hne =>
        simp only [cellsFrom, Bool.and_eq_true, decide_eq_true_eq]
        exact ⟨hm.1, ih (j + 1) hm.2 (by omega)⟩

theorem Memory.wf_cellPut (m : List Host.Cell) (a : Nat) (b : BitVec 8) (hm : Memory.wf m = true) :
    Memory.wf (cellPut m a b) = true := cellsFrom_cellPut m 0 a b hm (Nat.zero_le a)

theorem cellGet_cellPut_same (m : List Host.Cell) (lo a : Nat) (b : BitVec 8) (hm : cellsFrom lo m = true) :
    cellGet (cellPut m a b) a = b := by
  induction m generalizing lo with
  | nil =>
    simp only [cellPut]
    split <;> simp_all [cellGet]
  | cons e t ih =>
    obtain ⟨j, c⟩ := e
    simp only [cellsFrom, Bool.and_eq_true, decide_eq_true_eq] at hm
    simp only [cellPut]
    split
    · next hlt =>
      split
      · simp_all [cellGet]
      · simp [cellGet]
    · split
      · next hlt heq =>
        subst heq
        split
        · next hb => rw [cellGet_below t (a + 1) a hm.2 (by omega), hb]
        · simp [cellGet]
      · next hlt hne => simp [cellGet, hlt, hne, ih (j + 1) hm.2]

theorem cellGet_cellPut_other (m : List Host.Cell) (lo a c : Nat) (b : BitVec 8) (hm : cellsFrom lo m = true)
    (h : c ≠ a) : cellGet (cellPut m a b) c = cellGet m c := by
  induction m generalizing lo with
  | nil =>
    simp only [cellPut]
    split
    · rfl
    · simp [cellGet, h]
  | cons e t ih =>
    obtain ⟨j, d⟩ := e
    simp only [cellsFrom, Bool.and_eq_true, decide_eq_true_eq] at hm
    simp only [cellPut]
    split
    · next hlt =>
      split
      · rfl
      · simp only [cellGet, h, if_false]
        split
        · next hca => simp [show c < j by omega]
        · rfl
    · split
      · next hlt heq =>
        subst heq
        split
        · simp only [cellGet, h, if_false]
          split
          · next hca => exact cellGet_below t (a + 1) c hm.2 (by omega)
          · rfl
        · simp [cellGet, h]
      · next hlt hne => simp only [cellGet, ih (j + 1) hm.2]

/-- A byte of sparse storage after a write. -/
theorem cellGet_cellPut (m : List Host.Cell) (a c : Nat) (b : BitVec 8) (hm : Memory.wf m = true) :
    cellGet (cellPut m a b) c = if c = a then b else cellGet m c := by
  split
  · next h => subst h; exact cellGet_cellPut_same m 0 c b hm
  · next h => exact cellGet_cellPut_other m 0 a c b hm h

end Sys2Proof.Machine
end

