-- ==== Sys2Proof/Laws/Record.lean ====
section
/-! SUPPORT. Laws of the record words in the caches, and of the registers read and written through them (R117 to R124). -/

namespace Sys2Proof.Machine

/-! ### Bits of a line -/

theorem bitB_mask (m : BitVec 8) (i j : Nat) (hj : j < 8) :
    bitB (m ||| (1#8 <<< i)) j = (bitB m j || decide (j = i)) := by
  by_cases h : j = i
  · subst h; simp [bitB, hj]
  · simp only [bitB, BitVec.getLsbD_or, BitVec.getLsbD_shiftLeft, BitVec.getLsbD_one, h, decide_false, Bool.or_false]
    by_cases hji : j < i
    · simp [hji]
    · have : ¬ (j - i = 0) := by omega
      simp [this]

theorem lineWord_setLineWord (d : BitVec 512) (i j : Nat) (v : Word) (hi : i < 8) (hj : j < 8) :
    lineWord (setLineWord d i v) j = if j = i then v else lineWord d j := by
  apply BitVec.eq_of_getLsbD_eq
  intro b hb
  simp only [lineWord, setLineWord, BitVec.getLsbD_extractLsb', hb, decide_true, Bool.true_and, BitVec.getLsbD_or,
    BitVec.getLsbD_and, BitVec.getLsbD_not, BitVec.getLsbD_shiftLeft, BitVec.getLsbD_setWidth, BitVec.getLsbD_allOnes]
  have h512 : 64 * j + b < 512 := by omega
  by_cases h : j = i
  · subst h
    have h1 : ¬ (64 * j + b < 64 * j) := by omega
    have h2 : 64 * j + b - 64 * j = b := by omega
    have h3 : b < 512 := by omega
    simp [h512, h1, h2, h3, hb]
  · simp only [h, if_false]
    by_cases hlt : 64 * j + b < 64 * i
    · simp [h512, hlt, lineWord, BitVec.getLsbD_extractLsb', hb]
    · have h2 : ¬ (64 * j + b - 64 * i < 64) := by omega
      have h3 : v.getLsbD (64 * j + b - 64 * i) = false := BitVec.getLsbD_of_ge _ _ (by omega)
      simp [h512, hlt, h2, h3, BitVec.getLsbD_extractLsb', hb]

/-! ### A record word after a write of one -/

@[simp] theorem lineAt_setLine_same (key : Nat) (v : Line) (s : State) : lineAt key (setLine key v s) = v := by
  simp [lineAt, setLine]
theorem lineAt_setLine_other (key key' : Nat) (v : Line) (s : State) (h : key' ≠ key) :
    lineAt key' (setLine key v s) = lineAt key' s := by simp [lineAt, setLine, tget_tput_other _ _ _ _ _ h]

theorem lineAt_putWord_other (k off key : Nat) (v : Word) (s : State) (h : key ≠ lineKey k (off / 64)) :
    lineAt key (putWord k off v s) = lineAt key s := lineAt_setLine_other _ _ _ _ h

theorem lineAt_putWordAnywhere_other (k off h key : Nat) (v : Word) (s : State) (hk : key ≠ lineKey k (off / 64)) :
    lineAt key (putWordAnywhere k off h v s) = lineAt key s := by
  unfold putWordAnywhere
  simp only
  split
  · exact lineAt_putWord_other _ _ _ _ _ hk
  · exact lineAt_setLine_other _ _ _ _ hk

/-- What a line answers for one word: its newest copy that holds it, the register cache's first. -/
theorem cachedWord_eq (k off : Nat) (s : State) :
    cachedWord k off s =
      (let ln := lineAt (lineKey k (off / 64)) s
       let i := off % 64 / 8
       (((copies ln).find? (fun c => bitB c.mask i)).map (fun c => lineWord c.data i)).getD 0#64) := by
  unfold cachedWord
  dsimp only
  cases (copies (lineAt (lineKey k (off / 64)) s)).find? (fun c => bitB c.mask (off % 64 / 8)) <;> rfl

theorem cachedWord_congr (k off : Nat) (s t : State) (h : lineAt (lineKey k (off / 64)) t = lineAt (lineKey k (off / 64)) s) :
    cachedWord k off t = cachedWord k off s := by simp [cachedWord_eq, h]

/-- The line holds this word's place after the write, whichever caches held the line before. -/
theorem cachedWord_putWord (k off k' off' : Nat) (v : Word) (s : State) :
    cachedWord k' off' (putWord k off v s) =
      if lineKey k' (off' / 64) = lineKey k (off / 64) ∧ off' % 64 / 8 = off % 64 / 8 then v else cachedWord k' off' s := by
  have hi : off % 64 / 8 < 8 := by omega
  have hj : off' % 64 / 8 < 8 := by omega
  by_cases hkey : lineKey k' (off' / 64) = lineKey k (off / 64)
  · rw [cachedWord_eq, cachedWord_eq, hkey]
    simp only [putWord, lineAt_setLine_same, true_and, copies, Option.toList_some, List.singleton_append, List.find?_cons]
    rw [bitB_mask _ _ _ hj]
    by_cases hw : off' % 64 / 8 = off % 64 / 8
    · simp [hw, lineWord_setLineWord _ _ _ _ hi hi]
    · simp only [hw, decide_false, Bool.or_false, if_false]
      cases hrc : (lineAt (lineKey k (off / 64)) s).rc with
      | none => simp [bitB, copyNone]
      | some c =>
        simp only [Option.getD_some, Option.toList_some, List.singleton_append, List.find?_cons]
        cases bitB c.mask (off' % 64 / 8) <;> simp [lineWord_setLineWord _ _ _ _ hi hj, hw]
  · rw [cachedWord_congr _ _ _ _ (lineAt_putWord_other k off _ v s hkey)]
    simp [hkey]

/-! ### The copies of hall context caches, none of whose words another copy holds (R124) -/

/-- Copies in different halls that share no word. -/
def Apart2 (a b : Copy) : Prop := a.place ≠ b.place ∧ a.mask &&& b.mask = 0#8

theorem bitB_and (a b : BitVec 8) (j : Nat) : bitB (a &&& b) j = (bitB a j && bitB b j) := by simp [bitB]
theorem bitB_andNot (a b : BitVec 8) (j : Nat) (hj : j < 8) : bitB (a &&& ~~~b) j = (bitB a j && !bitB b j) := by
  simp [bitB, hj]

/-- The copy that holds a word is the one found. -/
theorem find_holder {l : List Copy} {c : Copy} {j : Nat} (h : l.Pairwise Apart2) (hc : c ∈ l) (hb : bitB c.mask j = true) :
    l.find? (fun x => bitB x.mask j) = some c := by
  induction l with
  | nil => cases hc
  | cons x t ih =>
    rw [List.pairwise_cons] at h
    rw [List.find?_cons]
    rcases List.mem_cons.1 hc with rfl | ht
    · simp [hb]
    · have h0 := bitB_and x.mask c.mask j
      rw [(h.1 c ht).2, hb] at h0
      have : bitB x.mask j = false := by simpa [bitB] using h0.symm
      simp [this, ih h.2 ht]

/-- A word that the new copy does not hold is found in the other copies as before. -/
theorem find_others (l : List Copy) (p : Nat) (m : BitVec 8) (j : Nat) (hj : j < 8) (hm : bitB m j = false)
    (hp : ∀ x ∈ l, x.place = p → bitB x.mask j = false) :
    (l.filterMap (fun x => if x.place = p ∨ x.mask &&& ~~~m = 0#8 then none else some { x with mask := x.mask &&& ~~~m })).find?
        (fun x => bitB x.mask j) =
      (l.find? (fun x => bitB x.mask j)).map (fun x => { x with mask := x.mask &&& ~~~m }) := by
  induction l with
  | nil => rfl
  | cons x t ih =>
    have ht := ih (fun y hy => hp y (List.mem_cons_of_mem _ hy))
    have hx := bitB_andNot x.mask m j hj
    rw [hm] at hx
    rw [List.filterMap_cons, List.find?_cons]
    by_cases h : x.place = p ∨ x.mask &&& ~~~m = 0#8
    · have hf : bitB x.mask j = false := by
        rcases h with h | h
        · exact hp x (List.mem_cons_self ..) h
        · rw [h] at hx; simpa [bitB] using hx.symm
      simp [h, hf, ht]
    · simp only [h, if_false, List.find?_cons, hx, Bool.not_false, Bool.and_true]
      cases bitB x.mask j <;> simp [ht]

/-- Two copies of such a list lie in different halls. -/
theorem ne_of_apart {l : List Copy} {a b : Copy} (h : l.Pairwise Apart2) (ha : a ∈ l) (hb : b ∈ l) (hab : a ≠ b) :
    a.place ≠ b.place := by
  induction l with
  | nil => cases ha
  | cons x t ih =>
    rw [List.pairwise_cons] at h
    rcases List.mem_cons.1 ha with rfl | ha' <;> rcases List.mem_cons.1 hb with rfl | hb'
    · exact absurd rfl hab
    · exact (h.1 b hb').1
    · exact fun e => (h.1 a ha').1 e.symm
    · exact ih h.2 ha' hb'

/-- A write of a word, wherever its line is cached: it reads back, and every other word reads as before. -/
theorem cachedWord_putWordAnywhere (k off h k' off' : Nat) (v : Word) (s : State)
    (hx : (lineAt (lineKey k (off / 64)) s).rc.isSome = true ∨ (lineAt (lineKey k (off / 64)) s).hc.Pairwise Apart2) :
    cachedWord k' off' (putWordAnywhere k off h v s) =
      if lineKey k' (off' / 64) = lineKey k (off / 64) ∧ off' % 64 / 8 = off % 64 / 8 then v else cachedWord k' off' s := by
  have hi : off % 64 / 8 < 8 := by omega
  have hj : off' % 64 / 8 < 8 := by omega
  cases hrc : (lineAt (lineKey k (off / 64)) s).rc with
  | some c => simp only [putWordAnywhere, hrc]; exact cachedWord_putWord k off k' off' v s
  | none =>
    by_cases hkey : lineKey k' (off' / 64) = lineKey k (off / 64)
    · have hpw : (lineAt (lineKey k (off / 64)) s).hc.Pairwise Apart2 := by simpa [hrc] using hx
      rw [cachedWord_eq, cachedWord_eq, hkey]
      simp only [putWordAnywhere, hrc, lineAt_setLine_same, true_and, copies, Option.toList_none, List.nil_append, setHc,
        List.find?_cons]
      rw [bitB_mask _ _ _ hj]
      by_cases hw : off' % 64 / 8 = off % 64 / 8
      · simp [hw, lineWord_setLineWord _ _ _ _ hi hi]
      · simp only [hw, decide_false, Bool.or_false, if_false]
        generalize hl : (lineAt (lineKey k (off / 64)) s).hc = l at *
        generalize hcc : ((l.find? (fun c => bitB c.mask (off % 64 / 8))).orElse (fun _ =>
            hcAt h (lineAt (lineKey k (off / 64)) s))).getD (copyNone h s) = c
        have hc : c ∈ l ∨ (bitB c.mask (off' % 64 / 8) = false ∧ ∀ x ∈ l, x.place ≠ c.place) := by
          cases hf : l.find? (fun c => bitB c.mask (off % 64 / 8)) with
          | some d =>
            simp only [hf, Option.orElse_some, Option.getD_some] at hcc
            exact .inl (hcc ▸ List.mem_of_find?_eq_some hf)
          | none =>
            simp only [hf, Option.orElse_none, hcAt, hl] at hcc
            cases hg : l.find? (fun c => c.place == h) with
            | some d =>
              simp only [hg, Option.getD_some] at hcc
              exact .inl (hcc ▸ List.mem_of_find?_eq_some hg)
            | none =>
              simp only [hg, Option.getD_none] at hcc
              refine .inr ⟨by simp [← hcc, copyNone, bitB], fun x hx' => ?_⟩
              have := List.find?_eq_none.1 hg x hx'
              simpa [← hcc, copyNone] using this
        cases hb : bitB c.mask (off' % 64 / 8) with
        | true =>
          have hm : c ∈ l := by rcases hc with h | h; exact h; simp [hb] at h
          simp [find_holder hpw hm hb, lineWord_setLineWord _ _ _ _ hi hj, hw]
        | false =>
          simp only
          rw [find_others l c.place _ _ hj (by rw [bitB_mask _ _ _ hj]; simp [hb, hw])]
          · cases l.find? (fun x => bitB x.mask (off' % 64 / 8)) <;> rfl
          · intro x hx' hp
            rcases hc with h | h
            · by_cases hxc : x = c
              · exact hxc ▸ hb
              · exact absurd hp (ne_of_apart hpw hx' h hxc)
            · exact absurd hp (h.2 x hx')
    · rw [cachedWord_congr _ _ _ _ (lineAt_putWordAnywhere_other k off h _ v s hkey)]
      simp [hkey]

/-- Two words of one record are one place only if they are the same word. -/
theorem cachedWord_putWord_same (k off : Nat) (v : Word) (s : State) : cachedWord k off (putWord k off v s) = v := by
  simp [cachedWord_putWord]

theorem cachedWord_putWord_word (k off off' : Nat) (v : Word) (s : State) (h : off' / 8 ≠ off / 8) :
    cachedWord k off' (putWord k off v s) = cachedWord k off' s := by
  rw [cachedWord_putWord, if_neg]
  rintro ⟨h1, h2⟩
  simp only [lineKey] at h1
  omega

/-- The word written reads back whatever the line's copies were. -/
theorem cachedWord_putWordAnywhere_same (k off h : Nat) (v : Word) (s : State) :
    cachedWord k off (putWordAnywhere k off h v s) = v := by
  have hi : off % 64 / 8 < 8 := by omega
  cases hrc : (lineAt (lineKey k (off / 64)) s).rc with
  | some c => simp only [putWordAnywhere, hrc]; exact cachedWord_putWord_same k off v s
  | none =>
    rw [cachedWord_eq]
    simp [putWordAnywhere, hrc, lineAt_setLine_same, copies, setHc, bitB_mask _ _ _ hi, lineWord_setLineWord _ _ _ _ hi hi]

theorem cachedWord_putWordAnywhere_word (k off off' g : Nat) (v : Word) (s : State) (h : off' / 8 ≠ off / 8)
    (hx : (lineAt (lineKey k (off / 64)) s).rc.isSome = true ∨ (lineAt (lineKey k (off / 64)) s).hc.Pairwise Apart2) :
    cachedWord k off' (putWordAnywhere k off g v s) = cachedWord k off' s := by
  rw [cachedWord_putWordAnywhere _ _ _ _ _ _ _ hx, if_neg]
  rintro ⟨h1, h2⟩
  simp only [lineKey] at h1
  omega

end Sys2Proof.Machine
end

