-- ==== Sys2Proof/Laws/Registers.lean ====
section
/-! SUPPORT. Laws of the registers of a strand: what a register write leaves to every register read, the pc, FCSR (R117,
R119, R195, R272). -/

namespace Sys2Proof.Machine

/-- Byte offset of the word that holds a scalar register. -/
def scalarOff (i : BitVec 5) : Nat := 0x40 + 8 * (i.toNat - 1)

/-- Word of the record, and the bit in it, that hold a register's full bit. -/
def fullOff (code : Nat) : Nat := if code < 32 then 0x158 else 0x160
def fullPos (code : Nat) : Nat := if code < 32 then 32 + code else if code < 64 then 8 + (code - 32) else code - 64

theorem fullBit_eq (k code : Nat) (s : State) (h : code ≠ 0 ∧ code ≠ 64) :
    fullBit k code s = bitB (cachedWord k (fullOff code) s) (fullPos code) := by
  simp only [fullBit, fullOff, fullPos]
  split
  · omega
  · split
    · rfl
    · split <;> simp_all

theorem setFull_eq (k code : Nat) (b : Bool) (s : State) (h : code ≠ 0 ∧ code ≠ 64) :
    setFull k code b s = putWord k (fullOff code) (setBits (cachedWord k (fullOff code) s) (fullPos code) 1 (if b then 1 else 0)) s := by
  simp only [setFull, fullOff, fullPos]
  split
  · omega
  · rfl

theorem fullPos_lt (code : Nat) (h : code < 72) : fullPos code < 64 := by
  simp only [fullPos]; split <;> (try split) <;> omega

/-- A full bit after a full bit is set or cleared. -/
theorem fullBit_setFull (k code code' : Nat) (b : Bool) (s : State) (hc : code < 72) (hc' : code' < 72) :
    fullBit k code' (setFull k code b s) =
      if code' = 0 ∨ code' = 64 then true else if code' = code then b else fullBit k code' s := by
  by_cases h0' : code' = 0 ∨ code' = 64
  · simp [fullBit, h0']
  · have h' : code' ≠ 0 ∧ code' ≠ 64 := by omega
    simp only [h0', if_false]
    by_cases h0 : code = 0 ∨ code = 64
    · have : code' ≠ code := by omega
      simp [setFull, h0, this]
    · have h : code ≠ 0 ∧ code ≠ 64 := by omega
      rw [setFull_eq k code b s h, fullBit_eq k code' _ h', cachedWord_putWord]
      by_cases hw : fullOff code' = fullOff code
      · simp only [hw, true_and, if_true]
        rw [bitB_setBits_one _ _ _ _ (fullPos_lt code' hc')]
        by_cases hcc : code' = code
        · subst hcc; cases b <;> simp
        · have : fullPos code' ≠ fullPos code := by
            simp only [fullOff] at hw
            simp only [fullPos]
            split at hw <;> split at hw <;> (try omega) <;> (split <;> (try split) <;> (try split) <;> omega)
          simp [this, hcc, fullBit_eq k code' s h', hw]
      · have hne : ¬ (lineKey k (fullOff code' / 64) = lineKey k (fullOff code / 64) ∧
            fullOff code' % 64 / 8 = fullOff code % 64 / 8) := by
          rintro ⟨h1, h2⟩; simp only [lineKey] at h1; simp only [fullOff] at hw h1 h2
          split at hw <;> split at hw <;> simp_all
        have hcc : code' ≠ code := fun e => hw (by rw [e])
        simp [hne, hcc, fullBit_eq k code' s h']

/-- A word of the record that is not one of the two words with full bits. -/
theorem cachedWord_setFull (k code off : Nat) (b : Bool) (s : State) (h : off / 8 ≠ 0x158 / 8 ∧ off / 8 ≠ 0x160 / 8) :
    cachedWord k off (setFull k code b s) = cachedWord k off s := by
  by_cases h0 : code = 0 ∨ code = 64
  · simp [setFull, h0]
  · rw [setFull_eq k code b s (by omega)]
    apply cachedWord_putWord_word
    simp only [fullOff]; split <;> omega

/-- A record word, other than those with full bits, after a scalar write. -/
theorem cachedWord_writeS (k off : Nat) (i : BitVec 5) (v : Word) (s : State)
    (h : off / 8 ≠ 0x158 / 8 ∧ off / 8 ≠ 0x160 / 8) :
    cachedWord k off (writeS k i v s) = if i ≠ 0#5 ∧ off / 8 = scalarOff i / 8 then v else cachedWord k off s := by
  by_cases hi : i = 0#5
  · simp [writeS, hi]
  · simp only [writeS, hi, if_false]
    rw [cachedWord_setFull _ _ _ _ _ h]
    by_cases ho : off / 8 = scalarOff i / 8
    · rw [cachedWord_putWord, if_pos]
      · simp [ho, hi]
      · simp only [scalarOff] at ho; simp only [lineKey]; omega
    · rw [cachedWord_putWord_word _ _ _ _ _ (by simpa only [scalarOff] using ho)]
      simp [ho]

/-- A scalar register after a scalar write: s0 reads zero and discards (R272). -/
theorem readS_writeS (k : Nat) (i j : BitVec 5) (v : Word) (s : State) :
    readS k j (writeS k i v s) = if j = 0#5 then 0#64 else if j = i then v else readS k j s := by
  by_cases hj : j = 0#5
  · simp [readS, hj]
  · have hj0 : j.toNat ≠ 0 := fun e => hj (by apply BitVec.eq_of_toNat_eq; simpa using e)
    have hjlt := j.isLt
    have hilt := i.isLt
    simp only [readS, hj, if_false]
    rw [cachedWord_writeS _ _ _ _ _ (by omega)]
    by_cases hji : j = i
    · subst hji; simp [hj, scalarOff]
    · simp only [hji, if_false]
      by_cases hi : i = 0#5
      · simp [hi]
      · have hi0 : i.toNat ≠ 0 := fun e => hi (by apply BitVec.eq_of_toNat_eq; simpa using e)
        have hne : i.toNat ≠ j.toNat := fun e => hji (BitVec.eq_of_toNat_eq e.symm)
        rw [if_neg]
        simp only [scalarOff]
        omega

/-- The full bit of a scalar register after a scalar write (R195). -/
theorem fullBit_writeS (k code : Nat) (i : BitVec 5) (v : Word) (s : State) (hc : code < 72) (hi : i ≠ 0#5) :
    fullBit k code (writeS k i v s) = if code = 0 ∨ code = 64 ∨ code = codeS i then true else fullBit k code s := by
  have hilt := i.isLt
  simp only [writeS, hi, if_false]
  rw [fullBit_setFull _ _ _ _ _ (by simp only [codeS]; omega) hc]
  by_cases h0 : code = 0 ∨ code = 64
  · rw [if_pos h0, if_pos (by omega)]
  · by_cases h1 : code = codeS i
    · simp [h0, h1]
    · have h2 : ¬ (code = 0 ∨ code = 64 ∨ code = codeS i) := by omega
      rw [if_neg h0, if_neg h1, if_neg h2]
      have h : code ≠ 0 ∧ code ≠ 64 := by omega
      have hi0 : i.toNat ≠ 0 := fun e => hi (by apply BitVec.eq_of_toNat_eq; simpa using e)
      rw [fullBit_eq k code _ h, fullBit_eq k code s h, cachedWord_putWord_word]
      simp only [fullOff]
      split <;> omega

/-- A line stands in the register cache, or its copies in hall context caches share no word. -/
def Sound (ln : Line) : Prop := ln.rc.isSome = true ∨ ln.hc.Pairwise Apart2

/-- A write of a header field leaves every other word of the record. -/
theorem setHdrN_word (k i lo n v : Nat) (s : State) (off : Nat) (h : off / 8 ≠ i) (hi : i < 8) (hx : Sound (lineAt (lineKey k 0) s)) :
    cachedWord k off (setHdrN k i lo n v s) = cachedWord k off s := by
  have h0 : 8 * i / 64 = 0 := by omega
  exact cachedWord_putWordAnywhere_word _ _ _ _ _ _ (by omega) (by rw [h0]; exact hx)

theorem hdr_setHdrN_same (k i lo n v : Nat) (s : State) : hdr k i (setHdrN k i lo n v s) = setBits (hdr k i s) lo n v := by
  simp [hdr, setHdrN, setHdr, cachedWord_putWordAnywhere_same]

/-! ### Retirement -/

/-- Words of the record after retirement: the pc alone changes (R209). -/
theorem cachedWord_retireTo (k off : Nat) (pc : BitVec 56) (s : State) :
    cachedWord k off (retireTo pc s) =
      cachedWord k off (setHdrN (cur s) 0 0 56 pc.toNat s) := rfl

theorem cachedWord_retireTo_cur (off : Nat) (pc : BitVec 56) (s : State) (h : off / 8 ≠ 0) (hx : Sound (lineAt (lineKey (cur s) 0) s)) :
    cachedWord (cur s) off (retireTo pc s) = cachedWord (cur s) off s := by
  rw [cachedWord_retireTo, setHdrN_word _ _ _ _ _ _ _ h (by omega) hx]

theorem hdrPc_retireTo (pc : BitVec 56) (s : State) : hdrPc (cur s) (retireTo pc s) = pc := by
  have h : hdr (cur s) 0 (retireTo pc s) = setBits (hdr (cur s) 0 s) 0 56 pc.toNat := by
    show hdr (cur s) 0 (setHdrN (cur s) 0 0 56 pc.toNat s) = _
    exact hdr_setHdrN_same _ _ _ _ _ _
  apply BitVec.eq_of_getLsbD_eq
  intro i hi
  simp only [hdrPc, h, BitVec.getLsbD_ofNat, hi, decide_true, Bool.true_and, BitVec.testBit_toNat]
  rw [getLsbD_setBits _ _ _ _ _ (by omega)]
  simp [hi, BitVec.testBit_toNat]

theorem readS_retireTo (j : BitVec 5) (pc : BitVec 56) (s : State) (hx : Sound (lineAt (lineKey (cur s) 0) s)) :
    readS (cur s) j (retireTo pc s) = readS (cur s) j s := by
  simp only [readS]
  split
  · rfl
  · exact cachedWord_retireTo_cur _ _ _ (by omega) hx

theorem fullBit_retireTo (code : Nat) (pc : BitVec 56) (s : State) (hx : Sound (lineAt (lineKey (cur s) 0) s)) :
    fullBit (cur s) code (retireTo pc s) = fullBit (cur s) code s := by
  simp only [fullBit]
  rw [cachedWord_retireTo_cur _ _ _ (by omega) hx, cachedWord_retireTo_cur _ _ _ (by omega) hx]

end Sys2Proof.Machine
end

