-- ==== Sys2Proof/Laws/State.lean ====
section
/-! SUPPORT. Laws of State: for each update of the state and each field, the field after the update (R3).  A later proof
uses these and never unfolds a record update. -/

namespace Sys2Proof.Machine

/-! ### setCore -/

@[simp] theorem setCore_wheel (c : Nat) (v : Core) (s : State) : (setCore c v s).wheel = s.wheel := rfl
@[simp] theorem setCore_agenda (c : Nat) (v : Core) (s : State) : (setCore c v s).agenda = s.agenda := rfl
@[simp] theorem setCore_ev (c : Nat) (v : Core) (s : State) : (setCore c v s).ev = s.ev := rfl
@[simp] theorem setCore_issue (c : Nat) (v : Core) (s : State) : (setCore c v s).issue = s.issue := rfl
@[simp] theorem setCore_phase (c : Nat) (v : Core) (s : State) : (setCore c v s).phase = s.phase := rfl
@[simp] theorem setCore_power (c : Nat) (v : Core) (s : State) : (setCore c v s).power = s.power := rfl
@[simp] theorem setCore_ctl (c : Nat) (v : Core) (s : State) : (setCore c v s).ctl = s.ctl := rfl
@[simp] theorem setCore_mw0 (c : Nat) (v : Core) (s : State) : (setCore c v s).mw0 = s.mw0 := rfl
@[simp] theorem setCore_mem (c : Nat) (v : Core) (s : State) : (setCore c v s).mem = s.mem := rfl
@[simp] theorem setCore_memTags (c : Nat) (v : Core) (s : State) : (setCore c v s).memTags = s.memTags := rfl
@[simp] theorem setCore_memEmpty (c : Nat) (v : Core) (s : State) : (setCore c v s).memEmpty = s.memEmpty := rfl
@[simp] theorem setCore_memErr (c : Nat) (v : Core) (s : State) : (setCore c v s).memErr = s.memErr := rfl
@[simp] theorem setCore_memKey (c : Nat) (v : Core) (s : State) : (setCore c v s).memKey = s.memKey := rfl
@[simp] theorem setCore_spad (c : Nat) (v : Core) (s : State) : (setCore c v s).spad = s.spad := rfl
@[simp] theorem setCore_spadEmpty (c : Nat) (v : Core) (s : State) : (setCore c v s).spadEmpty = s.spadEmpty := rfl
@[simp] theorem setCore_spadErr (c : Nat) (v : Core) (s : State) : (setCore c v s).spadErr = s.spadErr := rfl
@[simp] theorem setCore_lineErr (c : Nat) (v : Core) (s : State) : (setCore c v s).lineErr = s.lineErr := rfl
@[simp] theorem setCore_shadow (c : Nat) (v : Core) (s : State) : (setCore c v s).shadow = s.shadow := rfl
@[simp] theorem setCore_cores (c : Nat) (v : Core) (s : State) : (setCore c v s).cores = tput s.cores c v := rfl
@[simp] theorem setCore_quads (c : Nat) (v : Core) (s : State) : (setCore c v s).quads = s.quads := rfl
@[simp] theorem setCore_halls (c : Nat) (v : Core) (s : State) : (setCore c v s).halls = s.halls := rfl
@[simp] theorem setCore_fns (c : Nat) (v : Core) (s : State) : (setCore c v s).fns = s.fns := rfl
@[simp] theorem setCore_strands (c : Nat) (v : Core) (s : State) : (setCore c v s).strands = s.strands := rfl
@[simp] theorem setCore_lines (c : Nat) (v : Core) (s : State) : (setCore c v s).lines = s.lines := rfl
@[simp] theorem setCore_streams (c : Nat) (v : Core) (s : State) : (setCore c v s).streams = s.streams := rfl
@[simp] theorem setCore_launches (c : Nat) (v : Core) (s : State) : (setCore c v s).launches = s.launches := rfl
@[simp] theorem setCore_queues (c : Nat) (v : Core) (s : State) : (setCore c v s).queues = s.queues := rfl
@[simp] theorem setCore_barriers (c : Nat) (v : Core) (s : State) : (setCore c v s).barriers = s.barriers := rfl
@[simp] theorem setCore_parts (c : Nat) (v : Core) (s : State) : (setCore c v s).parts = s.parts := rfl
@[simp] theorem setCore_circs (c : Nat) (v : Core) (s : State) : (setCore c v s).circs = s.circs := rfl
@[simp] theorem setCore_banks (c : Nat) (v : Core) (s : State) : (setCore c v s).banks = s.banks := rfl
@[simp] theorem setCore_entries (c : Nat) (v : Core) (s : State) : (setCore c v s).entries = s.entries := rfl
@[simp] theorem setCore_floor (c : Nat) (v : Core) (s : State) : (setCore c v s).floor = s.floor := rfl
@[simp] theorem setCore_owned (c : Nat) (v : Core) (s : State) : (setCore c v s).owned = s.owned := rfl
@[simp] theorem setCore_flits (c : Nat) (v : Core) (s : State) : (setCore c v s).flits = s.flits := rfl
@[simp] theorem setCore_reqs (c : Nat) (v : Core) (s : State) : (setCore c v s).reqs = s.reqs := rfl
@[simp] theorem setCore_tmsgs (c : Nat) (v : Core) (s : State) : (setCore c v s).tmsgs = s.tmsgs := rfl
@[simp] theorem setCore_walks (c : Nat) (v : Core) (s : State) : (setCore c v s).walks = s.walks := rfl
@[simp] theorem setCore_drops (c : Nat) (v : Core) (s : State) : (setCore c v s).drops = s.drops := rfl
@[simp] theorem setCore_ports (c : Nat) (v : Core) (s : State) : (setCore c v s).ports = s.ports := rfl
@[simp] theorem setCore_peerMax (c : Nat) (v : Core) (s : State) : (setCore c v s).peerMax = s.peerMax := rfl
@[simp] theorem setCore_islands (c : Nat) (v : Core) (s : State) : (setCore c v s).islands = s.islands := rfl
@[simp] theorem setCore_newel (c : Nat) (v : Core) (s : State) : (setCore c v s).newel = s.newel := rfl
@[simp] theorem setCore_moves (c : Nat) (v : Core) (s : State) : (setCore c v s).moves = s.moves := rfl
@[simp] theorem setCore_lastMove (c : Nat) (v : Core) (s : State) : (setCore c v s).lastMove = s.lastMove := rfl
@[simp] theorem setCore_snap (c : Nat) (v : Core) (s : State) : (setCore c v s).snap = s.snap := rfl
@[simp] theorem setCore_zeroing (c : Nat) (v : Core) (s : State) : (setCore c v s).zeroing = s.zeroing := rfl
@[simp] theorem setCore_outbox (c : Nat) (v : Core) (s : State) : (setCore c v s).outbox = s.outbox := rfl
@[simp] theorem setCore_nextId (c : Nat) (v : Core) (s : State) : (setCore c v s).nextId = s.nextId := rfl
@[simp] theorem setCore_fresh (c : Nat) (v : Core) (s : State) : (setCore c v s).fresh = s.fresh := rfl
@[simp] theorem setCore_meter (c : Nat) (v : Core) (s : State) : (setCore c v s).meter = s.meter := rfl

/-! ### setQuad -/

@[simp] theorem setQuad_wheel (q : Nat) (v : Quad) (s : State) : (setQuad q v s).wheel = s.wheel := rfl
@[simp] theorem setQuad_agenda (q : Nat) (v : Quad) (s : State) : (setQuad q v s).agenda = s.agenda := rfl
@[simp] theorem setQuad_ev (q : Nat) (v : Quad) (s : State) : (setQuad q v s).ev = s.ev := rfl
@[simp] theorem setQuad_issue (q : Nat) (v : Quad) (s : State) : (setQuad q v s).issue = s.issue := rfl
@[simp] theorem setQuad_phase (q : Nat) (v : Quad) (s : State) : (setQuad q v s).phase = s.phase := rfl
@[simp] theorem setQuad_power (q : Nat) (v : Quad) (s : State) : (setQuad q v s).power = s.power := rfl
@[simp] theorem setQuad_ctl (q : Nat) (v : Quad) (s : State) : (setQuad q v s).ctl = s.ctl := rfl
@[simp] theorem setQuad_mw0 (q : Nat) (v : Quad) (s : State) : (setQuad q v s).mw0 = s.mw0 := rfl
@[simp] theorem setQuad_mem (q : Nat) (v : Quad) (s : State) : (setQuad q v s).mem = s.mem := rfl
@[simp] theorem setQuad_memTags (q : Nat) (v : Quad) (s : State) : (setQuad q v s).memTags = s.memTags := rfl
@[simp] theorem setQuad_memEmpty (q : Nat) (v : Quad) (s : State) : (setQuad q v s).memEmpty = s.memEmpty := rfl
@[simp] theorem setQuad_memErr (q : Nat) (v : Quad) (s : State) : (setQuad q v s).memErr = s.memErr := rfl
@[simp] theorem setQuad_memKey (q : Nat) (v : Quad) (s : State) : (setQuad q v s).memKey = s.memKey := rfl
@[simp] theorem setQuad_spad (q : Nat) (v : Quad) (s : State) : (setQuad q v s).spad = s.spad := rfl
@[simp] theorem setQuad_spadEmpty (q : Nat) (v : Quad) (s : State) : (setQuad q v s).spadEmpty = s.spadEmpty := rfl
@[simp] theorem setQuad_spadErr (q : Nat) (v : Quad) (s : State) : (setQuad q v s).spadErr = s.spadErr := rfl
@[simp] theorem setQuad_lineErr (q : Nat) (v : Quad) (s : State) : (setQuad q v s).lineErr = s.lineErr := rfl
@[simp] theorem setQuad_shadow (q : Nat) (v : Quad) (s : State) : (setQuad q v s).shadow = s.shadow := rfl
@[simp] theorem setQuad_cores (q : Nat) (v : Quad) (s : State) : (setQuad q v s).cores = s.cores := rfl
@[simp] theorem setQuad_quads (q : Nat) (v : Quad) (s : State) : (setQuad q v s).quads = tput s.quads q v := rfl
@[simp] theorem setQuad_halls (q : Nat) (v : Quad) (s : State) : (setQuad q v s).halls = s.halls := rfl
@[simp] theorem setQuad_fns (q : Nat) (v : Quad) (s : State) : (setQuad q v s).fns = s.fns := rfl
@[simp] theorem setQuad_strands (q : Nat) (v : Quad) (s : State) : (setQuad q v s).strands = s.strands := rfl
@[simp] theorem setQuad_lines (q : Nat) (v : Quad) (s : State) : (setQuad q v s).lines = s.lines := rfl
@[simp] theorem setQuad_streams (q : Nat) (v : Quad) (s : State) : (setQuad q v s).streams = s.streams := rfl
@[simp] theorem setQuad_launches (q : Nat) (v : Quad) (s : State) : (setQuad q v s).launches = s.launches := rfl
@[simp] theorem setQuad_queues (q : Nat) (v : Quad) (s : State) : (setQuad q v s).queues = s.queues := rfl
@[simp] theorem setQuad_barriers (q : Nat) (v : Quad) (s : State) : (setQuad q v s).barriers = s.barriers := rfl
@[simp] theorem setQuad_parts (q : Nat) (v : Quad) (s : State) : (setQuad q v s).parts = s.parts := rfl
@[simp] theorem setQuad_circs (q : Nat) (v : Quad) (s : State) : (setQuad q v s).circs = s.circs := rfl
@[simp] theorem setQuad_banks (q : Nat) (v : Quad) (s : State) : (setQuad q v s).banks = s.banks := rfl
@[simp] theorem setQuad_entries (q : Nat) (v : Quad) (s : State) : (setQuad q v s).entries = s.entries := rfl
@[simp] theorem setQuad_floor (q : Nat) (v : Quad) (s : State) : (setQuad q v s).floor = s.floor := rfl
@[simp] theorem setQuad_owned (q : Nat) (v : Quad) (s : State) : (setQuad q v s).owned = s.owned := rfl
@[simp] theorem setQuad_flits (q : Nat) (v : Quad) (s : State) : (setQuad q v s).flits = s.flits := rfl
@[simp] theorem setQuad_reqs (q : Nat) (v : Quad) (s : State) : (setQuad q v s).reqs = s.reqs := rfl
@[simp] theorem setQuad_tmsgs (q : Nat) (v : Quad) (s : State) : (setQuad q v s).tmsgs = s.tmsgs := rfl
@[simp] theorem setQuad_walks (q : Nat) (v : Quad) (s : State) : (setQuad q v s).walks = s.walks := rfl
@[simp] theorem setQuad_drops (q : Nat) (v : Quad) (s : State) : (setQuad q v s).drops = s.drops := rfl
@[simp] theorem setQuad_ports (q : Nat) (v : Quad) (s : State) : (setQuad q v s).ports = s.ports := rfl
@[simp] theorem setQuad_peerMax (q : Nat) (v : Quad) (s : State) : (setQuad q v s).peerMax = s.peerMax := rfl
@[simp] theorem setQuad_islands (q : Nat) (v : Quad) (s : State) : (setQuad q v s).islands = s.islands := rfl
@[simp] theorem setQuad_newel (q : Nat) (v : Quad) (s : State) : (setQuad q v s).newel = s.newel := rfl
@[simp] theorem setQuad_moves (q : Nat) (v : Quad) (s : State) : (setQuad q v s).moves = s.moves := rfl
@[simp] theorem setQuad_lastMove (q : Nat) (v : Quad) (s : State) : (setQuad q v s).lastMove = s.lastMove := rfl
@[simp] theorem setQuad_snap (q : Nat) (v : Quad) (s : State) : (setQuad q v s).snap = s.snap := rfl
@[simp] theorem setQuad_zeroing (q : Nat) (v : Quad) (s : State) : (setQuad q v s).zeroing = s.zeroing := rfl
@[simp] theorem setQuad_outbox (q : Nat) (v : Quad) (s : State) : (setQuad q v s).outbox = s.outbox := rfl
@[simp] theorem setQuad_nextId (q : Nat) (v : Quad) (s : State) : (setQuad q v s).nextId = s.nextId := rfl
@[simp] theorem setQuad_fresh (q : Nat) (v : Quad) (s : State) : (setQuad q v s).fresh = s.fresh := rfl
@[simp] theorem setQuad_meter (q : Nat) (v : Quad) (s : State) : (setQuad q v s).meter = s.meter := rfl

/-! ### setHall -/

@[simp] theorem setHall_wheel (h : Nat) (v : Hall) (s : State) : (setHall h v s).wheel = s.wheel := rfl
@[simp] theorem setHall_agenda (h : Nat) (v : Hall) (s : State) : (setHall h v s).agenda = s.agenda := rfl
@[simp] theorem setHall_ev (h : Nat) (v : Hall) (s : State) : (setHall h v s).ev = s.ev := rfl
@[simp] theorem setHall_issue (h : Nat) (v : Hall) (s : State) : (setHall h v s).issue = s.issue := rfl
@[simp] theorem setHall_phase (h : Nat) (v : Hall) (s : State) : (setHall h v s).phase = s.phase := rfl
@[simp] theorem setHall_power (h : Nat) (v : Hall) (s : State) : (setHall h v s).power = s.power := rfl
@[simp] theorem setHall_ctl (h : Nat) (v : Hall) (s : State) : (setHall h v s).ctl = s.ctl := rfl
@[simp] theorem setHall_mw0 (h : Nat) (v : Hall) (s : State) : (setHall h v s).mw0 = s.mw0 := rfl
@[simp] theorem setHall_mem (h : Nat) (v : Hall) (s : State) : (setHall h v s).mem = s.mem := rfl
@[simp] theorem setHall_memTags (h : Nat) (v : Hall) (s : State) : (setHall h v s).memTags = s.memTags := rfl
@[simp] theorem setHall_memEmpty (h : Nat) (v : Hall) (s : State) : (setHall h v s).memEmpty = s.memEmpty := rfl
@[simp] theorem setHall_memErr (h : Nat) (v : Hall) (s : State) : (setHall h v s).memErr = s.memErr := rfl
@[simp] theorem setHall_memKey (h : Nat) (v : Hall) (s : State) : (setHall h v s).memKey = s.memKey := rfl
@[simp] theorem setHall_spad (h : Nat) (v : Hall) (s : State) : (setHall h v s).spad = s.spad := rfl
@[simp] theorem setHall_spadEmpty (h : Nat) (v : Hall) (s : State) : (setHall h v s).spadEmpty = s.spadEmpty := rfl
@[simp] theorem setHall_spadErr (h : Nat) (v : Hall) (s : State) : (setHall h v s).spadErr = s.spadErr := rfl
@[simp] theorem setHall_lineErr (h : Nat) (v : Hall) (s : State) : (setHall h v s).lineErr = s.lineErr := rfl
@[simp] theorem setHall_shadow (h : Nat) (v : Hall) (s : State) : (setHall h v s).shadow = s.shadow := rfl
@[simp] theorem setHall_cores (h : Nat) (v : Hall) (s : State) : (setHall h v s).cores = s.cores := rfl
@[simp] theorem setHall_quads (h : Nat) (v : Hall) (s : State) : (setHall h v s).quads = s.quads := rfl
@[simp] theorem setHall_halls (h : Nat) (v : Hall) (s : State) : (setHall h v s).halls = tput s.halls h v := rfl
@[simp] theorem setHall_fns (h : Nat) (v : Hall) (s : State) : (setHall h v s).fns = s.fns := rfl
@[simp] theorem setHall_strands (h : Nat) (v : Hall) (s : State) : (setHall h v s).strands = s.strands := rfl
@[simp] theorem setHall_lines (h : Nat) (v : Hall) (s : State) : (setHall h v s).lines = s.lines := rfl
@[simp] theorem setHall_streams (h : Nat) (v : Hall) (s : State) : (setHall h v s).streams = s.streams := rfl
@[simp] theorem setHall_launches (h : Nat) (v : Hall) (s : State) : (setHall h v s).launches = s.launches := rfl
@[simp] theorem setHall_queues (h : Nat) (v : Hall) (s : State) : (setHall h v s).queues = s.queues := rfl
@[simp] theorem setHall_barriers (h : Nat) (v : Hall) (s : State) : (setHall h v s).barriers = s.barriers := rfl
@[simp] theorem setHall_parts (h : Nat) (v : Hall) (s : State) : (setHall h v s).parts = s.parts := rfl
@[simp] theorem setHall_circs (h : Nat) (v : Hall) (s : State) : (setHall h v s).circs = s.circs := rfl
@[simp] theorem setHall_banks (h : Nat) (v : Hall) (s : State) : (setHall h v s).banks = s.banks := rfl
@[simp] theorem setHall_entries (h : Nat) (v : Hall) (s : State) : (setHall h v s).entries = s.entries := rfl
@[simp] theorem setHall_floor (h : Nat) (v : Hall) (s : State) : (setHall h v s).floor = s.floor := rfl
@[simp] theorem setHall_owned (h : Nat) (v : Hall) (s : State) : (setHall h v s).owned = s.owned := rfl
@[simp] theorem setHall_flits (h : Nat) (v : Hall) (s : State) : (setHall h v s).flits = s.flits := rfl
@[simp] theorem setHall_reqs (h : Nat) (v : Hall) (s : State) : (setHall h v s).reqs = s.reqs := rfl
@[simp] theorem setHall_tmsgs (h : Nat) (v : Hall) (s : State) : (setHall h v s).tmsgs = s.tmsgs := rfl
@[simp] theorem setHall_walks (h : Nat) (v : Hall) (s : State) : (setHall h v s).walks = s.walks := rfl
@[simp] theorem setHall_drops (h : Nat) (v : Hall) (s : State) : (setHall h v s).drops = s.drops := rfl
@[simp] theorem setHall_ports (h : Nat) (v : Hall) (s : State) : (setHall h v s).ports = s.ports := rfl
@[simp] theorem setHall_peerMax (h : Nat) (v : Hall) (s : State) : (setHall h v s).peerMax = s.peerMax := rfl
@[simp] theorem setHall_islands (h : Nat) (v : Hall) (s : State) : (setHall h v s).islands = s.islands := rfl
@[simp] theorem setHall_newel (h : Nat) (v : Hall) (s : State) : (setHall h v s).newel = s.newel := rfl
@[simp] theorem setHall_moves (h : Nat) (v : Hall) (s : State) : (setHall h v s).moves = s.moves := rfl
@[simp] theorem setHall_lastMove (h : Nat) (v : Hall) (s : State) : (setHall h v s).lastMove = s.lastMove := rfl
@[simp] theorem setHall_snap (h : Nat) (v : Hall) (s : State) : (setHall h v s).snap = s.snap := rfl
@[simp] theorem setHall_zeroing (h : Nat) (v : Hall) (s : State) : (setHall h v s).zeroing = s.zeroing := rfl
@[simp] theorem setHall_outbox (h : Nat) (v : Hall) (s : State) : (setHall h v s).outbox = s.outbox := rfl
@[simp] theorem setHall_nextId (h : Nat) (v : Hall) (s : State) : (setHall h v s).nextId = s.nextId := rfl
@[simp] theorem setHall_fresh (h : Nat) (v : Hall) (s : State) : (setHall h v s).fresh = s.fresh := rfl
@[simp] theorem setHall_meter (h : Nat) (v : Hall) (s : State) : (setHall h v s).meter = s.meter := rfl

/-! ### setFn -/

@[simp] theorem setFn_wheel (vf : BitVec 7) (v : Fn) (s : State) : (setFn vf v s).wheel = s.wheel := rfl
@[simp] theorem setFn_agenda (vf : BitVec 7) (v : Fn) (s : State) : (setFn vf v s).agenda = s.agenda := rfl
@[simp] theorem setFn_ev (vf : BitVec 7) (v : Fn) (s : State) : (setFn vf v s).ev = s.ev := rfl
@[simp] theorem setFn_issue (vf : BitVec 7) (v : Fn) (s : State) : (setFn vf v s).issue = s.issue := rfl
@[simp] theorem setFn_phase (vf : BitVec 7) (v : Fn) (s : State) : (setFn vf v s).phase = s.phase := rfl
@[simp] theorem setFn_power (vf : BitVec 7) (v : Fn) (s : State) : (setFn vf v s).power = s.power := rfl
@[simp] theorem setFn_ctl (vf : BitVec 7) (v : Fn) (s : State) : (setFn vf v s).ctl = s.ctl := rfl
@[simp] theorem setFn_mw0 (vf : BitVec 7) (v : Fn) (s : State) : (setFn vf v s).mw0 = s.mw0 := rfl
@[simp] theorem setFn_mem (vf : BitVec 7) (v : Fn) (s : State) : (setFn vf v s).mem = s.mem := rfl
@[simp] theorem setFn_memTags (vf : BitVec 7) (v : Fn) (s : State) : (setFn vf v s).memTags = s.memTags := rfl
@[simp] theorem setFn_memEmpty (vf : BitVec 7) (v : Fn) (s : State) : (setFn vf v s).memEmpty = s.memEmpty := rfl
@[simp] theorem setFn_memErr (vf : BitVec 7) (v : Fn) (s : State) : (setFn vf v s).memErr = s.memErr := rfl
@[simp] theorem setFn_memKey (vf : BitVec 7) (v : Fn) (s : State) : (setFn vf v s).memKey = s.memKey := rfl
@[simp] theorem setFn_spad (vf : BitVec 7) (v : Fn) (s : State) : (setFn vf v s).spad = s.spad := rfl
@[simp] theorem setFn_spadEmpty (vf : BitVec 7) (v : Fn) (s : State) : (setFn vf v s).spadEmpty = s.spadEmpty := rfl
@[simp] theorem setFn_spadErr (vf : BitVec 7) (v : Fn) (s : State) : (setFn vf v s).spadErr = s.spadErr := rfl
@[simp] theorem setFn_lineErr (vf : BitVec 7) (v : Fn) (s : State) : (setFn vf v s).lineErr = s.lineErr := rfl
@[simp] theorem setFn_shadow (vf : BitVec 7) (v : Fn) (s : State) : (setFn vf v s).shadow = s.shadow := rfl
@[simp] theorem setFn_cores (vf : BitVec 7) (v : Fn) (s : State) : (setFn vf v s).cores = s.cores := rfl
@[simp] theorem setFn_quads (vf : BitVec 7) (v : Fn) (s : State) : (setFn vf v s).quads = s.quads := rfl
@[simp] theorem setFn_halls (vf : BitVec 7) (v : Fn) (s : State) : (setFn vf v s).halls = s.halls := rfl
@[simp] theorem setFn_fns (vf : BitVec 7) (v : Fn) (s : State) : (setFn vf v s).fns = tput s.fns vf.toNat v := rfl
@[simp] theorem setFn_strands (vf : BitVec 7) (v : Fn) (s : State) : (setFn vf v s).strands = s.strands := rfl
@[simp] theorem setFn_lines (vf : BitVec 7) (v : Fn) (s : State) : (setFn vf v s).lines = s.lines := rfl
@[simp] theorem setFn_streams (vf : BitVec 7) (v : Fn) (s : State) : (setFn vf v s).streams = s.streams := rfl
@[simp] theorem setFn_launches (vf : BitVec 7) (v : Fn) (s : State) : (setFn vf v s).launches = s.launches := rfl
@[simp] theorem setFn_queues (vf : BitVec 7) (v : Fn) (s : State) : (setFn vf v s).queues = s.queues := rfl
@[simp] theorem setFn_barriers (vf : BitVec 7) (v : Fn) (s : State) : (setFn vf v s).barriers = s.barriers := rfl
@[simp] theorem setFn_parts (vf : BitVec 7) (v : Fn) (s : State) : (setFn vf v s).parts = s.parts := rfl
@[simp] theorem setFn_circs (vf : BitVec 7) (v : Fn) (s : State) : (setFn vf v s).circs = s.circs := rfl
@[simp] theorem setFn_banks (vf : BitVec 7) (v : Fn) (s : State) : (setFn vf v s).banks = s.banks := rfl
@[simp] theorem setFn_entries (vf : BitVec 7) (v : Fn) (s : State) : (setFn vf v s).entries = s.entries := rfl
@[simp] theorem setFn_floor (vf : BitVec 7) (v : Fn) (s : State) : (setFn vf v s).floor = s.floor := rfl
@[simp] theorem setFn_owned (vf : BitVec 7) (v : Fn) (s : State) : (setFn vf v s).owned = s.owned := rfl
@[simp] theorem setFn_flits (vf : BitVec 7) (v : Fn) (s : State) : (setFn vf v s).flits = s.flits := rfl
@[simp] theorem setFn_reqs (vf : BitVec 7) (v : Fn) (s : State) : (setFn vf v s).reqs = s.reqs := rfl
@[simp] theorem setFn_tmsgs (vf : BitVec 7) (v : Fn) (s : State) : (setFn vf v s).tmsgs = s.tmsgs := rfl
@[simp] theorem setFn_walks (vf : BitVec 7) (v : Fn) (s : State) : (setFn vf v s).walks = s.walks := rfl
@[simp] theorem setFn_drops (vf : BitVec 7) (v : Fn) (s : State) : (setFn vf v s).drops = s.drops := rfl
@[simp] theorem setFn_ports (vf : BitVec 7) (v : Fn) (s : State) : (setFn vf v s).ports = s.ports := rfl
@[simp] theorem setFn_peerMax (vf : BitVec 7) (v : Fn) (s : State) : (setFn vf v s).peerMax = s.peerMax := rfl
@[simp] theorem setFn_islands (vf : BitVec 7) (v : Fn) (s : State) : (setFn vf v s).islands = s.islands := rfl
@[simp] theorem setFn_newel (vf : BitVec 7) (v : Fn) (s : State) : (setFn vf v s).newel = s.newel := rfl
@[simp] theorem setFn_moves (vf : BitVec 7) (v : Fn) (s : State) : (setFn vf v s).moves = s.moves := rfl
@[simp] theorem setFn_lastMove (vf : BitVec 7) (v : Fn) (s : State) : (setFn vf v s).lastMove = s.lastMove := rfl
@[simp] theorem setFn_snap (vf : BitVec 7) (v : Fn) (s : State) : (setFn vf v s).snap = s.snap := rfl
@[simp] theorem setFn_zeroing (vf : BitVec 7) (v : Fn) (s : State) : (setFn vf v s).zeroing = s.zeroing := rfl
@[simp] theorem setFn_outbox (vf : BitVec 7) (v : Fn) (s : State) : (setFn vf v s).outbox = s.outbox := rfl
@[simp] theorem setFn_nextId (vf : BitVec 7) (v : Fn) (s : State) : (setFn vf v s).nextId = s.nextId := rfl
@[simp] theorem setFn_fresh (vf : BitVec 7) (v : Fn) (s : State) : (setFn vf v s).fresh = s.fresh := rfl
@[simp] theorem setFn_meter (vf : BitVec 7) (v : Fn) (s : State) : (setFn vf v s).meter = s.meter := rfl

/-! ### setStrand -/

@[simp] theorem setStrand_wheel (k : Nat) (v : Strand) (s : State) : (setStrand k v s).wheel = s.wheel := rfl
@[simp] theorem setStrand_agenda (k : Nat) (v : Strand) (s : State) : (setStrand k v s).agenda = s.agenda := rfl
@[simp] theorem setStrand_ev (k : Nat) (v : Strand) (s : State) : (setStrand k v s).ev = s.ev := rfl
@[simp] theorem setStrand_issue (k : Nat) (v : Strand) (s : State) : (setStrand k v s).issue = s.issue := rfl
@[simp] theorem setStrand_phase (k : Nat) (v : Strand) (s : State) : (setStrand k v s).phase = s.phase := rfl
@[simp] theorem setStrand_power (k : Nat) (v : Strand) (s : State) : (setStrand k v s).power = s.power := rfl
@[simp] theorem setStrand_ctl (k : Nat) (v : Strand) (s : State) : (setStrand k v s).ctl = s.ctl := rfl
@[simp] theorem setStrand_mw0 (k : Nat) (v : Strand) (s : State) : (setStrand k v s).mw0 = s.mw0 := rfl
@[simp] theorem setStrand_mem (k : Nat) (v : Strand) (s : State) : (setStrand k v s).mem = s.mem := rfl
@[simp] theorem setStrand_memTags (k : Nat) (v : Strand) (s : State) : (setStrand k v s).memTags = s.memTags := rfl
@[simp] theorem setStrand_memEmpty (k : Nat) (v : Strand) (s : State) : (setStrand k v s).memEmpty = s.memEmpty := rfl
@[simp] theorem setStrand_memErr (k : Nat) (v : Strand) (s : State) : (setStrand k v s).memErr = s.memErr := rfl
@[simp] theorem setStrand_memKey (k : Nat) (v : Strand) (s : State) : (setStrand k v s).memKey = s.memKey := rfl
@[simp] theorem setStrand_spad (k : Nat) (v : Strand) (s : State) : (setStrand k v s).spad = s.spad := rfl
@[simp] theorem setStrand_spadEmpty (k : Nat) (v : Strand) (s : State) : (setStrand k v s).spadEmpty = s.spadEmpty := rfl
@[simp] theorem setStrand_spadErr (k : Nat) (v : Strand) (s : State) : (setStrand k v s).spadErr = s.spadErr := rfl
@[simp] theorem setStrand_lineErr (k : Nat) (v : Strand) (s : State) : (setStrand k v s).lineErr = s.lineErr := rfl
@[simp] theorem setStrand_shadow (k : Nat) (v : Strand) (s : State) : (setStrand k v s).shadow = s.shadow := rfl
@[simp] theorem setStrand_cores (k : Nat) (v : Strand) (s : State) : (setStrand k v s).cores = s.cores := rfl
@[simp] theorem setStrand_quads (k : Nat) (v : Strand) (s : State) : (setStrand k v s).quads = s.quads := rfl
@[simp] theorem setStrand_halls (k : Nat) (v : Strand) (s : State) : (setStrand k v s).halls = s.halls := rfl
@[simp] theorem setStrand_fns (k : Nat) (v : Strand) (s : State) : (setStrand k v s).fns = s.fns := rfl
@[simp] theorem setStrand_strands (k : Nat) (v : Strand) (s : State) : (setStrand k v s).strands = tput s.strands k v := rfl
@[simp] theorem setStrand_lines (k : Nat) (v : Strand) (s : State) : (setStrand k v s).lines = s.lines := rfl
@[simp] theorem setStrand_streams (k : Nat) (v : Strand) (s : State) : (setStrand k v s).streams = s.streams := rfl
@[simp] theorem setStrand_launches (k : Nat) (v : Strand) (s : State) : (setStrand k v s).launches = s.launches := rfl
@[simp] theorem setStrand_queues (k : Nat) (v : Strand) (s : State) : (setStrand k v s).queues = s.queues := rfl
@[simp] theorem setStrand_barriers (k : Nat) (v : Strand) (s : State) : (setStrand k v s).barriers = s.barriers := rfl
@[simp] theorem setStrand_parts (k : Nat) (v : Strand) (s : State) : (setStrand k v s).parts = s.parts := rfl
@[simp] theorem setStrand_circs (k : Nat) (v : Strand) (s : State) : (setStrand k v s).circs = s.circs := rfl
@[simp] theorem setStrand_banks (k : Nat) (v : Strand) (s : State) : (setStrand k v s).banks = s.banks := rfl
@[simp] theorem setStrand_entries (k : Nat) (v : Strand) (s : State) : (setStrand k v s).entries = s.entries := rfl
@[simp] theorem setStrand_floor (k : Nat) (v : Strand) (s : State) : (setStrand k v s).floor = s.floor := rfl
@[simp] theorem setStrand_owned (k : Nat) (v : Strand) (s : State) : (setStrand k v s).owned = s.owned := rfl
@[simp] theorem setStrand_flits (k : Nat) (v : Strand) (s : State) : (setStrand k v s).flits = s.flits := rfl
@[simp] theorem setStrand_reqs (k : Nat) (v : Strand) (s : State) : (setStrand k v s).reqs = s.reqs := rfl
@[simp] theorem setStrand_tmsgs (k : Nat) (v : Strand) (s : State) : (setStrand k v s).tmsgs = s.tmsgs := rfl
@[simp] theorem setStrand_walks (k : Nat) (v : Strand) (s : State) : (setStrand k v s).walks = s.walks := rfl
@[simp] theorem setStrand_drops (k : Nat) (v : Strand) (s : State) : (setStrand k v s).drops = s.drops := rfl
@[simp] theorem setStrand_ports (k : Nat) (v : Strand) (s : State) : (setStrand k v s).ports = s.ports := rfl
@[simp] theorem setStrand_peerMax (k : Nat) (v : Strand) (s : State) : (setStrand k v s).peerMax = s.peerMax := rfl
@[simp] theorem setStrand_islands (k : Nat) (v : Strand) (s : State) : (setStrand k v s).islands = s.islands := rfl
@[simp] theorem setStrand_newel (k : Nat) (v : Strand) (s : State) : (setStrand k v s).newel = s.newel := rfl
@[simp] theorem setStrand_moves (k : Nat) (v : Strand) (s : State) : (setStrand k v s).moves = s.moves := rfl
@[simp] theorem setStrand_lastMove (k : Nat) (v : Strand) (s : State) : (setStrand k v s).lastMove = s.lastMove := rfl
@[simp] theorem setStrand_snap (k : Nat) (v : Strand) (s : State) : (setStrand k v s).snap = s.snap := rfl
@[simp] theorem setStrand_zeroing (k : Nat) (v : Strand) (s : State) : (setStrand k v s).zeroing = s.zeroing := rfl
@[simp] theorem setStrand_outbox (k : Nat) (v : Strand) (s : State) : (setStrand k v s).outbox = s.outbox := rfl
@[simp] theorem setStrand_nextId (k : Nat) (v : Strand) (s : State) : (setStrand k v s).nextId = s.nextId := rfl
@[simp] theorem setStrand_fresh (k : Nat) (v : Strand) (s : State) : (setStrand k v s).fresh = s.fresh := rfl
@[simp] theorem setStrand_meter (k : Nat) (v : Strand) (s : State) : (setStrand k v s).meter = s.meter := rfl

/-! ### modStrand -/

@[simp] theorem modStrand_wheel (k : Nat) (f : Strand → Strand) (s : State) : (modStrand k f s).wheel = s.wheel := rfl
@[simp] theorem modStrand_agenda (k : Nat) (f : Strand → Strand) (s : State) : (modStrand k f s).agenda = s.agenda := rfl
@[simp] theorem modStrand_ev (k : Nat) (f : Strand → Strand) (s : State) : (modStrand k f s).ev = s.ev := rfl
@[simp] theorem modStrand_issue (k : Nat) (f : Strand → Strand) (s : State) : (modStrand k f s).issue = s.issue := rfl
@[simp] theorem modStrand_phase (k : Nat) (f : Strand → Strand) (s : State) : (modStrand k f s).phase = s.phase := rfl
@[simp] theorem modStrand_power (k : Nat) (f : Strand → Strand) (s : State) : (modStrand k f s).power = s.power := rfl
@[simp] theorem modStrand_ctl (k : Nat) (f : Strand → Strand) (s : State) : (modStrand k f s).ctl = s.ctl := rfl
@[simp] theorem modStrand_mw0 (k : Nat) (f : Strand → Strand) (s : State) : (modStrand k f s).mw0 = s.mw0 := rfl
@[simp] theorem modStrand_mem (k : Nat) (f : Strand → Strand) (s : State) : (modStrand k f s).mem = s.mem := rfl
@[simp] theorem modStrand_memTags (k : Nat) (f : Strand → Strand) (s : State) : (modStrand k f s).memTags = s.memTags := rfl
@[simp] theorem modStrand_memEmpty (k : Nat) (f : Strand → Strand) (s : State) : (modStrand k f s).memEmpty = s.memEmpty := rfl
@[simp] theorem modStrand_memErr (k : Nat) (f : Strand → Strand) (s : State) : (modStrand k f s).memErr = s.memErr := rfl
@[simp] theorem modStrand_memKey (k : Nat) (f : Strand → Strand) (s : State) : (modStrand k f s).memKey = s.memKey := rfl
@[simp] theorem modStrand_spad (k : Nat) (f : Strand → Strand) (s : State) : (modStrand k f s).spad = s.spad := rfl
@[simp] theorem modStrand_spadEmpty (k : Nat) (f : Strand → Strand) (s : State) : (modStrand k f s).spadEmpty = s.spadEmpty := rfl
@[simp] theorem modStrand_spadErr (k : Nat) (f : Strand → Strand) (s : State) : (modStrand k f s).spadErr = s.spadErr := rfl
@[simp] theorem modStrand_lineErr (k : Nat) (f : Strand → Strand) (s : State) : (modStrand k f s).lineErr = s.lineErr := rfl
@[simp] theorem modStrand_shadow (k : Nat) (f : Strand → Strand) (s : State) : (modStrand k f s).shadow = s.shadow := rfl
@[simp] theorem modStrand_cores (k : Nat) (f : Strand → Strand) (s : State) : (modStrand k f s).cores = s.cores := rfl
@[simp] theorem modStrand_quads (k : Nat) (f : Strand → Strand) (s : State) : (modStrand k f s).quads = s.quads := rfl
@[simp] theorem modStrand_halls (k : Nat) (f : Strand → Strand) (s : State) : (modStrand k f s).halls = s.halls := rfl
@[simp] theorem modStrand_fns (k : Nat) (f : Strand → Strand) (s : State) : (modStrand k f s).fns = s.fns := rfl
@[simp] theorem modStrand_strands (k : Nat) (f : Strand → Strand) (s : State) : (modStrand k f s).strands = tput s.strands k (f (strandAt k s)) := rfl
@[simp] theorem modStrand_lines (k : Nat) (f : Strand → Strand) (s : State) : (modStrand k f s).lines = s.lines := rfl
@[simp] theorem modStrand_streams (k : Nat) (f : Strand → Strand) (s : State) : (modStrand k f s).streams = s.streams := rfl
@[simp] theorem modStrand_launches (k : Nat) (f : Strand → Strand) (s : State) : (modStrand k f s).launches = s.launches := rfl
@[simp] theorem modStrand_queues (k : Nat) (f : Strand → Strand) (s : State) : (modStrand k f s).queues = s.queues := rfl
@[simp] theorem modStrand_barriers (k : Nat) (f : Strand → Strand) (s : State) : (modStrand k f s).barriers = s.barriers := rfl
@[simp] theorem modStrand_parts (k : Nat) (f : Strand → Strand) (s : State) : (modStrand k f s).parts = s.parts := rfl
@[simp] theorem modStrand_circs (k : Nat) (f : Strand → Strand) (s : State) : (modStrand k f s).circs = s.circs := rfl
@[simp] theorem modStrand_banks (k : Nat) (f : Strand → Strand) (s : State) : (modStrand k f s).banks = s.banks := rfl
@[simp] theorem modStrand_entries (k : Nat) (f : Strand → Strand) (s : State) : (modStrand k f s).entries = s.entries := rfl
@[simp] theorem modStrand_floor (k : Nat) (f : Strand → Strand) (s : State) : (modStrand k f s).floor = s.floor := rfl
@[simp] theorem modStrand_owned (k : Nat) (f : Strand → Strand) (s : State) : (modStrand k f s).owned = s.owned := rfl
@[simp] theorem modStrand_flits (k : Nat) (f : Strand → Strand) (s : State) : (modStrand k f s).flits = s.flits := rfl
@[simp] theorem modStrand_reqs (k : Nat) (f : Strand → Strand) (s : State) : (modStrand k f s).reqs = s.reqs := rfl
@[simp] theorem modStrand_tmsgs (k : Nat) (f : Strand → Strand) (s : State) : (modStrand k f s).tmsgs = s.tmsgs := rfl
@[simp] theorem modStrand_walks (k : Nat) (f : Strand → Strand) (s : State) : (modStrand k f s).walks = s.walks := rfl
@[simp] theorem modStrand_drops (k : Nat) (f : Strand → Strand) (s : State) : (modStrand k f s).drops = s.drops := rfl
@[simp] theorem modStrand_ports (k : Nat) (f : Strand → Strand) (s : State) : (modStrand k f s).ports = s.ports := rfl
@[simp] theorem modStrand_peerMax (k : Nat) (f : Strand → Strand) (s : State) : (modStrand k f s).peerMax = s.peerMax := rfl
@[simp] theorem modStrand_islands (k : Nat) (f : Strand → Strand) (s : State) : (modStrand k f s).islands = s.islands := rfl
@[simp] theorem modStrand_newel (k : Nat) (f : Strand → Strand) (s : State) : (modStrand k f s).newel = s.newel := rfl
@[simp] theorem modStrand_moves (k : Nat) (f : Strand → Strand) (s : State) : (modStrand k f s).moves = s.moves := rfl
@[simp] theorem modStrand_lastMove (k : Nat) (f : Strand → Strand) (s : State) : (modStrand k f s).lastMove = s.lastMove := rfl
@[simp] theorem modStrand_snap (k : Nat) (f : Strand → Strand) (s : State) : (modStrand k f s).snap = s.snap := rfl
@[simp] theorem modStrand_zeroing (k : Nat) (f : Strand → Strand) (s : State) : (modStrand k f s).zeroing = s.zeroing := rfl
@[simp] theorem modStrand_outbox (k : Nat) (f : Strand → Strand) (s : State) : (modStrand k f s).outbox = s.outbox := rfl
@[simp] theorem modStrand_nextId (k : Nat) (f : Strand → Strand) (s : State) : (modStrand k f s).nextId = s.nextId := rfl
@[simp] theorem modStrand_fresh (k : Nat) (f : Strand → Strand) (s : State) : (modStrand k f s).fresh = s.fresh := rfl
@[simp] theorem modStrand_meter (k : Nat) (f : Strand → Strand) (s : State) : (modStrand k f s).meter = s.meter := rfl

/-! ### setIsland -/

@[simp] theorem setIsland_wheel (i : Nat) (v : Island) (s : State) : (setIsland i v s).wheel = s.wheel := rfl
@[simp] theorem setIsland_agenda (i : Nat) (v : Island) (s : State) : (setIsland i v s).agenda = s.agenda := rfl
@[simp] theorem setIsland_ev (i : Nat) (v : Island) (s : State) : (setIsland i v s).ev = s.ev := rfl
@[simp] theorem setIsland_issue (i : Nat) (v : Island) (s : State) : (setIsland i v s).issue = s.issue := rfl
@[simp] theorem setIsland_phase (i : Nat) (v : Island) (s : State) : (setIsland i v s).phase = s.phase := rfl
@[simp] theorem setIsland_power (i : Nat) (v : Island) (s : State) : (setIsland i v s).power = s.power := rfl
@[simp] theorem setIsland_ctl (i : Nat) (v : Island) (s : State) : (setIsland i v s).ctl = s.ctl := rfl
@[simp] theorem setIsland_mw0 (i : Nat) (v : Island) (s : State) : (setIsland i v s).mw0 = s.mw0 := rfl
@[simp] theorem setIsland_mem (i : Nat) (v : Island) (s : State) : (setIsland i v s).mem = s.mem := rfl
@[simp] theorem setIsland_memTags (i : Nat) (v : Island) (s : State) : (setIsland i v s).memTags = s.memTags := rfl
@[simp] theorem setIsland_memEmpty (i : Nat) (v : Island) (s : State) : (setIsland i v s).memEmpty = s.memEmpty := rfl
@[simp] theorem setIsland_memErr (i : Nat) (v : Island) (s : State) : (setIsland i v s).memErr = s.memErr := rfl
@[simp] theorem setIsland_memKey (i : Nat) (v : Island) (s : State) : (setIsland i v s).memKey = s.memKey := rfl
@[simp] theorem setIsland_spad (i : Nat) (v : Island) (s : State) : (setIsland i v s).spad = s.spad := rfl
@[simp] theorem setIsland_spadEmpty (i : Nat) (v : Island) (s : State) : (setIsland i v s).spadEmpty = s.spadEmpty := rfl
@[simp] theorem setIsland_spadErr (i : Nat) (v : Island) (s : State) : (setIsland i v s).spadErr = s.spadErr := rfl
@[simp] theorem setIsland_lineErr (i : Nat) (v : Island) (s : State) : (setIsland i v s).lineErr = s.lineErr := rfl
@[simp] theorem setIsland_shadow (i : Nat) (v : Island) (s : State) : (setIsland i v s).shadow = s.shadow := rfl
@[simp] theorem setIsland_cores (i : Nat) (v : Island) (s : State) : (setIsland i v s).cores = s.cores := rfl
@[simp] theorem setIsland_quads (i : Nat) (v : Island) (s : State) : (setIsland i v s).quads = s.quads := rfl
@[simp] theorem setIsland_halls (i : Nat) (v : Island) (s : State) : (setIsland i v s).halls = s.halls := rfl
@[simp] theorem setIsland_fns (i : Nat) (v : Island) (s : State) : (setIsland i v s).fns = s.fns := rfl
@[simp] theorem setIsland_strands (i : Nat) (v : Island) (s : State) : (setIsland i v s).strands = s.strands := rfl
@[simp] theorem setIsland_lines (i : Nat) (v : Island) (s : State) : (setIsland i v s).lines = s.lines := rfl
@[simp] theorem setIsland_streams (i : Nat) (v : Island) (s : State) : (setIsland i v s).streams = s.streams := rfl
@[simp] theorem setIsland_launches (i : Nat) (v : Island) (s : State) : (setIsland i v s).launches = s.launches := rfl
@[simp] theorem setIsland_queues (i : Nat) (v : Island) (s : State) : (setIsland i v s).queues = s.queues := rfl
@[simp] theorem setIsland_barriers (i : Nat) (v : Island) (s : State) : (setIsland i v s).barriers = s.barriers := rfl
@[simp] theorem setIsland_parts (i : Nat) (v : Island) (s : State) : (setIsland i v s).parts = s.parts := rfl
@[simp] theorem setIsland_circs (i : Nat) (v : Island) (s : State) : (setIsland i v s).circs = s.circs := rfl
@[simp] theorem setIsland_banks (i : Nat) (v : Island) (s : State) : (setIsland i v s).banks = s.banks := rfl
@[simp] theorem setIsland_entries (i : Nat) (v : Island) (s : State) : (setIsland i v s).entries = s.entries := rfl
@[simp] theorem setIsland_floor (i : Nat) (v : Island) (s : State) : (setIsland i v s).floor = s.floor := rfl
@[simp] theorem setIsland_owned (i : Nat) (v : Island) (s : State) : (setIsland i v s).owned = s.owned := rfl
@[simp] theorem setIsland_flits (i : Nat) (v : Island) (s : State) : (setIsland i v s).flits = s.flits := rfl
@[simp] theorem setIsland_reqs (i : Nat) (v : Island) (s : State) : (setIsland i v s).reqs = s.reqs := rfl
@[simp] theorem setIsland_tmsgs (i : Nat) (v : Island) (s : State) : (setIsland i v s).tmsgs = s.tmsgs := rfl
@[simp] theorem setIsland_walks (i : Nat) (v : Island) (s : State) : (setIsland i v s).walks = s.walks := rfl
@[simp] theorem setIsland_drops (i : Nat) (v : Island) (s : State) : (setIsland i v s).drops = s.drops := rfl
@[simp] theorem setIsland_ports (i : Nat) (v : Island) (s : State) : (setIsland i v s).ports = s.ports := rfl
@[simp] theorem setIsland_peerMax (i : Nat) (v : Island) (s : State) : (setIsland i v s).peerMax = s.peerMax := rfl
@[simp] theorem setIsland_islands (i : Nat) (v : Island) (s : State) : (setIsland i v s).islands = tput s.islands i v := rfl
@[simp] theorem setIsland_newel (i : Nat) (v : Island) (s : State) : (setIsland i v s).newel = s.newel := rfl
@[simp] theorem setIsland_moves (i : Nat) (v : Island) (s : State) : (setIsland i v s).moves = s.moves := rfl
@[simp] theorem setIsland_lastMove (i : Nat) (v : Island) (s : State) : (setIsland i v s).lastMove = s.lastMove := rfl
@[simp] theorem setIsland_snap (i : Nat) (v : Island) (s : State) : (setIsland i v s).snap = s.snap := rfl
@[simp] theorem setIsland_zeroing (i : Nat) (v : Island) (s : State) : (setIsland i v s).zeroing = s.zeroing := rfl
@[simp] theorem setIsland_outbox (i : Nat) (v : Island) (s : State) : (setIsland i v s).outbox = s.outbox := rfl
@[simp] theorem setIsland_nextId (i : Nat) (v : Island) (s : State) : (setIsland i v s).nextId = s.nextId := rfl
@[simp] theorem setIsland_fresh (i : Nat) (v : Island) (s : State) : (setIsland i v s).fresh = s.fresh := rfl
@[simp] theorem setIsland_meter (i : Nat) (v : Island) (s : State) : (setIsland i v s).meter = s.meter := rfl

/-! ### setPart -/

@[simp] theorem setPart_wheel (n : Nat) (v : Part) (s : State) : (setPart n v s).wheel = s.wheel := rfl
@[simp] theorem setPart_agenda (n : Nat) (v : Part) (s : State) : (setPart n v s).agenda = s.agenda := rfl
@[simp] theorem setPart_ev (n : Nat) (v : Part) (s : State) : (setPart n v s).ev = s.ev := rfl
@[simp] theorem setPart_issue (n : Nat) (v : Part) (s : State) : (setPart n v s).issue = s.issue := rfl
@[simp] theorem setPart_phase (n : Nat) (v : Part) (s : State) : (setPart n v s).phase = s.phase := rfl
@[simp] theorem setPart_power (n : Nat) (v : Part) (s : State) : (setPart n v s).power = s.power := rfl
@[simp] theorem setPart_ctl (n : Nat) (v : Part) (s : State) : (setPart n v s).ctl = s.ctl := rfl
@[simp] theorem setPart_mw0 (n : Nat) (v : Part) (s : State) : (setPart n v s).mw0 = s.mw0 := rfl
@[simp] theorem setPart_mem (n : Nat) (v : Part) (s : State) : (setPart n v s).mem = s.mem := rfl
@[simp] theorem setPart_memTags (n : Nat) (v : Part) (s : State) : (setPart n v s).memTags = s.memTags := rfl
@[simp] theorem setPart_memEmpty (n : Nat) (v : Part) (s : State) : (setPart n v s).memEmpty = s.memEmpty := rfl
@[simp] theorem setPart_memErr (n : Nat) (v : Part) (s : State) : (setPart n v s).memErr = s.memErr := rfl
@[simp] theorem setPart_memKey (n : Nat) (v : Part) (s : State) : (setPart n v s).memKey = s.memKey := rfl
@[simp] theorem setPart_spad (n : Nat) (v : Part) (s : State) : (setPart n v s).spad = s.spad := rfl
@[simp] theorem setPart_spadEmpty (n : Nat) (v : Part) (s : State) : (setPart n v s).spadEmpty = s.spadEmpty := rfl
@[simp] theorem setPart_spadErr (n : Nat) (v : Part) (s : State) : (setPart n v s).spadErr = s.spadErr := rfl
@[simp] theorem setPart_lineErr (n : Nat) (v : Part) (s : State) : (setPart n v s).lineErr = s.lineErr := rfl
@[simp] theorem setPart_shadow (n : Nat) (v : Part) (s : State) : (setPart n v s).shadow = s.shadow := rfl
@[simp] theorem setPart_cores (n : Nat) (v : Part) (s : State) : (setPart n v s).cores = s.cores := rfl
@[simp] theorem setPart_quads (n : Nat) (v : Part) (s : State) : (setPart n v s).quads = s.quads := rfl
@[simp] theorem setPart_halls (n : Nat) (v : Part) (s : State) : (setPart n v s).halls = s.halls := rfl
@[simp] theorem setPart_fns (n : Nat) (v : Part) (s : State) : (setPart n v s).fns = s.fns := rfl
@[simp] theorem setPart_strands (n : Nat) (v : Part) (s : State) : (setPart n v s).strands = s.strands := rfl
@[simp] theorem setPart_lines (n : Nat) (v : Part) (s : State) : (setPart n v s).lines = s.lines := rfl
@[simp] theorem setPart_streams (n : Nat) (v : Part) (s : State) : (setPart n v s).streams = s.streams := rfl
@[simp] theorem setPart_launches (n : Nat) (v : Part) (s : State) : (setPart n v s).launches = s.launches := rfl
@[simp] theorem setPart_queues (n : Nat) (v : Part) (s : State) : (setPart n v s).queues = s.queues := rfl
@[simp] theorem setPart_barriers (n : Nat) (v : Part) (s : State) : (setPart n v s).barriers = s.barriers := rfl
@[simp] theorem setPart_parts (n : Nat) (v : Part) (s : State) : (setPart n v s).parts = tput s.parts n v := rfl
@[simp] theorem setPart_circs (n : Nat) (v : Part) (s : State) : (setPart n v s).circs = s.circs := rfl
@[simp] theorem setPart_banks (n : Nat) (v : Part) (s : State) : (setPart n v s).banks = s.banks := rfl
@[simp] theorem setPart_entries (n : Nat) (v : Part) (s : State) : (setPart n v s).entries = s.entries := rfl
@[simp] theorem setPart_floor (n : Nat) (v : Part) (s : State) : (setPart n v s).floor = s.floor := rfl
@[simp] theorem setPart_owned (n : Nat) (v : Part) (s : State) : (setPart n v s).owned = s.owned := rfl
@[simp] theorem setPart_flits (n : Nat) (v : Part) (s : State) : (setPart n v s).flits = s.flits := rfl
@[simp] theorem setPart_reqs (n : Nat) (v : Part) (s : State) : (setPart n v s).reqs = s.reqs := rfl
@[simp] theorem setPart_tmsgs (n : Nat) (v : Part) (s : State) : (setPart n v s).tmsgs = s.tmsgs := rfl
@[simp] theorem setPart_walks (n : Nat) (v : Part) (s : State) : (setPart n v s).walks = s.walks := rfl
@[simp] theorem setPart_drops (n : Nat) (v : Part) (s : State) : (setPart n v s).drops = s.drops := rfl
@[simp] theorem setPart_ports (n : Nat) (v : Part) (s : State) : (setPart n v s).ports = s.ports := rfl
@[simp] theorem setPart_peerMax (n : Nat) (v : Part) (s : State) : (setPart n v s).peerMax = s.peerMax := rfl
@[simp] theorem setPart_islands (n : Nat) (v : Part) (s : State) : (setPart n v s).islands = s.islands := rfl
@[simp] theorem setPart_newel (n : Nat) (v : Part) (s : State) : (setPart n v s).newel = s.newel := rfl
@[simp] theorem setPart_moves (n : Nat) (v : Part) (s : State) : (setPart n v s).moves = s.moves := rfl
@[simp] theorem setPart_lastMove (n : Nat) (v : Part) (s : State) : (setPart n v s).lastMove = s.lastMove := rfl
@[simp] theorem setPart_snap (n : Nat) (v : Part) (s : State) : (setPart n v s).snap = s.snap := rfl
@[simp] theorem setPart_zeroing (n : Nat) (v : Part) (s : State) : (setPart n v s).zeroing = s.zeroing := rfl
@[simp] theorem setPart_outbox (n : Nat) (v : Part) (s : State) : (setPart n v s).outbox = s.outbox := rfl
@[simp] theorem setPart_nextId (n : Nat) (v : Part) (s : State) : (setPart n v s).nextId = s.nextId := rfl
@[simp] theorem setPart_fresh (n : Nat) (v : Part) (s : State) : (setPart n v s).fresh = s.fresh := rfl
@[simp] theorem setPart_meter (n : Nat) (v : Part) (s : State) : (setPart n v s).meter = s.meter := rfl

/-! ### setBarrier -/

@[simp] theorem setBarrier_wheel (k : Nat) (v : Barrier) (s : State) : (setBarrier k v s).wheel = s.wheel := rfl
@[simp] theorem setBarrier_agenda (k : Nat) (v : Barrier) (s : State) : (setBarrier k v s).agenda = s.agenda := rfl
@[simp] theorem setBarrier_ev (k : Nat) (v : Barrier) (s : State) : (setBarrier k v s).ev = s.ev := rfl
@[simp] theorem setBarrier_issue (k : Nat) (v : Barrier) (s : State) : (setBarrier k v s).issue = s.issue := rfl
@[simp] theorem setBarrier_phase (k : Nat) (v : Barrier) (s : State) : (setBarrier k v s).phase = s.phase := rfl
@[simp] theorem setBarrier_power (k : Nat) (v : Barrier) (s : State) : (setBarrier k v s).power = s.power := rfl
@[simp] theorem setBarrier_ctl (k : Nat) (v : Barrier) (s : State) : (setBarrier k v s).ctl = s.ctl := rfl
@[simp] theorem setBarrier_mw0 (k : Nat) (v : Barrier) (s : State) : (setBarrier k v s).mw0 = s.mw0 := rfl
@[simp] theorem setBarrier_mem (k : Nat) (v : Barrier) (s : State) : (setBarrier k v s).mem = s.mem := rfl
@[simp] theorem setBarrier_memTags (k : Nat) (v : Barrier) (s : State) : (setBarrier k v s).memTags = s.memTags := rfl
@[simp] theorem setBarrier_memEmpty (k : Nat) (v : Barrier) (s : State) : (setBarrier k v s).memEmpty = s.memEmpty := rfl
@[simp] theorem setBarrier_memErr (k : Nat) (v : Barrier) (s : State) : (setBarrier k v s).memErr = s.memErr := rfl
@[simp] theorem setBarrier_memKey (k : Nat) (v : Barrier) (s : State) : (setBarrier k v s).memKey = s.memKey := rfl
@[simp] theorem setBarrier_spad (k : Nat) (v : Barrier) (s : State) : (setBarrier k v s).spad = s.spad := rfl
@[simp] theorem setBarrier_spadEmpty (k : Nat) (v : Barrier) (s : State) : (setBarrier k v s).spadEmpty = s.spadEmpty := rfl
@[simp] theorem setBarrier_spadErr (k : Nat) (v : Barrier) (s : State) : (setBarrier k v s).spadErr = s.spadErr := rfl
@[simp] theorem setBarrier_lineErr (k : Nat) (v : Barrier) (s : State) : (setBarrier k v s).lineErr = s.lineErr := rfl
@[simp] theorem setBarrier_shadow (k : Nat) (v : Barrier) (s : State) : (setBarrier k v s).shadow = s.shadow := rfl
@[simp] theorem setBarrier_cores (k : Nat) (v : Barrier) (s : State) : (setBarrier k v s).cores = s.cores := rfl
@[simp] theorem setBarrier_quads (k : Nat) (v : Barrier) (s : State) : (setBarrier k v s).quads = s.quads := rfl
@[simp] theorem setBarrier_halls (k : Nat) (v : Barrier) (s : State) : (setBarrier k v s).halls = s.halls := rfl
@[simp] theorem setBarrier_fns (k : Nat) (v : Barrier) (s : State) : (setBarrier k v s).fns = s.fns := rfl
@[simp] theorem setBarrier_strands (k : Nat) (v : Barrier) (s : State) : (setBarrier k v s).strands = s.strands := rfl
@[simp] theorem setBarrier_lines (k : Nat) (v : Barrier) (s : State) : (setBarrier k v s).lines = s.lines := rfl
@[simp] theorem setBarrier_streams (k : Nat) (v : Barrier) (s : State) : (setBarrier k v s).streams = s.streams := rfl
@[simp] theorem setBarrier_launches (k : Nat) (v : Barrier) (s : State) : (setBarrier k v s).launches = s.launches := rfl
@[simp] theorem setBarrier_queues (k : Nat) (v : Barrier) (s : State) : (setBarrier k v s).queues = s.queues := rfl
@[simp] theorem setBarrier_barriers (k : Nat) (v : Barrier) (s : State) : (setBarrier k v s).barriers = tput s.barriers k v := rfl
@[simp] theorem setBarrier_parts (k : Nat) (v : Barrier) (s : State) : (setBarrier k v s).parts = s.parts := rfl
@[simp] theorem setBarrier_circs (k : Nat) (v : Barrier) (s : State) : (setBarrier k v s).circs = s.circs := rfl
@[simp] theorem setBarrier_banks (k : Nat) (v : Barrier) (s : State) : (setBarrier k v s).banks = s.banks := rfl
@[simp] theorem setBarrier_entries (k : Nat) (v : Barrier) (s : State) : (setBarrier k v s).entries = s.entries := rfl
@[simp] theorem setBarrier_floor (k : Nat) (v : Barrier) (s : State) : (setBarrier k v s).floor = s.floor := rfl
@[simp] theorem setBarrier_owned (k : Nat) (v : Barrier) (s : State) : (setBarrier k v s).owned = s.owned := rfl
@[simp] theorem setBarrier_flits (k : Nat) (v : Barrier) (s : State) : (setBarrier k v s).flits = s.flits := rfl
@[simp] theorem setBarrier_reqs (k : Nat) (v : Barrier) (s : State) : (setBarrier k v s).reqs = s.reqs := rfl
@[simp] theorem setBarrier_tmsgs (k : Nat) (v : Barrier) (s : State) : (setBarrier k v s).tmsgs = s.tmsgs := rfl
@[simp] theorem setBarrier_walks (k : Nat) (v : Barrier) (s : State) : (setBarrier k v s).walks = s.walks := rfl
@[simp] theorem setBarrier_drops (k : Nat) (v : Barrier) (s : State) : (setBarrier k v s).drops = s.drops := rfl
@[simp] theorem setBarrier_ports (k : Nat) (v : Barrier) (s : State) : (setBarrier k v s).ports = s.ports := rfl
@[simp] theorem setBarrier_peerMax (k : Nat) (v : Barrier) (s : State) : (setBarrier k v s).peerMax = s.peerMax := rfl
@[simp] theorem setBarrier_islands (k : Nat) (v : Barrier) (s : State) : (setBarrier k v s).islands = s.islands := rfl
@[simp] theorem setBarrier_newel (k : Nat) (v : Barrier) (s : State) : (setBarrier k v s).newel = s.newel := rfl
@[simp] theorem setBarrier_moves (k : Nat) (v : Barrier) (s : State) : (setBarrier k v s).moves = s.moves := rfl
@[simp] theorem setBarrier_lastMove (k : Nat) (v : Barrier) (s : State) : (setBarrier k v s).lastMove = s.lastMove := rfl
@[simp] theorem setBarrier_snap (k : Nat) (v : Barrier) (s : State) : (setBarrier k v s).snap = s.snap := rfl
@[simp] theorem setBarrier_zeroing (k : Nat) (v : Barrier) (s : State) : (setBarrier k v s).zeroing = s.zeroing := rfl
@[simp] theorem setBarrier_outbox (k : Nat) (v : Barrier) (s : State) : (setBarrier k v s).outbox = s.outbox := rfl
@[simp] theorem setBarrier_nextId (k : Nat) (v : Barrier) (s : State) : (setBarrier k v s).nextId = s.nextId := rfl
@[simp] theorem setBarrier_fresh (k : Nat) (v : Barrier) (s : State) : (setBarrier k v s).fresh = s.fresh := rfl
@[simp] theorem setBarrier_meter (k : Nat) (v : Barrier) (s : State) : (setBarrier k v s).meter = s.meter := rfl

/-! ### setPort -/

@[simp] theorem setPort_wheel (n : Nat) (v : Port) (s : State) : (setPort n v s).wheel = s.wheel := rfl
@[simp] theorem setPort_agenda (n : Nat) (v : Port) (s : State) : (setPort n v s).agenda = s.agenda := rfl
@[simp] theorem setPort_ev (n : Nat) (v : Port) (s : State) : (setPort n v s).ev = s.ev := rfl
@[simp] theorem setPort_issue (n : Nat) (v : Port) (s : State) : (setPort n v s).issue = s.issue := rfl
@[simp] theorem setPort_phase (n : Nat) (v : Port) (s : State) : (setPort n v s).phase = s.phase := rfl
@[simp] theorem setPort_power (n : Nat) (v : Port) (s : State) : (setPort n v s).power = s.power := rfl
@[simp] theorem setPort_ctl (n : Nat) (v : Port) (s : State) : (setPort n v s).ctl = s.ctl := rfl
@[simp] theorem setPort_mw0 (n : Nat) (v : Port) (s : State) : (setPort n v s).mw0 = s.mw0 := rfl
@[simp] theorem setPort_mem (n : Nat) (v : Port) (s : State) : (setPort n v s).mem = s.mem := rfl
@[simp] theorem setPort_memTags (n : Nat) (v : Port) (s : State) : (setPort n v s).memTags = s.memTags := rfl
@[simp] theorem setPort_memEmpty (n : Nat) (v : Port) (s : State) : (setPort n v s).memEmpty = s.memEmpty := rfl
@[simp] theorem setPort_memErr (n : Nat) (v : Port) (s : State) : (setPort n v s).memErr = s.memErr := rfl
@[simp] theorem setPort_memKey (n : Nat) (v : Port) (s : State) : (setPort n v s).memKey = s.memKey := rfl
@[simp] theorem setPort_spad (n : Nat) (v : Port) (s : State) : (setPort n v s).spad = s.spad := rfl
@[simp] theorem setPort_spadEmpty (n : Nat) (v : Port) (s : State) : (setPort n v s).spadEmpty = s.spadEmpty := rfl
@[simp] theorem setPort_spadErr (n : Nat) (v : Port) (s : State) : (setPort n v s).spadErr = s.spadErr := rfl
@[simp] theorem setPort_lineErr (n : Nat) (v : Port) (s : State) : (setPort n v s).lineErr = s.lineErr := rfl
@[simp] theorem setPort_shadow (n : Nat) (v : Port) (s : State) : (setPort n v s).shadow = s.shadow := rfl
@[simp] theorem setPort_cores (n : Nat) (v : Port) (s : State) : (setPort n v s).cores = s.cores := rfl
@[simp] theorem setPort_quads (n : Nat) (v : Port) (s : State) : (setPort n v s).quads = s.quads := rfl
@[simp] theorem setPort_halls (n : Nat) (v : Port) (s : State) : (setPort n v s).halls = s.halls := rfl
@[simp] theorem setPort_fns (n : Nat) (v : Port) (s : State) : (setPort n v s).fns = s.fns := rfl
@[simp] theorem setPort_strands (n : Nat) (v : Port) (s : State) : (setPort n v s).strands = s.strands := rfl
@[simp] theorem setPort_lines (n : Nat) (v : Port) (s : State) : (setPort n v s).lines = s.lines := rfl
@[simp] theorem setPort_streams (n : Nat) (v : Port) (s : State) : (setPort n v s).streams = s.streams := rfl
@[simp] theorem setPort_launches (n : Nat) (v : Port) (s : State) : (setPort n v s).launches = s.launches := rfl
@[simp] theorem setPort_queues (n : Nat) (v : Port) (s : State) : (setPort n v s).queues = s.queues := rfl
@[simp] theorem setPort_barriers (n : Nat) (v : Port) (s : State) : (setPort n v s).barriers = s.barriers := rfl
@[simp] theorem setPort_parts (n : Nat) (v : Port) (s : State) : (setPort n v s).parts = s.parts := rfl
@[simp] theorem setPort_circs (n : Nat) (v : Port) (s : State) : (setPort n v s).circs = s.circs := rfl
@[simp] theorem setPort_banks (n : Nat) (v : Port) (s : State) : (setPort n v s).banks = s.banks := rfl
@[simp] theorem setPort_entries (n : Nat) (v : Port) (s : State) : (setPort n v s).entries = s.entries := rfl
@[simp] theorem setPort_floor (n : Nat) (v : Port) (s : State) : (setPort n v s).floor = s.floor := rfl
@[simp] theorem setPort_owned (n : Nat) (v : Port) (s : State) : (setPort n v s).owned = s.owned := rfl
@[simp] theorem setPort_flits (n : Nat) (v : Port) (s : State) : (setPort n v s).flits = s.flits := rfl
@[simp] theorem setPort_reqs (n : Nat) (v : Port) (s : State) : (setPort n v s).reqs = s.reqs := rfl
@[simp] theorem setPort_tmsgs (n : Nat) (v : Port) (s : State) : (setPort n v s).tmsgs = s.tmsgs := rfl
@[simp] theorem setPort_walks (n : Nat) (v : Port) (s : State) : (setPort n v s).walks = s.walks := rfl
@[simp] theorem setPort_drops (n : Nat) (v : Port) (s : State) : (setPort n v s).drops = s.drops := rfl
@[simp] theorem setPort_ports (n : Nat) (v : Port) (s : State) : (setPort n v s).ports = tput s.ports n v := rfl
@[simp] theorem setPort_peerMax (n : Nat) (v : Port) (s : State) : (setPort n v s).peerMax = s.peerMax := rfl
@[simp] theorem setPort_islands (n : Nat) (v : Port) (s : State) : (setPort n v s).islands = s.islands := rfl
@[simp] theorem setPort_newel (n : Nat) (v : Port) (s : State) : (setPort n v s).newel = s.newel := rfl
@[simp] theorem setPort_moves (n : Nat) (v : Port) (s : State) : (setPort n v s).moves = s.moves := rfl
@[simp] theorem setPort_lastMove (n : Nat) (v : Port) (s : State) : (setPort n v s).lastMove = s.lastMove := rfl
@[simp] theorem setPort_snap (n : Nat) (v : Port) (s : State) : (setPort n v s).snap = s.snap := rfl
@[simp] theorem setPort_zeroing (n : Nat) (v : Port) (s : State) : (setPort n v s).zeroing = s.zeroing := rfl
@[simp] theorem setPort_outbox (n : Nat) (v : Port) (s : State) : (setPort n v s).outbox = s.outbox := rfl
@[simp] theorem setPort_nextId (n : Nat) (v : Port) (s : State) : (setPort n v s).nextId = s.nextId := rfl
@[simp] theorem setPort_fresh (n : Nat) (v : Port) (s : State) : (setPort n v s).fresh = s.fresh := rfl
@[simp] theorem setPort_meter (n : Nat) (v : Port) (s : State) : (setPort n v s).meter = s.meter := rfl

/-! ### setQueue -/

@[simp] theorem setQueue_wheel (k : Nat) (v : LQueue) (s : State) : (setQueue k v s).wheel = s.wheel := rfl
@[simp] theorem setQueue_agenda (k : Nat) (v : LQueue) (s : State) : (setQueue k v s).agenda = s.agenda := rfl
@[simp] theorem setQueue_ev (k : Nat) (v : LQueue) (s : State) : (setQueue k v s).ev = s.ev := rfl
@[simp] theorem setQueue_issue (k : Nat) (v : LQueue) (s : State) : (setQueue k v s).issue = s.issue := rfl
@[simp] theorem setQueue_phase (k : Nat) (v : LQueue) (s : State) : (setQueue k v s).phase = s.phase := rfl
@[simp] theorem setQueue_power (k : Nat) (v : LQueue) (s : State) : (setQueue k v s).power = s.power := rfl
@[simp] theorem setQueue_ctl (k : Nat) (v : LQueue) (s : State) : (setQueue k v s).ctl = s.ctl := rfl
@[simp] theorem setQueue_mw0 (k : Nat) (v : LQueue) (s : State) : (setQueue k v s).mw0 = s.mw0 := rfl
@[simp] theorem setQueue_mem (k : Nat) (v : LQueue) (s : State) : (setQueue k v s).mem = s.mem := rfl
@[simp] theorem setQueue_memTags (k : Nat) (v : LQueue) (s : State) : (setQueue k v s).memTags = s.memTags := rfl
@[simp] theorem setQueue_memEmpty (k : Nat) (v : LQueue) (s : State) : (setQueue k v s).memEmpty = s.memEmpty := rfl
@[simp] theorem setQueue_memErr (k : Nat) (v : LQueue) (s : State) : (setQueue k v s).memErr = s.memErr := rfl
@[simp] theorem setQueue_memKey (k : Nat) (v : LQueue) (s : State) : (setQueue k v s).memKey = s.memKey := rfl
@[simp] theorem setQueue_spad (k : Nat) (v : LQueue) (s : State) : (setQueue k v s).spad = s.spad := rfl
@[simp] theorem setQueue_spadEmpty (k : Nat) (v : LQueue) (s : State) : (setQueue k v s).spadEmpty = s.spadEmpty := rfl
@[simp] theorem setQueue_spadErr (k : Nat) (v : LQueue) (s : State) : (setQueue k v s).spadErr = s.spadErr := rfl
@[simp] theorem setQueue_lineErr (k : Nat) (v : LQueue) (s : State) : (setQueue k v s).lineErr = s.lineErr := rfl
@[simp] theorem setQueue_shadow (k : Nat) (v : LQueue) (s : State) : (setQueue k v s).shadow = s.shadow := rfl
@[simp] theorem setQueue_cores (k : Nat) (v : LQueue) (s : State) : (setQueue k v s).cores = s.cores := rfl
@[simp] theorem setQueue_quads (k : Nat) (v : LQueue) (s : State) : (setQueue k v s).quads = s.quads := rfl
@[simp] theorem setQueue_halls (k : Nat) (v : LQueue) (s : State) : (setQueue k v s).halls = s.halls := rfl
@[simp] theorem setQueue_fns (k : Nat) (v : LQueue) (s : State) : (setQueue k v s).fns = s.fns := rfl
@[simp] theorem setQueue_strands (k : Nat) (v : LQueue) (s : State) : (setQueue k v s).strands = s.strands := rfl
@[simp] theorem setQueue_lines (k : Nat) (v : LQueue) (s : State) : (setQueue k v s).lines = s.lines := rfl
@[simp] theorem setQueue_streams (k : Nat) (v : LQueue) (s : State) : (setQueue k v s).streams = s.streams := rfl
@[simp] theorem setQueue_launches (k : Nat) (v : LQueue) (s : State) : (setQueue k v s).launches = s.launches := rfl
@[simp] theorem setQueue_queues (k : Nat) (v : LQueue) (s : State) : (setQueue k v s).queues = tput s.queues k v := rfl
@[simp] theorem setQueue_barriers (k : Nat) (v : LQueue) (s : State) : (setQueue k v s).barriers = s.barriers := rfl
@[simp] theorem setQueue_parts (k : Nat) (v : LQueue) (s : State) : (setQueue k v s).parts = s.parts := rfl
@[simp] theorem setQueue_circs (k : Nat) (v : LQueue) (s : State) : (setQueue k v s).circs = s.circs := rfl
@[simp] theorem setQueue_banks (k : Nat) (v : LQueue) (s : State) : (setQueue k v s).banks = s.banks := rfl
@[simp] theorem setQueue_entries (k : Nat) (v : LQueue) (s : State) : (setQueue k v s).entries = s.entries := rfl
@[simp] theorem setQueue_floor (k : Nat) (v : LQueue) (s : State) : (setQueue k v s).floor = s.floor := rfl
@[simp] theorem setQueue_owned (k : Nat) (v : LQueue) (s : State) : (setQueue k v s).owned = s.owned := rfl
@[simp] theorem setQueue_flits (k : Nat) (v : LQueue) (s : State) : (setQueue k v s).flits = s.flits := rfl
@[simp] theorem setQueue_reqs (k : Nat) (v : LQueue) (s : State) : (setQueue k v s).reqs = s.reqs := rfl
@[simp] theorem setQueue_tmsgs (k : Nat) (v : LQueue) (s : State) : (setQueue k v s).tmsgs = s.tmsgs := rfl
@[simp] theorem setQueue_walks (k : Nat) (v : LQueue) (s : State) : (setQueue k v s).walks = s.walks := rfl
@[simp] theorem setQueue_drops (k : Nat) (v : LQueue) (s : State) : (setQueue k v s).drops = s.drops := rfl
@[simp] theorem setQueue_ports (k : Nat) (v : LQueue) (s : State) : (setQueue k v s).ports = s.ports := rfl
@[simp] theorem setQueue_peerMax (k : Nat) (v : LQueue) (s : State) : (setQueue k v s).peerMax = s.peerMax := rfl
@[simp] theorem setQueue_islands (k : Nat) (v : LQueue) (s : State) : (setQueue k v s).islands = s.islands := rfl
@[simp] theorem setQueue_newel (k : Nat) (v : LQueue) (s : State) : (setQueue k v s).newel = s.newel := rfl
@[simp] theorem setQueue_moves (k : Nat) (v : LQueue) (s : State) : (setQueue k v s).moves = s.moves := rfl
@[simp] theorem setQueue_lastMove (k : Nat) (v : LQueue) (s : State) : (setQueue k v s).lastMove = s.lastMove := rfl
@[simp] theorem setQueue_snap (k : Nat) (v : LQueue) (s : State) : (setQueue k v s).snap = s.snap := rfl
@[simp] theorem setQueue_zeroing (k : Nat) (v : LQueue) (s : State) : (setQueue k v s).zeroing = s.zeroing := rfl
@[simp] theorem setQueue_outbox (k : Nat) (v : LQueue) (s : State) : (setQueue k v s).outbox = s.outbox := rfl
@[simp] theorem setQueue_nextId (k : Nat) (v : LQueue) (s : State) : (setQueue k v s).nextId = s.nextId := rfl
@[simp] theorem setQueue_fresh (k : Nat) (v : LQueue) (s : State) : (setQueue k v s).fresh = s.fresh := rfl
@[simp] theorem setQueue_meter (k : Nat) (v : LQueue) (s : State) : (setQueue k v s).meter = s.meter := rfl

/-! ### setLaunch -/

@[simp] theorem setLaunch_wheel (l : Nat) (v : Launch) (s : State) : (setLaunch l v s).wheel = s.wheel := rfl
@[simp] theorem setLaunch_agenda (l : Nat) (v : Launch) (s : State) : (setLaunch l v s).agenda = s.agenda := rfl
@[simp] theorem setLaunch_ev (l : Nat) (v : Launch) (s : State) : (setLaunch l v s).ev = s.ev := rfl
@[simp] theorem setLaunch_issue (l : Nat) (v : Launch) (s : State) : (setLaunch l v s).issue = s.issue := rfl
@[simp] theorem setLaunch_phase (l : Nat) (v : Launch) (s : State) : (setLaunch l v s).phase = s.phase := rfl
@[simp] theorem setLaunch_power (l : Nat) (v : Launch) (s : State) : (setLaunch l v s).power = s.power := rfl
@[simp] theorem setLaunch_ctl (l : Nat) (v : Launch) (s : State) : (setLaunch l v s).ctl = s.ctl := rfl
@[simp] theorem setLaunch_mw0 (l : Nat) (v : Launch) (s : State) : (setLaunch l v s).mw0 = s.mw0 := rfl
@[simp] theorem setLaunch_mem (l : Nat) (v : Launch) (s : State) : (setLaunch l v s).mem = s.mem := rfl
@[simp] theorem setLaunch_memTags (l : Nat) (v : Launch) (s : State) : (setLaunch l v s).memTags = s.memTags := rfl
@[simp] theorem setLaunch_memEmpty (l : Nat) (v : Launch) (s : State) : (setLaunch l v s).memEmpty = s.memEmpty := rfl
@[simp] theorem setLaunch_memErr (l : Nat) (v : Launch) (s : State) : (setLaunch l v s).memErr = s.memErr := rfl
@[simp] theorem setLaunch_memKey (l : Nat) (v : Launch) (s : State) : (setLaunch l v s).memKey = s.memKey := rfl
@[simp] theorem setLaunch_spad (l : Nat) (v : Launch) (s : State) : (setLaunch l v s).spad = s.spad := rfl
@[simp] theorem setLaunch_spadEmpty (l : Nat) (v : Launch) (s : State) : (setLaunch l v s).spadEmpty = s.spadEmpty := rfl
@[simp] theorem setLaunch_spadErr (l : Nat) (v : Launch) (s : State) : (setLaunch l v s).spadErr = s.spadErr := rfl
@[simp] theorem setLaunch_lineErr (l : Nat) (v : Launch) (s : State) : (setLaunch l v s).lineErr = s.lineErr := rfl
@[simp] theorem setLaunch_shadow (l : Nat) (v : Launch) (s : State) : (setLaunch l v s).shadow = s.shadow := rfl
@[simp] theorem setLaunch_cores (l : Nat) (v : Launch) (s : State) : (setLaunch l v s).cores = s.cores := rfl
@[simp] theorem setLaunch_quads (l : Nat) (v : Launch) (s : State) : (setLaunch l v s).quads = s.quads := rfl
@[simp] theorem setLaunch_halls (l : Nat) (v : Launch) (s : State) : (setLaunch l v s).halls = s.halls := rfl
@[simp] theorem setLaunch_fns (l : Nat) (v : Launch) (s : State) : (setLaunch l v s).fns = s.fns := rfl
@[simp] theorem setLaunch_strands (l : Nat) (v : Launch) (s : State) : (setLaunch l v s).strands = s.strands := rfl
@[simp] theorem setLaunch_lines (l : Nat) (v : Launch) (s : State) : (setLaunch l v s).lines = s.lines := rfl
@[simp] theorem setLaunch_streams (l : Nat) (v : Launch) (s : State) : (setLaunch l v s).streams = s.streams := rfl
@[simp] theorem setLaunch_launches (l : Nat) (v : Launch) (s : State) : (setLaunch l v s).launches = tput s.launches l v := rfl
@[simp] theorem setLaunch_queues (l : Nat) (v : Launch) (s : State) : (setLaunch l v s).queues = s.queues := rfl
@[simp] theorem setLaunch_barriers (l : Nat) (v : Launch) (s : State) : (setLaunch l v s).barriers = s.barriers := rfl
@[simp] theorem setLaunch_parts (l : Nat) (v : Launch) (s : State) : (setLaunch l v s).parts = s.parts := rfl
@[simp] theorem setLaunch_circs (l : Nat) (v : Launch) (s : State) : (setLaunch l v s).circs = s.circs := rfl
@[simp] theorem setLaunch_banks (l : Nat) (v : Launch) (s : State) : (setLaunch l v s).banks = s.banks := rfl
@[simp] theorem setLaunch_entries (l : Nat) (v : Launch) (s : State) : (setLaunch l v s).entries = s.entries := rfl
@[simp] theorem setLaunch_floor (l : Nat) (v : Launch) (s : State) : (setLaunch l v s).floor = s.floor := rfl
@[simp] theorem setLaunch_owned (l : Nat) (v : Launch) (s : State) : (setLaunch l v s).owned = s.owned := rfl
@[simp] theorem setLaunch_flits (l : Nat) (v : Launch) (s : State) : (setLaunch l v s).flits = s.flits := rfl
@[simp] theorem setLaunch_reqs (l : Nat) (v : Launch) (s : State) : (setLaunch l v s).reqs = s.reqs := rfl
@[simp] theorem setLaunch_tmsgs (l : Nat) (v : Launch) (s : State) : (setLaunch l v s).tmsgs = s.tmsgs := rfl
@[simp] theorem setLaunch_walks (l : Nat) (v : Launch) (s : State) : (setLaunch l v s).walks = s.walks := rfl
@[simp] theorem setLaunch_drops (l : Nat) (v : Launch) (s : State) : (setLaunch l v s).drops = s.drops := rfl
@[simp] theorem setLaunch_ports (l : Nat) (v : Launch) (s : State) : (setLaunch l v s).ports = s.ports := rfl
@[simp] theorem setLaunch_peerMax (l : Nat) (v : Launch) (s : State) : (setLaunch l v s).peerMax = s.peerMax := rfl
@[simp] theorem setLaunch_islands (l : Nat) (v : Launch) (s : State) : (setLaunch l v s).islands = s.islands := rfl
@[simp] theorem setLaunch_newel (l : Nat) (v : Launch) (s : State) : (setLaunch l v s).newel = s.newel := rfl
@[simp] theorem setLaunch_moves (l : Nat) (v : Launch) (s : State) : (setLaunch l v s).moves = s.moves := rfl
@[simp] theorem setLaunch_lastMove (l : Nat) (v : Launch) (s : State) : (setLaunch l v s).lastMove = s.lastMove := rfl
@[simp] theorem setLaunch_snap (l : Nat) (v : Launch) (s : State) : (setLaunch l v s).snap = s.snap := rfl
@[simp] theorem setLaunch_zeroing (l : Nat) (v : Launch) (s : State) : (setLaunch l v s).zeroing = s.zeroing := rfl
@[simp] theorem setLaunch_outbox (l : Nat) (v : Launch) (s : State) : (setLaunch l v s).outbox = s.outbox := rfl
@[simp] theorem setLaunch_nextId (l : Nat) (v : Launch) (s : State) : (setLaunch l v s).nextId = s.nextId := rfl
@[simp] theorem setLaunch_fresh (l : Nat) (v : Launch) (s : State) : (setLaunch l v s).fresh = s.fresh := rfl
@[simp] theorem setLaunch_meter (l : Nat) (v : Launch) (s : State) : (setLaunch l v s).meter = s.meter := rfl

/-! ### setStream -/

@[simp] theorem setStream_wheel (k q : Nat) (v : Stream) (s : State) : (setStream k q v s).wheel = s.wheel := rfl
@[simp] theorem setStream_agenda (k q : Nat) (v : Stream) (s : State) : (setStream k q v s).agenda = s.agenda := rfl
@[simp] theorem setStream_ev (k q : Nat) (v : Stream) (s : State) : (setStream k q v s).ev = s.ev := rfl
@[simp] theorem setStream_issue (k q : Nat) (v : Stream) (s : State) : (setStream k q v s).issue = s.issue := rfl
@[simp] theorem setStream_phase (k q : Nat) (v : Stream) (s : State) : (setStream k q v s).phase = s.phase := rfl
@[simp] theorem setStream_power (k q : Nat) (v : Stream) (s : State) : (setStream k q v s).power = s.power := rfl
@[simp] theorem setStream_ctl (k q : Nat) (v : Stream) (s : State) : (setStream k q v s).ctl = s.ctl := rfl
@[simp] theorem setStream_mw0 (k q : Nat) (v : Stream) (s : State) : (setStream k q v s).mw0 = s.mw0 := rfl
@[simp] theorem setStream_mem (k q : Nat) (v : Stream) (s : State) : (setStream k q v s).mem = s.mem := rfl
@[simp] theorem setStream_memTags (k q : Nat) (v : Stream) (s : State) : (setStream k q v s).memTags = s.memTags := rfl
@[simp] theorem setStream_memEmpty (k q : Nat) (v : Stream) (s : State) : (setStream k q v s).memEmpty = s.memEmpty := rfl
@[simp] theorem setStream_memErr (k q : Nat) (v : Stream) (s : State) : (setStream k q v s).memErr = s.memErr := rfl
@[simp] theorem setStream_memKey (k q : Nat) (v : Stream) (s : State) : (setStream k q v s).memKey = s.memKey := rfl
@[simp] theorem setStream_spad (k q : Nat) (v : Stream) (s : State) : (setStream k q v s).spad = s.spad := rfl
@[simp] theorem setStream_spadEmpty (k q : Nat) (v : Stream) (s : State) : (setStream k q v s).spadEmpty = s.spadEmpty := rfl
@[simp] theorem setStream_spadErr (k q : Nat) (v : Stream) (s : State) : (setStream k q v s).spadErr = s.spadErr := rfl
@[simp] theorem setStream_lineErr (k q : Nat) (v : Stream) (s : State) : (setStream k q v s).lineErr = s.lineErr := rfl
@[simp] theorem setStream_shadow (k q : Nat) (v : Stream) (s : State) : (setStream k q v s).shadow = s.shadow := rfl
@[simp] theorem setStream_cores (k q : Nat) (v : Stream) (s : State) : (setStream k q v s).cores = s.cores := rfl
@[simp] theorem setStream_quads (k q : Nat) (v : Stream) (s : State) : (setStream k q v s).quads = s.quads := rfl
@[simp] theorem setStream_halls (k q : Nat) (v : Stream) (s : State) : (setStream k q v s).halls = s.halls := rfl
@[simp] theorem setStream_fns (k q : Nat) (v : Stream) (s : State) : (setStream k q v s).fns = s.fns := rfl
@[simp] theorem setStream_strands (k q : Nat) (v : Stream) (s : State) : (setStream k q v s).strands = s.strands := rfl
@[simp] theorem setStream_lines (k q : Nat) (v : Stream) (s : State) : (setStream k q v s).lines = s.lines := rfl
@[simp] theorem setStream_streams (k q : Nat) (v : Stream) (s : State) : (setStream k q v s).streams = tput s.streams (streamKey k q) v := rfl
@[simp] theorem setStream_launches (k q : Nat) (v : Stream) (s : State) : (setStream k q v s).launches = s.launches := rfl
@[simp] theorem setStream_queues (k q : Nat) (v : Stream) (s : State) : (setStream k q v s).queues = s.queues := rfl
@[simp] theorem setStream_barriers (k q : Nat) (v : Stream) (s : State) : (setStream k q v s).barriers = s.barriers := rfl
@[simp] theorem setStream_parts (k q : Nat) (v : Stream) (s : State) : (setStream k q v s).parts = s.parts := rfl
@[simp] theorem setStream_circs (k q : Nat) (v : Stream) (s : State) : (setStream k q v s).circs = s.circs := rfl
@[simp] theorem setStream_banks (k q : Nat) (v : Stream) (s : State) : (setStream k q v s).banks = s.banks := rfl
@[simp] theorem setStream_entries (k q : Nat) (v : Stream) (s : State) : (setStream k q v s).entries = s.entries := rfl
@[simp] theorem setStream_floor (k q : Nat) (v : Stream) (s : State) : (setStream k q v s).floor = s.floor := rfl
@[simp] theorem setStream_owned (k q : Nat) (v : Stream) (s : State) : (setStream k q v s).owned = s.owned := rfl
@[simp] theorem setStream_flits (k q : Nat) (v : Stream) (s : State) : (setStream k q v s).flits = s.flits := rfl
@[simp] theorem setStream_reqs (k q : Nat) (v : Stream) (s : State) : (setStream k q v s).reqs = s.reqs := rfl
@[simp] theorem setStream_tmsgs (k q : Nat) (v : Stream) (s : State) : (setStream k q v s).tmsgs = s.tmsgs := rfl
@[simp] theorem setStream_walks (k q : Nat) (v : Stream) (s : State) : (setStream k q v s).walks = s.walks := rfl
@[simp] theorem setStream_drops (k q : Nat) (v : Stream) (s : State) : (setStream k q v s).drops = s.drops := rfl
@[simp] theorem setStream_ports (k q : Nat) (v : Stream) (s : State) : (setStream k q v s).ports = s.ports := rfl
@[simp] theorem setStream_peerMax (k q : Nat) (v : Stream) (s : State) : (setStream k q v s).peerMax = s.peerMax := rfl
@[simp] theorem setStream_islands (k q : Nat) (v : Stream) (s : State) : (setStream k q v s).islands = s.islands := rfl
@[simp] theorem setStream_newel (k q : Nat) (v : Stream) (s : State) : (setStream k q v s).newel = s.newel := rfl
@[simp] theorem setStream_moves (k q : Nat) (v : Stream) (s : State) : (setStream k q v s).moves = s.moves := rfl
@[simp] theorem setStream_lastMove (k q : Nat) (v : Stream) (s : State) : (setStream k q v s).lastMove = s.lastMove := rfl
@[simp] theorem setStream_snap (k q : Nat) (v : Stream) (s : State) : (setStream k q v s).snap = s.snap := rfl
@[simp] theorem setStream_zeroing (k q : Nat) (v : Stream) (s : State) : (setStream k q v s).zeroing = s.zeroing := rfl
@[simp] theorem setStream_outbox (k q : Nat) (v : Stream) (s : State) : (setStream k q v s).outbox = s.outbox := rfl
@[simp] theorem setStream_nextId (k q : Nat) (v : Stream) (s : State) : (setStream k q v s).nextId = s.nextId := rfl
@[simp] theorem setStream_fresh (k q : Nat) (v : Stream) (s : State) : (setStream k q v s).fresh = s.fresh := rfl
@[simp] theorem setStream_meter (k q : Nat) (v : Stream) (s : State) : (setStream k q v s).meter = s.meter := rfl

/-! ### setBank -/

@[simp] theorem setBank_wheel (b : Nat) (v : Bank) (s : State) : (setBank b v s).wheel = s.wheel := rfl
@[simp] theorem setBank_agenda (b : Nat) (v : Bank) (s : State) : (setBank b v s).agenda = s.agenda := rfl
@[simp] theorem setBank_ev (b : Nat) (v : Bank) (s : State) : (setBank b v s).ev = s.ev := rfl
@[simp] theorem setBank_issue (b : Nat) (v : Bank) (s : State) : (setBank b v s).issue = s.issue := rfl
@[simp] theorem setBank_phase (b : Nat) (v : Bank) (s : State) : (setBank b v s).phase = s.phase := rfl
@[simp] theorem setBank_power (b : Nat) (v : Bank) (s : State) : (setBank b v s).power = s.power := rfl
@[simp] theorem setBank_ctl (b : Nat) (v : Bank) (s : State) : (setBank b v s).ctl = s.ctl := rfl
@[simp] theorem setBank_mw0 (b : Nat) (v : Bank) (s : State) : (setBank b v s).mw0 = s.mw0 := rfl
@[simp] theorem setBank_mem (b : Nat) (v : Bank) (s : State) : (setBank b v s).mem = s.mem := rfl
@[simp] theorem setBank_memTags (b : Nat) (v : Bank) (s : State) : (setBank b v s).memTags = s.memTags := rfl
@[simp] theorem setBank_memEmpty (b : Nat) (v : Bank) (s : State) : (setBank b v s).memEmpty = s.memEmpty := rfl
@[simp] theorem setBank_memErr (b : Nat) (v : Bank) (s : State) : (setBank b v s).memErr = s.memErr := rfl
@[simp] theorem setBank_memKey (b : Nat) (v : Bank) (s : State) : (setBank b v s).memKey = s.memKey := rfl
@[simp] theorem setBank_spad (b : Nat) (v : Bank) (s : State) : (setBank b v s).spad = s.spad := rfl
@[simp] theorem setBank_spadEmpty (b : Nat) (v : Bank) (s : State) : (setBank b v s).spadEmpty = s.spadEmpty := rfl
@[simp] theorem setBank_spadErr (b : Nat) (v : Bank) (s : State) : (setBank b v s).spadErr = s.spadErr := rfl
@[simp] theorem setBank_lineErr (b : Nat) (v : Bank) (s : State) : (setBank b v s).lineErr = s.lineErr := rfl
@[simp] theorem setBank_shadow (b : Nat) (v : Bank) (s : State) : (setBank b v s).shadow = s.shadow := rfl
@[simp] theorem setBank_cores (b : Nat) (v : Bank) (s : State) : (setBank b v s).cores = s.cores := rfl
@[simp] theorem setBank_quads (b : Nat) (v : Bank) (s : State) : (setBank b v s).quads = s.quads := rfl
@[simp] theorem setBank_halls (b : Nat) (v : Bank) (s : State) : (setBank b v s).halls = s.halls := rfl
@[simp] theorem setBank_fns (b : Nat) (v : Bank) (s : State) : (setBank b v s).fns = s.fns := rfl
@[simp] theorem setBank_strands (b : Nat) (v : Bank) (s : State) : (setBank b v s).strands = s.strands := rfl
@[simp] theorem setBank_lines (b : Nat) (v : Bank) (s : State) : (setBank b v s).lines = s.lines := rfl
@[simp] theorem setBank_streams (b : Nat) (v : Bank) (s : State) : (setBank b v s).streams = s.streams := rfl
@[simp] theorem setBank_launches (b : Nat) (v : Bank) (s : State) : (setBank b v s).launches = s.launches := rfl
@[simp] theorem setBank_queues (b : Nat) (v : Bank) (s : State) : (setBank b v s).queues = s.queues := rfl
@[simp] theorem setBank_barriers (b : Nat) (v : Bank) (s : State) : (setBank b v s).barriers = s.barriers := rfl
@[simp] theorem setBank_parts (b : Nat) (v : Bank) (s : State) : (setBank b v s).parts = s.parts := rfl
@[simp] theorem setBank_circs (b : Nat) (v : Bank) (s : State) : (setBank b v s).circs = s.circs := rfl
@[simp] theorem setBank_banks (b : Nat) (v : Bank) (s : State) : (setBank b v s).banks = tput s.banks b v := rfl
@[simp] theorem setBank_entries (b : Nat) (v : Bank) (s : State) : (setBank b v s).entries = s.entries := rfl
@[simp] theorem setBank_floor (b : Nat) (v : Bank) (s : State) : (setBank b v s).floor = s.floor := rfl
@[simp] theorem setBank_owned (b : Nat) (v : Bank) (s : State) : (setBank b v s).owned = s.owned := rfl
@[simp] theorem setBank_flits (b : Nat) (v : Bank) (s : State) : (setBank b v s).flits = s.flits := rfl
@[simp] theorem setBank_reqs (b : Nat) (v : Bank) (s : State) : (setBank b v s).reqs = s.reqs := rfl
@[simp] theorem setBank_tmsgs (b : Nat) (v : Bank) (s : State) : (setBank b v s).tmsgs = s.tmsgs := rfl
@[simp] theorem setBank_walks (b : Nat) (v : Bank) (s : State) : (setBank b v s).walks = s.walks := rfl
@[simp] theorem setBank_drops (b : Nat) (v : Bank) (s : State) : (setBank b v s).drops = s.drops := rfl
@[simp] theorem setBank_ports (b : Nat) (v : Bank) (s : State) : (setBank b v s).ports = s.ports := rfl
@[simp] theorem setBank_peerMax (b : Nat) (v : Bank) (s : State) : (setBank b v s).peerMax = s.peerMax := rfl
@[simp] theorem setBank_islands (b : Nat) (v : Bank) (s : State) : (setBank b v s).islands = s.islands := rfl
@[simp] theorem setBank_newel (b : Nat) (v : Bank) (s : State) : (setBank b v s).newel = s.newel := rfl
@[simp] theorem setBank_moves (b : Nat) (v : Bank) (s : State) : (setBank b v s).moves = s.moves := rfl
@[simp] theorem setBank_lastMove (b : Nat) (v : Bank) (s : State) : (setBank b v s).lastMove = s.lastMove := rfl
@[simp] theorem setBank_snap (b : Nat) (v : Bank) (s : State) : (setBank b v s).snap = s.snap := rfl
@[simp] theorem setBank_zeroing (b : Nat) (v : Bank) (s : State) : (setBank b v s).zeroing = s.zeroing := rfl
@[simp] theorem setBank_outbox (b : Nat) (v : Bank) (s : State) : (setBank b v s).outbox = s.outbox := rfl
@[simp] theorem setBank_nextId (b : Nat) (v : Bank) (s : State) : (setBank b v s).nextId = s.nextId := rfl
@[simp] theorem setBank_fresh (b : Nat) (v : Bank) (s : State) : (setBank b v s).fresh = s.fresh := rfl
@[simp] theorem setBank_meter (b : Nat) (v : Bank) (s : State) : (setBank b v s).meter = s.meter := rfl

/-! ### setReq -/

@[simp] theorem setReq_wheel (n : Nat) (v : Req) (s : State) : (setReq n v s).wheel = s.wheel := rfl
@[simp] theorem setReq_agenda (n : Nat) (v : Req) (s : State) : (setReq n v s).agenda = s.agenda := rfl
@[simp] theorem setReq_ev (n : Nat) (v : Req) (s : State) : (setReq n v s).ev = s.ev := rfl
@[simp] theorem setReq_issue (n : Nat) (v : Req) (s : State) : (setReq n v s).issue = s.issue := rfl
@[simp] theorem setReq_phase (n : Nat) (v : Req) (s : State) : (setReq n v s).phase = s.phase := rfl
@[simp] theorem setReq_power (n : Nat) (v : Req) (s : State) : (setReq n v s).power = s.power := rfl
@[simp] theorem setReq_ctl (n : Nat) (v : Req) (s : State) : (setReq n v s).ctl = s.ctl := rfl
@[simp] theorem setReq_mw0 (n : Nat) (v : Req) (s : State) : (setReq n v s).mw0 = s.mw0 := rfl
@[simp] theorem setReq_mem (n : Nat) (v : Req) (s : State) : (setReq n v s).mem = s.mem := rfl
@[simp] theorem setReq_memTags (n : Nat) (v : Req) (s : State) : (setReq n v s).memTags = s.memTags := rfl
@[simp] theorem setReq_memEmpty (n : Nat) (v : Req) (s : State) : (setReq n v s).memEmpty = s.memEmpty := rfl
@[simp] theorem setReq_memErr (n : Nat) (v : Req) (s : State) : (setReq n v s).memErr = s.memErr := rfl
@[simp] theorem setReq_memKey (n : Nat) (v : Req) (s : State) : (setReq n v s).memKey = s.memKey := rfl
@[simp] theorem setReq_spad (n : Nat) (v : Req) (s : State) : (setReq n v s).spad = s.spad := rfl
@[simp] theorem setReq_spadEmpty (n : Nat) (v : Req) (s : State) : (setReq n v s).spadEmpty = s.spadEmpty := rfl
@[simp] theorem setReq_spadErr (n : Nat) (v : Req) (s : State) : (setReq n v s).spadErr = s.spadErr := rfl
@[simp] theorem setReq_lineErr (n : Nat) (v : Req) (s : State) : (setReq n v s).lineErr = s.lineErr := rfl
@[simp] theorem setReq_shadow (n : Nat) (v : Req) (s : State) : (setReq n v s).shadow = s.shadow := rfl
@[simp] theorem setReq_cores (n : Nat) (v : Req) (s : State) : (setReq n v s).cores = s.cores := rfl
@[simp] theorem setReq_quads (n : Nat) (v : Req) (s : State) : (setReq n v s).quads = s.quads := rfl
@[simp] theorem setReq_halls (n : Nat) (v : Req) (s : State) : (setReq n v s).halls = s.halls := rfl
@[simp] theorem setReq_fns (n : Nat) (v : Req) (s : State) : (setReq n v s).fns = s.fns := rfl
@[simp] theorem setReq_strands (n : Nat) (v : Req) (s : State) : (setReq n v s).strands = s.strands := rfl
@[simp] theorem setReq_lines (n : Nat) (v : Req) (s : State) : (setReq n v s).lines = s.lines := rfl
@[simp] theorem setReq_streams (n : Nat) (v : Req) (s : State) : (setReq n v s).streams = s.streams := rfl
@[simp] theorem setReq_launches (n : Nat) (v : Req) (s : State) : (setReq n v s).launches = s.launches := rfl
@[simp] theorem setReq_queues (n : Nat) (v : Req) (s : State) : (setReq n v s).queues = s.queues := rfl
@[simp] theorem setReq_barriers (n : Nat) (v : Req) (s : State) : (setReq n v s).barriers = s.barriers := rfl
@[simp] theorem setReq_parts (n : Nat) (v : Req) (s : State) : (setReq n v s).parts = s.parts := rfl
@[simp] theorem setReq_circs (n : Nat) (v : Req) (s : State) : (setReq n v s).circs = s.circs := rfl
@[simp] theorem setReq_banks (n : Nat) (v : Req) (s : State) : (setReq n v s).banks = s.banks := rfl
@[simp] theorem setReq_entries (n : Nat) (v : Req) (s : State) : (setReq n v s).entries = s.entries := rfl
@[simp] theorem setReq_floor (n : Nat) (v : Req) (s : State) : (setReq n v s).floor = s.floor := rfl
@[simp] theorem setReq_owned (n : Nat) (v : Req) (s : State) : (setReq n v s).owned = s.owned := rfl
@[simp] theorem setReq_flits (n : Nat) (v : Req) (s : State) : (setReq n v s).flits = s.flits := rfl
@[simp] theorem setReq_reqs (n : Nat) (v : Req) (s : State) : (setReq n v s).reqs = tput s.reqs n v := rfl
@[simp] theorem setReq_tmsgs (n : Nat) (v : Req) (s : State) : (setReq n v s).tmsgs = s.tmsgs := rfl
@[simp] theorem setReq_walks (n : Nat) (v : Req) (s : State) : (setReq n v s).walks = s.walks := rfl
@[simp] theorem setReq_drops (n : Nat) (v : Req) (s : State) : (setReq n v s).drops = s.drops := rfl
@[simp] theorem setReq_ports (n : Nat) (v : Req) (s : State) : (setReq n v s).ports = s.ports := rfl
@[simp] theorem setReq_peerMax (n : Nat) (v : Req) (s : State) : (setReq n v s).peerMax = s.peerMax := rfl
@[simp] theorem setReq_islands (n : Nat) (v : Req) (s : State) : (setReq n v s).islands = s.islands := rfl
@[simp] theorem setReq_newel (n : Nat) (v : Req) (s : State) : (setReq n v s).newel = s.newel := rfl
@[simp] theorem setReq_moves (n : Nat) (v : Req) (s : State) : (setReq n v s).moves = s.moves := rfl
@[simp] theorem setReq_lastMove (n : Nat) (v : Req) (s : State) : (setReq n v s).lastMove = s.lastMove := rfl
@[simp] theorem setReq_snap (n : Nat) (v : Req) (s : State) : (setReq n v s).snap = s.snap := rfl
@[simp] theorem setReq_zeroing (n : Nat) (v : Req) (s : State) : (setReq n v s).zeroing = s.zeroing := rfl
@[simp] theorem setReq_outbox (n : Nat) (v : Req) (s : State) : (setReq n v s).outbox = s.outbox := rfl
@[simp] theorem setReq_nextId (n : Nat) (v : Req) (s : State) : (setReq n v s).nextId = s.nextId := rfl
@[simp] theorem setReq_fresh (n : Nat) (v : Req) (s : State) : (setReq n v s).fresh = s.fresh := rfl
@[simp] theorem setReq_meter (n : Nat) (v : Req) (s : State) : (setReq n v s).meter = s.meter := rfl

/-! ### setCirc -/

@[simp] theorem setCirc_wheel (c : Nat) (v : Circ) (s : State) : (setCirc c v s).wheel = s.wheel := rfl
@[simp] theorem setCirc_agenda (c : Nat) (v : Circ) (s : State) : (setCirc c v s).agenda = s.agenda := rfl
@[simp] theorem setCirc_ev (c : Nat) (v : Circ) (s : State) : (setCirc c v s).ev = s.ev := rfl
@[simp] theorem setCirc_issue (c : Nat) (v : Circ) (s : State) : (setCirc c v s).issue = s.issue := rfl
@[simp] theorem setCirc_phase (c : Nat) (v : Circ) (s : State) : (setCirc c v s).phase = s.phase := rfl
@[simp] theorem setCirc_power (c : Nat) (v : Circ) (s : State) : (setCirc c v s).power = s.power := rfl
@[simp] theorem setCirc_ctl (c : Nat) (v : Circ) (s : State) : (setCirc c v s).ctl = s.ctl := rfl
@[simp] theorem setCirc_mw0 (c : Nat) (v : Circ) (s : State) : (setCirc c v s).mw0 = s.mw0 := rfl
@[simp] theorem setCirc_mem (c : Nat) (v : Circ) (s : State) : (setCirc c v s).mem = s.mem := rfl
@[simp] theorem setCirc_memTags (c : Nat) (v : Circ) (s : State) : (setCirc c v s).memTags = s.memTags := rfl
@[simp] theorem setCirc_memEmpty (c : Nat) (v : Circ) (s : State) : (setCirc c v s).memEmpty = s.memEmpty := rfl
@[simp] theorem setCirc_memErr (c : Nat) (v : Circ) (s : State) : (setCirc c v s).memErr = s.memErr := rfl
@[simp] theorem setCirc_memKey (c : Nat) (v : Circ) (s : State) : (setCirc c v s).memKey = s.memKey := rfl
@[simp] theorem setCirc_spad (c : Nat) (v : Circ) (s : State) : (setCirc c v s).spad = s.spad := rfl
@[simp] theorem setCirc_spadEmpty (c : Nat) (v : Circ) (s : State) : (setCirc c v s).spadEmpty = s.spadEmpty := rfl
@[simp] theorem setCirc_spadErr (c : Nat) (v : Circ) (s : State) : (setCirc c v s).spadErr = s.spadErr := rfl
@[simp] theorem setCirc_lineErr (c : Nat) (v : Circ) (s : State) : (setCirc c v s).lineErr = s.lineErr := rfl
@[simp] theorem setCirc_shadow (c : Nat) (v : Circ) (s : State) : (setCirc c v s).shadow = s.shadow := rfl
@[simp] theorem setCirc_cores (c : Nat) (v : Circ) (s : State) : (setCirc c v s).cores = s.cores := rfl
@[simp] theorem setCirc_quads (c : Nat) (v : Circ) (s : State) : (setCirc c v s).quads = s.quads := rfl
@[simp] theorem setCirc_halls (c : Nat) (v : Circ) (s : State) : (setCirc c v s).halls = s.halls := rfl
@[simp] theorem setCirc_fns (c : Nat) (v : Circ) (s : State) : (setCirc c v s).fns = s.fns := rfl
@[simp] theorem setCirc_strands (c : Nat) (v : Circ) (s : State) : (setCirc c v s).strands = s.strands := rfl
@[simp] theorem setCirc_lines (c : Nat) (v : Circ) (s : State) : (setCirc c v s).lines = s.lines := rfl
@[simp] theorem setCirc_streams (c : Nat) (v : Circ) (s : State) : (setCirc c v s).streams = s.streams := rfl
@[simp] theorem setCirc_launches (c : Nat) (v : Circ) (s : State) : (setCirc c v s).launches = s.launches := rfl
@[simp] theorem setCirc_queues (c : Nat) (v : Circ) (s : State) : (setCirc c v s).queues = s.queues := rfl
@[simp] theorem setCirc_barriers (c : Nat) (v : Circ) (s : State) : (setCirc c v s).barriers = s.barriers := rfl
@[simp] theorem setCirc_parts (c : Nat) (v : Circ) (s : State) : (setCirc c v s).parts = s.parts := rfl
@[simp] theorem setCirc_circs (c : Nat) (v : Circ) (s : State) : (setCirc c v s).circs = tput s.circs c v := rfl
@[simp] theorem setCirc_banks (c : Nat) (v : Circ) (s : State) : (setCirc c v s).banks = s.banks := rfl
@[simp] theorem setCirc_entries (c : Nat) (v : Circ) (s : State) : (setCirc c v s).entries = s.entries := rfl
@[simp] theorem setCirc_floor (c : Nat) (v : Circ) (s : State) : (setCirc c v s).floor = s.floor := rfl
@[simp] theorem setCirc_owned (c : Nat) (v : Circ) (s : State) : (setCirc c v s).owned = s.owned := rfl
@[simp] theorem setCirc_flits (c : Nat) (v : Circ) (s : State) : (setCirc c v s).flits = s.flits := rfl
@[simp] theorem setCirc_reqs (c : Nat) (v : Circ) (s : State) : (setCirc c v s).reqs = s.reqs := rfl
@[simp] theorem setCirc_tmsgs (c : Nat) (v : Circ) (s : State) : (setCirc c v s).tmsgs = s.tmsgs := rfl
@[simp] theorem setCirc_walks (c : Nat) (v : Circ) (s : State) : (setCirc c v s).walks = s.walks := rfl
@[simp] theorem setCirc_drops (c : Nat) (v : Circ) (s : State) : (setCirc c v s).drops = s.drops := rfl
@[simp] theorem setCirc_ports (c : Nat) (v : Circ) (s : State) : (setCirc c v s).ports = s.ports := rfl
@[simp] theorem setCirc_peerMax (c : Nat) (v : Circ) (s : State) : (setCirc c v s).peerMax = s.peerMax := rfl
@[simp] theorem setCirc_islands (c : Nat) (v : Circ) (s : State) : (setCirc c v s).islands = s.islands := rfl
@[simp] theorem setCirc_newel (c : Nat) (v : Circ) (s : State) : (setCirc c v s).newel = s.newel := rfl
@[simp] theorem setCirc_moves (c : Nat) (v : Circ) (s : State) : (setCirc c v s).moves = s.moves := rfl
@[simp] theorem setCirc_lastMove (c : Nat) (v : Circ) (s : State) : (setCirc c v s).lastMove = s.lastMove := rfl
@[simp] theorem setCirc_snap (c : Nat) (v : Circ) (s : State) : (setCirc c v s).snap = s.snap := rfl
@[simp] theorem setCirc_zeroing (c : Nat) (v : Circ) (s : State) : (setCirc c v s).zeroing = s.zeroing := rfl
@[simp] theorem setCirc_outbox (c : Nat) (v : Circ) (s : State) : (setCirc c v s).outbox = s.outbox := rfl
@[simp] theorem setCirc_nextId (c : Nat) (v : Circ) (s : State) : (setCirc c v s).nextId = s.nextId := rfl
@[simp] theorem setCirc_fresh (c : Nat) (v : Circ) (s : State) : (setCirc c v s).fresh = s.fresh := rfl
@[simp] theorem setCirc_meter (c : Nat) (v : Circ) (s : State) : (setCirc c v s).meter = s.meter := rfl

/-! ### putFlit -/

@[simp] theorem putFlit_wheel (n : Nat) (v : Flit) (s : State) : (putFlit n v s).wheel = s.wheel := rfl
@[simp] theorem putFlit_agenda (n : Nat) (v : Flit) (s : State) : (putFlit n v s).agenda = s.agenda := rfl
@[simp] theorem putFlit_ev (n : Nat) (v : Flit) (s : State) : (putFlit n v s).ev = s.ev := rfl
@[simp] theorem putFlit_issue (n : Nat) (v : Flit) (s : State) : (putFlit n v s).issue = s.issue := rfl
@[simp] theorem putFlit_phase (n : Nat) (v : Flit) (s : State) : (putFlit n v s).phase = s.phase := rfl
@[simp] theorem putFlit_power (n : Nat) (v : Flit) (s : State) : (putFlit n v s).power = s.power := rfl
@[simp] theorem putFlit_ctl (n : Nat) (v : Flit) (s : State) : (putFlit n v s).ctl = s.ctl := rfl
@[simp] theorem putFlit_mw0 (n : Nat) (v : Flit) (s : State) : (putFlit n v s).mw0 = s.mw0 := rfl
@[simp] theorem putFlit_mem (n : Nat) (v : Flit) (s : State) : (putFlit n v s).mem = s.mem := rfl
@[simp] theorem putFlit_memTags (n : Nat) (v : Flit) (s : State) : (putFlit n v s).memTags = s.memTags := rfl
@[simp] theorem putFlit_memEmpty (n : Nat) (v : Flit) (s : State) : (putFlit n v s).memEmpty = s.memEmpty := rfl
@[simp] theorem putFlit_memErr (n : Nat) (v : Flit) (s : State) : (putFlit n v s).memErr = s.memErr := rfl
@[simp] theorem putFlit_memKey (n : Nat) (v : Flit) (s : State) : (putFlit n v s).memKey = s.memKey := rfl
@[simp] theorem putFlit_spad (n : Nat) (v : Flit) (s : State) : (putFlit n v s).spad = s.spad := rfl
@[simp] theorem putFlit_spadEmpty (n : Nat) (v : Flit) (s : State) : (putFlit n v s).spadEmpty = s.spadEmpty := rfl
@[simp] theorem putFlit_spadErr (n : Nat) (v : Flit) (s : State) : (putFlit n v s).spadErr = s.spadErr := rfl
@[simp] theorem putFlit_lineErr (n : Nat) (v : Flit) (s : State) : (putFlit n v s).lineErr = s.lineErr := rfl
@[simp] theorem putFlit_shadow (n : Nat) (v : Flit) (s : State) : (putFlit n v s).shadow = s.shadow := rfl
@[simp] theorem putFlit_cores (n : Nat) (v : Flit) (s : State) : (putFlit n v s).cores = s.cores := rfl
@[simp] theorem putFlit_quads (n : Nat) (v : Flit) (s : State) : (putFlit n v s).quads = s.quads := rfl
@[simp] theorem putFlit_halls (n : Nat) (v : Flit) (s : State) : (putFlit n v s).halls = s.halls := rfl
@[simp] theorem putFlit_fns (n : Nat) (v : Flit) (s : State) : (putFlit n v s).fns = s.fns := rfl
@[simp] theorem putFlit_strands (n : Nat) (v : Flit) (s : State) : (putFlit n v s).strands = s.strands := rfl
@[simp] theorem putFlit_lines (n : Nat) (v : Flit) (s : State) : (putFlit n v s).lines = s.lines := rfl
@[simp] theorem putFlit_streams (n : Nat) (v : Flit) (s : State) : (putFlit n v s).streams = s.streams := rfl
@[simp] theorem putFlit_launches (n : Nat) (v : Flit) (s : State) : (putFlit n v s).launches = s.launches := rfl
@[simp] theorem putFlit_queues (n : Nat) (v : Flit) (s : State) : (putFlit n v s).queues = s.queues := rfl
@[simp] theorem putFlit_barriers (n : Nat) (v : Flit) (s : State) : (putFlit n v s).barriers = s.barriers := rfl
@[simp] theorem putFlit_parts (n : Nat) (v : Flit) (s : State) : (putFlit n v s).parts = s.parts := rfl
@[simp] theorem putFlit_circs (n : Nat) (v : Flit) (s : State) : (putFlit n v s).circs = s.circs := rfl
@[simp] theorem putFlit_banks (n : Nat) (v : Flit) (s : State) : (putFlit n v s).banks = s.banks := rfl
@[simp] theorem putFlit_entries (n : Nat) (v : Flit) (s : State) : (putFlit n v s).entries = s.entries := rfl
@[simp] theorem putFlit_floor (n : Nat) (v : Flit) (s : State) : (putFlit n v s).floor = s.floor := rfl
@[simp] theorem putFlit_owned (n : Nat) (v : Flit) (s : State) : (putFlit n v s).owned = s.owned := rfl
@[simp] theorem putFlit_flits (n : Nat) (v : Flit) (s : State) : (putFlit n v s).flits = tput s.flits n v := rfl
@[simp] theorem putFlit_reqs (n : Nat) (v : Flit) (s : State) : (putFlit n v s).reqs = s.reqs := rfl
@[simp] theorem putFlit_tmsgs (n : Nat) (v : Flit) (s : State) : (putFlit n v s).tmsgs = s.tmsgs := rfl
@[simp] theorem putFlit_walks (n : Nat) (v : Flit) (s : State) : (putFlit n v s).walks = s.walks := rfl
@[simp] theorem putFlit_drops (n : Nat) (v : Flit) (s : State) : (putFlit n v s).drops = s.drops := rfl
@[simp] theorem putFlit_ports (n : Nat) (v : Flit) (s : State) : (putFlit n v s).ports = s.ports := rfl
@[simp] theorem putFlit_peerMax (n : Nat) (v : Flit) (s : State) : (putFlit n v s).peerMax = s.peerMax := rfl
@[simp] theorem putFlit_islands (n : Nat) (v : Flit) (s : State) : (putFlit n v s).islands = s.islands := rfl
@[simp] theorem putFlit_newel (n : Nat) (v : Flit) (s : State) : (putFlit n v s).newel = s.newel := rfl
@[simp] theorem putFlit_moves (n : Nat) (v : Flit) (s : State) : (putFlit n v s).moves = s.moves := rfl
@[simp] theorem putFlit_lastMove (n : Nat) (v : Flit) (s : State) : (putFlit n v s).lastMove = s.lastMove := rfl
@[simp] theorem putFlit_snap (n : Nat) (v : Flit) (s : State) : (putFlit n v s).snap = s.snap := rfl
@[simp] theorem putFlit_zeroing (n : Nat) (v : Flit) (s : State) : (putFlit n v s).zeroing = s.zeroing := rfl
@[simp] theorem putFlit_outbox (n : Nat) (v : Flit) (s : State) : (putFlit n v s).outbox = s.outbox := rfl
@[simp] theorem putFlit_nextId (n : Nat) (v : Flit) (s : State) : (putFlit n v s).nextId = s.nextId := rfl
@[simp] theorem putFlit_fresh (n : Nat) (v : Flit) (s : State) : (putFlit n v s).fresh = s.fresh := rfl
@[simp] theorem putFlit_meter (n : Nat) (v : Flit) (s : State) : (putFlit n v s).meter = s.meter := rfl

/-! ### setLine -/

@[simp] theorem setLine_wheel (key : Nat) (v : Line) (s : State) : (setLine key v s).wheel = s.wheel := rfl
@[simp] theorem setLine_agenda (key : Nat) (v : Line) (s : State) : (setLine key v s).agenda = s.agenda := rfl
@[simp] theorem setLine_ev (key : Nat) (v : Line) (s : State) : (setLine key v s).ev = s.ev := rfl
@[simp] theorem setLine_issue (key : Nat) (v : Line) (s : State) : (setLine key v s).issue = s.issue := rfl
@[simp] theorem setLine_phase (key : Nat) (v : Line) (s : State) : (setLine key v s).phase = s.phase := rfl
@[simp] theorem setLine_power (key : Nat) (v : Line) (s : State) : (setLine key v s).power = s.power := rfl
@[simp] theorem setLine_ctl (key : Nat) (v : Line) (s : State) : (setLine key v s).ctl = s.ctl := rfl
@[simp] theorem setLine_mw0 (key : Nat) (v : Line) (s : State) : (setLine key v s).mw0 = s.mw0 := rfl
@[simp] theorem setLine_mem (key : Nat) (v : Line) (s : State) : (setLine key v s).mem = s.mem := rfl
@[simp] theorem setLine_memTags (key : Nat) (v : Line) (s : State) : (setLine key v s).memTags = s.memTags := rfl
@[simp] theorem setLine_memEmpty (key : Nat) (v : Line) (s : State) : (setLine key v s).memEmpty = s.memEmpty := rfl
@[simp] theorem setLine_memErr (key : Nat) (v : Line) (s : State) : (setLine key v s).memErr = s.memErr := rfl
@[simp] theorem setLine_memKey (key : Nat) (v : Line) (s : State) : (setLine key v s).memKey = s.memKey := rfl
@[simp] theorem setLine_spad (key : Nat) (v : Line) (s : State) : (setLine key v s).spad = s.spad := rfl
@[simp] theorem setLine_spadEmpty (key : Nat) (v : Line) (s : State) : (setLine key v s).spadEmpty = s.spadEmpty := rfl
@[simp] theorem setLine_spadErr (key : Nat) (v : Line) (s : State) : (setLine key v s).spadErr = s.spadErr := rfl
@[simp] theorem setLine_lineErr (key : Nat) (v : Line) (s : State) : (setLine key v s).lineErr = s.lineErr := rfl
@[simp] theorem setLine_shadow (key : Nat) (v : Line) (s : State) : (setLine key v s).shadow = s.shadow := rfl
@[simp] theorem setLine_cores (key : Nat) (v : Line) (s : State) : (setLine key v s).cores = s.cores := rfl
@[simp] theorem setLine_quads (key : Nat) (v : Line) (s : State) : (setLine key v s).quads = s.quads := rfl
@[simp] theorem setLine_halls (key : Nat) (v : Line) (s : State) : (setLine key v s).halls = s.halls := rfl
@[simp] theorem setLine_fns (key : Nat) (v : Line) (s : State) : (setLine key v s).fns = s.fns := rfl
@[simp] theorem setLine_strands (key : Nat) (v : Line) (s : State) : (setLine key v s).strands = s.strands := rfl
@[simp] theorem setLine_lines (key : Nat) (v : Line) (s : State) : (setLine key v s).lines = tput s.lines key v := rfl
@[simp] theorem setLine_streams (key : Nat) (v : Line) (s : State) : (setLine key v s).streams = s.streams := rfl
@[simp] theorem setLine_launches (key : Nat) (v : Line) (s : State) : (setLine key v s).launches = s.launches := rfl
@[simp] theorem setLine_queues (key : Nat) (v : Line) (s : State) : (setLine key v s).queues = s.queues := rfl
@[simp] theorem setLine_barriers (key : Nat) (v : Line) (s : State) : (setLine key v s).barriers = s.barriers := rfl
@[simp] theorem setLine_parts (key : Nat) (v : Line) (s : State) : (setLine key v s).parts = s.parts := rfl
@[simp] theorem setLine_circs (key : Nat) (v : Line) (s : State) : (setLine key v s).circs = s.circs := rfl
@[simp] theorem setLine_banks (key : Nat) (v : Line) (s : State) : (setLine key v s).banks = s.banks := rfl
@[simp] theorem setLine_entries (key : Nat) (v : Line) (s : State) : (setLine key v s).entries = s.entries := rfl
@[simp] theorem setLine_floor (key : Nat) (v : Line) (s : State) : (setLine key v s).floor = s.floor := rfl
@[simp] theorem setLine_owned (key : Nat) (v : Line) (s : State) : (setLine key v s).owned = s.owned := rfl
@[simp] theorem setLine_flits (key : Nat) (v : Line) (s : State) : (setLine key v s).flits = s.flits := rfl
@[simp] theorem setLine_reqs (key : Nat) (v : Line) (s : State) : (setLine key v s).reqs = s.reqs := rfl
@[simp] theorem setLine_tmsgs (key : Nat) (v : Line) (s : State) : (setLine key v s).tmsgs = s.tmsgs := rfl
@[simp] theorem setLine_walks (key : Nat) (v : Line) (s : State) : (setLine key v s).walks = s.walks := rfl
@[simp] theorem setLine_drops (key : Nat) (v : Line) (s : State) : (setLine key v s).drops = s.drops := rfl
@[simp] theorem setLine_ports (key : Nat) (v : Line) (s : State) : (setLine key v s).ports = s.ports := rfl
@[simp] theorem setLine_peerMax (key : Nat) (v : Line) (s : State) : (setLine key v s).peerMax = s.peerMax := rfl
@[simp] theorem setLine_islands (key : Nat) (v : Line) (s : State) : (setLine key v s).islands = s.islands := rfl
@[simp] theorem setLine_newel (key : Nat) (v : Line) (s : State) : (setLine key v s).newel = s.newel := rfl
@[simp] theorem setLine_moves (key : Nat) (v : Line) (s : State) : (setLine key v s).moves = s.moves := rfl
@[simp] theorem setLine_lastMove (key : Nat) (v : Line) (s : State) : (setLine key v s).lastMove = s.lastMove := rfl
@[simp] theorem setLine_snap (key : Nat) (v : Line) (s : State) : (setLine key v s).snap = s.snap := rfl
@[simp] theorem setLine_zeroing (key : Nat) (v : Line) (s : State) : (setLine key v s).zeroing = s.zeroing := rfl
@[simp] theorem setLine_outbox (key : Nat) (v : Line) (s : State) : (setLine key v s).outbox = s.outbox := rfl
@[simp] theorem setLine_nextId (key : Nat) (v : Line) (s : State) : (setLine key v s).nextId = s.nextId := rfl
@[simp] theorem setLine_fresh (key : Nat) (v : Line) (s : State) : (setLine key v s).fresh = s.fresh := rfl
@[simp] theorem setLine_meter (key : Nat) (v : Line) (s : State) : (setLine key v s).meter = s.meter := rfl

/-! ### setReg -/

@[simp] theorem setReg_wheel (vf : BitVec 7) (o : Nat) (v : Word) (s : State) : (setReg vf o v s).wheel = s.wheel := rfl
@[simp] theorem setReg_agenda (vf : BitVec 7) (o : Nat) (v : Word) (s : State) : (setReg vf o v s).agenda = s.agenda := rfl
@[simp] theorem setReg_ev (vf : BitVec 7) (o : Nat) (v : Word) (s : State) : (setReg vf o v s).ev = s.ev := rfl
@[simp] theorem setReg_issue (vf : BitVec 7) (o : Nat) (v : Word) (s : State) : (setReg vf o v s).issue = s.issue := rfl
@[simp] theorem setReg_phase (vf : BitVec 7) (o : Nat) (v : Word) (s : State) : (setReg vf o v s).phase = s.phase := rfl
@[simp] theorem setReg_power (vf : BitVec 7) (o : Nat) (v : Word) (s : State) : (setReg vf o v s).power = s.power := rfl
@[simp] theorem setReg_ctl (vf : BitVec 7) (o : Nat) (v : Word) (s : State) : (setReg vf o v s).ctl = s.ctl := rfl
@[simp] theorem setReg_mw0 (vf : BitVec 7) (o : Nat) (v : Word) (s : State) : (setReg vf o v s).mw0 = tput s.mw0 (vf.toNat * 2 ^ 20 + o) v := rfl
@[simp] theorem setReg_mem (vf : BitVec 7) (o : Nat) (v : Word) (s : State) : (setReg vf o v s).mem = s.mem := rfl
@[simp] theorem setReg_memTags (vf : BitVec 7) (o : Nat) (v : Word) (s : State) : (setReg vf o v s).memTags = s.memTags := rfl
@[simp] theorem setReg_memEmpty (vf : BitVec 7) (o : Nat) (v : Word) (s : State) : (setReg vf o v s).memEmpty = s.memEmpty := rfl
@[simp] theorem setReg_memErr (vf : BitVec 7) (o : Nat) (v : Word) (s : State) : (setReg vf o v s).memErr = s.memErr := rfl
@[simp] theorem setReg_memKey (vf : BitVec 7) (o : Nat) (v : Word) (s : State) : (setReg vf o v s).memKey = s.memKey := rfl
@[simp] theorem setReg_spad (vf : BitVec 7) (o : Nat) (v : Word) (s : State) : (setReg vf o v s).spad = s.spad := rfl
@[simp] theorem setReg_spadEmpty (vf : BitVec 7) (o : Nat) (v : Word) (s : State) : (setReg vf o v s).spadEmpty = s.spadEmpty := rfl
@[simp] theorem setReg_spadErr (vf : BitVec 7) (o : Nat) (v : Word) (s : State) : (setReg vf o v s).spadErr = s.spadErr := rfl
@[simp] theorem setReg_lineErr (vf : BitVec 7) (o : Nat) (v : Word) (s : State) : (setReg vf o v s).lineErr = s.lineErr := rfl
@[simp] theorem setReg_shadow (vf : BitVec 7) (o : Nat) (v : Word) (s : State) : (setReg vf o v s).shadow = s.shadow := rfl
@[simp] theorem setReg_cores (vf : BitVec 7) (o : Nat) (v : Word) (s : State) : (setReg vf o v s).cores = s.cores := rfl
@[simp] theorem setReg_quads (vf : BitVec 7) (o : Nat) (v : Word) (s : State) : (setReg vf o v s).quads = s.quads := rfl
@[simp] theorem setReg_halls (vf : BitVec 7) (o : Nat) (v : Word) (s : State) : (setReg vf o v s).halls = s.halls := rfl
@[simp] theorem setReg_fns (vf : BitVec 7) (o : Nat) (v : Word) (s : State) : (setReg vf o v s).fns = s.fns := rfl
@[simp] theorem setReg_strands (vf : BitVec 7) (o : Nat) (v : Word) (s : State) : (setReg vf o v s).strands = s.strands := rfl
@[simp] theorem setReg_lines (vf : BitVec 7) (o : Nat) (v : Word) (s : State) : (setReg vf o v s).lines = s.lines := rfl
@[simp] theorem setReg_streams (vf : BitVec 7) (o : Nat) (v : Word) (s : State) : (setReg vf o v s).streams = s.streams := rfl
@[simp] theorem setReg_launches (vf : BitVec 7) (o : Nat) (v : Word) (s : State) : (setReg vf o v s).launches = s.launches := rfl
@[simp] theorem setReg_queues (vf : BitVec 7) (o : Nat) (v : Word) (s : State) : (setReg vf o v s).queues = s.queues := rfl
@[simp] theorem setReg_barriers (vf : BitVec 7) (o : Nat) (v : Word) (s : State) : (setReg vf o v s).barriers = s.barriers := rfl
@[simp] theorem setReg_parts (vf : BitVec 7) (o : Nat) (v : Word) (s : State) : (setReg vf o v s).parts = s.parts := rfl
@[simp] theorem setReg_circs (vf : BitVec 7) (o : Nat) (v : Word) (s : State) : (setReg vf o v s).circs = s.circs := rfl
@[simp] theorem setReg_banks (vf : BitVec 7) (o : Nat) (v : Word) (s : State) : (setReg vf o v s).banks = s.banks := rfl
@[simp] theorem setReg_entries (vf : BitVec 7) (o : Nat) (v : Word) (s : State) : (setReg vf o v s).entries = s.entries := rfl
@[simp] theorem setReg_floor (vf : BitVec 7) (o : Nat) (v : Word) (s : State) : (setReg vf o v s).floor = s.floor := rfl
@[simp] theorem setReg_owned (vf : BitVec 7) (o : Nat) (v : Word) (s : State) : (setReg vf o v s).owned = s.owned := rfl
@[simp] theorem setReg_flits (vf : BitVec 7) (o : Nat) (v : Word) (s : State) : (setReg vf o v s).flits = s.flits := rfl
@[simp] theorem setReg_reqs (vf : BitVec 7) (o : Nat) (v : Word) (s : State) : (setReg vf o v s).reqs = s.reqs := rfl
@[simp] theorem setReg_tmsgs (vf : BitVec 7) (o : Nat) (v : Word) (s : State) : (setReg vf o v s).tmsgs = s.tmsgs := rfl
@[simp] theorem setReg_walks (vf : BitVec 7) (o : Nat) (v : Word) (s : State) : (setReg vf o v s).walks = s.walks := rfl
@[simp] theorem setReg_drops (vf : BitVec 7) (o : Nat) (v : Word) (s : State) : (setReg vf o v s).drops = s.drops := rfl
@[simp] theorem setReg_ports (vf : BitVec 7) (o : Nat) (v : Word) (s : State) : (setReg vf o v s).ports = s.ports := rfl
@[simp] theorem setReg_peerMax (vf : BitVec 7) (o : Nat) (v : Word) (s : State) : (setReg vf o v s).peerMax = s.peerMax := rfl
@[simp] theorem setReg_islands (vf : BitVec 7) (o : Nat) (v : Word) (s : State) : (setReg vf o v s).islands = s.islands := rfl
@[simp] theorem setReg_newel (vf : BitVec 7) (o : Nat) (v : Word) (s : State) : (setReg vf o v s).newel = s.newel := rfl
@[simp] theorem setReg_moves (vf : BitVec 7) (o : Nat) (v : Word) (s : State) : (setReg vf o v s).moves = s.moves := rfl
@[simp] theorem setReg_lastMove (vf : BitVec 7) (o : Nat) (v : Word) (s : State) : (setReg vf o v s).lastMove = s.lastMove := rfl
@[simp] theorem setReg_snap (vf : BitVec 7) (o : Nat) (v : Word) (s : State) : (setReg vf o v s).snap = s.snap := rfl
@[simp] theorem setReg_zeroing (vf : BitVec 7) (o : Nat) (v : Word) (s : State) : (setReg vf o v s).zeroing = s.zeroing := rfl
@[simp] theorem setReg_outbox (vf : BitVec 7) (o : Nat) (v : Word) (s : State) : (setReg vf o v s).outbox = s.outbox := rfl
@[simp] theorem setReg_nextId (vf : BitVec 7) (o : Nat) (v : Word) (s : State) : (setReg vf o v s).nextId = s.nextId := rfl
@[simp] theorem setReg_fresh (vf : BitVec 7) (o : Nat) (v : Word) (s : State) : (setReg vf o v s).fresh = s.fresh := rfl
@[simp] theorem setReg_meter (vf : BitVec 7) (o : Nat) (v : Word) (s : State) : (setReg vf o v s).meter = s.meter := rfl

/-! ### postAt -/

@[simp] theorem postAt_wheel (n : Nat) (i : Instr) (a : EvArgs) (s : State) : (postAt n i a s).wheel = s.wheel := rfl
@[simp] theorem postAt_agenda (n : Nat) (i : Instr) (a : EvArgs) (s : State) : (postAt n i a s).agenda = insertDue ⟨n, i, a⟩ s.agenda := rfl
@[simp] theorem postAt_ev (n : Nat) (i : Instr) (a : EvArgs) (s : State) : (postAt n i a s).ev = s.ev := rfl
@[simp] theorem postAt_issue (n : Nat) (i : Instr) (a : EvArgs) (s : State) : (postAt n i a s).issue = s.issue := rfl
@[simp] theorem postAt_phase (n : Nat) (i : Instr) (a : EvArgs) (s : State) : (postAt n i a s).phase = s.phase := rfl
@[simp] theorem postAt_power (n : Nat) (i : Instr) (a : EvArgs) (s : State) : (postAt n i a s).power = s.power := rfl
@[simp] theorem postAt_ctl (n : Nat) (i : Instr) (a : EvArgs) (s : State) : (postAt n i a s).ctl = s.ctl := rfl
@[simp] theorem postAt_mw0 (n : Nat) (i : Instr) (a : EvArgs) (s : State) : (postAt n i a s).mw0 = s.mw0 := rfl
@[simp] theorem postAt_mem (n : Nat) (i : Instr) (a : EvArgs) (s : State) : (postAt n i a s).mem = s.mem := rfl
@[simp] theorem postAt_memTags (n : Nat) (i : Instr) (a : EvArgs) (s : State) : (postAt n i a s).memTags = s.memTags := rfl
@[simp] theorem postAt_memEmpty (n : Nat) (i : Instr) (a : EvArgs) (s : State) : (postAt n i a s).memEmpty = s.memEmpty := rfl
@[simp] theorem postAt_memErr (n : Nat) (i : Instr) (a : EvArgs) (s : State) : (postAt n i a s).memErr = s.memErr := rfl
@[simp] theorem postAt_memKey (n : Nat) (i : Instr) (a : EvArgs) (s : State) : (postAt n i a s).memKey = s.memKey := rfl
@[simp] theorem postAt_spad (n : Nat) (i : Instr) (a : EvArgs) (s : State) : (postAt n i a s).spad = s.spad := rfl
@[simp] theorem postAt_spadEmpty (n : Nat) (i : Instr) (a : EvArgs) (s : State) : (postAt n i a s).spadEmpty = s.spadEmpty := rfl
@[simp] theorem postAt_spadErr (n : Nat) (i : Instr) (a : EvArgs) (s : State) : (postAt n i a s).spadErr = s.spadErr := rfl
@[simp] theorem postAt_lineErr (n : Nat) (i : Instr) (a : EvArgs) (s : State) : (postAt n i a s).lineErr = s.lineErr := rfl
@[simp] theorem postAt_shadow (n : Nat) (i : Instr) (a : EvArgs) (s : State) : (postAt n i a s).shadow = s.shadow := rfl
@[simp] theorem postAt_cores (n : Nat) (i : Instr) (a : EvArgs) (s : State) : (postAt n i a s).cores = s.cores := rfl
@[simp] theorem postAt_quads (n : Nat) (i : Instr) (a : EvArgs) (s : State) : (postAt n i a s).quads = s.quads := rfl
@[simp] theorem postAt_halls (n : Nat) (i : Instr) (a : EvArgs) (s : State) : (postAt n i a s).halls = s.halls := rfl
@[simp] theorem postAt_fns (n : Nat) (i : Instr) (a : EvArgs) (s : State) : (postAt n i a s).fns = s.fns := rfl
@[simp] theorem postAt_strands (n : Nat) (i : Instr) (a : EvArgs) (s : State) : (postAt n i a s).strands = s.strands := rfl
@[simp] theorem postAt_lines (n : Nat) (i : Instr) (a : EvArgs) (s : State) : (postAt n i a s).lines = s.lines := rfl
@[simp] theorem postAt_streams (n : Nat) (i : Instr) (a : EvArgs) (s : State) : (postAt n i a s).streams = s.streams := rfl
@[simp] theorem postAt_launches (n : Nat) (i : Instr) (a : EvArgs) (s : State) : (postAt n i a s).launches = s.launches := rfl
@[simp] theorem postAt_queues (n : Nat) (i : Instr) (a : EvArgs) (s : State) : (postAt n i a s).queues = s.queues := rfl
@[simp] theorem postAt_barriers (n : Nat) (i : Instr) (a : EvArgs) (s : State) : (postAt n i a s).barriers = s.barriers := rfl
@[simp] theorem postAt_parts (n : Nat) (i : Instr) (a : EvArgs) (s : State) : (postAt n i a s).parts = s.parts := rfl
@[simp] theorem postAt_circs (n : Nat) (i : Instr) (a : EvArgs) (s : State) : (postAt n i a s).circs = s.circs := rfl
@[simp] theorem postAt_banks (n : Nat) (i : Instr) (a : EvArgs) (s : State) : (postAt n i a s).banks = s.banks := rfl
@[simp] theorem postAt_entries (n : Nat) (i : Instr) (a : EvArgs) (s : State) : (postAt n i a s).entries = s.entries := rfl
@[simp] theorem postAt_floor (n : Nat) (i : Instr) (a : EvArgs) (s : State) : (postAt n i a s).floor = s.floor := rfl
@[simp] theorem postAt_owned (n : Nat) (i : Instr) (a : EvArgs) (s : State) : (postAt n i a s).owned = s.owned := rfl
@[simp] theorem postAt_flits (n : Nat) (i : Instr) (a : EvArgs) (s : State) : (postAt n i a s).flits = s.flits := rfl
@[simp] theorem postAt_reqs (n : Nat) (i : Instr) (a : EvArgs) (s : State) : (postAt n i a s).reqs = s.reqs := rfl
@[simp] theorem postAt_tmsgs (n : Nat) (i : Instr) (a : EvArgs) (s : State) : (postAt n i a s).tmsgs = s.tmsgs := rfl
@[simp] theorem postAt_walks (n : Nat) (i : Instr) (a : EvArgs) (s : State) : (postAt n i a s).walks = s.walks := rfl
@[simp] theorem postAt_drops (n : Nat) (i : Instr) (a : EvArgs) (s : State) : (postAt n i a s).drops = s.drops := rfl
@[simp] theorem postAt_ports (n : Nat) (i : Instr) (a : EvArgs) (s : State) : (postAt n i a s).ports = s.ports := rfl
@[simp] theorem postAt_peerMax (n : Nat) (i : Instr) (a : EvArgs) (s : State) : (postAt n i a s).peerMax = s.peerMax := rfl
@[simp] theorem postAt_islands (n : Nat) (i : Instr) (a : EvArgs) (s : State) : (postAt n i a s).islands = s.islands := rfl
@[simp] theorem postAt_newel (n : Nat) (i : Instr) (a : EvArgs) (s : State) : (postAt n i a s).newel = s.newel := rfl
@[simp] theorem postAt_moves (n : Nat) (i : Instr) (a : EvArgs) (s : State) : (postAt n i a s).moves = s.moves := rfl
@[simp] theorem postAt_lastMove (n : Nat) (i : Instr) (a : EvArgs) (s : State) : (postAt n i a s).lastMove = s.lastMove := rfl
@[simp] theorem postAt_snap (n : Nat) (i : Instr) (a : EvArgs) (s : State) : (postAt n i a s).snap = s.snap := rfl
@[simp] theorem postAt_zeroing (n : Nat) (i : Instr) (a : EvArgs) (s : State) : (postAt n i a s).zeroing = s.zeroing := rfl
@[simp] theorem postAt_outbox (n : Nat) (i : Instr) (a : EvArgs) (s : State) : (postAt n i a s).outbox = s.outbox := rfl
@[simp] theorem postAt_nextId (n : Nat) (i : Instr) (a : EvArgs) (s : State) : (postAt n i a s).nextId = s.nextId := rfl
@[simp] theorem postAt_fresh (n : Nat) (i : Instr) (a : EvArgs) (s : State) : (postAt n i a s).fresh = s.fresh := rfl
@[simp] theorem postAt_meter (n : Nat) (i : Instr) (a : EvArgs) (s : State) : (postAt n i a s).meter = s.meter := rfl

/-! ### post -/

@[simp] theorem post_wheel (n : Nat) (i : Instr) (a : EvArgs) (s : State) : (post n i a s).wheel = s.wheel := rfl
@[simp] theorem post_agenda (n : Nat) (i : Instr) (a : EvArgs) (s : State) : (post n i a s).agenda = insertDue ⟨s.wheel + n, i, a⟩ s.agenda := rfl
@[simp] theorem post_ev (n : Nat) (i : Instr) (a : EvArgs) (s : State) : (post n i a s).ev = s.ev := rfl
@[simp] theorem post_issue (n : Nat) (i : Instr) (a : EvArgs) (s : State) : (post n i a s).issue = s.issue := rfl
@[simp] theorem post_phase (n : Nat) (i : Instr) (a : EvArgs) (s : State) : (post n i a s).phase = s.phase := rfl
@[simp] theorem post_power (n : Nat) (i : Instr) (a : EvArgs) (s : State) : (post n i a s).power = s.power := rfl
@[simp] theorem post_ctl (n : Nat) (i : Instr) (a : EvArgs) (s : State) : (post n i a s).ctl = s.ctl := rfl
@[simp] theorem post_mw0 (n : Nat) (i : Instr) (a : EvArgs) (s : State) : (post n i a s).mw0 = s.mw0 := rfl
@[simp] theorem post_mem (n : Nat) (i : Instr) (a : EvArgs) (s : State) : (post n i a s).mem = s.mem := rfl
@[simp] theorem post_memTags (n : Nat) (i : Instr) (a : EvArgs) (s : State) : (post n i a s).memTags = s.memTags := rfl
@[simp] theorem post_memEmpty (n : Nat) (i : Instr) (a : EvArgs) (s : State) : (post n i a s).memEmpty = s.memEmpty := rfl
@[simp] theorem post_memErr (n : Nat) (i : Instr) (a : EvArgs) (s : State) : (post n i a s).memErr = s.memErr := rfl
@[simp] theorem post_memKey (n : Nat) (i : Instr) (a : EvArgs) (s : State) : (post n i a s).memKey = s.memKey := rfl
@[simp] theorem post_spad (n : Nat) (i : Instr) (a : EvArgs) (s : State) : (post n i a s).spad = s.spad := rfl
@[simp] theorem post_spadEmpty (n : Nat) (i : Instr) (a : EvArgs) (s : State) : (post n i a s).spadEmpty = s.spadEmpty := rfl
@[simp] theorem post_spadErr (n : Nat) (i : Instr) (a : EvArgs) (s : State) : (post n i a s).spadErr = s.spadErr := rfl
@[simp] theorem post_lineErr (n : Nat) (i : Instr) (a : EvArgs) (s : State) : (post n i a s).lineErr = s.lineErr := rfl
@[simp] theorem post_shadow (n : Nat) (i : Instr) (a : EvArgs) (s : State) : (post n i a s).shadow = s.shadow := rfl
@[simp] theorem post_cores (n : Nat) (i : Instr) (a : EvArgs) (s : State) : (post n i a s).cores = s.cores := rfl
@[simp] theorem post_quads (n : Nat) (i : Instr) (a : EvArgs) (s : State) : (post n i a s).quads = s.quads := rfl
@[simp] theorem post_halls (n : Nat) (i : Instr) (a : EvArgs) (s : State) : (post n i a s).halls = s.halls := rfl
@[simp] theorem post_fns (n : Nat) (i : Instr) (a : EvArgs) (s : State) : (post n i a s).fns = s.fns := rfl
@[simp] theorem post_strands (n : Nat) (i : Instr) (a : EvArgs) (s : State) : (post n i a s).strands = s.strands := rfl
@[simp] theorem post_lines (n : Nat) (i : Instr) (a : EvArgs) (s : State) : (post n i a s).lines = s.lines := rfl
@[simp] theorem post_streams (n : Nat) (i : Instr) (a : EvArgs) (s : State) : (post n i a s).streams = s.streams := rfl
@[simp] theorem post_launches (n : Nat) (i : Instr) (a : EvArgs) (s : State) : (post n i a s).launches = s.launches := rfl
@[simp] theorem post_queues (n : Nat) (i : Instr) (a : EvArgs) (s : State) : (post n i a s).queues = s.queues := rfl
@[simp] theorem post_barriers (n : Nat) (i : Instr) (a : EvArgs) (s : State) : (post n i a s).barriers = s.barriers := rfl
@[simp] theorem post_parts (n : Nat) (i : Instr) (a : EvArgs) (s : State) : (post n i a s).parts = s.parts := rfl
@[simp] theorem post_circs (n : Nat) (i : Instr) (a : EvArgs) (s : State) : (post n i a s).circs = s.circs := rfl
@[simp] theorem post_banks (n : Nat) (i : Instr) (a : EvArgs) (s : State) : (post n i a s).banks = s.banks := rfl
@[simp] theorem post_entries (n : Nat) (i : Instr) (a : EvArgs) (s : State) : (post n i a s).entries = s.entries := rfl
@[simp] theorem post_floor (n : Nat) (i : Instr) (a : EvArgs) (s : State) : (post n i a s).floor = s.floor := rfl
@[simp] theorem post_owned (n : Nat) (i : Instr) (a : EvArgs) (s : State) : (post n i a s).owned = s.owned := rfl
@[simp] theorem post_flits (n : Nat) (i : Instr) (a : EvArgs) (s : State) : (post n i a s).flits = s.flits := rfl
@[simp] theorem post_reqs (n : Nat) (i : Instr) (a : EvArgs) (s : State) : (post n i a s).reqs = s.reqs := rfl
@[simp] theorem post_tmsgs (n : Nat) (i : Instr) (a : EvArgs) (s : State) : (post n i a s).tmsgs = s.tmsgs := rfl
@[simp] theorem post_walks (n : Nat) (i : Instr) (a : EvArgs) (s : State) : (post n i a s).walks = s.walks := rfl
@[simp] theorem post_drops (n : Nat) (i : Instr) (a : EvArgs) (s : State) : (post n i a s).drops = s.drops := rfl
@[simp] theorem post_ports (n : Nat) (i : Instr) (a : EvArgs) (s : State) : (post n i a s).ports = s.ports := rfl
@[simp] theorem post_peerMax (n : Nat) (i : Instr) (a : EvArgs) (s : State) : (post n i a s).peerMax = s.peerMax := rfl
@[simp] theorem post_islands (n : Nat) (i : Instr) (a : EvArgs) (s : State) : (post n i a s).islands = s.islands := rfl
@[simp] theorem post_newel (n : Nat) (i : Instr) (a : EvArgs) (s : State) : (post n i a s).newel = s.newel := rfl
@[simp] theorem post_moves (n : Nat) (i : Instr) (a : EvArgs) (s : State) : (post n i a s).moves = s.moves := rfl
@[simp] theorem post_lastMove (n : Nat) (i : Instr) (a : EvArgs) (s : State) : (post n i a s).lastMove = s.lastMove := rfl
@[simp] theorem post_snap (n : Nat) (i : Instr) (a : EvArgs) (s : State) : (post n i a s).snap = s.snap := rfl
@[simp] theorem post_zeroing (n : Nat) (i : Instr) (a : EvArgs) (s : State) : (post n i a s).zeroing = s.zeroing := rfl
@[simp] theorem post_outbox (n : Nat) (i : Instr) (a : EvArgs) (s : State) : (post n i a s).outbox = s.outbox := rfl
@[simp] theorem post_nextId (n : Nat) (i : Instr) (a : EvArgs) (s : State) : (post n i a s).nextId = s.nextId := rfl
@[simp] theorem post_fresh (n : Nat) (i : Instr) (a : EvArgs) (s : State) : (post n i a s).fresh = s.fresh := rfl
@[simp] theorem post_meter (n : Nat) (i : Instr) (a : EvArgs) (s : State) : (post n i a s).meter = s.meter := rfl

/-! ### setTag -/

@[simp] theorem setTag_wheel (pa : Nat) (v : BitVec 4) (s : State) : (setTag pa v s).wheel = s.wheel := rfl
@[simp] theorem setTag_agenda (pa : Nat) (v : BitVec 4) (s : State) : (setTag pa v s).agenda = s.agenda := rfl
@[simp] theorem setTag_ev (pa : Nat) (v : BitVec 4) (s : State) : (setTag pa v s).ev = s.ev := rfl
@[simp] theorem setTag_issue (pa : Nat) (v : BitVec 4) (s : State) : (setTag pa v s).issue = s.issue := rfl
@[simp] theorem setTag_phase (pa : Nat) (v : BitVec 4) (s : State) : (setTag pa v s).phase = s.phase := rfl
@[simp] theorem setTag_power (pa : Nat) (v : BitVec 4) (s : State) : (setTag pa v s).power = s.power := rfl
@[simp] theorem setTag_ctl (pa : Nat) (v : BitVec 4) (s : State) : (setTag pa v s).ctl = s.ctl := rfl
@[simp] theorem setTag_mw0 (pa : Nat) (v : BitVec 4) (s : State) : (setTag pa v s).mw0 = s.mw0 := rfl
@[simp] theorem setTag_mem (pa : Nat) (v : BitVec 4) (s : State) : (setTag pa v s).mem = s.mem := rfl
@[simp] theorem setTag_memEmpty (pa : Nat) (v : BitVec 4) (s : State) : (setTag pa v s).memEmpty = s.memEmpty := rfl
@[simp] theorem setTag_memErr (pa : Nat) (v : BitVec 4) (s : State) : (setTag pa v s).memErr = s.memErr := rfl
@[simp] theorem setTag_memKey (pa : Nat) (v : BitVec 4) (s : State) : (setTag pa v s).memKey = s.memKey := rfl
@[simp] theorem setTag_spad (pa : Nat) (v : BitVec 4) (s : State) : (setTag pa v s).spad = s.spad := rfl
@[simp] theorem setTag_spadEmpty (pa : Nat) (v : BitVec 4) (s : State) : (setTag pa v s).spadEmpty = s.spadEmpty := rfl
@[simp] theorem setTag_spadErr (pa : Nat) (v : BitVec 4) (s : State) : (setTag pa v s).spadErr = s.spadErr := rfl
@[simp] theorem setTag_lineErr (pa : Nat) (v : BitVec 4) (s : State) : (setTag pa v s).lineErr = s.lineErr := rfl
@[simp] theorem setTag_shadow (pa : Nat) (v : BitVec 4) (s : State) : (setTag pa v s).shadow = s.shadow := rfl
@[simp] theorem setTag_cores (pa : Nat) (v : BitVec 4) (s : State) : (setTag pa v s).cores = s.cores := rfl
@[simp] theorem setTag_quads (pa : Nat) (v : BitVec 4) (s : State) : (setTag pa v s).quads = s.quads := rfl
@[simp] theorem setTag_halls (pa : Nat) (v : BitVec 4) (s : State) : (setTag pa v s).halls = s.halls := rfl
@[simp] theorem setTag_fns (pa : Nat) (v : BitVec 4) (s : State) : (setTag pa v s).fns = s.fns := rfl
@[simp] theorem setTag_strands (pa : Nat) (v : BitVec 4) (s : State) : (setTag pa v s).strands = s.strands := rfl
@[simp] theorem setTag_lines (pa : Nat) (v : BitVec 4) (s : State) : (setTag pa v s).lines = s.lines := rfl
@[simp] theorem setTag_streams (pa : Nat) (v : BitVec 4) (s : State) : (setTag pa v s).streams = s.streams := rfl
@[simp] theorem setTag_launches (pa : Nat) (v : BitVec 4) (s : State) : (setTag pa v s).launches = s.launches := rfl
@[simp] theorem setTag_queues (pa : Nat) (v : BitVec 4) (s : State) : (setTag pa v s).queues = s.queues := rfl
@[simp] theorem setTag_barriers (pa : Nat) (v : BitVec 4) (s : State) : (setTag pa v s).barriers = s.barriers := rfl
@[simp] theorem setTag_parts (pa : Nat) (v : BitVec 4) (s : State) : (setTag pa v s).parts = s.parts := rfl
@[simp] theorem setTag_circs (pa : Nat) (v : BitVec 4) (s : State) : (setTag pa v s).circs = s.circs := rfl
@[simp] theorem setTag_banks (pa : Nat) (v : BitVec 4) (s : State) : (setTag pa v s).banks = s.banks := rfl
@[simp] theorem setTag_entries (pa : Nat) (v : BitVec 4) (s : State) : (setTag pa v s).entries = s.entries := rfl
@[simp] theorem setTag_floor (pa : Nat) (v : BitVec 4) (s : State) : (setTag pa v s).floor = s.floor := rfl
@[simp] theorem setTag_owned (pa : Nat) (v : BitVec 4) (s : State) : (setTag pa v s).owned = s.owned := rfl
@[simp] theorem setTag_flits (pa : Nat) (v : BitVec 4) (s : State) : (setTag pa v s).flits = s.flits := rfl
@[simp] theorem setTag_reqs (pa : Nat) (v : BitVec 4) (s : State) : (setTag pa v s).reqs = s.reqs := rfl
@[simp] theorem setTag_tmsgs (pa : Nat) (v : BitVec 4) (s : State) : (setTag pa v s).tmsgs = s.tmsgs := rfl
@[simp] theorem setTag_walks (pa : Nat) (v : BitVec 4) (s : State) : (setTag pa v s).walks = s.walks := rfl
@[simp] theorem setTag_drops (pa : Nat) (v : BitVec 4) (s : State) : (setTag pa v s).drops = s.drops := rfl
@[simp] theorem setTag_ports (pa : Nat) (v : BitVec 4) (s : State) : (setTag pa v s).ports = s.ports := rfl
@[simp] theorem setTag_peerMax (pa : Nat) (v : BitVec 4) (s : State) : (setTag pa v s).peerMax = s.peerMax := rfl
@[simp] theorem setTag_islands (pa : Nat) (v : BitVec 4) (s : State) : (setTag pa v s).islands = s.islands := rfl
@[simp] theorem setTag_newel (pa : Nat) (v : BitVec 4) (s : State) : (setTag pa v s).newel = s.newel := rfl
@[simp] theorem setTag_moves (pa : Nat) (v : BitVec 4) (s : State) : (setTag pa v s).moves = s.moves := rfl
@[simp] theorem setTag_lastMove (pa : Nat) (v : BitVec 4) (s : State) : (setTag pa v s).lastMove = s.lastMove := rfl
@[simp] theorem setTag_snap (pa : Nat) (v : BitVec 4) (s : State) : (setTag pa v s).snap = s.snap := rfl
@[simp] theorem setTag_zeroing (pa : Nat) (v : BitVec 4) (s : State) : (setTag pa v s).zeroing = s.zeroing := rfl
@[simp] theorem setTag_outbox (pa : Nat) (v : BitVec 4) (s : State) : (setTag pa v s).outbox = s.outbox := rfl
@[simp] theorem setTag_nextId (pa : Nat) (v : BitVec 4) (s : State) : (setTag pa v s).nextId = s.nextId := rfl
@[simp] theorem setTag_fresh (pa : Nat) (v : BitVec 4) (s : State) : (setTag pa v s).fresh = s.fresh := rfl
@[simp] theorem setTag_meter (pa : Nat) (v : BitVec 4) (s : State) : (setTag pa v s).meter = s.meter := rfl

/-! ### setMemFull -/

@[simp] theorem setMemFull_wheel (pa : Nat) (v : Bool) (s : State) : (setMemFull pa v s).wheel = s.wheel := rfl
@[simp] theorem setMemFull_agenda (pa : Nat) (v : Bool) (s : State) : (setMemFull pa v s).agenda = s.agenda := rfl
@[simp] theorem setMemFull_ev (pa : Nat) (v : Bool) (s : State) : (setMemFull pa v s).ev = s.ev := rfl
@[simp] theorem setMemFull_issue (pa : Nat) (v : Bool) (s : State) : (setMemFull pa v s).issue = s.issue := rfl
@[simp] theorem setMemFull_phase (pa : Nat) (v : Bool) (s : State) : (setMemFull pa v s).phase = s.phase := rfl
@[simp] theorem setMemFull_power (pa : Nat) (v : Bool) (s : State) : (setMemFull pa v s).power = s.power := rfl
@[simp] theorem setMemFull_ctl (pa : Nat) (v : Bool) (s : State) : (setMemFull pa v s).ctl = s.ctl := rfl
@[simp] theorem setMemFull_mw0 (pa : Nat) (v : Bool) (s : State) : (setMemFull pa v s).mw0 = s.mw0 := rfl
@[simp] theorem setMemFull_mem (pa : Nat) (v : Bool) (s : State) : (setMemFull pa v s).mem = s.mem := rfl
@[simp] theorem setMemFull_memTags (pa : Nat) (v : Bool) (s : State) : (setMemFull pa v s).memTags = s.memTags := rfl
@[simp] theorem setMemFull_memErr (pa : Nat) (v : Bool) (s : State) : (setMemFull pa v s).memErr = s.memErr := rfl
@[simp] theorem setMemFull_memKey (pa : Nat) (v : Bool) (s : State) : (setMemFull pa v s).memKey = s.memKey := rfl
@[simp] theorem setMemFull_spad (pa : Nat) (v : Bool) (s : State) : (setMemFull pa v s).spad = s.spad := rfl
@[simp] theorem setMemFull_spadEmpty (pa : Nat) (v : Bool) (s : State) : (setMemFull pa v s).spadEmpty = s.spadEmpty := rfl
@[simp] theorem setMemFull_spadErr (pa : Nat) (v : Bool) (s : State) : (setMemFull pa v s).spadErr = s.spadErr := rfl
@[simp] theorem setMemFull_lineErr (pa : Nat) (v : Bool) (s : State) : (setMemFull pa v s).lineErr = s.lineErr := rfl
@[simp] theorem setMemFull_shadow (pa : Nat) (v : Bool) (s : State) : (setMemFull pa v s).shadow = s.shadow := rfl
@[simp] theorem setMemFull_cores (pa : Nat) (v : Bool) (s : State) : (setMemFull pa v s).cores = s.cores := rfl
@[simp] theorem setMemFull_quads (pa : Nat) (v : Bool) (s : State) : (setMemFull pa v s).quads = s.quads := rfl
@[simp] theorem setMemFull_halls (pa : Nat) (v : Bool) (s : State) : (setMemFull pa v s).halls = s.halls := rfl
@[simp] theorem setMemFull_fns (pa : Nat) (v : Bool) (s : State) : (setMemFull pa v s).fns = s.fns := rfl
@[simp] theorem setMemFull_strands (pa : Nat) (v : Bool) (s : State) : (setMemFull pa v s).strands = s.strands := rfl
@[simp] theorem setMemFull_lines (pa : Nat) (v : Bool) (s : State) : (setMemFull pa v s).lines = s.lines := rfl
@[simp] theorem setMemFull_streams (pa : Nat) (v : Bool) (s : State) : (setMemFull pa v s).streams = s.streams := rfl
@[simp] theorem setMemFull_launches (pa : Nat) (v : Bool) (s : State) : (setMemFull pa v s).launches = s.launches := rfl
@[simp] theorem setMemFull_queues (pa : Nat) (v : Bool) (s : State) : (setMemFull pa v s).queues = s.queues := rfl
@[simp] theorem setMemFull_barriers (pa : Nat) (v : Bool) (s : State) : (setMemFull pa v s).barriers = s.barriers := rfl
@[simp] theorem setMemFull_parts (pa : Nat) (v : Bool) (s : State) : (setMemFull pa v s).parts = s.parts := rfl
@[simp] theorem setMemFull_circs (pa : Nat) (v : Bool) (s : State) : (setMemFull pa v s).circs = s.circs := rfl
@[simp] theorem setMemFull_banks (pa : Nat) (v : Bool) (s : State) : (setMemFull pa v s).banks = s.banks := rfl
@[simp] theorem setMemFull_entries (pa : Nat) (v : Bool) (s : State) : (setMemFull pa v s).entries = s.entries := rfl
@[simp] theorem setMemFull_floor (pa : Nat) (v : Bool) (s : State) : (setMemFull pa v s).floor = s.floor := rfl
@[simp] theorem setMemFull_owned (pa : Nat) (v : Bool) (s : State) : (setMemFull pa v s).owned = s.owned := rfl
@[simp] theorem setMemFull_flits (pa : Nat) (v : Bool) (s : State) : (setMemFull pa v s).flits = s.flits := rfl
@[simp] theorem setMemFull_reqs (pa : Nat) (v : Bool) (s : State) : (setMemFull pa v s).reqs = s.reqs := rfl
@[simp] theorem setMemFull_tmsgs (pa : Nat) (v : Bool) (s : State) : (setMemFull pa v s).tmsgs = s.tmsgs := rfl
@[simp] theorem setMemFull_walks (pa : Nat) (v : Bool) (s : State) : (setMemFull pa v s).walks = s.walks := rfl
@[simp] theorem setMemFull_drops (pa : Nat) (v : Bool) (s : State) : (setMemFull pa v s).drops = s.drops := rfl
@[simp] theorem setMemFull_ports (pa : Nat) (v : Bool) (s : State) : (setMemFull pa v s).ports = s.ports := rfl
@[simp] theorem setMemFull_peerMax (pa : Nat) (v : Bool) (s : State) : (setMemFull pa v s).peerMax = s.peerMax := rfl
@[simp] theorem setMemFull_islands (pa : Nat) (v : Bool) (s : State) : (setMemFull pa v s).islands = s.islands := rfl
@[simp] theorem setMemFull_newel (pa : Nat) (v : Bool) (s : State) : (setMemFull pa v s).newel = s.newel := rfl
@[simp] theorem setMemFull_moves (pa : Nat) (v : Bool) (s : State) : (setMemFull pa v s).moves = s.moves := rfl
@[simp] theorem setMemFull_lastMove (pa : Nat) (v : Bool) (s : State) : (setMemFull pa v s).lastMove = s.lastMove := rfl
@[simp] theorem setMemFull_snap (pa : Nat) (v : Bool) (s : State) : (setMemFull pa v s).snap = s.snap := rfl
@[simp] theorem setMemFull_zeroing (pa : Nat) (v : Bool) (s : State) : (setMemFull pa v s).zeroing = s.zeroing := rfl
@[simp] theorem setMemFull_outbox (pa : Nat) (v : Bool) (s : State) : (setMemFull pa v s).outbox = s.outbox := rfl
@[simp] theorem setMemFull_nextId (pa : Nat) (v : Bool) (s : State) : (setMemFull pa v s).nextId = s.nextId := rfl
@[simp] theorem setMemFull_fresh (pa : Nat) (v : Bool) (s : State) : (setMemFull pa v s).fresh = s.fresh := rfl
@[simp] theorem setMemFull_meter (pa : Nat) (v : Bool) (s : State) : (setMemFull pa v s).meter = s.meter := rfl

/-! ### setSpadFull -/

@[simp] theorem setSpadFull_wheel (c o : Nat) (v : Bool) (s : State) : (setSpadFull c o v s).wheel = s.wheel := rfl
@[simp] theorem setSpadFull_agenda (c o : Nat) (v : Bool) (s : State) : (setSpadFull c o v s).agenda = s.agenda := rfl
@[simp] theorem setSpadFull_ev (c o : Nat) (v : Bool) (s : State) : (setSpadFull c o v s).ev = s.ev := rfl
@[simp] theorem setSpadFull_issue (c o : Nat) (v : Bool) (s : State) : (setSpadFull c o v s).issue = s.issue := rfl
@[simp] theorem setSpadFull_phase (c o : Nat) (v : Bool) (s : State) : (setSpadFull c o v s).phase = s.phase := rfl
@[simp] theorem setSpadFull_power (c o : Nat) (v : Bool) (s : State) : (setSpadFull c o v s).power = s.power := rfl
@[simp] theorem setSpadFull_ctl (c o : Nat) (v : Bool) (s : State) : (setSpadFull c o v s).ctl = s.ctl := rfl
@[simp] theorem setSpadFull_mw0 (c o : Nat) (v : Bool) (s : State) : (setSpadFull c o v s).mw0 = s.mw0 := rfl
@[simp] theorem setSpadFull_mem (c o : Nat) (v : Bool) (s : State) : (setSpadFull c o v s).mem = s.mem := rfl
@[simp] theorem setSpadFull_memTags (c o : Nat) (v : Bool) (s : State) : (setSpadFull c o v s).memTags = s.memTags := rfl
@[simp] theorem setSpadFull_memEmpty (c o : Nat) (v : Bool) (s : State) : (setSpadFull c o v s).memEmpty = s.memEmpty := rfl
@[simp] theorem setSpadFull_memErr (c o : Nat) (v : Bool) (s : State) : (setSpadFull c o v s).memErr = s.memErr := rfl
@[simp] theorem setSpadFull_memKey (c o : Nat) (v : Bool) (s : State) : (setSpadFull c o v s).memKey = s.memKey := rfl
@[simp] theorem setSpadFull_spad (c o : Nat) (v : Bool) (s : State) : (setSpadFull c o v s).spad = s.spad := rfl
@[simp] theorem setSpadFull_spadErr (c o : Nat) (v : Bool) (s : State) : (setSpadFull c o v s).spadErr = s.spadErr := rfl
@[simp] theorem setSpadFull_lineErr (c o : Nat) (v : Bool) (s : State) : (setSpadFull c o v s).lineErr = s.lineErr := rfl
@[simp] theorem setSpadFull_shadow (c o : Nat) (v : Bool) (s : State) : (setSpadFull c o v s).shadow = s.shadow := rfl
@[simp] theorem setSpadFull_cores (c o : Nat) (v : Bool) (s : State) : (setSpadFull c o v s).cores = s.cores := rfl
@[simp] theorem setSpadFull_quads (c o : Nat) (v : Bool) (s : State) : (setSpadFull c o v s).quads = s.quads := rfl
@[simp] theorem setSpadFull_halls (c o : Nat) (v : Bool) (s : State) : (setSpadFull c o v s).halls = s.halls := rfl
@[simp] theorem setSpadFull_fns (c o : Nat) (v : Bool) (s : State) : (setSpadFull c o v s).fns = s.fns := rfl
@[simp] theorem setSpadFull_strands (c o : Nat) (v : Bool) (s : State) : (setSpadFull c o v s).strands = s.strands := rfl
@[simp] theorem setSpadFull_lines (c o : Nat) (v : Bool) (s : State) : (setSpadFull c o v s).lines = s.lines := rfl
@[simp] theorem setSpadFull_streams (c o : Nat) (v : Bool) (s : State) : (setSpadFull c o v s).streams = s.streams := rfl
@[simp] theorem setSpadFull_launches (c o : Nat) (v : Bool) (s : State) : (setSpadFull c o v s).launches = s.launches := rfl
@[simp] theorem setSpadFull_queues (c o : Nat) (v : Bool) (s : State) : (setSpadFull c o v s).queues = s.queues := rfl
@[simp] theorem setSpadFull_barriers (c o : Nat) (v : Bool) (s : State) : (setSpadFull c o v s).barriers = s.barriers := rfl
@[simp] theorem setSpadFull_parts (c o : Nat) (v : Bool) (s : State) : (setSpadFull c o v s).parts = s.parts := rfl
@[simp] theorem setSpadFull_circs (c o : Nat) (v : Bool) (s : State) : (setSpadFull c o v s).circs = s.circs := rfl
@[simp] theorem setSpadFull_banks (c o : Nat) (v : Bool) (s : State) : (setSpadFull c o v s).banks = s.banks := rfl
@[simp] theorem setSpadFull_entries (c o : Nat) (v : Bool) (s : State) : (setSpadFull c o v s).entries = s.entries := rfl
@[simp] theorem setSpadFull_floor (c o : Nat) (v : Bool) (s : State) : (setSpadFull c o v s).floor = s.floor := rfl
@[simp] theorem setSpadFull_owned (c o : Nat) (v : Bool) (s : State) : (setSpadFull c o v s).owned = s.owned := rfl
@[simp] theorem setSpadFull_flits (c o : Nat) (v : Bool) (s : State) : (setSpadFull c o v s).flits = s.flits := rfl
@[simp] theorem setSpadFull_reqs (c o : Nat) (v : Bool) (s : State) : (setSpadFull c o v s).reqs = s.reqs := rfl
@[simp] theorem setSpadFull_tmsgs (c o : Nat) (v : Bool) (s : State) : (setSpadFull c o v s).tmsgs = s.tmsgs := rfl
@[simp] theorem setSpadFull_walks (c o : Nat) (v : Bool) (s : State) : (setSpadFull c o v s).walks = s.walks := rfl
@[simp] theorem setSpadFull_drops (c o : Nat) (v : Bool) (s : State) : (setSpadFull c o v s).drops = s.drops := rfl
@[simp] theorem setSpadFull_ports (c o : Nat) (v : Bool) (s : State) : (setSpadFull c o v s).ports = s.ports := rfl
@[simp] theorem setSpadFull_peerMax (c o : Nat) (v : Bool) (s : State) : (setSpadFull c o v s).peerMax = s.peerMax := rfl
@[simp] theorem setSpadFull_islands (c o : Nat) (v : Bool) (s : State) : (setSpadFull c o v s).islands = s.islands := rfl
@[simp] theorem setSpadFull_newel (c o : Nat) (v : Bool) (s : State) : (setSpadFull c o v s).newel = s.newel := rfl
@[simp] theorem setSpadFull_moves (c o : Nat) (v : Bool) (s : State) : (setSpadFull c o v s).moves = s.moves := rfl
@[simp] theorem setSpadFull_lastMove (c o : Nat) (v : Bool) (s : State) : (setSpadFull c o v s).lastMove = s.lastMove := rfl
@[simp] theorem setSpadFull_snap (c o : Nat) (v : Bool) (s : State) : (setSpadFull c o v s).snap = s.snap := rfl
@[simp] theorem setSpadFull_zeroing (c o : Nat) (v : Bool) (s : State) : (setSpadFull c o v s).zeroing = s.zeroing := rfl
@[simp] theorem setSpadFull_outbox (c o : Nat) (v : Bool) (s : State) : (setSpadFull c o v s).outbox = s.outbox := rfl
@[simp] theorem setSpadFull_nextId (c o : Nat) (v : Bool) (s : State) : (setSpadFull c o v s).nextId = s.nextId := rfl
@[simp] theorem setSpadFull_fresh (c o : Nat) (v : Bool) (s : State) : (setSpadFull c o v s).fresh = s.fresh := rfl
@[simp] theorem setSpadFull_meter (c o : Nat) (v : Bool) (s : State) : (setSpadFull c o v s).meter = s.meter := rfl

/-! ### setRegN -/

@[simp] theorem setRegN_wheel (vf : BitVec 7) (o lo n v : Nat) (s : State) : (setRegN vf o lo n v s).wheel = s.wheel := rfl
@[simp] theorem setRegN_agenda (vf : BitVec 7) (o lo n v : Nat) (s : State) : (setRegN vf o lo n v s).agenda = s.agenda := rfl
@[simp] theorem setRegN_ev (vf : BitVec 7) (o lo n v : Nat) (s : State) : (setRegN vf o lo n v s).ev = s.ev := rfl
@[simp] theorem setRegN_issue (vf : BitVec 7) (o lo n v : Nat) (s : State) : (setRegN vf o lo n v s).issue = s.issue := rfl
@[simp] theorem setRegN_phase (vf : BitVec 7) (o lo n v : Nat) (s : State) : (setRegN vf o lo n v s).phase = s.phase := rfl
@[simp] theorem setRegN_power (vf : BitVec 7) (o lo n v : Nat) (s : State) : (setRegN vf o lo n v s).power = s.power := rfl
@[simp] theorem setRegN_ctl (vf : BitVec 7) (o lo n v : Nat) (s : State) : (setRegN vf o lo n v s).ctl = s.ctl := rfl
@[simp] theorem setRegN_mem (vf : BitVec 7) (o lo n v : Nat) (s : State) : (setRegN vf o lo n v s).mem = s.mem := rfl
@[simp] theorem setRegN_memTags (vf : BitVec 7) (o lo n v : Nat) (s : State) : (setRegN vf o lo n v s).memTags = s.memTags := rfl
@[simp] theorem setRegN_memEmpty (vf : BitVec 7) (o lo n v : Nat) (s : State) : (setRegN vf o lo n v s).memEmpty = s.memEmpty := rfl
@[simp] theorem setRegN_memErr (vf : BitVec 7) (o lo n v : Nat) (s : State) : (setRegN vf o lo n v s).memErr = s.memErr := rfl
@[simp] theorem setRegN_memKey (vf : BitVec 7) (o lo n v : Nat) (s : State) : (setRegN vf o lo n v s).memKey = s.memKey := rfl
@[simp] theorem setRegN_spad (vf : BitVec 7) (o lo n v : Nat) (s : State) : (setRegN vf o lo n v s).spad = s.spad := rfl
@[simp] theorem setRegN_spadEmpty (vf : BitVec 7) (o lo n v : Nat) (s : State) : (setRegN vf o lo n v s).spadEmpty = s.spadEmpty := rfl
@[simp] theorem setRegN_spadErr (vf : BitVec 7) (o lo n v : Nat) (s : State) : (setRegN vf o lo n v s).spadErr = s.spadErr := rfl
@[simp] theorem setRegN_lineErr (vf : BitVec 7) (o lo n v : Nat) (s : State) : (setRegN vf o lo n v s).lineErr = s.lineErr := rfl
@[simp] theorem setRegN_shadow (vf : BitVec 7) (o lo n v : Nat) (s : State) : (setRegN vf o lo n v s).shadow = s.shadow := rfl
@[simp] theorem setRegN_cores (vf : BitVec 7) (o lo n v : Nat) (s : State) : (setRegN vf o lo n v s).cores = s.cores := rfl
@[simp] theorem setRegN_quads (vf : BitVec 7) (o lo n v : Nat) (s : State) : (setRegN vf o lo n v s).quads = s.quads := rfl
@[simp] theorem setRegN_halls (vf : BitVec 7) (o lo n v : Nat) (s : State) : (setRegN vf o lo n v s).halls = s.halls := rfl
@[simp] theorem setRegN_fns (vf : BitVec 7) (o lo n v : Nat) (s : State) : (setRegN vf o lo n v s).fns = s.fns := rfl
@[simp] theorem setRegN_strands (vf : BitVec 7) (o lo n v : Nat) (s : State) : (setRegN vf o lo n v s).strands = s.strands := rfl
@[simp] theorem setRegN_lines (vf : BitVec 7) (o lo n v : Nat) (s : State) : (setRegN vf o lo n v s).lines = s.lines := rfl
@[simp] theorem setRegN_streams (vf : BitVec 7) (o lo n v : Nat) (s : State) : (setRegN vf o lo n v s).streams = s.streams := rfl
@[simp] theorem setRegN_launches (vf : BitVec 7) (o lo n v : Nat) (s : State) : (setRegN vf o lo n v s).launches = s.launches := rfl
@[simp] theorem setRegN_queues (vf : BitVec 7) (o lo n v : Nat) (s : State) : (setRegN vf o lo n v s).queues = s.queues := rfl
@[simp] theorem setRegN_barriers (vf : BitVec 7) (o lo n v : Nat) (s : State) : (setRegN vf o lo n v s).barriers = s.barriers := rfl
@[simp] theorem setRegN_parts (vf : BitVec 7) (o lo n v : Nat) (s : State) : (setRegN vf o lo n v s).parts = s.parts := rfl
@[simp] theorem setRegN_circs (vf : BitVec 7) (o lo n v : Nat) (s : State) : (setRegN vf o lo n v s).circs = s.circs := rfl
@[simp] theorem setRegN_banks (vf : BitVec 7) (o lo n v : Nat) (s : State) : (setRegN vf o lo n v s).banks = s.banks := rfl
@[simp] theorem setRegN_entries (vf : BitVec 7) (o lo n v : Nat) (s : State) : (setRegN vf o lo n v s).entries = s.entries := rfl
@[simp] theorem setRegN_floor (vf : BitVec 7) (o lo n v : Nat) (s : State) : (setRegN vf o lo n v s).floor = s.floor := rfl
@[simp] theorem setRegN_owned (vf : BitVec 7) (o lo n v : Nat) (s : State) : (setRegN vf o lo n v s).owned = s.owned := rfl
@[simp] theorem setRegN_flits (vf : BitVec 7) (o lo n v : Nat) (s : State) : (setRegN vf o lo n v s).flits = s.flits := rfl
@[simp] theorem setRegN_reqs (vf : BitVec 7) (o lo n v : Nat) (s : State) : (setRegN vf o lo n v s).reqs = s.reqs := rfl
@[simp] theorem setRegN_tmsgs (vf : BitVec 7) (o lo n v : Nat) (s : State) : (setRegN vf o lo n v s).tmsgs = s.tmsgs := rfl
@[simp] theorem setRegN_walks (vf : BitVec 7) (o lo n v : Nat) (s : State) : (setRegN vf o lo n v s).walks = s.walks := rfl
@[simp] theorem setRegN_drops (vf : BitVec 7) (o lo n v : Nat) (s : State) : (setRegN vf o lo n v s).drops = s.drops := rfl
@[simp] theorem setRegN_ports (vf : BitVec 7) (o lo n v : Nat) (s : State) : (setRegN vf o lo n v s).ports = s.ports := rfl
@[simp] theorem setRegN_peerMax (vf : BitVec 7) (o lo n v : Nat) (s : State) : (setRegN vf o lo n v s).peerMax = s.peerMax := rfl
@[simp] theorem setRegN_islands (vf : BitVec 7) (o lo n v : Nat) (s : State) : (setRegN vf o lo n v s).islands = s.islands := rfl
@[simp] theorem setRegN_newel (vf : BitVec 7) (o lo n v : Nat) (s : State) : (setRegN vf o lo n v s).newel = s.newel := rfl
@[simp] theorem setRegN_moves (vf : BitVec 7) (o lo n v : Nat) (s : State) : (setRegN vf o lo n v s).moves = s.moves := rfl
@[simp] theorem setRegN_lastMove (vf : BitVec 7) (o lo n v : Nat) (s : State) : (setRegN vf o lo n v s).lastMove = s.lastMove := rfl
@[simp] theorem setRegN_snap (vf : BitVec 7) (o lo n v : Nat) (s : State) : (setRegN vf o lo n v s).snap = s.snap := rfl
@[simp] theorem setRegN_zeroing (vf : BitVec 7) (o lo n v : Nat) (s : State) : (setRegN vf o lo n v s).zeroing = s.zeroing := rfl
@[simp] theorem setRegN_outbox (vf : BitVec 7) (o lo n v : Nat) (s : State) : (setRegN vf o lo n v s).outbox = s.outbox := rfl
@[simp] theorem setRegN_nextId (vf : BitVec 7) (o lo n v : Nat) (s : State) : (setRegN vf o lo n v s).nextId = s.nextId := rfl
@[simp] theorem setRegN_fresh (vf : BitVec 7) (o lo n v : Nat) (s : State) : (setRegN vf o lo n v s).fresh = s.fresh := rfl
@[simp] theorem setRegN_meter (vf : BitVec 7) (o lo n v : Nat) (s : State) : (setRegN vf o lo n v s).meter = s.meter := rfl

/-! ### putWord -/

/-- All that putWord can change. -/
theorem putWord_shape (k o : Nat) (v : Word) (s : State) :
    ∃ x, putWord k o v s = { s with lines := x } := ⟨_, rfl⟩
@[simp] theorem putWord_wheel (k o : Nat) (v : Word) (s : State) : (putWord k o v s).wheel = s.wheel := by
  obtain ⟨x, h⟩ := putWord_shape k o v s; rw [h]
@[simp] theorem putWord_agenda (k o : Nat) (v : Word) (s : State) : (putWord k o v s).agenda = s.agenda := by
  obtain ⟨x, h⟩ := putWord_shape k o v s; rw [h]
@[simp] theorem putWord_ev (k o : Nat) (v : Word) (s : State) : (putWord k o v s).ev = s.ev := by
  obtain ⟨x, h⟩ := putWord_shape k o v s; rw [h]
@[simp] theorem putWord_issue (k o : Nat) (v : Word) (s : State) : (putWord k o v s).issue = s.issue := by
  obtain ⟨x, h⟩ := putWord_shape k o v s; rw [h]
@[simp] theorem putWord_phase (k o : Nat) (v : Word) (s : State) : (putWord k o v s).phase = s.phase := by
  obtain ⟨x, h⟩ := putWord_shape k o v s; rw [h]
@[simp] theorem putWord_power (k o : Nat) (v : Word) (s : State) : (putWord k o v s).power = s.power := by
  obtain ⟨x, h⟩ := putWord_shape k o v s; rw [h]
@[simp] theorem putWord_ctl (k o : Nat) (v : Word) (s : State) : (putWord k o v s).ctl = s.ctl := by
  obtain ⟨x, h⟩ := putWord_shape k o v s; rw [h]
@[simp] theorem putWord_mw0 (k o : Nat) (v : Word) (s : State) : (putWord k o v s).mw0 = s.mw0 := by
  obtain ⟨x, h⟩ := putWord_shape k o v s; rw [h]
@[simp] theorem putWord_mem (k o : Nat) (v : Word) (s : State) : (putWord k o v s).mem = s.mem := by
  obtain ⟨x, h⟩ := putWord_shape k o v s; rw [h]
@[simp] theorem putWord_memTags (k o : Nat) (v : Word) (s : State) : (putWord k o v s).memTags = s.memTags := by
  obtain ⟨x, h⟩ := putWord_shape k o v s; rw [h]
@[simp] theorem putWord_memEmpty (k o : Nat) (v : Word) (s : State) : (putWord k o v s).memEmpty = s.memEmpty := by
  obtain ⟨x, h⟩ := putWord_shape k o v s; rw [h]
@[simp] theorem putWord_memErr (k o : Nat) (v : Word) (s : State) : (putWord k o v s).memErr = s.memErr := by
  obtain ⟨x, h⟩ := putWord_shape k o v s; rw [h]
@[simp] theorem putWord_memKey (k o : Nat) (v : Word) (s : State) : (putWord k o v s).memKey = s.memKey := by
  obtain ⟨x, h⟩ := putWord_shape k o v s; rw [h]
@[simp] theorem putWord_spad (k o : Nat) (v : Word) (s : State) : (putWord k o v s).spad = s.spad := by
  obtain ⟨x, h⟩ := putWord_shape k o v s; rw [h]
@[simp] theorem putWord_spadEmpty (k o : Nat) (v : Word) (s : State) : (putWord k o v s).spadEmpty = s.spadEmpty := by
  obtain ⟨x, h⟩ := putWord_shape k o v s; rw [h]
@[simp] theorem putWord_spadErr (k o : Nat) (v : Word) (s : State) : (putWord k o v s).spadErr = s.spadErr := by
  obtain ⟨x, h⟩ := putWord_shape k o v s; rw [h]
@[simp] theorem putWord_lineErr (k o : Nat) (v : Word) (s : State) : (putWord k o v s).lineErr = s.lineErr := by
  obtain ⟨x, h⟩ := putWord_shape k o v s; rw [h]
@[simp] theorem putWord_shadow (k o : Nat) (v : Word) (s : State) : (putWord k o v s).shadow = s.shadow := by
  obtain ⟨x, h⟩ := putWord_shape k o v s; rw [h]
@[simp] theorem putWord_cores (k o : Nat) (v : Word) (s : State) : (putWord k o v s).cores = s.cores := by
  obtain ⟨x, h⟩ := putWord_shape k o v s; rw [h]
@[simp] theorem putWord_quads (k o : Nat) (v : Word) (s : State) : (putWord k o v s).quads = s.quads := by
  obtain ⟨x, h⟩ := putWord_shape k o v s; rw [h]
@[simp] theorem putWord_halls (k o : Nat) (v : Word) (s : State) : (putWord k o v s).halls = s.halls := by
  obtain ⟨x, h⟩ := putWord_shape k o v s; rw [h]
@[simp] theorem putWord_fns (k o : Nat) (v : Word) (s : State) : (putWord k o v s).fns = s.fns := by
  obtain ⟨x, h⟩ := putWord_shape k o v s; rw [h]
@[simp] theorem putWord_strands (k o : Nat) (v : Word) (s : State) : (putWord k o v s).strands = s.strands := by
  obtain ⟨x, h⟩ := putWord_shape k o v s; rw [h]
@[simp] theorem putWord_streams (k o : Nat) (v : Word) (s : State) : (putWord k o v s).streams = s.streams := by
  obtain ⟨x, h⟩ := putWord_shape k o v s; rw [h]
@[simp] theorem putWord_launches (k o : Nat) (v : Word) (s : State) : (putWord k o v s).launches = s.launches := by
  obtain ⟨x, h⟩ := putWord_shape k o v s; rw [h]
@[simp] theorem putWord_queues (k o : Nat) (v : Word) (s : State) : (putWord k o v s).queues = s.queues := by
  obtain ⟨x, h⟩ := putWord_shape k o v s; rw [h]
@[simp] theorem putWord_barriers (k o : Nat) (v : Word) (s : State) : (putWord k o v s).barriers = s.barriers := by
  obtain ⟨x, h⟩ := putWord_shape k o v s; rw [h]
@[simp] theorem putWord_parts (k o : Nat) (v : Word) (s : State) : (putWord k o v s).parts = s.parts := by
  obtain ⟨x, h⟩ := putWord_shape k o v s; rw [h]
@[simp] theorem putWord_circs (k o : Nat) (v : Word) (s : State) : (putWord k o v s).circs = s.circs := by
  obtain ⟨x, h⟩ := putWord_shape k o v s; rw [h]
@[simp] theorem putWord_banks (k o : Nat) (v : Word) (s : State) : (putWord k o v s).banks = s.banks := by
  obtain ⟨x, h⟩ := putWord_shape k o v s; rw [h]
@[simp] theorem putWord_entries (k o : Nat) (v : Word) (s : State) : (putWord k o v s).entries = s.entries := by
  obtain ⟨x, h⟩ := putWord_shape k o v s; rw [h]
@[simp] theorem putWord_floor (k o : Nat) (v : Word) (s : State) : (putWord k o v s).floor = s.floor := by
  obtain ⟨x, h⟩ := putWord_shape k o v s; rw [h]
@[simp] theorem putWord_owned (k o : Nat) (v : Word) (s : State) : (putWord k o v s).owned = s.owned := by
  obtain ⟨x, h⟩ := putWord_shape k o v s; rw [h]
@[simp] theorem putWord_flits (k o : Nat) (v : Word) (s : State) : (putWord k o v s).flits = s.flits := by
  obtain ⟨x, h⟩ := putWord_shape k o v s; rw [h]
@[simp] theorem putWord_reqs (k o : Nat) (v : Word) (s : State) : (putWord k o v s).reqs = s.reqs := by
  obtain ⟨x, h⟩ := putWord_shape k o v s; rw [h]
@[simp] theorem putWord_tmsgs (k o : Nat) (v : Word) (s : State) : (putWord k o v s).tmsgs = s.tmsgs := by
  obtain ⟨x, h⟩ := putWord_shape k o v s; rw [h]
@[simp] theorem putWord_walks (k o : Nat) (v : Word) (s : State) : (putWord k o v s).walks = s.walks := by
  obtain ⟨x, h⟩ := putWord_shape k o v s; rw [h]
@[simp] theorem putWord_drops (k o : Nat) (v : Word) (s : State) : (putWord k o v s).drops = s.drops := by
  obtain ⟨x, h⟩ := putWord_shape k o v s; rw [h]
@[simp] theorem putWord_ports (k o : Nat) (v : Word) (s : State) : (putWord k o v s).ports = s.ports := by
  obtain ⟨x, h⟩ := putWord_shape k o v s; rw [h]
@[simp] theorem putWord_peerMax (k o : Nat) (v : Word) (s : State) : (putWord k o v s).peerMax = s.peerMax := by
  obtain ⟨x, h⟩ := putWord_shape k o v s; rw [h]
@[simp] theorem putWord_islands (k o : Nat) (v : Word) (s : State) : (putWord k o v s).islands = s.islands := by
  obtain ⟨x, h⟩ := putWord_shape k o v s; rw [h]
@[simp] theorem putWord_newel (k o : Nat) (v : Word) (s : State) : (putWord k o v s).newel = s.newel := by
  obtain ⟨x, h⟩ := putWord_shape k o v s; rw [h]
@[simp] theorem putWord_moves (k o : Nat) (v : Word) (s : State) : (putWord k o v s).moves = s.moves := by
  obtain ⟨x, h⟩ := putWord_shape k o v s; rw [h]
@[simp] theorem putWord_lastMove (k o : Nat) (v : Word) (s : State) : (putWord k o v s).lastMove = s.lastMove := by
  obtain ⟨x, h⟩ := putWord_shape k o v s; rw [h]
@[simp] theorem putWord_snap (k o : Nat) (v : Word) (s : State) : (putWord k o v s).snap = s.snap := by
  obtain ⟨x, h⟩ := putWord_shape k o v s; rw [h]
@[simp] theorem putWord_zeroing (k o : Nat) (v : Word) (s : State) : (putWord k o v s).zeroing = s.zeroing := by
  obtain ⟨x, h⟩ := putWord_shape k o v s; rw [h]
@[simp] theorem putWord_outbox (k o : Nat) (v : Word) (s : State) : (putWord k o v s).outbox = s.outbox := by
  obtain ⟨x, h⟩ := putWord_shape k o v s; rw [h]
@[simp] theorem putWord_nextId (k o : Nat) (v : Word) (s : State) : (putWord k o v s).nextId = s.nextId := by
  obtain ⟨x, h⟩ := putWord_shape k o v s; rw [h]
@[simp] theorem putWord_fresh (k o : Nat) (v : Word) (s : State) : (putWord k o v s).fresh = s.fresh := by
  obtain ⟨x, h⟩ := putWord_shape k o v s; rw [h]
@[simp] theorem putWord_meter (k o : Nat) (v : Word) (s : State) : (putWord k o v s).meter = s.meter := by
  obtain ⟨x, h⟩ := putWord_shape k o v s; rw [h]

/-! ### putWordAnywhere -/

/-- All that putWordAnywhere can change. -/
theorem putWordAnywhere_shape (k o h : Nat) (v : Word) (s : State) :
    ∃ x, putWordAnywhere k o h v s = { s with lines := x } := by
  unfold putWordAnywhere
  dsimp only
  split <;> exact ⟨_, rfl⟩
@[simp] theorem putWordAnywhere_wheel (k o h : Nat) (v : Word) (s : State) : (putWordAnywhere k o h v s).wheel = s.wheel := by
  obtain ⟨x, h⟩ := putWordAnywhere_shape k o h v s; rw [h]
@[simp] theorem putWordAnywhere_agenda (k o h : Nat) (v : Word) (s : State) : (putWordAnywhere k o h v s).agenda = s.agenda := by
  obtain ⟨x, h⟩ := putWordAnywhere_shape k o h v s; rw [h]
@[simp] theorem putWordAnywhere_ev (k o h : Nat) (v : Word) (s : State) : (putWordAnywhere k o h v s).ev = s.ev := by
  obtain ⟨x, h⟩ := putWordAnywhere_shape k o h v s; rw [h]
@[simp] theorem putWordAnywhere_issue (k o h : Nat) (v : Word) (s : State) : (putWordAnywhere k o h v s).issue = s.issue := by
  obtain ⟨x, h⟩ := putWordAnywhere_shape k o h v s; rw [h]
@[simp] theorem putWordAnywhere_phase (k o h : Nat) (v : Word) (s : State) : (putWordAnywhere k o h v s).phase = s.phase := by
  obtain ⟨x, h⟩ := putWordAnywhere_shape k o h v s; rw [h]
@[simp] theorem putWordAnywhere_power (k o h : Nat) (v : Word) (s : State) : (putWordAnywhere k o h v s).power = s.power := by
  obtain ⟨x, h⟩ := putWordAnywhere_shape k o h v s; rw [h]
@[simp] theorem putWordAnywhere_ctl (k o h : Nat) (v : Word) (s : State) : (putWordAnywhere k o h v s).ctl = s.ctl := by
  obtain ⟨x, h⟩ := putWordAnywhere_shape k o h v s; rw [h]
@[simp] theorem putWordAnywhere_mw0 (k o h : Nat) (v : Word) (s : State) : (putWordAnywhere k o h v s).mw0 = s.mw0 := by
  obtain ⟨x, h⟩ := putWordAnywhere_shape k o h v s; rw [h]
@[simp] theorem putWordAnywhere_mem (k o h : Nat) (v : Word) (s : State) : (putWordAnywhere k o h v s).mem = s.mem := by
  obtain ⟨x, h⟩ := putWordAnywhere_shape k o h v s; rw [h]
@[simp] theorem putWordAnywhere_memTags (k o h : Nat) (v : Word) (s : State) : (putWordAnywhere k o h v s).memTags = s.memTags := by
  obtain ⟨x, h⟩ := putWordAnywhere_shape k o h v s; rw [h]
@[simp] theorem putWordAnywhere_memEmpty (k o h : Nat) (v : Word) (s : State) : (putWordAnywhere k o h v s).memEmpty = s.memEmpty := by
  obtain ⟨x, h⟩ := putWordAnywhere_shape k o h v s; rw [h]
@[simp] theorem putWordAnywhere_memErr (k o h : Nat) (v : Word) (s : State) : (putWordAnywhere k o h v s).memErr = s.memErr := by
  obtain ⟨x, h⟩ := putWordAnywhere_shape k o h v s; rw [h]
@[simp] theorem putWordAnywhere_memKey (k o h : Nat) (v : Word) (s : State) : (putWordAnywhere k o h v s).memKey = s.memKey := by
  obtain ⟨x, h⟩ := putWordAnywhere_shape k o h v s; rw [h]
@[simp] theorem putWordAnywhere_spad (k o h : Nat) (v : Word) (s : State) : (putWordAnywhere k o h v s).spad = s.spad := by
  obtain ⟨x, h⟩ := putWordAnywhere_shape k o h v s; rw [h]
@[simp] theorem putWordAnywhere_spadEmpty (k o h : Nat) (v : Word) (s : State) : (putWordAnywhere k o h v s).spadEmpty = s.spadEmpty := by
  obtain ⟨x, h⟩ := putWordAnywhere_shape k o h v s; rw [h]
@[simp] theorem putWordAnywhere_spadErr (k o h : Nat) (v : Word) (s : State) : (putWordAnywhere k o h v s).spadErr = s.spadErr := by
  obtain ⟨x, h⟩ := putWordAnywhere_shape k o h v s; rw [h]
@[simp] theorem putWordAnywhere_lineErr (k o h : Nat) (v : Word) (s : State) : (putWordAnywhere k o h v s).lineErr = s.lineErr := by
  obtain ⟨x, h⟩ := putWordAnywhere_shape k o h v s; rw [h]
@[simp] theorem putWordAnywhere_shadow (k o h : Nat) (v : Word) (s : State) : (putWordAnywhere k o h v s).shadow = s.shadow := by
  obtain ⟨x, h⟩ := putWordAnywhere_shape k o h v s; rw [h]
@[simp] theorem putWordAnywhere_cores (k o h : Nat) (v : Word) (s : State) : (putWordAnywhere k o h v s).cores = s.cores := by
  obtain ⟨x, h⟩ := putWordAnywhere_shape k o h v s; rw [h]
@[simp] theorem putWordAnywhere_quads (k o h : Nat) (v : Word) (s : State) : (putWordAnywhere k o h v s).quads = s.quads := by
  obtain ⟨x, h⟩ := putWordAnywhere_shape k o h v s; rw [h]
@[simp] theorem putWordAnywhere_halls (k o h : Nat) (v : Word) (s : State) : (putWordAnywhere k o h v s).halls = s.halls := by
  obtain ⟨x, h⟩ := putWordAnywhere_shape k o h v s; rw [h]
@[simp] theorem putWordAnywhere_fns (k o h : Nat) (v : Word) (s : State) : (putWordAnywhere k o h v s).fns = s.fns := by
  obtain ⟨x, h⟩ := putWordAnywhere_shape k o h v s; rw [h]
@[simp] theorem putWordAnywhere_strands (k o h : Nat) (v : Word) (s : State) : (putWordAnywhere k o h v s).strands = s.strands := by
  obtain ⟨x, h⟩ := putWordAnywhere_shape k o h v s; rw [h]
@[simp] theorem putWordAnywhere_streams (k o h : Nat) (v : Word) (s : State) : (putWordAnywhere k o h v s).streams = s.streams := by
  obtain ⟨x, h⟩ := putWordAnywhere_shape k o h v s; rw [h]
@[simp] theorem putWordAnywhere_launches (k o h : Nat) (v : Word) (s : State) : (putWordAnywhere k o h v s).launches = s.launches := by
  obtain ⟨x, h⟩ := putWordAnywhere_shape k o h v s; rw [h]
@[simp] theorem putWordAnywhere_queues (k o h : Nat) (v : Word) (s : State) : (putWordAnywhere k o h v s).queues = s.queues := by
  obtain ⟨x, h⟩ := putWordAnywhere_shape k o h v s; rw [h]
@[simp] theorem putWordAnywhere_barriers (k o h : Nat) (v : Word) (s : State) : (putWordAnywhere k o h v s).barriers = s.barriers := by
  obtain ⟨x, h⟩ := putWordAnywhere_shape k o h v s; rw [h]
@[simp] theorem putWordAnywhere_parts (k o h : Nat) (v : Word) (s : State) : (putWordAnywhere k o h v s).parts = s.parts := by
  obtain ⟨x, h⟩ := putWordAnywhere_shape k o h v s; rw [h]
@[simp] theorem putWordAnywhere_circs (k o h : Nat) (v : Word) (s : State) : (putWordAnywhere k o h v s).circs = s.circs := by
  obtain ⟨x, h⟩ := putWordAnywhere_shape k o h v s; rw [h]
@[simp] theorem putWordAnywhere_banks (k o h : Nat) (v : Word) (s : State) : (putWordAnywhere k o h v s).banks = s.banks := by
  obtain ⟨x, h⟩ := putWordAnywhere_shape k o h v s; rw [h]
@[simp] theorem putWordAnywhere_entries (k o h : Nat) (v : Word) (s : State) : (putWordAnywhere k o h v s).entries = s.entries := by
  obtain ⟨x, h⟩ := putWordAnywhere_shape k o h v s; rw [h]
@[simp] theorem putWordAnywhere_floor (k o h : Nat) (v : Word) (s : State) : (putWordAnywhere k o h v s).floor = s.floor := by
  obtain ⟨x, h⟩ := putWordAnywhere_shape k o h v s; rw [h]
@[simp] theorem putWordAnywhere_owned (k o h : Nat) (v : Word) (s : State) : (putWordAnywhere k o h v s).owned = s.owned := by
  obtain ⟨x, h⟩ := putWordAnywhere_shape k o h v s; rw [h]
@[simp] theorem putWordAnywhere_flits (k o h : Nat) (v : Word) (s : State) : (putWordAnywhere k o h v s).flits = s.flits := by
  obtain ⟨x, h⟩ := putWordAnywhere_shape k o h v s; rw [h]
@[simp] theorem putWordAnywhere_reqs (k o h : Nat) (v : Word) (s : State) : (putWordAnywhere k o h v s).reqs = s.reqs := by
  obtain ⟨x, h⟩ := putWordAnywhere_shape k o h v s; rw [h]
@[simp] theorem putWordAnywhere_tmsgs (k o h : Nat) (v : Word) (s : State) : (putWordAnywhere k o h v s).tmsgs = s.tmsgs := by
  obtain ⟨x, h⟩ := putWordAnywhere_shape k o h v s; rw [h]
@[simp] theorem putWordAnywhere_walks (k o h : Nat) (v : Word) (s : State) : (putWordAnywhere k o h v s).walks = s.walks := by
  obtain ⟨x, h⟩ := putWordAnywhere_shape k o h v s; rw [h]
@[simp] theorem putWordAnywhere_drops (k o h : Nat) (v : Word) (s : State) : (putWordAnywhere k o h v s).drops = s.drops := by
  obtain ⟨x, h⟩ := putWordAnywhere_shape k o h v s; rw [h]
@[simp] theorem putWordAnywhere_ports (k o h : Nat) (v : Word) (s : State) : (putWordAnywhere k o h v s).ports = s.ports := by
  obtain ⟨x, h⟩ := putWordAnywhere_shape k o h v s; rw [h]
@[simp] theorem putWordAnywhere_peerMax (k o h : Nat) (v : Word) (s : State) : (putWordAnywhere k o h v s).peerMax = s.peerMax := by
  obtain ⟨x, h⟩ := putWordAnywhere_shape k o h v s; rw [h]
@[simp] theorem putWordAnywhere_islands (k o h : Nat) (v : Word) (s : State) : (putWordAnywhere k o h v s).islands = s.islands := by
  obtain ⟨x, h⟩ := putWordAnywhere_shape k o h v s; rw [h]
@[simp] theorem putWordAnywhere_newel (k o h : Nat) (v : Word) (s : State) : (putWordAnywhere k o h v s).newel = s.newel := by
  obtain ⟨x, h⟩ := putWordAnywhere_shape k o h v s; rw [h]
@[simp] theorem putWordAnywhere_moves (k o h : Nat) (v : Word) (s : State) : (putWordAnywhere k o h v s).moves = s.moves := by
  obtain ⟨x, h⟩ := putWordAnywhere_shape k o h v s; rw [h]
@[simp] theorem putWordAnywhere_lastMove (k o h : Nat) (v : Word) (s : State) : (putWordAnywhere k o h v s).lastMove = s.lastMove := by
  obtain ⟨x, h⟩ := putWordAnywhere_shape k o h v s; rw [h]
@[simp] theorem putWordAnywhere_snap (k o h : Nat) (v : Word) (s : State) : (putWordAnywhere k o h v s).snap = s.snap := by
  obtain ⟨x, h⟩ := putWordAnywhere_shape k o h v s; rw [h]
@[simp] theorem putWordAnywhere_zeroing (k o h : Nat) (v : Word) (s : State) : (putWordAnywhere k o h v s).zeroing = s.zeroing := by
  obtain ⟨x, h⟩ := putWordAnywhere_shape k o h v s; rw [h]
@[simp] theorem putWordAnywhere_outbox (k o h : Nat) (v : Word) (s : State) : (putWordAnywhere k o h v s).outbox = s.outbox := by
  obtain ⟨x, h⟩ := putWordAnywhere_shape k o h v s; rw [h]
@[simp] theorem putWordAnywhere_nextId (k o h : Nat) (v : Word) (s : State) : (putWordAnywhere k o h v s).nextId = s.nextId := by
  obtain ⟨x, h⟩ := putWordAnywhere_shape k o h v s; rw [h]
@[simp] theorem putWordAnywhere_fresh (k o h : Nat) (v : Word) (s : State) : (putWordAnywhere k o h v s).fresh = s.fresh := by
  obtain ⟨x, h⟩ := putWordAnywhere_shape k o h v s; rw [h]
@[simp] theorem putWordAnywhere_meter (k o h : Nat) (v : Word) (s : State) : (putWordAnywhere k o h v s).meter = s.meter := by
  obtain ⟨x, h⟩ := putWordAnywhere_shape k o h v s; rw [h]

/-! ### setHdr -/

/-- All that setHdr can change. -/
theorem setHdr_shape (k i : Nat) (v : Word) (s : State) :
    ∃ x, setHdr k i v s = { s with lines := x } := putWordAnywhere_shape _ _ _ _ s
@[simp] theorem setHdr_wheel (k i : Nat) (v : Word) (s : State) : (setHdr k i v s).wheel = s.wheel := by
  obtain ⟨x, h⟩ := setHdr_shape k i v s; rw [h]
@[simp] theorem setHdr_agenda (k i : Nat) (v : Word) (s : State) : (setHdr k i v s).agenda = s.agenda := by
  obtain ⟨x, h⟩ := setHdr_shape k i v s; rw [h]
@[simp] theorem setHdr_ev (k i : Nat) (v : Word) (s : State) : (setHdr k i v s).ev = s.ev := by
  obtain ⟨x, h⟩ := setHdr_shape k i v s; rw [h]
@[simp] theorem setHdr_issue (k i : Nat) (v : Word) (s : State) : (setHdr k i v s).issue = s.issue := by
  obtain ⟨x, h⟩ := setHdr_shape k i v s; rw [h]
@[simp] theorem setHdr_phase (k i : Nat) (v : Word) (s : State) : (setHdr k i v s).phase = s.phase := by
  obtain ⟨x, h⟩ := setHdr_shape k i v s; rw [h]
@[simp] theorem setHdr_power (k i : Nat) (v : Word) (s : State) : (setHdr k i v s).power = s.power := by
  obtain ⟨x, h⟩ := setHdr_shape k i v s; rw [h]
@[simp] theorem setHdr_ctl (k i : Nat) (v : Word) (s : State) : (setHdr k i v s).ctl = s.ctl := by
  obtain ⟨x, h⟩ := setHdr_shape k i v s; rw [h]
@[simp] theorem setHdr_mw0 (k i : Nat) (v : Word) (s : State) : (setHdr k i v s).mw0 = s.mw0 := by
  obtain ⟨x, h⟩ := setHdr_shape k i v s; rw [h]
@[simp] theorem setHdr_mem (k i : Nat) (v : Word) (s : State) : (setHdr k i v s).mem = s.mem := by
  obtain ⟨x, h⟩ := setHdr_shape k i v s; rw [h]
@[simp] theorem setHdr_memTags (k i : Nat) (v : Word) (s : State) : (setHdr k i v s).memTags = s.memTags := by
  obtain ⟨x, h⟩ := setHdr_shape k i v s; rw [h]
@[simp] theorem setHdr_memEmpty (k i : Nat) (v : Word) (s : State) : (setHdr k i v s).memEmpty = s.memEmpty := by
  obtain ⟨x, h⟩ := setHdr_shape k i v s; rw [h]
@[simp] theorem setHdr_memErr (k i : Nat) (v : Word) (s : State) : (setHdr k i v s).memErr = s.memErr := by
  obtain ⟨x, h⟩ := setHdr_shape k i v s; rw [h]
@[simp] theorem setHdr_memKey (k i : Nat) (v : Word) (s : State) : (setHdr k i v s).memKey = s.memKey := by
  obtain ⟨x, h⟩ := setHdr_shape k i v s; rw [h]
@[simp] theorem setHdr_spad (k i : Nat) (v : Word) (s : State) : (setHdr k i v s).spad = s.spad := by
  obtain ⟨x, h⟩ := setHdr_shape k i v s; rw [h]
@[simp] theorem setHdr_spadEmpty (k i : Nat) (v : Word) (s : State) : (setHdr k i v s).spadEmpty = s.spadEmpty := by
  obtain ⟨x, h⟩ := setHdr_shape k i v s; rw [h]
@[simp] theorem setHdr_spadErr (k i : Nat) (v : Word) (s : State) : (setHdr k i v s).spadErr = s.spadErr := by
  obtain ⟨x, h⟩ := setHdr_shape k i v s; rw [h]
@[simp] theorem setHdr_lineErr (k i : Nat) (v : Word) (s : State) : (setHdr k i v s).lineErr = s.lineErr := by
  obtain ⟨x, h⟩ := setHdr_shape k i v s; rw [h]
@[simp] theorem setHdr_shadow (k i : Nat) (v : Word) (s : State) : (setHdr k i v s).shadow = s.shadow := by
  obtain ⟨x, h⟩ := setHdr_shape k i v s; rw [h]
@[simp] theorem setHdr_cores (k i : Nat) (v : Word) (s : State) : (setHdr k i v s).cores = s.cores := by
  obtain ⟨x, h⟩ := setHdr_shape k i v s; rw [h]
@[simp] theorem setHdr_quads (k i : Nat) (v : Word) (s : State) : (setHdr k i v s).quads = s.quads := by
  obtain ⟨x, h⟩ := setHdr_shape k i v s; rw [h]
@[simp] theorem setHdr_halls (k i : Nat) (v : Word) (s : State) : (setHdr k i v s).halls = s.halls := by
  obtain ⟨x, h⟩ := setHdr_shape k i v s; rw [h]
@[simp] theorem setHdr_fns (k i : Nat) (v : Word) (s : State) : (setHdr k i v s).fns = s.fns := by
  obtain ⟨x, h⟩ := setHdr_shape k i v s; rw [h]
@[simp] theorem setHdr_strands (k i : Nat) (v : Word) (s : State) : (setHdr k i v s).strands = s.strands := by
  obtain ⟨x, h⟩ := setHdr_shape k i v s; rw [h]
@[simp] theorem setHdr_streams (k i : Nat) (v : Word) (s : State) : (setHdr k i v s).streams = s.streams := by
  obtain ⟨x, h⟩ := setHdr_shape k i v s; rw [h]
@[simp] theorem setHdr_launches (k i : Nat) (v : Word) (s : State) : (setHdr k i v s).launches = s.launches := by
  obtain ⟨x, h⟩ := setHdr_shape k i v s; rw [h]
@[simp] theorem setHdr_queues (k i : Nat) (v : Word) (s : State) : (setHdr k i v s).queues = s.queues := by
  obtain ⟨x, h⟩ := setHdr_shape k i v s; rw [h]
@[simp] theorem setHdr_barriers (k i : Nat) (v : Word) (s : State) : (setHdr k i v s).barriers = s.barriers := by
  obtain ⟨x, h⟩ := setHdr_shape k i v s; rw [h]
@[simp] theorem setHdr_parts (k i : Nat) (v : Word) (s : State) : (setHdr k i v s).parts = s.parts := by
  obtain ⟨x, h⟩ := setHdr_shape k i v s; rw [h]
@[simp] theorem setHdr_circs (k i : Nat) (v : Word) (s : State) : (setHdr k i v s).circs = s.circs := by
  obtain ⟨x, h⟩ := setHdr_shape k i v s; rw [h]
@[simp] theorem setHdr_banks (k i : Nat) (v : Word) (s : State) : (setHdr k i v s).banks = s.banks := by
  obtain ⟨x, h⟩ := setHdr_shape k i v s; rw [h]
@[simp] theorem setHdr_entries (k i : Nat) (v : Word) (s : State) : (setHdr k i v s).entries = s.entries := by
  obtain ⟨x, h⟩ := setHdr_shape k i v s; rw [h]
@[simp] theorem setHdr_floor (k i : Nat) (v : Word) (s : State) : (setHdr k i v s).floor = s.floor := by
  obtain ⟨x, h⟩ := setHdr_shape k i v s; rw [h]
@[simp] theorem setHdr_owned (k i : Nat) (v : Word) (s : State) : (setHdr k i v s).owned = s.owned := by
  obtain ⟨x, h⟩ := setHdr_shape k i v s; rw [h]
@[simp] theorem setHdr_flits (k i : Nat) (v : Word) (s : State) : (setHdr k i v s).flits = s.flits := by
  obtain ⟨x, h⟩ := setHdr_shape k i v s; rw [h]
@[simp] theorem setHdr_reqs (k i : Nat) (v : Word) (s : State) : (setHdr k i v s).reqs = s.reqs := by
  obtain ⟨x, h⟩ := setHdr_shape k i v s; rw [h]
@[simp] theorem setHdr_tmsgs (k i : Nat) (v : Word) (s : State) : (setHdr k i v s).tmsgs = s.tmsgs := by
  obtain ⟨x, h⟩ := setHdr_shape k i v s; rw [h]
@[simp] theorem setHdr_walks (k i : Nat) (v : Word) (s : State) : (setHdr k i v s).walks = s.walks := by
  obtain ⟨x, h⟩ := setHdr_shape k i v s; rw [h]
@[simp] theorem setHdr_drops (k i : Nat) (v : Word) (s : State) : (setHdr k i v s).drops = s.drops := by
  obtain ⟨x, h⟩ := setHdr_shape k i v s; rw [h]
@[simp] theorem setHdr_ports (k i : Nat) (v : Word) (s : State) : (setHdr k i v s).ports = s.ports := by
  obtain ⟨x, h⟩ := setHdr_shape k i v s; rw [h]
@[simp] theorem setHdr_peerMax (k i : Nat) (v : Word) (s : State) : (setHdr k i v s).peerMax = s.peerMax := by
  obtain ⟨x, h⟩ := setHdr_shape k i v s; rw [h]
@[simp] theorem setHdr_islands (k i : Nat) (v : Word) (s : State) : (setHdr k i v s).islands = s.islands := by
  obtain ⟨x, h⟩ := setHdr_shape k i v s; rw [h]
@[simp] theorem setHdr_newel (k i : Nat) (v : Word) (s : State) : (setHdr k i v s).newel = s.newel := by
  obtain ⟨x, h⟩ := setHdr_shape k i v s; rw [h]
@[simp] theorem setHdr_moves (k i : Nat) (v : Word) (s : State) : (setHdr k i v s).moves = s.moves := by
  obtain ⟨x, h⟩ := setHdr_shape k i v s; rw [h]
@[simp] theorem setHdr_lastMove (k i : Nat) (v : Word) (s : State) : (setHdr k i v s).lastMove = s.lastMove := by
  obtain ⟨x, h⟩ := setHdr_shape k i v s; rw [h]
@[simp] theorem setHdr_snap (k i : Nat) (v : Word) (s : State) : (setHdr k i v s).snap = s.snap := by
  obtain ⟨x, h⟩ := setHdr_shape k i v s; rw [h]
@[simp] theorem setHdr_zeroing (k i : Nat) (v : Word) (s : State) : (setHdr k i v s).zeroing = s.zeroing := by
  obtain ⟨x, h⟩ := setHdr_shape k i v s; rw [h]
@[simp] theorem setHdr_outbox (k i : Nat) (v : Word) (s : State) : (setHdr k i v s).outbox = s.outbox := by
  obtain ⟨x, h⟩ := setHdr_shape k i v s; rw [h]
@[simp] theorem setHdr_nextId (k i : Nat) (v : Word) (s : State) : (setHdr k i v s).nextId = s.nextId := by
  obtain ⟨x, h⟩ := setHdr_shape k i v s; rw [h]
@[simp] theorem setHdr_fresh (k i : Nat) (v : Word) (s : State) : (setHdr k i v s).fresh = s.fresh := by
  obtain ⟨x, h⟩ := setHdr_shape k i v s; rw [h]
@[simp] theorem setHdr_meter (k i : Nat) (v : Word) (s : State) : (setHdr k i v s).meter = s.meter := by
  obtain ⟨x, h⟩ := setHdr_shape k i v s; rw [h]

/-! ### setHdrN -/

/-- All that setHdrN can change. -/
theorem setHdrN_shape (k i lo n v : Nat) (s : State) :
    ∃ x, setHdrN k i lo n v s = { s with lines := x } := putWordAnywhere_shape _ _ _ _ s
@[simp] theorem setHdrN_wheel (k i lo n v : Nat) (s : State) : (setHdrN k i lo n v s).wheel = s.wheel := by
  obtain ⟨x, h⟩ := setHdrN_shape k i lo n v s; rw [h]
@[simp] theorem setHdrN_agenda (k i lo n v : Nat) (s : State) : (setHdrN k i lo n v s).agenda = s.agenda := by
  obtain ⟨x, h⟩ := setHdrN_shape k i lo n v s; rw [h]
@[simp] theorem setHdrN_ev (k i lo n v : Nat) (s : State) : (setHdrN k i lo n v s).ev = s.ev := by
  obtain ⟨x, h⟩ := setHdrN_shape k i lo n v s; rw [h]
@[simp] theorem setHdrN_issue (k i lo n v : Nat) (s : State) : (setHdrN k i lo n v s).issue = s.issue := by
  obtain ⟨x, h⟩ := setHdrN_shape k i lo n v s; rw [h]
@[simp] theorem setHdrN_phase (k i lo n v : Nat) (s : State) : (setHdrN k i lo n v s).phase = s.phase := by
  obtain ⟨x, h⟩ := setHdrN_shape k i lo n v s; rw [h]
@[simp] theorem setHdrN_power (k i lo n v : Nat) (s : State) : (setHdrN k i lo n v s).power = s.power := by
  obtain ⟨x, h⟩ := setHdrN_shape k i lo n v s; rw [h]
@[simp] theorem setHdrN_ctl (k i lo n v : Nat) (s : State) : (setHdrN k i lo n v s).ctl = s.ctl := by
  obtain ⟨x, h⟩ := setHdrN_shape k i lo n v s; rw [h]
@[simp] theorem setHdrN_mw0 (k i lo n v : Nat) (s : State) : (setHdrN k i lo n v s).mw0 = s.mw0 := by
  obtain ⟨x, h⟩ := setHdrN_shape k i lo n v s; rw [h]
@[simp] theorem setHdrN_mem (k i lo n v : Nat) (s : State) : (setHdrN k i lo n v s).mem = s.mem := by
  obtain ⟨x, h⟩ := setHdrN_shape k i lo n v s; rw [h]
@[simp] theorem setHdrN_memTags (k i lo n v : Nat) (s : State) : (setHdrN k i lo n v s).memTags = s.memTags := by
  obtain ⟨x, h⟩ := setHdrN_shape k i lo n v s; rw [h]
@[simp] theorem setHdrN_memEmpty (k i lo n v : Nat) (s : State) : (setHdrN k i lo n v s).memEmpty = s.memEmpty := by
  obtain ⟨x, h⟩ := setHdrN_shape k i lo n v s; rw [h]
@[simp] theorem setHdrN_memErr (k i lo n v : Nat) (s : State) : (setHdrN k i lo n v s).memErr = s.memErr := by
  obtain ⟨x, h⟩ := setHdrN_shape k i lo n v s; rw [h]
@[simp] theorem setHdrN_memKey (k i lo n v : Nat) (s : State) : (setHdrN k i lo n v s).memKey = s.memKey := by
  obtain ⟨x, h⟩ := setHdrN_shape k i lo n v s; rw [h]
@[simp] theorem setHdrN_spad (k i lo n v : Nat) (s : State) : (setHdrN k i lo n v s).spad = s.spad := by
  obtain ⟨x, h⟩ := setHdrN_shape k i lo n v s; rw [h]
@[simp] theorem setHdrN_spadEmpty (k i lo n v : Nat) (s : State) : (setHdrN k i lo n v s).spadEmpty = s.spadEmpty := by
  obtain ⟨x, h⟩ := setHdrN_shape k i lo n v s; rw [h]
@[simp] theorem setHdrN_spadErr (k i lo n v : Nat) (s : State) : (setHdrN k i lo n v s).spadErr = s.spadErr := by
  obtain ⟨x, h⟩ := setHdrN_shape k i lo n v s; rw [h]
@[simp] theorem setHdrN_lineErr (k i lo n v : Nat) (s : State) : (setHdrN k i lo n v s).lineErr = s.lineErr := by
  obtain ⟨x, h⟩ := setHdrN_shape k i lo n v s; rw [h]
@[simp] theorem setHdrN_shadow (k i lo n v : Nat) (s : State) : (setHdrN k i lo n v s).shadow = s.shadow := by
  obtain ⟨x, h⟩ := setHdrN_shape k i lo n v s; rw [h]
@[simp] theorem setHdrN_cores (k i lo n v : Nat) (s : State) : (setHdrN k i lo n v s).cores = s.cores := by
  obtain ⟨x, h⟩ := setHdrN_shape k i lo n v s; rw [h]
@[simp] theorem setHdrN_quads (k i lo n v : Nat) (s : State) : (setHdrN k i lo n v s).quads = s.quads := by
  obtain ⟨x, h⟩ := setHdrN_shape k i lo n v s; rw [h]
@[simp] theorem setHdrN_halls (k i lo n v : Nat) (s : State) : (setHdrN k i lo n v s).halls = s.halls := by
  obtain ⟨x, h⟩ := setHdrN_shape k i lo n v s; rw [h]
@[simp] theorem setHdrN_fns (k i lo n v : Nat) (s : State) : (setHdrN k i lo n v s).fns = s.fns := by
  obtain ⟨x, h⟩ := setHdrN_shape k i lo n v s; rw [h]
@[simp] theorem setHdrN_strands (k i lo n v : Nat) (s : State) : (setHdrN k i lo n v s).strands = s.strands := by
  obtain ⟨x, h⟩ := setHdrN_shape k i lo n v s; rw [h]
@[simp] theorem setHdrN_streams (k i lo n v : Nat) (s : State) : (setHdrN k i lo n v s).streams = s.streams := by
  obtain ⟨x, h⟩ := setHdrN_shape k i lo n v s; rw [h]
@[simp] theorem setHdrN_launches (k i lo n v : Nat) (s : State) : (setHdrN k i lo n v s).launches = s.launches := by
  obtain ⟨x, h⟩ := setHdrN_shape k i lo n v s; rw [h]
@[simp] theorem setHdrN_queues (k i lo n v : Nat) (s : State) : (setHdrN k i lo n v s).queues = s.queues := by
  obtain ⟨x, h⟩ := setHdrN_shape k i lo n v s; rw [h]
@[simp] theorem setHdrN_barriers (k i lo n v : Nat) (s : State) : (setHdrN k i lo n v s).barriers = s.barriers := by
  obtain ⟨x, h⟩ := setHdrN_shape k i lo n v s; rw [h]
@[simp] theorem setHdrN_parts (k i lo n v : Nat) (s : State) : (setHdrN k i lo n v s).parts = s.parts := by
  obtain ⟨x, h⟩ := setHdrN_shape k i lo n v s; rw [h]
@[simp] theorem setHdrN_circs (k i lo n v : Nat) (s : State) : (setHdrN k i lo n v s).circs = s.circs := by
  obtain ⟨x, h⟩ := setHdrN_shape k i lo n v s; rw [h]
@[simp] theorem setHdrN_banks (k i lo n v : Nat) (s : State) : (setHdrN k i lo n v s).banks = s.banks := by
  obtain ⟨x, h⟩ := setHdrN_shape k i lo n v s; rw [h]
@[simp] theorem setHdrN_entries (k i lo n v : Nat) (s : State) : (setHdrN k i lo n v s).entries = s.entries := by
  obtain ⟨x, h⟩ := setHdrN_shape k i lo n v s; rw [h]
@[simp] theorem setHdrN_floor (k i lo n v : Nat) (s : State) : (setHdrN k i lo n v s).floor = s.floor := by
  obtain ⟨x, h⟩ := setHdrN_shape k i lo n v s; rw [h]
@[simp] theorem setHdrN_owned (k i lo n v : Nat) (s : State) : (setHdrN k i lo n v s).owned = s.owned := by
  obtain ⟨x, h⟩ := setHdrN_shape k i lo n v s; rw [h]
@[simp] theorem setHdrN_flits (k i lo n v : Nat) (s : State) : (setHdrN k i lo n v s).flits = s.flits := by
  obtain ⟨x, h⟩ := setHdrN_shape k i lo n v s; rw [h]
@[simp] theorem setHdrN_reqs (k i lo n v : Nat) (s : State) : (setHdrN k i lo n v s).reqs = s.reqs := by
  obtain ⟨x, h⟩ := setHdrN_shape k i lo n v s; rw [h]
@[simp] theorem setHdrN_tmsgs (k i lo n v : Nat) (s : State) : (setHdrN k i lo n v s).tmsgs = s.tmsgs := by
  obtain ⟨x, h⟩ := setHdrN_shape k i lo n v s; rw [h]
@[simp] theorem setHdrN_walks (k i lo n v : Nat) (s : State) : (setHdrN k i lo n v s).walks = s.walks := by
  obtain ⟨x, h⟩ := setHdrN_shape k i lo n v s; rw [h]
@[simp] theorem setHdrN_drops (k i lo n v : Nat) (s : State) : (setHdrN k i lo n v s).drops = s.drops := by
  obtain ⟨x, h⟩ := setHdrN_shape k i lo n v s; rw [h]
@[simp] theorem setHdrN_ports (k i lo n v : Nat) (s : State) : (setHdrN k i lo n v s).ports = s.ports := by
  obtain ⟨x, h⟩ := setHdrN_shape k i lo n v s; rw [h]
@[simp] theorem setHdrN_peerMax (k i lo n v : Nat) (s : State) : (setHdrN k i lo n v s).peerMax = s.peerMax := by
  obtain ⟨x, h⟩ := setHdrN_shape k i lo n v s; rw [h]
@[simp] theorem setHdrN_islands (k i lo n v : Nat) (s : State) : (setHdrN k i lo n v s).islands = s.islands := by
  obtain ⟨x, h⟩ := setHdrN_shape k i lo n v s; rw [h]
@[simp] theorem setHdrN_newel (k i lo n v : Nat) (s : State) : (setHdrN k i lo n v s).newel = s.newel := by
  obtain ⟨x, h⟩ := setHdrN_shape k i lo n v s; rw [h]
@[simp] theorem setHdrN_moves (k i lo n v : Nat) (s : State) : (setHdrN k i lo n v s).moves = s.moves := by
  obtain ⟨x, h⟩ := setHdrN_shape k i lo n v s; rw [h]
@[simp] theorem setHdrN_lastMove (k i lo n v : Nat) (s : State) : (setHdrN k i lo n v s).lastMove = s.lastMove := by
  obtain ⟨x, h⟩ := setHdrN_shape k i lo n v s; rw [h]
@[simp] theorem setHdrN_snap (k i lo n v : Nat) (s : State) : (setHdrN k i lo n v s).snap = s.snap := by
  obtain ⟨x, h⟩ := setHdrN_shape k i lo n v s; rw [h]
@[simp] theorem setHdrN_zeroing (k i lo n v : Nat) (s : State) : (setHdrN k i lo n v s).zeroing = s.zeroing := by
  obtain ⟨x, h⟩ := setHdrN_shape k i lo n v s; rw [h]
@[simp] theorem setHdrN_outbox (k i lo n v : Nat) (s : State) : (setHdrN k i lo n v s).outbox = s.outbox := by
  obtain ⟨x, h⟩ := setHdrN_shape k i lo n v s; rw [h]
@[simp] theorem setHdrN_nextId (k i lo n v : Nat) (s : State) : (setHdrN k i lo n v s).nextId = s.nextId := by
  obtain ⟨x, h⟩ := setHdrN_shape k i lo n v s; rw [h]
@[simp] theorem setHdrN_fresh (k i lo n v : Nat) (s : State) : (setHdrN k i lo n v s).fresh = s.fresh := by
  obtain ⟨x, h⟩ := setHdrN_shape k i lo n v s; rw [h]
@[simp] theorem setHdrN_meter (k i lo n v : Nat) (s : State) : (setHdrN k i lo n v s).meter = s.meter := by
  obtain ⟨x, h⟩ := setHdrN_shape k i lo n v s; rw [h]

/-! ### setFull -/

/-- All that setFull can change. -/
theorem setFull_shape (k code : Nat) (b : Bool) (s : State) :
    ∃ x, setFull k code b s = { s with lines := x } := by
  unfold setFull
  split
  · exact ⟨s.lines, rfl⟩
  · exact ⟨_, rfl⟩
@[simp] theorem setFull_wheel (k code : Nat) (b : Bool) (s : State) : (setFull k code b s).wheel = s.wheel := by
  obtain ⟨x, h⟩ := setFull_shape k code b s; rw [h]
@[simp] theorem setFull_agenda (k code : Nat) (b : Bool) (s : State) : (setFull k code b s).agenda = s.agenda := by
  obtain ⟨x, h⟩ := setFull_shape k code b s; rw [h]
@[simp] theorem setFull_ev (k code : Nat) (b : Bool) (s : State) : (setFull k code b s).ev = s.ev := by
  obtain ⟨x, h⟩ := setFull_shape k code b s; rw [h]
@[simp] theorem setFull_issue (k code : Nat) (b : Bool) (s : State) : (setFull k code b s).issue = s.issue := by
  obtain ⟨x, h⟩ := setFull_shape k code b s; rw [h]
@[simp] theorem setFull_phase (k code : Nat) (b : Bool) (s : State) : (setFull k code b s).phase = s.phase := by
  obtain ⟨x, h⟩ := setFull_shape k code b s; rw [h]
@[simp] theorem setFull_power (k code : Nat) (b : Bool) (s : State) : (setFull k code b s).power = s.power := by
  obtain ⟨x, h⟩ := setFull_shape k code b s; rw [h]
@[simp] theorem setFull_ctl (k code : Nat) (b : Bool) (s : State) : (setFull k code b s).ctl = s.ctl := by
  obtain ⟨x, h⟩ := setFull_shape k code b s; rw [h]
@[simp] theorem setFull_mw0 (k code : Nat) (b : Bool) (s : State) : (setFull k code b s).mw0 = s.mw0 := by
  obtain ⟨x, h⟩ := setFull_shape k code b s; rw [h]
@[simp] theorem setFull_mem (k code : Nat) (b : Bool) (s : State) : (setFull k code b s).mem = s.mem := by
  obtain ⟨x, h⟩ := setFull_shape k code b s; rw [h]
@[simp] theorem setFull_memTags (k code : Nat) (b : Bool) (s : State) : (setFull k code b s).memTags = s.memTags := by
  obtain ⟨x, h⟩ := setFull_shape k code b s; rw [h]
@[simp] theorem setFull_memEmpty (k code : Nat) (b : Bool) (s : State) : (setFull k code b s).memEmpty = s.memEmpty := by
  obtain ⟨x, h⟩ := setFull_shape k code b s; rw [h]
@[simp] theorem setFull_memErr (k code : Nat) (b : Bool) (s : State) : (setFull k code b s).memErr = s.memErr := by
  obtain ⟨x, h⟩ := setFull_shape k code b s; rw [h]
@[simp] theorem setFull_memKey (k code : Nat) (b : Bool) (s : State) : (setFull k code b s).memKey = s.memKey := by
  obtain ⟨x, h⟩ := setFull_shape k code b s; rw [h]
@[simp] theorem setFull_spad (k code : Nat) (b : Bool) (s : State) : (setFull k code b s).spad = s.spad := by
  obtain ⟨x, h⟩ := setFull_shape k code b s; rw [h]
@[simp] theorem setFull_spadEmpty (k code : Nat) (b : Bool) (s : State) : (setFull k code b s).spadEmpty = s.spadEmpty := by
  obtain ⟨x, h⟩ := setFull_shape k code b s; rw [h]
@[simp] theorem setFull_spadErr (k code : Nat) (b : Bool) (s : State) : (setFull k code b s).spadErr = s.spadErr := by
  obtain ⟨x, h⟩ := setFull_shape k code b s; rw [h]
@[simp] theorem setFull_lineErr (k code : Nat) (b : Bool) (s : State) : (setFull k code b s).lineErr = s.lineErr := by
  obtain ⟨x, h⟩ := setFull_shape k code b s; rw [h]
@[simp] theorem setFull_shadow (k code : Nat) (b : Bool) (s : State) : (setFull k code b s).shadow = s.shadow := by
  obtain ⟨x, h⟩ := setFull_shape k code b s; rw [h]
@[simp] theorem setFull_cores (k code : Nat) (b : Bool) (s : State) : (setFull k code b s).cores = s.cores := by
  obtain ⟨x, h⟩ := setFull_shape k code b s; rw [h]
@[simp] theorem setFull_quads (k code : Nat) (b : Bool) (s : State) : (setFull k code b s).quads = s.quads := by
  obtain ⟨x, h⟩ := setFull_shape k code b s; rw [h]
@[simp] theorem setFull_halls (k code : Nat) (b : Bool) (s : State) : (setFull k code b s).halls = s.halls := by
  obtain ⟨x, h⟩ := setFull_shape k code b s; rw [h]
@[simp] theorem setFull_fns (k code : Nat) (b : Bool) (s : State) : (setFull k code b s).fns = s.fns := by
  obtain ⟨x, h⟩ := setFull_shape k code b s; rw [h]
@[simp] theorem setFull_strands (k code : Nat) (b : Bool) (s : State) : (setFull k code b s).strands = s.strands := by
  obtain ⟨x, h⟩ := setFull_shape k code b s; rw [h]
@[simp] theorem setFull_streams (k code : Nat) (b : Bool) (s : State) : (setFull k code b s).streams = s.streams := by
  obtain ⟨x, h⟩ := setFull_shape k code b s; rw [h]
@[simp] theorem setFull_launches (k code : Nat) (b : Bool) (s : State) : (setFull k code b s).launches = s.launches := by
  obtain ⟨x, h⟩ := setFull_shape k code b s; rw [h]
@[simp] theorem setFull_queues (k code : Nat) (b : Bool) (s : State) : (setFull k code b s).queues = s.queues := by
  obtain ⟨x, h⟩ := setFull_shape k code b s; rw [h]
@[simp] theorem setFull_barriers (k code : Nat) (b : Bool) (s : State) : (setFull k code b s).barriers = s.barriers := by
  obtain ⟨x, h⟩ := setFull_shape k code b s; rw [h]
@[simp] theorem setFull_parts (k code : Nat) (b : Bool) (s : State) : (setFull k code b s).parts = s.parts := by
  obtain ⟨x, h⟩ := setFull_shape k code b s; rw [h]
@[simp] theorem setFull_circs (k code : Nat) (b : Bool) (s : State) : (setFull k code b s).circs = s.circs := by
  obtain ⟨x, h⟩ := setFull_shape k code b s; rw [h]
@[simp] theorem setFull_banks (k code : Nat) (b : Bool) (s : State) : (setFull k code b s).banks = s.banks := by
  obtain ⟨x, h⟩ := setFull_shape k code b s; rw [h]
@[simp] theorem setFull_entries (k code : Nat) (b : Bool) (s : State) : (setFull k code b s).entries = s.entries := by
  obtain ⟨x, h⟩ := setFull_shape k code b s; rw [h]
@[simp] theorem setFull_floor (k code : Nat) (b : Bool) (s : State) : (setFull k code b s).floor = s.floor := by
  obtain ⟨x, h⟩ := setFull_shape k code b s; rw [h]
@[simp] theorem setFull_owned (k code : Nat) (b : Bool) (s : State) : (setFull k code b s).owned = s.owned := by
  obtain ⟨x, h⟩ := setFull_shape k code b s; rw [h]
@[simp] theorem setFull_flits (k code : Nat) (b : Bool) (s : State) : (setFull k code b s).flits = s.flits := by
  obtain ⟨x, h⟩ := setFull_shape k code b s; rw [h]
@[simp] theorem setFull_reqs (k code : Nat) (b : Bool) (s : State) : (setFull k code b s).reqs = s.reqs := by
  obtain ⟨x, h⟩ := setFull_shape k code b s; rw [h]
@[simp] theorem setFull_tmsgs (k code : Nat) (b : Bool) (s : State) : (setFull k code b s).tmsgs = s.tmsgs := by
  obtain ⟨x, h⟩ := setFull_shape k code b s; rw [h]
@[simp] theorem setFull_walks (k code : Nat) (b : Bool) (s : State) : (setFull k code b s).walks = s.walks := by
  obtain ⟨x, h⟩ := setFull_shape k code b s; rw [h]
@[simp] theorem setFull_drops (k code : Nat) (b : Bool) (s : State) : (setFull k code b s).drops = s.drops := by
  obtain ⟨x, h⟩ := setFull_shape k code b s; rw [h]
@[simp] theorem setFull_ports (k code : Nat) (b : Bool) (s : State) : (setFull k code b s).ports = s.ports := by
  obtain ⟨x, h⟩ := setFull_shape k code b s; rw [h]
@[simp] theorem setFull_peerMax (k code : Nat) (b : Bool) (s : State) : (setFull k code b s).peerMax = s.peerMax := by
  obtain ⟨x, h⟩ := setFull_shape k code b s; rw [h]
@[simp] theorem setFull_islands (k code : Nat) (b : Bool) (s : State) : (setFull k code b s).islands = s.islands := by
  obtain ⟨x, h⟩ := setFull_shape k code b s; rw [h]
@[simp] theorem setFull_newel (k code : Nat) (b : Bool) (s : State) : (setFull k code b s).newel = s.newel := by
  obtain ⟨x, h⟩ := setFull_shape k code b s; rw [h]
@[simp] theorem setFull_moves (k code : Nat) (b : Bool) (s : State) : (setFull k code b s).moves = s.moves := by
  obtain ⟨x, h⟩ := setFull_shape k code b s; rw [h]
@[simp] theorem setFull_lastMove (k code : Nat) (b : Bool) (s : State) : (setFull k code b s).lastMove = s.lastMove := by
  obtain ⟨x, h⟩ := setFull_shape k code b s; rw [h]
@[simp] theorem setFull_snap (k code : Nat) (b : Bool) (s : State) : (setFull k code b s).snap = s.snap := by
  obtain ⟨x, h⟩ := setFull_shape k code b s; rw [h]
@[simp] theorem setFull_zeroing (k code : Nat) (b : Bool) (s : State) : (setFull k code b s).zeroing = s.zeroing := by
  obtain ⟨x, h⟩ := setFull_shape k code b s; rw [h]
@[simp] theorem setFull_outbox (k code : Nat) (b : Bool) (s : State) : (setFull k code b s).outbox = s.outbox := by
  obtain ⟨x, h⟩ := setFull_shape k code b s; rw [h]
@[simp] theorem setFull_nextId (k code : Nat) (b : Bool) (s : State) : (setFull k code b s).nextId = s.nextId := by
  obtain ⟨x, h⟩ := setFull_shape k code b s; rw [h]
@[simp] theorem setFull_fresh (k code : Nat) (b : Bool) (s : State) : (setFull k code b s).fresh = s.fresh := by
  obtain ⟨x, h⟩ := setFull_shape k code b s; rw [h]
@[simp] theorem setFull_meter (k code : Nat) (b : Bool) (s : State) : (setFull k code b s).meter = s.meter := by
  obtain ⟨x, h⟩ := setFull_shape k code b s; rw [h]

/-! ### writeS -/

/-- All that writeS can change. -/
theorem writeS_shape (k : Nat) (i : BitVec 5) (v : Word) (s : State) :
    ∃ x, writeS k i v s = { s with lines := x } := by
  unfold writeS
  split
  · exact ⟨s.lines, rfl⟩
  · obtain ⟨x, h⟩ := setFull_shape k (codeS i) true (putWord k (0x40 + 8 * (i.toNat - 1)) v s)
    exact ⟨x, h.trans rfl⟩
@[simp] theorem writeS_wheel (k : Nat) (i : BitVec 5) (v : Word) (s : State) : (writeS k i v s).wheel = s.wheel := by
  obtain ⟨x, h⟩ := writeS_shape k i v s; rw [h]
@[simp] theorem writeS_agenda (k : Nat) (i : BitVec 5) (v : Word) (s : State) : (writeS k i v s).agenda = s.agenda := by
  obtain ⟨x, h⟩ := writeS_shape k i v s; rw [h]
@[simp] theorem writeS_ev (k : Nat) (i : BitVec 5) (v : Word) (s : State) : (writeS k i v s).ev = s.ev := by
  obtain ⟨x, h⟩ := writeS_shape k i v s; rw [h]
@[simp] theorem writeS_issue (k : Nat) (i : BitVec 5) (v : Word) (s : State) : (writeS k i v s).issue = s.issue := by
  obtain ⟨x, h⟩ := writeS_shape k i v s; rw [h]
@[simp] theorem writeS_phase (k : Nat) (i : BitVec 5) (v : Word) (s : State) : (writeS k i v s).phase = s.phase := by
  obtain ⟨x, h⟩ := writeS_shape k i v s; rw [h]
@[simp] theorem writeS_power (k : Nat) (i : BitVec 5) (v : Word) (s : State) : (writeS k i v s).power = s.power := by
  obtain ⟨x, h⟩ := writeS_shape k i v s; rw [h]
@[simp] theorem writeS_ctl (k : Nat) (i : BitVec 5) (v : Word) (s : State) : (writeS k i v s).ctl = s.ctl := by
  obtain ⟨x, h⟩ := writeS_shape k i v s; rw [h]
@[simp] theorem writeS_mw0 (k : Nat) (i : BitVec 5) (v : Word) (s : State) : (writeS k i v s).mw0 = s.mw0 := by
  obtain ⟨x, h⟩ := writeS_shape k i v s; rw [h]
@[simp] theorem writeS_mem (k : Nat) (i : BitVec 5) (v : Word) (s : State) : (writeS k i v s).mem = s.mem := by
  obtain ⟨x, h⟩ := writeS_shape k i v s; rw [h]
@[simp] theorem writeS_memTags (k : Nat) (i : BitVec 5) (v : Word) (s : State) : (writeS k i v s).memTags = s.memTags := by
  obtain ⟨x, h⟩ := writeS_shape k i v s; rw [h]
@[simp] theorem writeS_memEmpty (k : Nat) (i : BitVec 5) (v : Word) (s : State) : (writeS k i v s).memEmpty = s.memEmpty := by
  obtain ⟨x, h⟩ := writeS_shape k i v s; rw [h]
@[simp] theorem writeS_memErr (k : Nat) (i : BitVec 5) (v : Word) (s : State) : (writeS k i v s).memErr = s.memErr := by
  obtain ⟨x, h⟩ := writeS_shape k i v s; rw [h]
@[simp] theorem writeS_memKey (k : Nat) (i : BitVec 5) (v : Word) (s : State) : (writeS k i v s).memKey = s.memKey := by
  obtain ⟨x, h⟩ := writeS_shape k i v s; rw [h]
@[simp] theorem writeS_spad (k : Nat) (i : BitVec 5) (v : Word) (s : State) : (writeS k i v s).spad = s.spad := by
  obtain ⟨x, h⟩ := writeS_shape k i v s; rw [h]
@[simp] theorem writeS_spadEmpty (k : Nat) (i : BitVec 5) (v : Word) (s : State) : (writeS k i v s).spadEmpty = s.spadEmpty := by
  obtain ⟨x, h⟩ := writeS_shape k i v s; rw [h]
@[simp] theorem writeS_spadErr (k : Nat) (i : BitVec 5) (v : Word) (s : State) : (writeS k i v s).spadErr = s.spadErr := by
  obtain ⟨x, h⟩ := writeS_shape k i v s; rw [h]
@[simp] theorem writeS_lineErr (k : Nat) (i : BitVec 5) (v : Word) (s : State) : (writeS k i v s).lineErr = s.lineErr := by
  obtain ⟨x, h⟩ := writeS_shape k i v s; rw [h]
@[simp] theorem writeS_shadow (k : Nat) (i : BitVec 5) (v : Word) (s : State) : (writeS k i v s).shadow = s.shadow := by
  obtain ⟨x, h⟩ := writeS_shape k i v s; rw [h]
@[simp] theorem writeS_cores (k : Nat) (i : BitVec 5) (v : Word) (s : State) : (writeS k i v s).cores = s.cores := by
  obtain ⟨x, h⟩ := writeS_shape k i v s; rw [h]
@[simp] theorem writeS_quads (k : Nat) (i : BitVec 5) (v : Word) (s : State) : (writeS k i v s).quads = s.quads := by
  obtain ⟨x, h⟩ := writeS_shape k i v s; rw [h]
@[simp] theorem writeS_halls (k : Nat) (i : BitVec 5) (v : Word) (s : State) : (writeS k i v s).halls = s.halls := by
  obtain ⟨x, h⟩ := writeS_shape k i v s; rw [h]
@[simp] theorem writeS_fns (k : Nat) (i : BitVec 5) (v : Word) (s : State) : (writeS k i v s).fns = s.fns := by
  obtain ⟨x, h⟩ := writeS_shape k i v s; rw [h]
@[simp] theorem writeS_strands (k : Nat) (i : BitVec 5) (v : Word) (s : State) : (writeS k i v s).strands = s.strands := by
  obtain ⟨x, h⟩ := writeS_shape k i v s; rw [h]
@[simp] theorem writeS_streams (k : Nat) (i : BitVec 5) (v : Word) (s : State) : (writeS k i v s).streams = s.streams := by
  obtain ⟨x, h⟩ := writeS_shape k i v s; rw [h]
@[simp] theorem writeS_launches (k : Nat) (i : BitVec 5) (v : Word) (s : State) : (writeS k i v s).launches = s.launches := by
  obtain ⟨x, h⟩ := writeS_shape k i v s; rw [h]
@[simp] theorem writeS_queues (k : Nat) (i : BitVec 5) (v : Word) (s : State) : (writeS k i v s).queues = s.queues := by
  obtain ⟨x, h⟩ := writeS_shape k i v s; rw [h]
@[simp] theorem writeS_barriers (k : Nat) (i : BitVec 5) (v : Word) (s : State) : (writeS k i v s).barriers = s.barriers := by
  obtain ⟨x, h⟩ := writeS_shape k i v s; rw [h]
@[simp] theorem writeS_parts (k : Nat) (i : BitVec 5) (v : Word) (s : State) : (writeS k i v s).parts = s.parts := by
  obtain ⟨x, h⟩ := writeS_shape k i v s; rw [h]
@[simp] theorem writeS_circs (k : Nat) (i : BitVec 5) (v : Word) (s : State) : (writeS k i v s).circs = s.circs := by
  obtain ⟨x, h⟩ := writeS_shape k i v s; rw [h]
@[simp] theorem writeS_banks (k : Nat) (i : BitVec 5) (v : Word) (s : State) : (writeS k i v s).banks = s.banks := by
  obtain ⟨x, h⟩ := writeS_shape k i v s; rw [h]
@[simp] theorem writeS_entries (k : Nat) (i : BitVec 5) (v : Word) (s : State) : (writeS k i v s).entries = s.entries := by
  obtain ⟨x, h⟩ := writeS_shape k i v s; rw [h]
@[simp] theorem writeS_floor (k : Nat) (i : BitVec 5) (v : Word) (s : State) : (writeS k i v s).floor = s.floor := by
  obtain ⟨x, h⟩ := writeS_shape k i v s; rw [h]
@[simp] theorem writeS_owned (k : Nat) (i : BitVec 5) (v : Word) (s : State) : (writeS k i v s).owned = s.owned := by
  obtain ⟨x, h⟩ := writeS_shape k i v s; rw [h]
@[simp] theorem writeS_flits (k : Nat) (i : BitVec 5) (v : Word) (s : State) : (writeS k i v s).flits = s.flits := by
  obtain ⟨x, h⟩ := writeS_shape k i v s; rw [h]
@[simp] theorem writeS_reqs (k : Nat) (i : BitVec 5) (v : Word) (s : State) : (writeS k i v s).reqs = s.reqs := by
  obtain ⟨x, h⟩ := writeS_shape k i v s; rw [h]
@[simp] theorem writeS_tmsgs (k : Nat) (i : BitVec 5) (v : Word) (s : State) : (writeS k i v s).tmsgs = s.tmsgs := by
  obtain ⟨x, h⟩ := writeS_shape k i v s; rw [h]
@[simp] theorem writeS_walks (k : Nat) (i : BitVec 5) (v : Word) (s : State) : (writeS k i v s).walks = s.walks := by
  obtain ⟨x, h⟩ := writeS_shape k i v s; rw [h]
@[simp] theorem writeS_drops (k : Nat) (i : BitVec 5) (v : Word) (s : State) : (writeS k i v s).drops = s.drops := by
  obtain ⟨x, h⟩ := writeS_shape k i v s; rw [h]
@[simp] theorem writeS_ports (k : Nat) (i : BitVec 5) (v : Word) (s : State) : (writeS k i v s).ports = s.ports := by
  obtain ⟨x, h⟩ := writeS_shape k i v s; rw [h]
@[simp] theorem writeS_peerMax (k : Nat) (i : BitVec 5) (v : Word) (s : State) : (writeS k i v s).peerMax = s.peerMax := by
  obtain ⟨x, h⟩ := writeS_shape k i v s; rw [h]
@[simp] theorem writeS_islands (k : Nat) (i : BitVec 5) (v : Word) (s : State) : (writeS k i v s).islands = s.islands := by
  obtain ⟨x, h⟩ := writeS_shape k i v s; rw [h]
@[simp] theorem writeS_newel (k : Nat) (i : BitVec 5) (v : Word) (s : State) : (writeS k i v s).newel = s.newel := by
  obtain ⟨x, h⟩ := writeS_shape k i v s; rw [h]
@[simp] theorem writeS_moves (k : Nat) (i : BitVec 5) (v : Word) (s : State) : (writeS k i v s).moves = s.moves := by
  obtain ⟨x, h⟩ := writeS_shape k i v s; rw [h]
@[simp] theorem writeS_lastMove (k : Nat) (i : BitVec 5) (v : Word) (s : State) : (writeS k i v s).lastMove = s.lastMove := by
  obtain ⟨x, h⟩ := writeS_shape k i v s; rw [h]
@[simp] theorem writeS_snap (k : Nat) (i : BitVec 5) (v : Word) (s : State) : (writeS k i v s).snap = s.snap := by
  obtain ⟨x, h⟩ := writeS_shape k i v s; rw [h]
@[simp] theorem writeS_zeroing (k : Nat) (i : BitVec 5) (v : Word) (s : State) : (writeS k i v s).zeroing = s.zeroing := by
  obtain ⟨x, h⟩ := writeS_shape k i v s; rw [h]
@[simp] theorem writeS_outbox (k : Nat) (i : BitVec 5) (v : Word) (s : State) : (writeS k i v s).outbox = s.outbox := by
  obtain ⟨x, h⟩ := writeS_shape k i v s; rw [h]
@[simp] theorem writeS_nextId (k : Nat) (i : BitVec 5) (v : Word) (s : State) : (writeS k i v s).nextId = s.nextId := by
  obtain ⟨x, h⟩ := writeS_shape k i v s; rw [h]
@[simp] theorem writeS_fresh (k : Nat) (i : BitVec 5) (v : Word) (s : State) : (writeS k i v s).fresh = s.fresh := by
  obtain ⟨x, h⟩ := writeS_shape k i v s; rw [h]
@[simp] theorem writeS_meter (k : Nat) (i : BitVec 5) (v : Word) (s : State) : (writeS k i v s).meter = s.meter := by
  obtain ⟨x, h⟩ := writeS_shape k i v s; rw [h]

/-! ### writeP -/

/-- All that writeP can change. -/
theorem writeP_shape (k i : Nat) (v : BitVec 32) (s : State) :
    ∃ x, writeP k i v s = { s with lines := x } := by
  unfold writeP
  split
  · exact ⟨s.lines, rfl⟩
  · obtain ⟨x, h⟩ := setFull_shape k (codeP i) true (writeHalf k (i - 1) v s)
    exact ⟨x, h.trans rfl⟩
@[simp] theorem writeP_wheel (k i : Nat) (v : BitVec 32) (s : State) : (writeP k i v s).wheel = s.wheel := by
  obtain ⟨x, h⟩ := writeP_shape k i v s; rw [h]
@[simp] theorem writeP_agenda (k i : Nat) (v : BitVec 32) (s : State) : (writeP k i v s).agenda = s.agenda := by
  obtain ⟨x, h⟩ := writeP_shape k i v s; rw [h]
@[simp] theorem writeP_ev (k i : Nat) (v : BitVec 32) (s : State) : (writeP k i v s).ev = s.ev := by
  obtain ⟨x, h⟩ := writeP_shape k i v s; rw [h]
@[simp] theorem writeP_issue (k i : Nat) (v : BitVec 32) (s : State) : (writeP k i v s).issue = s.issue := by
  obtain ⟨x, h⟩ := writeP_shape k i v s; rw [h]
@[simp] theorem writeP_phase (k i : Nat) (v : BitVec 32) (s : State) : (writeP k i v s).phase = s.phase := by
  obtain ⟨x, h⟩ := writeP_shape k i v s; rw [h]
@[simp] theorem writeP_power (k i : Nat) (v : BitVec 32) (s : State) : (writeP k i v s).power = s.power := by
  obtain ⟨x, h⟩ := writeP_shape k i v s; rw [h]
@[simp] theorem writeP_ctl (k i : Nat) (v : BitVec 32) (s : State) : (writeP k i v s).ctl = s.ctl := by
  obtain ⟨x, h⟩ := writeP_shape k i v s; rw [h]
@[simp] theorem writeP_mw0 (k i : Nat) (v : BitVec 32) (s : State) : (writeP k i v s).mw0 = s.mw0 := by
  obtain ⟨x, h⟩ := writeP_shape k i v s; rw [h]
@[simp] theorem writeP_mem (k i : Nat) (v : BitVec 32) (s : State) : (writeP k i v s).mem = s.mem := by
  obtain ⟨x, h⟩ := writeP_shape k i v s; rw [h]
@[simp] theorem writeP_memTags (k i : Nat) (v : BitVec 32) (s : State) : (writeP k i v s).memTags = s.memTags := by
  obtain ⟨x, h⟩ := writeP_shape k i v s; rw [h]
@[simp] theorem writeP_memEmpty (k i : Nat) (v : BitVec 32) (s : State) : (writeP k i v s).memEmpty = s.memEmpty := by
  obtain ⟨x, h⟩ := writeP_shape k i v s; rw [h]
@[simp] theorem writeP_memErr (k i : Nat) (v : BitVec 32) (s : State) : (writeP k i v s).memErr = s.memErr := by
  obtain ⟨x, h⟩ := writeP_shape k i v s; rw [h]
@[simp] theorem writeP_memKey (k i : Nat) (v : BitVec 32) (s : State) : (writeP k i v s).memKey = s.memKey := by
  obtain ⟨x, h⟩ := writeP_shape k i v s; rw [h]
@[simp] theorem writeP_spad (k i : Nat) (v : BitVec 32) (s : State) : (writeP k i v s).spad = s.spad := by
  obtain ⟨x, h⟩ := writeP_shape k i v s; rw [h]
@[simp] theorem writeP_spadEmpty (k i : Nat) (v : BitVec 32) (s : State) : (writeP k i v s).spadEmpty = s.spadEmpty := by
  obtain ⟨x, h⟩ := writeP_shape k i v s; rw [h]
@[simp] theorem writeP_spadErr (k i : Nat) (v : BitVec 32) (s : State) : (writeP k i v s).spadErr = s.spadErr := by
  obtain ⟨x, h⟩ := writeP_shape k i v s; rw [h]
@[simp] theorem writeP_lineErr (k i : Nat) (v : BitVec 32) (s : State) : (writeP k i v s).lineErr = s.lineErr := by
  obtain ⟨x, h⟩ := writeP_shape k i v s; rw [h]
@[simp] theorem writeP_shadow (k i : Nat) (v : BitVec 32) (s : State) : (writeP k i v s).shadow = s.shadow := by
  obtain ⟨x, h⟩ := writeP_shape k i v s; rw [h]
@[simp] theorem writeP_cores (k i : Nat) (v : BitVec 32) (s : State) : (writeP k i v s).cores = s.cores := by
  obtain ⟨x, h⟩ := writeP_shape k i v s; rw [h]
@[simp] theorem writeP_quads (k i : Nat) (v : BitVec 32) (s : State) : (writeP k i v s).quads = s.quads := by
  obtain ⟨x, h⟩ := writeP_shape k i v s; rw [h]
@[simp] theorem writeP_halls (k i : Nat) (v : BitVec 32) (s : State) : (writeP k i v s).halls = s.halls := by
  obtain ⟨x, h⟩ := writeP_shape k i v s; rw [h]
@[simp] theorem writeP_fns (k i : Nat) (v : BitVec 32) (s : State) : (writeP k i v s).fns = s.fns := by
  obtain ⟨x, h⟩ := writeP_shape k i v s; rw [h]
@[simp] theorem writeP_strands (k i : Nat) (v : BitVec 32) (s : State) : (writeP k i v s).strands = s.strands := by
  obtain ⟨x, h⟩ := writeP_shape k i v s; rw [h]
@[simp] theorem writeP_streams (k i : Nat) (v : BitVec 32) (s : State) : (writeP k i v s).streams = s.streams := by
  obtain ⟨x, h⟩ := writeP_shape k i v s; rw [h]
@[simp] theorem writeP_launches (k i : Nat) (v : BitVec 32) (s : State) : (writeP k i v s).launches = s.launches := by
  obtain ⟨x, h⟩ := writeP_shape k i v s; rw [h]
@[simp] theorem writeP_queues (k i : Nat) (v : BitVec 32) (s : State) : (writeP k i v s).queues = s.queues := by
  obtain ⟨x, h⟩ := writeP_shape k i v s; rw [h]
@[simp] theorem writeP_barriers (k i : Nat) (v : BitVec 32) (s : State) : (writeP k i v s).barriers = s.barriers := by
  obtain ⟨x, h⟩ := writeP_shape k i v s; rw [h]
@[simp] theorem writeP_parts (k i : Nat) (v : BitVec 32) (s : State) : (writeP k i v s).parts = s.parts := by
  obtain ⟨x, h⟩ := writeP_shape k i v s; rw [h]
@[simp] theorem writeP_circs (k i : Nat) (v : BitVec 32) (s : State) : (writeP k i v s).circs = s.circs := by
  obtain ⟨x, h⟩ := writeP_shape k i v s; rw [h]
@[simp] theorem writeP_banks (k i : Nat) (v : BitVec 32) (s : State) : (writeP k i v s).banks = s.banks := by
  obtain ⟨x, h⟩ := writeP_shape k i v s; rw [h]
@[simp] theorem writeP_entries (k i : Nat) (v : BitVec 32) (s : State) : (writeP k i v s).entries = s.entries := by
  obtain ⟨x, h⟩ := writeP_shape k i v s; rw [h]
@[simp] theorem writeP_floor (k i : Nat) (v : BitVec 32) (s : State) : (writeP k i v s).floor = s.floor := by
  obtain ⟨x, h⟩ := writeP_shape k i v s; rw [h]
@[simp] theorem writeP_owned (k i : Nat) (v : BitVec 32) (s : State) : (writeP k i v s).owned = s.owned := by
  obtain ⟨x, h⟩ := writeP_shape k i v s; rw [h]
@[simp] theorem writeP_flits (k i : Nat) (v : BitVec 32) (s : State) : (writeP k i v s).flits = s.flits := by
  obtain ⟨x, h⟩ := writeP_shape k i v s; rw [h]
@[simp] theorem writeP_reqs (k i : Nat) (v : BitVec 32) (s : State) : (writeP k i v s).reqs = s.reqs := by
  obtain ⟨x, h⟩ := writeP_shape k i v s; rw [h]
@[simp] theorem writeP_tmsgs (k i : Nat) (v : BitVec 32) (s : State) : (writeP k i v s).tmsgs = s.tmsgs := by
  obtain ⟨x, h⟩ := writeP_shape k i v s; rw [h]
@[simp] theorem writeP_walks (k i : Nat) (v : BitVec 32) (s : State) : (writeP k i v s).walks = s.walks := by
  obtain ⟨x, h⟩ := writeP_shape k i v s; rw [h]
@[simp] theorem writeP_drops (k i : Nat) (v : BitVec 32) (s : State) : (writeP k i v s).drops = s.drops := by
  obtain ⟨x, h⟩ := writeP_shape k i v s; rw [h]
@[simp] theorem writeP_ports (k i : Nat) (v : BitVec 32) (s : State) : (writeP k i v s).ports = s.ports := by
  obtain ⟨x, h⟩ := writeP_shape k i v s; rw [h]
@[simp] theorem writeP_peerMax (k i : Nat) (v : BitVec 32) (s : State) : (writeP k i v s).peerMax = s.peerMax := by
  obtain ⟨x, h⟩ := writeP_shape k i v s; rw [h]
@[simp] theorem writeP_islands (k i : Nat) (v : BitVec 32) (s : State) : (writeP k i v s).islands = s.islands := by
  obtain ⟨x, h⟩ := writeP_shape k i v s; rw [h]
@[simp] theorem writeP_newel (k i : Nat) (v : BitVec 32) (s : State) : (writeP k i v s).newel = s.newel := by
  obtain ⟨x, h⟩ := writeP_shape k i v s; rw [h]
@[simp] theorem writeP_moves (k i : Nat) (v : BitVec 32) (s : State) : (writeP k i v s).moves = s.moves := by
  obtain ⟨x, h⟩ := writeP_shape k i v s; rw [h]
@[simp] theorem writeP_lastMove (k i : Nat) (v : BitVec 32) (s : State) : (writeP k i v s).lastMove = s.lastMove := by
  obtain ⟨x, h⟩ := writeP_shape k i v s; rw [h]
@[simp] theorem writeP_snap (k i : Nat) (v : BitVec 32) (s : State) : (writeP k i v s).snap = s.snap := by
  obtain ⟨x, h⟩ := writeP_shape k i v s; rw [h]
@[simp] theorem writeP_zeroing (k i : Nat) (v : BitVec 32) (s : State) : (writeP k i v s).zeroing = s.zeroing := by
  obtain ⟨x, h⟩ := writeP_shape k i v s; rw [h]
@[simp] theorem writeP_outbox (k i : Nat) (v : BitVec 32) (s : State) : (writeP k i v s).outbox = s.outbox := by
  obtain ⟨x, h⟩ := writeP_shape k i v s; rw [h]
@[simp] theorem writeP_nextId (k i : Nat) (v : BitVec 32) (s : State) : (writeP k i v s).nextId = s.nextId := by
  obtain ⟨x, h⟩ := writeP_shape k i v s; rw [h]
@[simp] theorem writeP_fresh (k i : Nat) (v : BitVec 32) (s : State) : (writeP k i v s).fresh = s.fresh := by
  obtain ⟨x, h⟩ := writeP_shape k i v s; rw [h]
@[simp] theorem writeP_meter (k i : Nat) (v : BitVec 32) (s : State) : (writeP k i v s).meter = s.meter := by
  obtain ⟨x, h⟩ := writeP_shape k i v s; rw [h]

/-! ### writeFcsr -/

/-- All that writeFcsr can change. -/
theorem writeFcsr_shape (k : Nat) (v : BitVec 16) (s : State) :
    ∃ x, writeFcsr k v s = { s with lines := x } := ⟨_, rfl⟩
@[simp] theorem writeFcsr_wheel (k : Nat) (v : BitVec 16) (s : State) : (writeFcsr k v s).wheel = s.wheel := by
  obtain ⟨x, h⟩ := writeFcsr_shape k v s; rw [h]
@[simp] theorem writeFcsr_agenda (k : Nat) (v : BitVec 16) (s : State) : (writeFcsr k v s).agenda = s.agenda := by
  obtain ⟨x, h⟩ := writeFcsr_shape k v s; rw [h]
@[simp] theorem writeFcsr_ev (k : Nat) (v : BitVec 16) (s : State) : (writeFcsr k v s).ev = s.ev := by
  obtain ⟨x, h⟩ := writeFcsr_shape k v s; rw [h]
@[simp] theorem writeFcsr_issue (k : Nat) (v : BitVec 16) (s : State) : (writeFcsr k v s).issue = s.issue := by
  obtain ⟨x, h⟩ := writeFcsr_shape k v s; rw [h]
@[simp] theorem writeFcsr_phase (k : Nat) (v : BitVec 16) (s : State) : (writeFcsr k v s).phase = s.phase := by
  obtain ⟨x, h⟩ := writeFcsr_shape k v s; rw [h]
@[simp] theorem writeFcsr_power (k : Nat) (v : BitVec 16) (s : State) : (writeFcsr k v s).power = s.power := by
  obtain ⟨x, h⟩ := writeFcsr_shape k v s; rw [h]
@[simp] theorem writeFcsr_ctl (k : Nat) (v : BitVec 16) (s : State) : (writeFcsr k v s).ctl = s.ctl := by
  obtain ⟨x, h⟩ := writeFcsr_shape k v s; rw [h]
@[simp] theorem writeFcsr_mw0 (k : Nat) (v : BitVec 16) (s : State) : (writeFcsr k v s).mw0 = s.mw0 := by
  obtain ⟨x, h⟩ := writeFcsr_shape k v s; rw [h]
@[simp] theorem writeFcsr_mem (k : Nat) (v : BitVec 16) (s : State) : (writeFcsr k v s).mem = s.mem := by
  obtain ⟨x, h⟩ := writeFcsr_shape k v s; rw [h]
@[simp] theorem writeFcsr_memTags (k : Nat) (v : BitVec 16) (s : State) : (writeFcsr k v s).memTags = s.memTags := by
  obtain ⟨x, h⟩ := writeFcsr_shape k v s; rw [h]
@[simp] theorem writeFcsr_memEmpty (k : Nat) (v : BitVec 16) (s : State) : (writeFcsr k v s).memEmpty = s.memEmpty := by
  obtain ⟨x, h⟩ := writeFcsr_shape k v s; rw [h]
@[simp] theorem writeFcsr_memErr (k : Nat) (v : BitVec 16) (s : State) : (writeFcsr k v s).memErr = s.memErr := by
  obtain ⟨x, h⟩ := writeFcsr_shape k v s; rw [h]
@[simp] theorem writeFcsr_memKey (k : Nat) (v : BitVec 16) (s : State) : (writeFcsr k v s).memKey = s.memKey := by
  obtain ⟨x, h⟩ := writeFcsr_shape k v s; rw [h]
@[simp] theorem writeFcsr_spad (k : Nat) (v : BitVec 16) (s : State) : (writeFcsr k v s).spad = s.spad := by
  obtain ⟨x, h⟩ := writeFcsr_shape k v s; rw [h]
@[simp] theorem writeFcsr_spadEmpty (k : Nat) (v : BitVec 16) (s : State) : (writeFcsr k v s).spadEmpty = s.spadEmpty := by
  obtain ⟨x, h⟩ := writeFcsr_shape k v s; rw [h]
@[simp] theorem writeFcsr_spadErr (k : Nat) (v : BitVec 16) (s : State) : (writeFcsr k v s).spadErr = s.spadErr := by
  obtain ⟨x, h⟩ := writeFcsr_shape k v s; rw [h]
@[simp] theorem writeFcsr_lineErr (k : Nat) (v : BitVec 16) (s : State) : (writeFcsr k v s).lineErr = s.lineErr := by
  obtain ⟨x, h⟩ := writeFcsr_shape k v s; rw [h]
@[simp] theorem writeFcsr_shadow (k : Nat) (v : BitVec 16) (s : State) : (writeFcsr k v s).shadow = s.shadow := by
  obtain ⟨x, h⟩ := writeFcsr_shape k v s; rw [h]
@[simp] theorem writeFcsr_cores (k : Nat) (v : BitVec 16) (s : State) : (writeFcsr k v s).cores = s.cores := by
  obtain ⟨x, h⟩ := writeFcsr_shape k v s; rw [h]
@[simp] theorem writeFcsr_quads (k : Nat) (v : BitVec 16) (s : State) : (writeFcsr k v s).quads = s.quads := by
  obtain ⟨x, h⟩ := writeFcsr_shape k v s; rw [h]
@[simp] theorem writeFcsr_halls (k : Nat) (v : BitVec 16) (s : State) : (writeFcsr k v s).halls = s.halls := by
  obtain ⟨x, h⟩ := writeFcsr_shape k v s; rw [h]
@[simp] theorem writeFcsr_fns (k : Nat) (v : BitVec 16) (s : State) : (writeFcsr k v s).fns = s.fns := by
  obtain ⟨x, h⟩ := writeFcsr_shape k v s; rw [h]
@[simp] theorem writeFcsr_strands (k : Nat) (v : BitVec 16) (s : State) : (writeFcsr k v s).strands = s.strands := by
  obtain ⟨x, h⟩ := writeFcsr_shape k v s; rw [h]
@[simp] theorem writeFcsr_streams (k : Nat) (v : BitVec 16) (s : State) : (writeFcsr k v s).streams = s.streams := by
  obtain ⟨x, h⟩ := writeFcsr_shape k v s; rw [h]
@[simp] theorem writeFcsr_launches (k : Nat) (v : BitVec 16) (s : State) : (writeFcsr k v s).launches = s.launches := by
  obtain ⟨x, h⟩ := writeFcsr_shape k v s; rw [h]
@[simp] theorem writeFcsr_queues (k : Nat) (v : BitVec 16) (s : State) : (writeFcsr k v s).queues = s.queues := by
  obtain ⟨x, h⟩ := writeFcsr_shape k v s; rw [h]
@[simp] theorem writeFcsr_barriers (k : Nat) (v : BitVec 16) (s : State) : (writeFcsr k v s).barriers = s.barriers := by
  obtain ⟨x, h⟩ := writeFcsr_shape k v s; rw [h]
@[simp] theorem writeFcsr_parts (k : Nat) (v : BitVec 16) (s : State) : (writeFcsr k v s).parts = s.parts := by
  obtain ⟨x, h⟩ := writeFcsr_shape k v s; rw [h]
@[simp] theorem writeFcsr_circs (k : Nat) (v : BitVec 16) (s : State) : (writeFcsr k v s).circs = s.circs := by
  obtain ⟨x, h⟩ := writeFcsr_shape k v s; rw [h]
@[simp] theorem writeFcsr_banks (k : Nat) (v : BitVec 16) (s : State) : (writeFcsr k v s).banks = s.banks := by
  obtain ⟨x, h⟩ := writeFcsr_shape k v s; rw [h]
@[simp] theorem writeFcsr_entries (k : Nat) (v : BitVec 16) (s : State) : (writeFcsr k v s).entries = s.entries := by
  obtain ⟨x, h⟩ := writeFcsr_shape k v s; rw [h]
@[simp] theorem writeFcsr_floor (k : Nat) (v : BitVec 16) (s : State) : (writeFcsr k v s).floor = s.floor := by
  obtain ⟨x, h⟩ := writeFcsr_shape k v s; rw [h]
@[simp] theorem writeFcsr_owned (k : Nat) (v : BitVec 16) (s : State) : (writeFcsr k v s).owned = s.owned := by
  obtain ⟨x, h⟩ := writeFcsr_shape k v s; rw [h]
@[simp] theorem writeFcsr_flits (k : Nat) (v : BitVec 16) (s : State) : (writeFcsr k v s).flits = s.flits := by
  obtain ⟨x, h⟩ := writeFcsr_shape k v s; rw [h]
@[simp] theorem writeFcsr_reqs (k : Nat) (v : BitVec 16) (s : State) : (writeFcsr k v s).reqs = s.reqs := by
  obtain ⟨x, h⟩ := writeFcsr_shape k v s; rw [h]
@[simp] theorem writeFcsr_tmsgs (k : Nat) (v : BitVec 16) (s : State) : (writeFcsr k v s).tmsgs = s.tmsgs := by
  obtain ⟨x, h⟩ := writeFcsr_shape k v s; rw [h]
@[simp] theorem writeFcsr_walks (k : Nat) (v : BitVec 16) (s : State) : (writeFcsr k v s).walks = s.walks := by
  obtain ⟨x, h⟩ := writeFcsr_shape k v s; rw [h]
@[simp] theorem writeFcsr_drops (k : Nat) (v : BitVec 16) (s : State) : (writeFcsr k v s).drops = s.drops := by
  obtain ⟨x, h⟩ := writeFcsr_shape k v s; rw [h]
@[simp] theorem writeFcsr_ports (k : Nat) (v : BitVec 16) (s : State) : (writeFcsr k v s).ports = s.ports := by
  obtain ⟨x, h⟩ := writeFcsr_shape k v s; rw [h]
@[simp] theorem writeFcsr_peerMax (k : Nat) (v : BitVec 16) (s : State) : (writeFcsr k v s).peerMax = s.peerMax := by
  obtain ⟨x, h⟩ := writeFcsr_shape k v s; rw [h]
@[simp] theorem writeFcsr_islands (k : Nat) (v : BitVec 16) (s : State) : (writeFcsr k v s).islands = s.islands := by
  obtain ⟨x, h⟩ := writeFcsr_shape k v s; rw [h]
@[simp] theorem writeFcsr_newel (k : Nat) (v : BitVec 16) (s : State) : (writeFcsr k v s).newel = s.newel := by
  obtain ⟨x, h⟩ := writeFcsr_shape k v s; rw [h]
@[simp] theorem writeFcsr_moves (k : Nat) (v : BitVec 16) (s : State) : (writeFcsr k v s).moves = s.moves := by
  obtain ⟨x, h⟩ := writeFcsr_shape k v s; rw [h]
@[simp] theorem writeFcsr_lastMove (k : Nat) (v : BitVec 16) (s : State) : (writeFcsr k v s).lastMove = s.lastMove := by
  obtain ⟨x, h⟩ := writeFcsr_shape k v s; rw [h]
@[simp] theorem writeFcsr_snap (k : Nat) (v : BitVec 16) (s : State) : (writeFcsr k v s).snap = s.snap := by
  obtain ⟨x, h⟩ := writeFcsr_shape k v s; rw [h]
@[simp] theorem writeFcsr_zeroing (k : Nat) (v : BitVec 16) (s : State) : (writeFcsr k v s).zeroing = s.zeroing := by
  obtain ⟨x, h⟩ := writeFcsr_shape k v s; rw [h]
@[simp] theorem writeFcsr_outbox (k : Nat) (v : BitVec 16) (s : State) : (writeFcsr k v s).outbox = s.outbox := by
  obtain ⟨x, h⟩ := writeFcsr_shape k v s; rw [h]
@[simp] theorem writeFcsr_nextId (k : Nat) (v : BitVec 16) (s : State) : (writeFcsr k v s).nextId = s.nextId := by
  obtain ⟨x, h⟩ := writeFcsr_shape k v s; rw [h]
@[simp] theorem writeFcsr_fresh (k : Nat) (v : BitVec 16) (s : State) : (writeFcsr k v s).fresh = s.fresh := by
  obtain ⟨x, h⟩ := writeFcsr_shape k v s; rw [h]
@[simp] theorem writeFcsr_meter (k : Nat) (v : BitVec 16) (s : State) : (writeFcsr k v s).meter = s.meter := by
  obtain ⟨x, h⟩ := writeFcsr_shape k v s; rw [h]

/-! ### setRun -/

/-- All that setRun can change. -/
theorem setRun_shape (k : Nat) (r : Run) (hold : BitVec 4) (o : BitVec 56) (s : State) :
    ∃ x y, setRun k r hold o s = { s with strands := x, lines := y } := by
  obtain ⟨x, h⟩ := setHdrN_shape k 1 0 8 (runCode r + 16 * hold.toNat)
    (modStrand k (fun t => { t with run := r, hold := hold, hobj := o }) s)
  unfold setRun
  dsimp only
  split
  · obtain ⟨y, h2⟩ := setHdrN_shape k 7 0 56 o.toNat (setHdrN k 1 0 8 (runCode r + 16 * hold.toNat)
      (modStrand k (fun t => { t with run := r, hold := hold, hobj := o }) s))
    exact ⟨_, y, h2.trans (by rw [h]; rfl)⟩
  · exact ⟨_, x, h.trans rfl⟩
@[simp] theorem setRun_wheel (k : Nat) (r : Run) (hold : BitVec 4) (o : BitVec 56) (s : State) : (setRun k r hold o s).wheel = s.wheel := by
  obtain ⟨x, y, h⟩ := setRun_shape k r hold o s; rw [h]
@[simp] theorem setRun_agenda (k : Nat) (r : Run) (hold : BitVec 4) (o : BitVec 56) (s : State) : (setRun k r hold o s).agenda = s.agenda := by
  obtain ⟨x, y, h⟩ := setRun_shape k r hold o s; rw [h]
@[simp] theorem setRun_ev (k : Nat) (r : Run) (hold : BitVec 4) (o : BitVec 56) (s : State) : (setRun k r hold o s).ev = s.ev := by
  obtain ⟨x, y, h⟩ := setRun_shape k r hold o s; rw [h]
@[simp] theorem setRun_issue (k : Nat) (r : Run) (hold : BitVec 4) (o : BitVec 56) (s : State) : (setRun k r hold o s).issue = s.issue := by
  obtain ⟨x, y, h⟩ := setRun_shape k r hold o s; rw [h]
@[simp] theorem setRun_phase (k : Nat) (r : Run) (hold : BitVec 4) (o : BitVec 56) (s : State) : (setRun k r hold o s).phase = s.phase := by
  obtain ⟨x, y, h⟩ := setRun_shape k r hold o s; rw [h]
@[simp] theorem setRun_power (k : Nat) (r : Run) (hold : BitVec 4) (o : BitVec 56) (s : State) : (setRun k r hold o s).power = s.power := by
  obtain ⟨x, y, h⟩ := setRun_shape k r hold o s; rw [h]
@[simp] theorem setRun_ctl (k : Nat) (r : Run) (hold : BitVec 4) (o : BitVec 56) (s : State) : (setRun k r hold o s).ctl = s.ctl := by
  obtain ⟨x, y, h⟩ := setRun_shape k r hold o s; rw [h]
@[simp] theorem setRun_mw0 (k : Nat) (r : Run) (hold : BitVec 4) (o : BitVec 56) (s : State) : (setRun k r hold o s).mw0 = s.mw0 := by
  obtain ⟨x, y, h⟩ := setRun_shape k r hold o s; rw [h]
@[simp] theorem setRun_mem (k : Nat) (r : Run) (hold : BitVec 4) (o : BitVec 56) (s : State) : (setRun k r hold o s).mem = s.mem := by
  obtain ⟨x, y, h⟩ := setRun_shape k r hold o s; rw [h]
@[simp] theorem setRun_memTags (k : Nat) (r : Run) (hold : BitVec 4) (o : BitVec 56) (s : State) : (setRun k r hold o s).memTags = s.memTags := by
  obtain ⟨x, y, h⟩ := setRun_shape k r hold o s; rw [h]
@[simp] theorem setRun_memEmpty (k : Nat) (r : Run) (hold : BitVec 4) (o : BitVec 56) (s : State) : (setRun k r hold o s).memEmpty = s.memEmpty := by
  obtain ⟨x, y, h⟩ := setRun_shape k r hold o s; rw [h]
@[simp] theorem setRun_memErr (k : Nat) (r : Run) (hold : BitVec 4) (o : BitVec 56) (s : State) : (setRun k r hold o s).memErr = s.memErr := by
  obtain ⟨x, y, h⟩ := setRun_shape k r hold o s; rw [h]
@[simp] theorem setRun_memKey (k : Nat) (r : Run) (hold : BitVec 4) (o : BitVec 56) (s : State) : (setRun k r hold o s).memKey = s.memKey := by
  obtain ⟨x, y, h⟩ := setRun_shape k r hold o s; rw [h]
@[simp] theorem setRun_spad (k : Nat) (r : Run) (hold : BitVec 4) (o : BitVec 56) (s : State) : (setRun k r hold o s).spad = s.spad := by
  obtain ⟨x, y, h⟩ := setRun_shape k r hold o s; rw [h]
@[simp] theorem setRun_spadEmpty (k : Nat) (r : Run) (hold : BitVec 4) (o : BitVec 56) (s : State) : (setRun k r hold o s).spadEmpty = s.spadEmpty := by
  obtain ⟨x, y, h⟩ := setRun_shape k r hold o s; rw [h]
@[simp] theorem setRun_spadErr (k : Nat) (r : Run) (hold : BitVec 4) (o : BitVec 56) (s : State) : (setRun k r hold o s).spadErr = s.spadErr := by
  obtain ⟨x, y, h⟩ := setRun_shape k r hold o s; rw [h]
@[simp] theorem setRun_lineErr (k : Nat) (r : Run) (hold : BitVec 4) (o : BitVec 56) (s : State) : (setRun k r hold o s).lineErr = s.lineErr := by
  obtain ⟨x, y, h⟩ := setRun_shape k r hold o s; rw [h]
@[simp] theorem setRun_shadow (k : Nat) (r : Run) (hold : BitVec 4) (o : BitVec 56) (s : State) : (setRun k r hold o s).shadow = s.shadow := by
  obtain ⟨x, y, h⟩ := setRun_shape k r hold o s; rw [h]
@[simp] theorem setRun_cores (k : Nat) (r : Run) (hold : BitVec 4) (o : BitVec 56) (s : State) : (setRun k r hold o s).cores = s.cores := by
  obtain ⟨x, y, h⟩ := setRun_shape k r hold o s; rw [h]
@[simp] theorem setRun_quads (k : Nat) (r : Run) (hold : BitVec 4) (o : BitVec 56) (s : State) : (setRun k r hold o s).quads = s.quads := by
  obtain ⟨x, y, h⟩ := setRun_shape k r hold o s; rw [h]
@[simp] theorem setRun_halls (k : Nat) (r : Run) (hold : BitVec 4) (o : BitVec 56) (s : State) : (setRun k r hold o s).halls = s.halls := by
  obtain ⟨x, y, h⟩ := setRun_shape k r hold o s; rw [h]
@[simp] theorem setRun_fns (k : Nat) (r : Run) (hold : BitVec 4) (o : BitVec 56) (s : State) : (setRun k r hold o s).fns = s.fns := by
  obtain ⟨x, y, h⟩ := setRun_shape k r hold o s; rw [h]
@[simp] theorem setRun_streams (k : Nat) (r : Run) (hold : BitVec 4) (o : BitVec 56) (s : State) : (setRun k r hold o s).streams = s.streams := by
  obtain ⟨x, y, h⟩ := setRun_shape k r hold o s; rw [h]
@[simp] theorem setRun_launches (k : Nat) (r : Run) (hold : BitVec 4) (o : BitVec 56) (s : State) : (setRun k r hold o s).launches = s.launches := by
  obtain ⟨x, y, h⟩ := setRun_shape k r hold o s; rw [h]
@[simp] theorem setRun_queues (k : Nat) (r : Run) (hold : BitVec 4) (o : BitVec 56) (s : State) : (setRun k r hold o s).queues = s.queues := by
  obtain ⟨x, y, h⟩ := setRun_shape k r hold o s; rw [h]
@[simp] theorem setRun_barriers (k : Nat) (r : Run) (hold : BitVec 4) (o : BitVec 56) (s : State) : (setRun k r hold o s).barriers = s.barriers := by
  obtain ⟨x, y, h⟩ := setRun_shape k r hold o s; rw [h]
@[simp] theorem setRun_parts (k : Nat) (r : Run) (hold : BitVec 4) (o : BitVec 56) (s : State) : (setRun k r hold o s).parts = s.parts := by
  obtain ⟨x, y, h⟩ := setRun_shape k r hold o s; rw [h]
@[simp] theorem setRun_circs (k : Nat) (r : Run) (hold : BitVec 4) (o : BitVec 56) (s : State) : (setRun k r hold o s).circs = s.circs := by
  obtain ⟨x, y, h⟩ := setRun_shape k r hold o s; rw [h]
@[simp] theorem setRun_banks (k : Nat) (r : Run) (hold : BitVec 4) (o : BitVec 56) (s : State) : (setRun k r hold o s).banks = s.banks := by
  obtain ⟨x, y, h⟩ := setRun_shape k r hold o s; rw [h]
@[simp] theorem setRun_entries (k : Nat) (r : Run) (hold : BitVec 4) (o : BitVec 56) (s : State) : (setRun k r hold o s).entries = s.entries := by
  obtain ⟨x, y, h⟩ := setRun_shape k r hold o s; rw [h]
@[simp] theorem setRun_floor (k : Nat) (r : Run) (hold : BitVec 4) (o : BitVec 56) (s : State) : (setRun k r hold o s).floor = s.floor := by
  obtain ⟨x, y, h⟩ := setRun_shape k r hold o s; rw [h]
@[simp] theorem setRun_owned (k : Nat) (r : Run) (hold : BitVec 4) (o : BitVec 56) (s : State) : (setRun k r hold o s).owned = s.owned := by
  obtain ⟨x, y, h⟩ := setRun_shape k r hold o s; rw [h]
@[simp] theorem setRun_flits (k : Nat) (r : Run) (hold : BitVec 4) (o : BitVec 56) (s : State) : (setRun k r hold o s).flits = s.flits := by
  obtain ⟨x, y, h⟩ := setRun_shape k r hold o s; rw [h]
@[simp] theorem setRun_reqs (k : Nat) (r : Run) (hold : BitVec 4) (o : BitVec 56) (s : State) : (setRun k r hold o s).reqs = s.reqs := by
  obtain ⟨x, y, h⟩ := setRun_shape k r hold o s; rw [h]
@[simp] theorem setRun_tmsgs (k : Nat) (r : Run) (hold : BitVec 4) (o : BitVec 56) (s : State) : (setRun k r hold o s).tmsgs = s.tmsgs := by
  obtain ⟨x, y, h⟩ := setRun_shape k r hold o s; rw [h]
@[simp] theorem setRun_walks (k : Nat) (r : Run) (hold : BitVec 4) (o : BitVec 56) (s : State) : (setRun k r hold o s).walks = s.walks := by
  obtain ⟨x, y, h⟩ := setRun_shape k r hold o s; rw [h]
@[simp] theorem setRun_drops (k : Nat) (r : Run) (hold : BitVec 4) (o : BitVec 56) (s : State) : (setRun k r hold o s).drops = s.drops := by
  obtain ⟨x, y, h⟩ := setRun_shape k r hold o s; rw [h]
@[simp] theorem setRun_ports (k : Nat) (r : Run) (hold : BitVec 4) (o : BitVec 56) (s : State) : (setRun k r hold o s).ports = s.ports := by
  obtain ⟨x, y, h⟩ := setRun_shape k r hold o s; rw [h]
@[simp] theorem setRun_peerMax (k : Nat) (r : Run) (hold : BitVec 4) (o : BitVec 56) (s : State) : (setRun k r hold o s).peerMax = s.peerMax := by
  obtain ⟨x, y, h⟩ := setRun_shape k r hold o s; rw [h]
@[simp] theorem setRun_islands (k : Nat) (r : Run) (hold : BitVec 4) (o : BitVec 56) (s : State) : (setRun k r hold o s).islands = s.islands := by
  obtain ⟨x, y, h⟩ := setRun_shape k r hold o s; rw [h]
@[simp] theorem setRun_newel (k : Nat) (r : Run) (hold : BitVec 4) (o : BitVec 56) (s : State) : (setRun k r hold o s).newel = s.newel := by
  obtain ⟨x, y, h⟩ := setRun_shape k r hold o s; rw [h]
@[simp] theorem setRun_moves (k : Nat) (r : Run) (hold : BitVec 4) (o : BitVec 56) (s : State) : (setRun k r hold o s).moves = s.moves := by
  obtain ⟨x, y, h⟩ := setRun_shape k r hold o s; rw [h]
@[simp] theorem setRun_lastMove (k : Nat) (r : Run) (hold : BitVec 4) (o : BitVec 56) (s : State) : (setRun k r hold o s).lastMove = s.lastMove := by
  obtain ⟨x, y, h⟩ := setRun_shape k r hold o s; rw [h]
@[simp] theorem setRun_snap (k : Nat) (r : Run) (hold : BitVec 4) (o : BitVec 56) (s : State) : (setRun k r hold o s).snap = s.snap := by
  obtain ⟨x, y, h⟩ := setRun_shape k r hold o s; rw [h]
@[simp] theorem setRun_zeroing (k : Nat) (r : Run) (hold : BitVec 4) (o : BitVec 56) (s : State) : (setRun k r hold o s).zeroing = s.zeroing := by
  obtain ⟨x, y, h⟩ := setRun_shape k r hold o s; rw [h]
@[simp] theorem setRun_outbox (k : Nat) (r : Run) (hold : BitVec 4) (o : BitVec 56) (s : State) : (setRun k r hold o s).outbox = s.outbox := by
  obtain ⟨x, y, h⟩ := setRun_shape k r hold o s; rw [h]
@[simp] theorem setRun_nextId (k : Nat) (r : Run) (hold : BitVec 4) (o : BitVec 56) (s : State) : (setRun k r hold o s).nextId = s.nextId := by
  obtain ⟨x, y, h⟩ := setRun_shape k r hold o s; rw [h]
@[simp] theorem setRun_fresh (k : Nat) (r : Run) (hold : BitVec 4) (o : BitVec 56) (s : State) : (setRun k r hold o s).fresh = s.fresh := by
  obtain ⟨x, y, h⟩ := setRun_shape k r hold o s; rw [h]
@[simp] theorem setRun_meter (k : Nat) (r : Run) (hold : BitVec 4) (o : BitVec 56) (s : State) : (setRun k r hold o s).meter = s.meter := by
  obtain ⟨x, y, h⟩ := setRun_shape k r hold o s; rw [h]

/-! ### retireTo -/

/-- All that retireTo can change. -/
theorem retireTo_shape (pc : BitVec 56) (s : State) :
    ∃ x y z w, retireTo pc s = { s with strands := x, lines := y, issue := z, meter := w } := by
  obtain ⟨x, h⟩ := setHdrN_shape (cur s) 0 0 56 pc.toNat s
  unfold retireTo
  dsimp only
  rw [h]
  exact ⟨_, x, _, _, rfl⟩
@[simp] theorem retireTo_wheel (pc : BitVec 56) (s : State) : (retireTo pc s).wheel = s.wheel := by
  obtain ⟨x, y, z, w, h⟩ := retireTo_shape pc s; rw [h]
@[simp] theorem retireTo_agenda (pc : BitVec 56) (s : State) : (retireTo pc s).agenda = s.agenda := by
  obtain ⟨x, y, z, w, h⟩ := retireTo_shape pc s; rw [h]
@[simp] theorem retireTo_ev (pc : BitVec 56) (s : State) : (retireTo pc s).ev = s.ev := by
  obtain ⟨x, y, z, w, h⟩ := retireTo_shape pc s; rw [h]
@[simp] theorem retireTo_phase (pc : BitVec 56) (s : State) : (retireTo pc s).phase = s.phase := by
  obtain ⟨x, y, z, w, h⟩ := retireTo_shape pc s; rw [h]
@[simp] theorem retireTo_power (pc : BitVec 56) (s : State) : (retireTo pc s).power = s.power := by
  obtain ⟨x, y, z, w, h⟩ := retireTo_shape pc s; rw [h]
@[simp] theorem retireTo_ctl (pc : BitVec 56) (s : State) : (retireTo pc s).ctl = s.ctl := by
  obtain ⟨x, y, z, w, h⟩ := retireTo_shape pc s; rw [h]
@[simp] theorem retireTo_mw0 (pc : BitVec 56) (s : State) : (retireTo pc s).mw0 = s.mw0 := by
  obtain ⟨x, y, z, w, h⟩ := retireTo_shape pc s; rw [h]
@[simp] theorem retireTo_mem (pc : BitVec 56) (s : State) : (retireTo pc s).mem = s.mem := by
  obtain ⟨x, y, z, w, h⟩ := retireTo_shape pc s; rw [h]
@[simp] theorem retireTo_memTags (pc : BitVec 56) (s : State) : (retireTo pc s).memTags = s.memTags := by
  obtain ⟨x, y, z, w, h⟩ := retireTo_shape pc s; rw [h]
@[simp] theorem retireTo_memEmpty (pc : BitVec 56) (s : State) : (retireTo pc s).memEmpty = s.memEmpty := by
  obtain ⟨x, y, z, w, h⟩ := retireTo_shape pc s; rw [h]
@[simp] theorem retireTo_memErr (pc : BitVec 56) (s : State) : (retireTo pc s).memErr = s.memErr := by
  obtain ⟨x, y, z, w, h⟩ := retireTo_shape pc s; rw [h]
@[simp] theorem retireTo_memKey (pc : BitVec 56) (s : State) : (retireTo pc s).memKey = s.memKey := by
  obtain ⟨x, y, z, w, h⟩ := retireTo_shape pc s; rw [h]
@[simp] theorem retireTo_spad (pc : BitVec 56) (s : State) : (retireTo pc s).spad = s.spad := by
  obtain ⟨x, y, z, w, h⟩ := retireTo_shape pc s; rw [h]
@[simp] theorem retireTo_spadEmpty (pc : BitVec 56) (s : State) : (retireTo pc s).spadEmpty = s.spadEmpty := by
  obtain ⟨x, y, z, w, h⟩ := retireTo_shape pc s; rw [h]
@[simp] theorem retireTo_spadErr (pc : BitVec 56) (s : State) : (retireTo pc s).spadErr = s.spadErr := by
  obtain ⟨x, y, z, w, h⟩ := retireTo_shape pc s; rw [h]
@[simp] theorem retireTo_lineErr (pc : BitVec 56) (s : State) : (retireTo pc s).lineErr = s.lineErr := by
  obtain ⟨x, y, z, w, h⟩ := retireTo_shape pc s; rw [h]
@[simp] theorem retireTo_shadow (pc : BitVec 56) (s : State) : (retireTo pc s).shadow = s.shadow := by
  obtain ⟨x, y, z, w, h⟩ := retireTo_shape pc s; rw [h]
@[simp] theorem retireTo_cores (pc : BitVec 56) (s : State) : (retireTo pc s).cores = s.cores := by
  obtain ⟨x, y, z, w, h⟩ := retireTo_shape pc s; rw [h]
@[simp] theorem retireTo_quads (pc : BitVec 56) (s : State) : (retireTo pc s).quads = s.quads := by
  obtain ⟨x, y, z, w, h⟩ := retireTo_shape pc s; rw [h]
@[simp] theorem retireTo_halls (pc : BitVec 56) (s : State) : (retireTo pc s).halls = s.halls := by
  obtain ⟨x, y, z, w, h⟩ := retireTo_shape pc s; rw [h]
@[simp] theorem retireTo_fns (pc : BitVec 56) (s : State) : (retireTo pc s).fns = s.fns := by
  obtain ⟨x, y, z, w, h⟩ := retireTo_shape pc s; rw [h]
@[simp] theorem retireTo_streams (pc : BitVec 56) (s : State) : (retireTo pc s).streams = s.streams := by
  obtain ⟨x, y, z, w, h⟩ := retireTo_shape pc s; rw [h]
@[simp] theorem retireTo_launches (pc : BitVec 56) (s : State) : (retireTo pc s).launches = s.launches := by
  obtain ⟨x, y, z, w, h⟩ := retireTo_shape pc s; rw [h]
@[simp] theorem retireTo_queues (pc : BitVec 56) (s : State) : (retireTo pc s).queues = s.queues := by
  obtain ⟨x, y, z, w, h⟩ := retireTo_shape pc s; rw [h]
@[simp] theorem retireTo_barriers (pc : BitVec 56) (s : State) : (retireTo pc s).barriers = s.barriers := by
  obtain ⟨x, y, z, w, h⟩ := retireTo_shape pc s; rw [h]
@[simp] theorem retireTo_parts (pc : BitVec 56) (s : State) : (retireTo pc s).parts = s.parts := by
  obtain ⟨x, y, z, w, h⟩ := retireTo_shape pc s; rw [h]
@[simp] theorem retireTo_circs (pc : BitVec 56) (s : State) : (retireTo pc s).circs = s.circs := by
  obtain ⟨x, y, z, w, h⟩ := retireTo_shape pc s; rw [h]
@[simp] theorem retireTo_banks (pc : BitVec 56) (s : State) : (retireTo pc s).banks = s.banks := by
  obtain ⟨x, y, z, w, h⟩ := retireTo_shape pc s; rw [h]
@[simp] theorem retireTo_entries (pc : BitVec 56) (s : State) : (retireTo pc s).entries = s.entries := by
  obtain ⟨x, y, z, w, h⟩ := retireTo_shape pc s; rw [h]
@[simp] theorem retireTo_floor (pc : BitVec 56) (s : State) : (retireTo pc s).floor = s.floor := by
  obtain ⟨x, y, z, w, h⟩ := retireTo_shape pc s; rw [h]
@[simp] theorem retireTo_owned (pc : BitVec 56) (s : State) : (retireTo pc s).owned = s.owned := by
  obtain ⟨x, y, z, w, h⟩ := retireTo_shape pc s; rw [h]
@[simp] theorem retireTo_flits (pc : BitVec 56) (s : State) : (retireTo pc s).flits = s.flits := by
  obtain ⟨x, y, z, w, h⟩ := retireTo_shape pc s; rw [h]
@[simp] theorem retireTo_reqs (pc : BitVec 56) (s : State) : (retireTo pc s).reqs = s.reqs := by
  obtain ⟨x, y, z, w, h⟩ := retireTo_shape pc s; rw [h]
@[simp] theorem retireTo_tmsgs (pc : BitVec 56) (s : State) : (retireTo pc s).tmsgs = s.tmsgs := by
  obtain ⟨x, y, z, w, h⟩ := retireTo_shape pc s; rw [h]
@[simp] theorem retireTo_walks (pc : BitVec 56) (s : State) : (retireTo pc s).walks = s.walks := by
  obtain ⟨x, y, z, w, h⟩ := retireTo_shape pc s; rw [h]
@[simp] theorem retireTo_drops (pc : BitVec 56) (s : State) : (retireTo pc s).drops = s.drops := by
  obtain ⟨x, y, z, w, h⟩ := retireTo_shape pc s; rw [h]
@[simp] theorem retireTo_ports (pc : BitVec 56) (s : State) : (retireTo pc s).ports = s.ports := by
  obtain ⟨x, y, z, w, h⟩ := retireTo_shape pc s; rw [h]
@[simp] theorem retireTo_peerMax (pc : BitVec 56) (s : State) : (retireTo pc s).peerMax = s.peerMax := by
  obtain ⟨x, y, z, w, h⟩ := retireTo_shape pc s; rw [h]
@[simp] theorem retireTo_islands (pc : BitVec 56) (s : State) : (retireTo pc s).islands = s.islands := by
  obtain ⟨x, y, z, w, h⟩ := retireTo_shape pc s; rw [h]
@[simp] theorem retireTo_newel (pc : BitVec 56) (s : State) : (retireTo pc s).newel = s.newel := by
  obtain ⟨x, y, z, w, h⟩ := retireTo_shape pc s; rw [h]
@[simp] theorem retireTo_moves (pc : BitVec 56) (s : State) : (retireTo pc s).moves = s.moves := by
  obtain ⟨x, y, z, w, h⟩ := retireTo_shape pc s; rw [h]
@[simp] theorem retireTo_lastMove (pc : BitVec 56) (s : State) : (retireTo pc s).lastMove = s.lastMove := by
  obtain ⟨x, y, z, w, h⟩ := retireTo_shape pc s; rw [h]
@[simp] theorem retireTo_snap (pc : BitVec 56) (s : State) : (retireTo pc s).snap = s.snap := by
  obtain ⟨x, y, z, w, h⟩ := retireTo_shape pc s; rw [h]
@[simp] theorem retireTo_zeroing (pc : BitVec 56) (s : State) : (retireTo pc s).zeroing = s.zeroing := by
  obtain ⟨x, y, z, w, h⟩ := retireTo_shape pc s; rw [h]
@[simp] theorem retireTo_outbox (pc : BitVec 56) (s : State) : (retireTo pc s).outbox = s.outbox := by
  obtain ⟨x, y, z, w, h⟩ := retireTo_shape pc s; rw [h]
@[simp] theorem retireTo_nextId (pc : BitVec 56) (s : State) : (retireTo pc s).nextId = s.nextId := by
  obtain ⟨x, y, z, w, h⟩ := retireTo_shape pc s; rw [h]
@[simp] theorem retireTo_fresh (pc : BitVec 56) (s : State) : (retireTo pc s).fresh = s.fresh := by
  obtain ⟨x, y, z, w, h⟩ := retireTo_shape pc s; rw [h]

end Sys2Proof.Machine
end

