-- ==== Sys2Proof/Laws/Issue.lean ====
section
/-! SUPPORT. Laws of the issue checks and of the shared operations of a meaning: what `issue` answers, all that reading and
writing operands, retiring, stalling, trapping and readying a strand can change (R126, R194, R195, R197, R209, R212). -/

namespace Sys2Proof.Machine

open Host

/-! ### The issue checks -/

/-- What an issue answers, in both cases. -/
theorem issue_operable (i : Instr) (s : State) (f : State → Outcome State Fault Refusal) (h : operable i s = true) :
    issue i s f = f s := by simp [issue, h]

theorem issue_refused (i : Instr) (s : State) (f : State → Outcome State Fault Refusal) (h : operable i s = false) :
    issue i s f = .next (refuse i s) := by simp [issue, h]

/-- An issue that answers a next state: the effect gave it, or the refusal did. -/
theorem issue_cases {i : Instr} {s t : State} {f : State → Outcome State Fault Refusal} (h : issue i s f = .next t) :
    (operable i s = true ∧ f s = .next t) ∨ (operable i s = false ∧ t = refuse i s) := by
  cases ho : operable i s with
  | true => exact .inl ⟨rfl, by rwa [issue_operable i s f ho] at h⟩
  | false =>
    rw [issue_refused i s f ho] at h
    exact .inr ⟨rfl, by injection h with h; exact h.symm⟩

/-- What an operable instruction meets: no deferred error, no fetch failure, no line missing (R126, R210). -/
theorem operable_checks {i : Instr} {s : State} (h : operable i s = true) :
    erroredFor i s = none ∧ privFault i s = none ∧ missing i s = [] ∧ badLines i s = [] := by
  simp only [operable, Bool.and_eq_true, Option.isNone_iff_eq_none, List.isEmpty_iff] at h
  obtain ⟨⟨⟨⟨⟨⟨⟨⟨⟨⟨h1, h2⟩, _⟩, _⟩, h3⟩, h4⟩, _⟩, _⟩, _⟩, _⟩, _⟩ := h
  exact ⟨h1, h2, h4, h3⟩

/-- The level of a privileged instruction (R207). -/
theorem needPriv_pass (lvl : Nat) (s : State) (f : State → Outcome State Fault Refusal) (h : lvl ≤ curPriv s) :
    needPriv lvl s f = f s := by simp [needPriv, h]

/-! ### Relations that compose: all that an operation can change -/

/-- Only strands, lines, streams and the agenda differ. -/
def StrandWork (s t : State) : Prop :=
  ∃ a b c d, t = { s with strands := a, lines := b, streams := c, agenda := d }

theorem StrandWork.refl (s : State) : StrandWork s s := ⟨s.strands, s.lines, s.streams, s.agenda, rfl⟩

theorem StrandWork.trans {s t u : State} (h : StrandWork s t) (h' : StrandWork t u) : StrandWork s u := by
  obtain ⟨a, b, c, d, rfl⟩ := h
  obtain ⟨a', b', c', d', rfl⟩ := h'
  exact ⟨a', b', c', d', rfl⟩

/-- A fold of such operations is one. -/
theorem StrandWork.foldl {α : Type} (l : List α) (f : State → α → State) (hf : ∀ s e, StrandWork s (f s e)) (s : State) :
    StrandWork s (l.foldl f s) := by
  induction l generalizing s with
  | nil => exact .refl s
  | cons e t ih => exact (hf s e).trans (ih _)

theorem StrandWork.modStrand (k : Nat) (f : Strand → Strand) (s : State) : StrandWork s (modStrand k f s) :=
  ⟨_, s.lines, s.streams, s.agenda, rfl⟩
theorem StrandWork.setStream (k q : Nat) (x : Stream) (s : State) : StrandWork s (setStream k q x s) :=
  ⟨s.strands, s.lines, _, s.agenda, rfl⟩
theorem StrandWork.post (d : Nat) (i : Instr) (a : EvArgs) (s : State) : StrandWork s (post d i a s) :=
  ⟨s.strands, s.lines, s.streams, _, rfl⟩
theorem StrandWork.putWord (k o : Nat) (v : Word) (s : State) : StrandWork s (putWord k o v s) :=
  ⟨s.strands, _, s.streams, s.agenda, rfl⟩
theorem StrandWork.setFull (k c : Nat) (b : Bool) (s : State) : StrandWork s (setFull k c b s) := by
  obtain ⟨x, h⟩ := setFull_shape k c b s
  exact ⟨s.strands, x, s.streams, s.agenda, h⟩
theorem StrandWork.setHdrN (k i lo n v : Nat) (s : State) : StrandWork s (setHdrN k i lo n v s) := by
  obtain ⟨x, h⟩ := setHdrN_shape k i lo n v s
  exact ⟨s.strands, x, s.streams, s.agenda, h⟩
theorem StrandWork.setRun (k : Nat) (r : Run) (hold : BitVec 4) (o : BitVec 56) (s : State) :
    StrandWork s (setRun k r hold o s) := by
  obtain ⟨x, y, h⟩ := setRun_shape k r hold o s
  exact ⟨x, y, s.streams, s.agenda, h⟩
theorem StrandWork.writeS (k : Nat) (i : BitVec 5) (v : Word) (s : State) : StrandWork s (writeS k i v s) := by
  obtain ⟨x, h⟩ := writeS_shape k i v s
  exact ⟨s.strands, x, s.streams, s.agenda, h⟩
theorem StrandWork.writeP (k i : Nat) (v : BitVec 32) (s : State) : StrandWork s (writeP k i v s) := by
  obtain ⟨x, h⟩ := writeP_shape k i v s
  exact ⟨s.strands, x, s.streams, s.agenda, h⟩
theorem StrandWork.writeVBits (k : Nat) (j : BitVec 5) (v : Vec) (s : State) : StrandWork s (writeVBits k j v s) :=
  .foldl _ _ (fun s _ => .putWord k _ _ s) s
theorem StrandWork.writeV (k : Nat) (j : BitVec 5) (v : Vec) (s : State) : StrandWork s (writeV k j v s) :=
  (StrandWork.writeVBits k j v s).trans (.setFull _ _ _ _)

/-! ### Operands -/

theorem StrandWork.wakeStrand (k : Nat) (s : State) : StrandWork s (wakeStrand k s) := by
  unfold Sys2Proof.Machine.wakeStrand
  dsimp only
  split
  · exact .post _ _ _ _
  · split
    · exact .modStrand _ _ _
    · exact .refl s

theorem StrandWork.wakeFillers (k : Nat) (s : State) : StrandWork s (wakeFillers k s) := by
  unfold Sys2Proof.Machine.wakeFillers
  refine .foldl _ _ (fun s e => ?_) s
  split
  · exact .wakeStrand _ _
  · exact .refl s

/-- All that taking the operands can change. -/
theorem StrandWork.consume (i : Instr) (s : State) : StrandWork s (consume i s) := by
  unfold Sys2Proof.Machine.consume
  dsimp only
  refine StrandWork.trans ?_ (.foldl _ _ (fun s e => ?_) _)
  · split
    · exact .refl s
    · exact (StrandWork.foldl _ _ (fun s _ => .setFull _ _ _ _) s).trans (.wakeFillers _ _)
  · split
    · exact (StrandWork.setStream _ _ _ _).trans (.post _ _ _ _)
    · exact .setStream _ _ _ _

theorem StrandWork.produce (k q : Nat) (bs : List Byte) (s : State) : StrandWork s (produce k q bs s) := by
  unfold Sys2Proof.Machine.produce
  dsimp only
  split <;> exact (StrandWork.setStream _ _ _ _).trans (.post _ _ _ _)

/-- All that writing a result can change. -/
theorem StrandWork.dstS (i : Instr) (f : Fld) (v : Word) (s : State) : StrandWork s (dstS i f v s) := by
  unfold Sys2Proof.Machine.dstS
  dsimp only
  split
  · exact .produce _ _ _ _
  · exact .writeS _ _ _ _
theorem StrandWork.dstV (i : Instr) (v : Vec) (s : State) : StrandWork s (dstV i v s) := by
  unfold Sys2Proof.Machine.dstV
  dsimp only
  split
  · exact .produce _ _ _ _
  · split
    · exact .writeVBits _ _ _ _
    · exact .writeV _ _ _ _
theorem StrandWork.dstP (i : Instr) (v : BitVec 32) (s : State) : StrandWork s (dstP i v s) := .writeP _ _ _ _

/-! ### Stalls, traps, returns and readying (R194, R212, R219, R99) -/

theorem StrandWork.stallOf (k : Nat) (hold : BitVec 4) (o : BitVec 56) (s : State) : StrandWork s (stallOf k hold o s) := by
  unfold Sys2Proof.Machine.stallOf
  dsimp only
  split
  · exact .modStrand _ _ _
  · refine (StrandWork.modStrand k (fun t => { t with stall := some s.wheel, hold := hold, hobj := o }) s).trans ?_
    repeat' split
    all_goals first
      | exact .refl _
      | exact .post _ _ _ _

/-- All that a synchronous trap can change. -/
theorem StrandWork.stopWith (k : Nat) (t : Trap) (s : State) : StrandWork s (stopWith k t s) := by
  unfold Sys2Proof.Machine.stopWith
  dsimp only
  refine StrandWork.trans ?_ (.post _ _ _ _)
  refine StrandWork.trans ?_ (.modStrand _ _ _)
  refine StrandWork.trans ?_ (.setHdrN _ _ _ _ _ _)
  split
  · exact .setRun _ _ _ _ _
  · split <;> exact .setRun _ _ _ _ _

theorem StrandWork.trapFull (kind cause : Nat) (addr i1 i2 : Word) (s : State) :
    StrandWork s (trapFull kind cause addr i1 i2 s) := .stopWith _ _ _

theorem StrandWork.makeReady (k : Nat) (s : State) : StrandWork s (makeReady k s) := by
  unfold Sys2Proof.Machine.makeReady
  dsimp only
  refine StrandWork.trans ?_ (.post _ _ _ _)
  refine StrandWork.trans ?_ (.post _ _ _ _)
  refine StrandWork.trans ?_ (.modStrand _ _ _)
  refine StrandWork.trans ?_ (.setHdrN _ _ _ _ _ _)
  split <;> exact .setRun _ _ _ _ _

theorem StrandWork.returnTrapped (k disp : Nat) (s : State) : StrandWork s (returnTrapped k disp s) := by
  unfold Sys2Proof.Machine.returnTrapped
  dsimp only
  refine StrandWork.trans ?_ (.makeReady _ _)
  refine StrandWork.trans ?_ (.modStrand _ _ _)
  exact ((StrandWork.setHdrN _ _ _ _ _ _).trans (.setHdrN _ _ _ _ _ _)).trans (.setHdrN _ _ _ _ _ _)

/-- What such work leaves. -/
theorem StrandWork.mem {s t : State} (h : StrandWork s t) : t.mem = s.mem := by obtain ⟨_, _, _, _, rfl⟩ := h; rfl
theorem StrandWork.spad {s t : State} (h : StrandWork s t) : t.spad = s.spad := by obtain ⟨_, _, _, _, rfl⟩ := h; rfl
theorem StrandWork.snap {s t : State} (h : StrandWork s t) : t.snap = s.snap := by obtain ⟨_, _, _, _, rfl⟩ := h; rfl
theorem StrandWork.issue {s t : State} (h : StrandWork s t) : t.issue = s.issue := by obtain ⟨_, _, _, _, rfl⟩ := h; rfl
theorem StrandWork.mw0 {s t : State} (h : StrandWork s t) : t.mw0 = s.mw0 := by obtain ⟨_, _, _, _, rfl⟩ := h; rfl
theorem StrandWork.cores {s t : State} (h : StrandWork s t) : t.cores = s.cores := by obtain ⟨_, _, _, _, rfl⟩ := h; rfl
theorem StrandWork.wheel {s t : State} (h : StrandWork s t) : t.wheel = s.wheel := by obtain ⟨_, _, _, _, rfl⟩ := h; rfl

/-- Retiring changes the strand, its header and the issue's note, and nothing else (R209). -/
theorem retire_mem (s : State) : (retire s).mem = s.mem ∧ (retire s).spad = s.spad ∧ (retire s).mw0 = s.mw0 := by
  simp [retire]

/-! ### The shapes of scalar meanings (R287) -/

theorem scalarOp_operable (i : Instr) (f : State → Word) (s : State) (h : operable i s = true) :
    scalarOp i f s = .next (retire (dstS i .d (f s) (consume i s))) := issue_operable i s _ h

theorem scalarTurns_operable (n : Nat) (i : Instr) (f : State → Word) (s : State) (h : operable i s = true) :
    scalarTurns n i f s = .next (retireTurns n (dstS i .d (f s) (consume i s))) := issue_operable i s _ h

theorem predOp_operable (i : Instr) (f : State → BitVec 32) (s : State) (h : operable i s = true) :
    predOp i f s = .next (retire (dstP i (f s) (consume i s))) := issue_operable i s _ h

end Sys2Proof.Machine
end

