-- ==== Sys2Proof/Laws/PerInstr.lean ====
section
/-! SUPPORT. Laws of the encoding, constructor by constructor: the fields an instruction is written from read back as that
instruction, so no bit of its fields is dropped (R265, R268, R275 to R277, R287 to R391). -/

namespace Sys2Proof.Laws.Encoding

/-! ### Extracting a field of a word put together from fields -/

theorem take_lo {m n : Nat} (a : BitVec m) (b : BitVec n) (lo k : Nat) (h : lo + k ≤ n) :
    (a ++ b).extractLsb' lo k = b.extractLsb' lo k := by
  apply BitVec.eq_of_getLsbD_eq
  intro i hi
  simp only [BitVec.getLsbD_extractLsb', BitVec.getLsbD_append]
  rw [if_pos (by omega)]

theorem take_hi {m n : Nat} (a : BitVec m) (b : BitVec n) (lo k : Nat) (h : n ≤ lo) :
    (a ++ b).extractLsb' lo k = a.extractLsb' (lo - n) k := by
  apply BitVec.eq_of_getLsbD_eq
  intro i hi
  simp only [BitVec.getLsbD_extractLsb', BitVec.getLsbD_append]
  rw [if_neg (by omega), show lo + i - n = lo - n + i by omega]

theorem take_all {n : Nat} (b : BitVec n) : b.extractLsb' 0 n = b := by simp

/-- Two neighbouring fields joined. -/
theorem join {n : Nat} (x : BitVec n) (lo k m : Nat) :
    x.extractLsb' (lo + k) m ++ x.extractLsb' lo k = x.extractLsb' lo (m + k) := by
  apply BitVec.eq_of_getLsbD_eq
  intro i hi
  simp only [BitVec.getLsbD_extractLsb', BitVec.getLsbD_append]
  split
  · next h => simp [h, hi]
  · next h =>
    rw [show lo + k + (i - k) = lo + i by omega]
    simp [hi, show i - k < m by omega]

@[simp] theorem join_12 (x : BitVec 12) : x.extractLsb' 7 5 ++ x.extractLsb' 0 7 = x :=
  (join x 0 7 5).trans (take_all x)
@[simp] theorem join_15 (x : BitVec 15) : x.extractLsb' 10 5 ++ x.extractLsb' 5 5 ++ x.extractLsb' 0 5 = x := by
  rw [show x.extractLsb' 10 5 ++ x.extractLsb' 5 5 = x.extractLsb' 5 10 from join x 5 5 5]
  exact (join x 0 5 10).trans (take_all x)
@[simp] theorem join_17 (x : BitVec 17) : x.extractLsb' 12 5 ++ x.extractLsb' 7 5 ++ x.extractLsb' 0 7 = x := by
  rw [show x.extractLsb' 12 5 ++ x.extractLsb' 7 5 = x.extractLsb' 7 10 from join x 7 5 5]
  exact (join x 0 7 10).trans (take_all x)

@[simp] theorem top_3_4 (a : BitVec 3) (b : BitVec 4) : BitVec.extractLsb' (n := 7) 5 2 (a ++ b) = a.extractLsb' 1 2 :=
  take_hi a b 5 2 (by decide)
@[simp] theorem mid_3_4 (a : BitVec 3) (b : BitVec 4) : BitVec.extractLsb' (n := 7) 4 1 (a ++ b) = a.extractLsb' 0 1 :=
  take_hi a b 4 1 (by decide)
@[simp] theorem not_trap_eret (a : BitVec 2) : (0#2 ++ a ++ 1#3 : BitVec 7) = 0#7 ↔ False := by revert a; decide
@[simp] theorem not_bkpt_eret (a : BitVec 2) : (0#2 ++ a ++ 1#3 : BitVec 7) = 2#7 ↔ False := by revert a; decide
@[simp] theorem not_trap_tlbi (a : BitVec 1) (b : BitVec 3) : (a ++ b ++ 3#3 : BitVec 7) = 0#7 ↔ False := by
  revert a b; decide
@[simp] theorem not_bkpt_tlbi (a : BitVec 1) (b : BitVec 3) : (a ++ b ++ 3#3 : BitVec 7) = 2#7 ↔ False := by
  revert a b; decide


@[simp] theorem bits_1_1_1_2_at_0 (a : BitVec 1) (b : BitVec 1) (c : BitVec 1) (d : BitVec 2) :
    BitVec.extractLsb' (n := 5) 4 1 (a ++ b ++ c ++ d) = a := by
  show BitVec.extractLsb' (n := 1+1+1+2) 4 1 (a ++ b ++ c ++ d) = a
  simp (disch := decide) only [take_hi, take_lo]
  exact take_all _
@[simp] theorem bits_1_1_1_2_at_1 (a : BitVec 1) (b : BitVec 1) (c : BitVec 1) (d : BitVec 2) :
    BitVec.extractLsb' (n := 5) 3 1 (a ++ b ++ c ++ d) = b := by
  show BitVec.extractLsb' (n := 1+1+1+2) 3 1 (a ++ b ++ c ++ d) = b
  simp (disch := decide) only [take_hi, take_lo]
  exact take_all _
@[simp] theorem bits_1_1_1_2_at_2 (a : BitVec 1) (b : BitVec 1) (c : BitVec 1) (d : BitVec 2) :
    BitVec.extractLsb' (n := 5) 2 1 (a ++ b ++ c ++ d) = c := by
  show BitVec.extractLsb' (n := 1+1+1+2) 2 1 (a ++ b ++ c ++ d) = c
  simp (disch := decide) only [take_hi, take_lo]
  exact take_all _
@[simp] theorem bits_1_1_1_2_at_3 (a : BitVec 1) (b : BitVec 1) (c : BitVec 1) (d : BitVec 2) :
    BitVec.extractLsb' (n := 5) 0 2 (a ++ b ++ c ++ d) = d := by
  show BitVec.extractLsb' (n := 1+1+1+2) 0 2 (a ++ b ++ c ++ d) = d
  simp (disch := decide) only [take_hi, take_lo]
  exact take_all _
@[simp] theorem bits_1_1_3_at_0 (a : BitVec 1) (b : BitVec 1) (c : BitVec 3) :
    BitVec.extractLsb' (n := 5) 4 1 (a ++ b ++ c) = a := by
  show BitVec.extractLsb' (n := 1+1+3) 4 1 (a ++ b ++ c) = a
  simp (disch := decide) only [take_hi, take_lo]
  exact take_all _
@[simp] theorem bits_1_1_3_at_1 (a : BitVec 1) (b : BitVec 1) (c : BitVec 3) :
    BitVec.extractLsb' (n := 5) 3 1 (a ++ b ++ c) = b := by
  show BitVec.extractLsb' (n := 1+1+3) 3 1 (a ++ b ++ c) = b
  simp (disch := decide) only [take_hi, take_lo]
  exact take_all _
@[simp] theorem bits_1_1_3_at_2 (a : BitVec 1) (b : BitVec 1) (c : BitVec 3) :
    BitVec.extractLsb' (n := 5) 0 3 (a ++ b ++ c) = c := by
  show BitVec.extractLsb' (n := 1+1+3) 0 3 (a ++ b ++ c) = c
  simp (disch := decide) only [take_hi, take_lo]
  exact take_all _
@[simp] theorem bits_1_3_3_at_0 (a : BitVec 1) (b : BitVec 3) (c : BitVec 3) :
    BitVec.extractLsb' (n := 7) 6 1 (a ++ b ++ c) = a := by
  show BitVec.extractLsb' (n := 1+3+3) 6 1 (a ++ b ++ c) = a
  simp (disch := decide) only [take_hi, take_lo]
  exact take_all _
@[simp] theorem bits_1_3_3_at_1 (a : BitVec 1) (b : BitVec 3) (c : BitVec 3) :
    BitVec.extractLsb' (n := 7) 3 3 (a ++ b ++ c) = b := by
  show BitVec.extractLsb' (n := 1+3+3) 3 3 (a ++ b ++ c) = b
  simp (disch := decide) only [take_hi, take_lo]
  exact take_all _
@[simp] theorem bits_1_3_3_at_2 (a : BitVec 1) (b : BitVec 3) (c : BitVec 3) :
    BitVec.extractLsb' (n := 7) 0 3 (a ++ b ++ c) = c := by
  show BitVec.extractLsb' (n := 1+3+3) 0 3 (a ++ b ++ c) = c
  simp (disch := decide) only [take_hi, take_lo]
  exact take_all _
@[simp] theorem bits_1_6_at_0 (a : BitVec 1) (b : BitVec 6) :
    BitVec.extractLsb' (n := 7) 6 1 (a ++ b) = a := by
  show BitVec.extractLsb' (n := 1+6) 6 1 (a ++ b) = a
  simp (disch := decide) only [take_hi, take_lo]
  exact take_all _
@[simp] theorem bits_1_6_at_1 (a : BitVec 1) (b : BitVec 6) :
    BitVec.extractLsb' (n := 7) 0 6 (a ++ b) = b := by
  show BitVec.extractLsb' (n := 1+6) 0 6 (a ++ b) = b
  simp (disch := decide) only [take_hi, take_lo]
  exact take_all _
@[simp] theorem bits_2_1_4_at_0 (a : BitVec 2) (b : BitVec 1) (c : BitVec 4) :
    BitVec.extractLsb' (n := 7) 5 2 (a ++ b ++ c) = a := by
  show BitVec.extractLsb' (n := 2+1+4) 5 2 (a ++ b ++ c) = a
  simp (disch := decide) only [take_hi, take_lo]
  exact take_all _
@[simp] theorem bits_2_1_4_at_1 (a : BitVec 2) (b : BitVec 1) (c : BitVec 4) :
    BitVec.extractLsb' (n := 7) 4 1 (a ++ b ++ c) = b := by
  show BitVec.extractLsb' (n := 2+1+4) 4 1 (a ++ b ++ c) = b
  simp (disch := decide) only [take_hi, take_lo]
  exact take_all _
@[simp] theorem bits_2_1_4_at_2 (a : BitVec 2) (b : BitVec 1) (c : BitVec 4) :
    BitVec.extractLsb' (n := 7) 0 4 (a ++ b ++ c) = c := by
  show BitVec.extractLsb' (n := 2+1+4) 0 4 (a ++ b ++ c) = c
  simp (disch := decide) only [take_hi, take_lo]
  exact take_all _
@[simp] theorem bits_2_2_3_at_0 (a : BitVec 2) (b : BitVec 2) (c : BitVec 3) :
    BitVec.extractLsb' (n := 7) 5 2 (a ++ b ++ c) = a := by
  show BitVec.extractLsb' (n := 2+2+3) 5 2 (a ++ b ++ c) = a
  simp (disch := decide) only [take_hi, take_lo]
  exact take_all _
@[simp] theorem bits_2_2_3_at_1 (a : BitVec 2) (b : BitVec 2) (c : BitVec 3) :
    BitVec.extractLsb' (n := 7) 3 2 (a ++ b ++ c) = b := by
  show BitVec.extractLsb' (n := 2+2+3) 3 2 (a ++ b ++ c) = b
  simp (disch := decide) only [take_hi, take_lo]
  exact take_all _
@[simp] theorem bits_2_2_3_at_2 (a : BitVec 2) (b : BitVec 2) (c : BitVec 3) :
    BitVec.extractLsb' (n := 7) 0 3 (a ++ b ++ c) = c := by
  show BitVec.extractLsb' (n := 2+2+3) 0 3 (a ++ b ++ c) = c
  simp (disch := decide) only [take_hi, take_lo]
  exact take_all _
@[simp] theorem bits_2_3_at_0 (a : BitVec 2) (b : BitVec 3) :
    BitVec.extractLsb' (n := 5) 3 2 (a ++ b) = a := by
  show BitVec.extractLsb' (n := 2+3) 3 2 (a ++ b) = a
  simp (disch := decide) only [take_hi, take_lo]
  exact take_all _
@[simp] theorem bits_2_3_at_1 (a : BitVec 2) (b : BitVec 3) :
    BitVec.extractLsb' (n := 5) 0 3 (a ++ b) = b := by
  show BitVec.extractLsb' (n := 2+3) 0 3 (a ++ b) = b
  simp (disch := decide) only [take_hi, take_lo]
  exact take_all _
@[simp] theorem bits_2_3_2_at_0 (a : BitVec 2) (b : BitVec 3) (c : BitVec 2) :
    BitVec.extractLsb' (n := 7) 5 2 (a ++ b ++ c) = a := by
  show BitVec.extractLsb' (n := 2+3+2) 5 2 (a ++ b ++ c) = a
  simp (disch := decide) only [take_hi, take_lo]
  exact take_all _
@[simp] theorem bits_2_3_2_at_1 (a : BitVec 2) (b : BitVec 3) (c : BitVec 2) :
    BitVec.extractLsb' (n := 7) 2 3 (a ++ b ++ c) = b := by
  show BitVec.extractLsb' (n := 2+3+2) 2 3 (a ++ b ++ c) = b
  simp (disch := decide) only [take_hi, take_lo]
  exact take_all _
@[simp] theorem bits_2_3_2_at_2 (a : BitVec 2) (b : BitVec 3) (c : BitVec 2) :
    BitVec.extractLsb' (n := 7) 0 2 (a ++ b ++ c) = c := by
  show BitVec.extractLsb' (n := 2+3+2) 0 2 (a ++ b ++ c) = c
  simp (disch := decide) only [take_hi, take_lo]
  exact take_all _
@[simp] theorem bits_3_1_3_at_0 (a : BitVec 3) (b : BitVec 1) (c : BitVec 3) :
    BitVec.extractLsb' (n := 7) 4 3 (a ++ b ++ c) = a := by
  show BitVec.extractLsb' (n := 3+1+3) 4 3 (a ++ b ++ c) = a
  simp (disch := decide) only [take_hi, take_lo]
  exact take_all _
@[simp] theorem bits_3_1_3_at_1 (a : BitVec 3) (b : BitVec 1) (c : BitVec 3) :
    BitVec.extractLsb' (n := 7) 3 1 (a ++ b ++ c) = b := by
  show BitVec.extractLsb' (n := 3+1+3) 3 1 (a ++ b ++ c) = b
  simp (disch := decide) only [take_hi, take_lo]
  exact take_all _
@[simp] theorem bits_3_1_3_at_2 (a : BitVec 3) (b : BitVec 1) (c : BitVec 3) :
    BitVec.extractLsb' (n := 7) 0 3 (a ++ b ++ c) = c := by
  show BitVec.extractLsb' (n := 3+1+3) 0 3 (a ++ b ++ c) = c
  simp (disch := decide) only [take_hi, take_lo]
  exact take_all _
@[simp] theorem bits_3_2_at_0 (a : BitVec 3) (b : BitVec 2) :
    BitVec.extractLsb' (n := 5) 2 3 (a ++ b) = a := by
  show BitVec.extractLsb' (n := 3+2) 2 3 (a ++ b) = a
  simp (disch := decide) only [take_hi, take_lo]
  exact take_all _
@[simp] theorem bits_3_2_at_1 (a : BitVec 3) (b : BitVec 2) :
    BitVec.extractLsb' (n := 5) 0 2 (a ++ b) = b := by
  show BitVec.extractLsb' (n := 3+2) 0 2 (a ++ b) = b
  simp (disch := decide) only [take_hi, take_lo]
  exact take_all _
@[simp] theorem bits_3_4_at_0 (a : BitVec 3) (b : BitVec 4) :
    BitVec.extractLsb' (n := 7) 4 3 (a ++ b) = a := by
  show BitVec.extractLsb' (n := 3+4) 4 3 (a ++ b) = a
  simp (disch := decide) only [take_hi, take_lo]
  exact take_all _
@[simp] theorem bits_3_4_at_1 (a : BitVec 3) (b : BitVec 4) :
    BitVec.extractLsb' (n := 7) 0 4 (a ++ b) = b := by
  show BitVec.extractLsb' (n := 3+4) 0 4 (a ++ b) = b
  simp (disch := decide) only [take_hi, take_lo]
  exact take_all _
@[simp] theorem bits_4_1_2_at_0 (a : BitVec 4) (b : BitVec 1) (c : BitVec 2) :
    BitVec.extractLsb' (n := 7) 3 4 (a ++ b ++ c) = a := by
  show BitVec.extractLsb' (n := 4+1+2) 3 4 (a ++ b ++ c) = a
  simp (disch := decide) only [take_hi, take_lo]
  exact take_all _
@[simp] theorem bits_4_1_2_at_1 (a : BitVec 4) (b : BitVec 1) (c : BitVec 2) :
    BitVec.extractLsb' (n := 7) 2 1 (a ++ b ++ c) = b := by
  show BitVec.extractLsb' (n := 4+1+2) 2 1 (a ++ b ++ c) = b
  simp (disch := decide) only [take_hi, take_lo]
  exact take_all _
@[simp] theorem bits_4_1_2_at_2 (a : BitVec 4) (b : BitVec 1) (c : BitVec 2) :
    BitVec.extractLsb' (n := 7) 0 2 (a ++ b ++ c) = c := by
  show BitVec.extractLsb' (n := 4+1+2) 0 2 (a ++ b ++ c) = c
  simp (disch := decide) only [take_hi, take_lo]
  exact take_all _
@[simp] theorem bits_4_3_at_0 (a : BitVec 4) (b : BitVec 3) :
    BitVec.extractLsb' (n := 7) 3 4 (a ++ b) = a := by
  show BitVec.extractLsb' (n := 4+3) 3 4 (a ++ b) = a
  simp (disch := decide) only [take_hi, take_lo]
  exact take_all _
@[simp] theorem bits_4_3_at_1 (a : BitVec 4) (b : BitVec 3) :
    BitVec.extractLsb' (n := 7) 0 3 (a ++ b) = b := by
  show BitVec.extractLsb' (n := 4+3) 0 3 (a ++ b) = b
  simp (disch := decide) only [take_hi, take_lo]
  exact take_all _
@[simp] theorem bits_5_2_at_0 (a : BitVec 5) (b : BitVec 2) :
    BitVec.extractLsb' (n := 7) 2 5 (a ++ b) = a := by
  show BitVec.extractLsb' (n := 5+2) 2 5 (a ++ b) = a
  simp (disch := decide) only [take_hi, take_lo]
  exact take_all _
@[simp] theorem bits_5_2_at_1 (a : BitVec 5) (b : BitVec 2) :
    BitVec.extractLsb' (n := 7) 0 2 (a ++ b) = b := by
  show BitVec.extractLsb' (n := 5+2) 0 2 (a ++ b) = b
  simp (disch := decide) only [take_hi, take_lo]
  exact take_all _
@[simp] theorem bits_6_1_at_0 (a : BitVec 6) (b : BitVec 1) :
    BitVec.extractLsb' (n := 7) 1 6 (a ++ b) = a := by
  show BitVec.extractLsb' (n := 6+1) 1 6 (a ++ b) = a
  simp (disch := decide) only [take_hi, take_lo]
  exact take_all _
@[simp] theorem bits_6_1_at_1 (a : BitVec 6) (b : BitVec 1) :
    BitVec.extractLsb' (n := 7) 0 1 (a ++ b) = b := by
  show BitVec.extractLsb' (n := 6+1) 0 1 (a ++ b) = b
  simp (disch := decide) only [take_hi, take_lo]
  exact take_all _
@[simp] theorem bits_8_6_6_6_6_at_0 (a : BitVec 8) (b : BitVec 6) (c : BitVec 6) (d : BitVec 6) (e : BitVec 6) :
    BitVec.extractLsb' (n := 32) 24 8 (a ++ b ++ c ++ d ++ e) = a := by
  show BitVec.extractLsb' (n := 8+6+6+6+6) 24 8 (a ++ b ++ c ++ d ++ e) = a
  simp (disch := decide) only [take_hi, take_lo]
  exact take_all _
@[simp] theorem bits_8_6_6_6_6_at_1 (a : BitVec 8) (b : BitVec 6) (c : BitVec 6) (d : BitVec 6) (e : BitVec 6) :
    BitVec.extractLsb' (n := 32) 18 6 (a ++ b ++ c ++ d ++ e) = b := by
  show BitVec.extractLsb' (n := 8+6+6+6+6) 18 6 (a ++ b ++ c ++ d ++ e) = b
  simp (disch := decide) only [take_hi, take_lo]
  exact take_all _
@[simp] theorem bits_8_6_6_6_6_at_2 (a : BitVec 8) (b : BitVec 6) (c : BitVec 6) (d : BitVec 6) (e : BitVec 6) :
    BitVec.extractLsb' (n := 32) 12 6 (a ++ b ++ c ++ d ++ e) = c := by
  show BitVec.extractLsb' (n := 8+6+6+6+6) 12 6 (a ++ b ++ c ++ d ++ e) = c
  simp (disch := decide) only [take_hi, take_lo]
  exact take_all _
@[simp] theorem bits_8_6_6_6_6_at_3 (a : BitVec 8) (b : BitVec 6) (c : BitVec 6) (d : BitVec 6) (e : BitVec 6) :
    BitVec.extractLsb' (n := 32) 6 6 (a ++ b ++ c ++ d ++ e) = d := by
  show BitVec.extractLsb' (n := 8+6+6+6+6) 6 6 (a ++ b ++ c ++ d ++ e) = d
  simp (disch := decide) only [take_hi, take_lo]
  exact take_all _
@[simp] theorem bits_8_6_6_6_6_at_4 (a : BitVec 8) (b : BitVec 6) (c : BitVec 6) (d : BitVec 6) (e : BitVec 6) :
    BitVec.extractLsb' (n := 32) 0 6 (a ++ b ++ c ++ d ++ e) = e := by
  show BitVec.extractLsb' (n := 8+6+6+6+6) 0 6 (a ++ b ++ c ++ d ++ e) = e
  simp (disch := decide) only [take_hi, take_lo]
  exact take_all _
@[simp] theorem bits_19_5_8_at_0 (a : BitVec 19) (b : BitVec 5) (c : BitVec 8) :
    BitVec.extractLsb' (n := 32) 13 19 (a ++ b ++ c) = a := by
  show BitVec.extractLsb' (n := 19+5+8) 13 19 (a ++ b ++ c) = a
  simp (disch := decide) only [take_hi, take_lo]
  exact take_all _
@[simp] theorem bits_19_5_8_at_1 (a : BitVec 19) (b : BitVec 5) (c : BitVec 8) :
    BitVec.extractLsb' (n := 32) 8 5 (a ++ b ++ c) = b := by
  show BitVec.extractLsb' (n := 19+5+8) 8 5 (a ++ b ++ c) = b
  simp (disch := decide) only [take_hi, take_lo]
  exact take_all _
@[simp] theorem bits_19_5_8_at_2 (a : BitVec 19) (b : BitVec 5) (c : BitVec 8) :
    BitVec.extractLsb' (n := 32) 0 8 (a ++ b ++ c) = c := by
  show BitVec.extractLsb' (n := 19+5+8) 0 8 (a ++ b ++ c) = c
  simp (disch := decide) only [take_hi, take_lo]
  exact take_all _
@[simp] theorem bits_19_7_6_at_0 (a : BitVec 19) (b : BitVec 7) (c : BitVec 6) :
    BitVec.extractLsb' (n := 32) 13 19 (a ++ b ++ c) = a := by
  show BitVec.extractLsb' (n := 19+7+6) 13 19 (a ++ b ++ c) = a
  simp (disch := decide) only [take_hi, take_lo]
  exact take_all _
@[simp] theorem bits_19_7_6_at_1 (a : BitVec 19) (b : BitVec 7) (c : BitVec 6) :
    BitVec.extractLsb' (n := 32) 6 7 (a ++ b ++ c) = b := by
  show BitVec.extractLsb' (n := 19+7+6) 6 7 (a ++ b ++ c) = b
  simp (disch := decide) only [take_hi, take_lo]
  exact take_all _
@[simp] theorem bits_19_7_6_at_2 (a : BitVec 19) (b : BitVec 7) (c : BitVec 6) :
    BitVec.extractLsb' (n := 32) 0 6 (a ++ b ++ c) = c := by
  show BitVec.extractLsb' (n := 19+7+6) 0 6 (a ++ b ++ c) = c
  simp (disch := decide) only [take_hi, take_lo]
  exact take_all _
@[simp] theorem bits_21_2_5_4_at_0 (a : BitVec 21) (b : BitVec 2) (c : BitVec 5) (d : BitVec 4) :
    BitVec.extractLsb' (n := 32) 11 21 (a ++ b ++ c ++ d) = a := by
  show BitVec.extractLsb' (n := 21+2+5+4) 11 21 (a ++ b ++ c ++ d) = a
  simp (disch := decide) only [take_hi, take_lo]
  exact take_all _
@[simp] theorem bits_21_2_5_4_at_1 (a : BitVec 21) (b : BitVec 2) (c : BitVec 5) (d : BitVec 4) :
    BitVec.extractLsb' (n := 32) 9 2 (a ++ b ++ c ++ d) = b := by
  show BitVec.extractLsb' (n := 21+2+5+4) 9 2 (a ++ b ++ c ++ d) = b
  simp (disch := decide) only [take_hi, take_lo]
  exact take_all _
@[simp] theorem bits_21_2_5_4_at_2 (a : BitVec 21) (b : BitVec 2) (c : BitVec 5) (d : BitVec 4) :
    BitVec.extractLsb' (n := 32) 4 5 (a ++ b ++ c ++ d) = c := by
  show BitVec.extractLsb' (n := 21+2+5+4) 4 5 (a ++ b ++ c ++ d) = c
  simp (disch := decide) only [take_hi, take_lo]
  exact take_all _
@[simp] theorem bits_21_2_5_4_at_3 (a : BitVec 21) (b : BitVec 2) (c : BitVec 5) (d : BitVec 4) :
    BitVec.extractLsb' (n := 32) 0 4 (a ++ b ++ c ++ d) = d := by
  show BitVec.extractLsb' (n := 21+2+5+4) 0 4 (a ++ b ++ c ++ d) = d
  simp (disch := decide) only [take_hi, take_lo]
  exact take_all _
@[simp] theorem bits_22_3_3_4_at_0 (a : BitVec 22) (b : BitVec 3) (c : BitVec 3) (d : BitVec 4) :
    BitVec.extractLsb' (n := 32) 10 22 (a ++ b ++ c ++ d) = a := by
  show BitVec.extractLsb' (n := 22+3+3+4) 10 22 (a ++ b ++ c ++ d) = a
  simp (disch := decide) only [take_hi, take_lo]
  exact take_all _
@[simp] theorem bits_22_3_3_4_at_1 (a : BitVec 22) (b : BitVec 3) (c : BitVec 3) (d : BitVec 4) :
    BitVec.extractLsb' (n := 32) 7 3 (a ++ b ++ c ++ d) = b := by
  show BitVec.extractLsb' (n := 22+3+3+4) 7 3 (a ++ b ++ c ++ d) = b
  simp (disch := decide) only [take_hi, take_lo]
  exact take_all _
@[simp] theorem bits_22_3_3_4_at_2 (a : BitVec 22) (b : BitVec 3) (c : BitVec 3) (d : BitVec 4) :
    BitVec.extractLsb' (n := 32) 4 3 (a ++ b ++ c ++ d) = c := by
  show BitVec.extractLsb' (n := 22+3+3+4) 4 3 (a ++ b ++ c ++ d) = c
  simp (disch := decide) only [take_hi, take_lo]
  exact take_all _
@[simp] theorem bits_22_3_3_4_at_3 (a : BitVec 22) (b : BitVec 3) (c : BitVec 3) (d : BitVec 4) :
    BitVec.extractLsb' (n := 32) 0 4 (a ++ b ++ c ++ d) = d := by
  show BitVec.extractLsb' (n := 22+3+3+4) 0 4 (a ++ b ++ c ++ d) = d
  simp (disch := decide) only [take_hi, take_lo]
  exact take_all _
@[simp] theorem bits_24_4_4_at_0 (a : BitVec 24) (b : BitVec 4) (c : BitVec 4) :
    BitVec.extractLsb' (n := 32) 8 24 (a ++ b ++ c) = a := by
  show BitVec.extractLsb' (n := 24+4+4) 8 24 (a ++ b ++ c) = a
  simp (disch := decide) only [take_hi, take_lo]
  exact take_all _
@[simp] theorem bits_24_4_4_at_1 (a : BitVec 24) (b : BitVec 4) (c : BitVec 4) :
    BitVec.extractLsb' (n := 32) 4 4 (a ++ b ++ c) = b := by
  show BitVec.extractLsb' (n := 24+4+4) 4 4 (a ++ b ++ c) = b
  simp (disch := decide) only [take_hi, take_lo]
  exact take_all _
@[simp] theorem bits_24_4_4_at_2 (a : BitVec 24) (b : BitVec 4) (c : BitVec 4) :
    BitVec.extractLsb' (n := 32) 0 4 (a ++ b ++ c) = c := by
  show BitVec.extractLsb' (n := 24+4+4) 0 4 (a ++ b ++ c) = c
  simp (disch := decide) only [take_hi, take_lo]
  exact take_all _
@[simp] theorem bits_25_3_4_at_0 (a : BitVec 25) (b : BitVec 3) (c : BitVec 4) :
    BitVec.extractLsb' (n := 32) 7 25 (a ++ b ++ c) = a := by
  show BitVec.extractLsb' (n := 25+3+4) 7 25 (a ++ b ++ c) = a
  simp (disch := decide) only [take_hi, take_lo]
  exact take_all _
@[simp] theorem bits_25_3_4_at_1 (a : BitVec 25) (b : BitVec 3) (c : BitVec 4) :
    BitVec.extractLsb' (n := 32) 4 3 (a ++ b ++ c) = b := by
  show BitVec.extractLsb' (n := 25+3+4) 4 3 (a ++ b ++ c) = b
  simp (disch := decide) only [take_hi, take_lo]
  exact take_all _
@[simp] theorem bits_25_3_4_at_2 (a : BitVec 25) (b : BitVec 3) (c : BitVec 4) :
    BitVec.extractLsb' (n := 32) 0 4 (a ++ b ++ c) = c := by
  show BitVec.extractLsb' (n := 25+3+4) 0 4 (a ++ b ++ c) = c
  simp (disch := decide) only [take_hi, take_lo]
  exact take_all _
@[simp] theorem bits_26_3_3_at_0 (a : BitVec 26) (b : BitVec 3) (c : BitVec 3) :
    BitVec.extractLsb' (n := 32) 6 26 (a ++ b ++ c) = a := by
  show BitVec.extractLsb' (n := 26+3+3) 6 26 (a ++ b ++ c) = a
  simp (disch := decide) only [take_hi, take_lo]
  exact take_all _
@[simp] theorem bits_26_3_3_at_1 (a : BitVec 26) (b : BitVec 3) (c : BitVec 3) :
    BitVec.extractLsb' (n := 32) 3 3 (a ++ b ++ c) = b := by
  show BitVec.extractLsb' (n := 26+3+3) 3 3 (a ++ b ++ c) = b
  simp (disch := decide) only [take_hi, take_lo]
  exact take_all _
@[simp] theorem bits_26_3_3_at_2 (a : BitVec 26) (b : BitVec 3) (c : BitVec 3) :
    BitVec.extractLsb' (n := 32) 0 3 (a ++ b ++ c) = c := by
  show BitVec.extractLsb' (n := 26+3+3) 0 3 (a ++ b ++ c) = c
  simp (disch := decide) only [take_hi, take_lo]
  exact take_all _
@[simp] theorem bits_27_5_at_0 (a : BitVec 27) (b : BitVec 5) :
    BitVec.extractLsb' (n := 32) 5 27 (a ++ b) = a := by
  show BitVec.extractLsb' (n := 27+5) 5 27 (a ++ b) = a
  simp (disch := decide) only [take_hi, take_lo]
  exact take_all _
@[simp] theorem bits_27_5_at_1 (a : BitVec 27) (b : BitVec 5) :
    BitVec.extractLsb' (n := 32) 0 5 (a ++ b) = b := by
  show BitVec.extractLsb' (n := 27+5) 0 5 (a ++ b) = b
  simp (disch := decide) only [take_hi, take_lo]
  exact take_all _

/-! ### The statement and one lemma per constructor -/

/-- The fields an instruction is written from read back as the instruction. -/
def Statement (i : Instr) : Prop := ∀ f, toFields i = some f → ofFields f = some i

theorem add (p : Pfx) (w : BitVec 2) (rd : BitVec 5) (ra : BitVec 5) (rb : BitVec 5) : Statement (.add p w rd ra rb) := by
  rintro f ⟨⟩
  simp [ofFields, ofShortA]
theorem sub (p : Pfx) (w : BitVec 2) (rd : BitVec 5) (ra : BitVec 5) (rb : BitVec 5) : Statement (.sub p w rd ra rb) := by
  rintro f ⟨⟩
  simp [ofFields, ofShortA]
theorem mul (p : Pfx) (w : BitVec 2) (rd : BitVec 5) (ra : BitVec 5) (rb : BitVec 5) : Statement (.mul p w rd ra rb) := by
  rintro f ⟨⟩
  simp [ofFields, ofShortA]
theorem mulh (p : Pfx) (w : BitVec 2) (rd : BitVec 5) (ra : BitVec 5) (rb : BitVec 5) : Statement (.mulh p w rd ra rb) := by
  rintro f ⟨⟩
  simp [ofFields, ofShortA]
theorem mulhu (p : Pfx) (w : BitVec 2) (rd : BitVec 5) (ra : BitVec 5) (rb : BitVec 5) : Statement (.mulhu p w rd ra rb) := by
  rintro f ⟨⟩
  simp [ofFields, ofShortA]
theorem div (p : Pfx) (w : BitVec 2) (rd : BitVec 5) (ra : BitVec 5) (rb : BitVec 5) : Statement (.div p w rd ra rb) := by
  rintro f ⟨⟩
  simp [ofFields, ofShortA]
theorem divu (p : Pfx) (w : BitVec 2) (rd : BitVec 5) (ra : BitVec 5) (rb : BitVec 5) : Statement (.divu p w rd ra rb) := by
  rintro f ⟨⟩
  simp [ofFields, ofShortA]
theorem rem (p : Pfx) (w : BitVec 2) (rd : BitVec 5) (ra : BitVec 5) (rb : BitVec 5) : Statement (.rem p w rd ra rb) := by
  rintro f ⟨⟩
  simp [ofFields, ofShortA]
theorem remu (p : Pfx) (w : BitVec 2) (rd : BitVec 5) (ra : BitVec 5) (rb : BitVec 5) : Statement (.remu p w rd ra rb) := by
  rintro f ⟨⟩
  simp [ofFields, ofShortA]
theorem and (p : Pfx) (w : BitVec 2) (rd : BitVec 5) (ra : BitVec 5) (rb : BitVec 5) : Statement (.and p w rd ra rb) := by
  rintro f ⟨⟩
  simp [ofFields, ofShortA]
theorem or (p : Pfx) (w : BitVec 2) (rd : BitVec 5) (ra : BitVec 5) (rb : BitVec 5) : Statement (.or p w rd ra rb) := by
  rintro f ⟨⟩
  simp [ofFields, ofShortA]
theorem xor (p : Pfx) (w : BitVec 2) (rd : BitVec 5) (ra : BitVec 5) (rb : BitVec 5) : Statement (.xor p w rd ra rb) := by
  rintro f ⟨⟩
  simp [ofFields, ofShortA]
theorem andn (p : Pfx) (w : BitVec 2) (rd : BitVec 5) (ra : BitVec 5) (rb : BitVec 5) : Statement (.andn p w rd ra rb) := by
  rintro f ⟨⟩
  simp [ofFields, ofShortA]
theorem orn (p : Pfx) (w : BitVec 2) (rd : BitVec 5) (ra : BitVec 5) (rb : BitVec 5) : Statement (.orn p w rd ra rb) := by
  rintro f ⟨⟩
  simp [ofFields, ofShortA]
theorem xnor (p : Pfx) (w : BitVec 2) (rd : BitVec 5) (ra : BitVec 5) (rb : BitVec 5) : Statement (.xnor p w rd ra rb) := by
  rintro f ⟨⟩
  simp [ofFields, ofShortA]
theorem shl (p : Pfx) (w : BitVec 2) (rd : BitVec 5) (ra : BitVec 5) (rb : BitVec 5) : Statement (.shl p w rd ra rb) := by
  rintro f ⟨⟩
  simp [ofFields, ofShortA]
theorem shr (p : Pfx) (w : BitVec 2) (rd : BitVec 5) (ra : BitVec 5) (rb : BitVec 5) : Statement (.shr p w rd ra rb) := by
  rintro f ⟨⟩
  simp [ofFields, ofShortA]
theorem sar (p : Pfx) (w : BitVec 2) (rd : BitVec 5) (ra : BitVec 5) (rb : BitVec 5) : Statement (.sar p w rd ra rb) := by
  rintro f ⟨⟩
  simp [ofFields, ofShortA]
theorem rot (p : Pfx) (w : BitVec 2) (rd : BitVec 5) (ra : BitVec 5) (rb : BitVec 5) : Statement (.rot p w rd ra rb) := by
  rintro f ⟨⟩
  simp [ofFields, ofShortA]
theorem min (p : Pfx) (w : BitVec 2) (rd : BitVec 5) (ra : BitVec 5) (rb : BitVec 5) : Statement (.min p w rd ra rb) := by
  rintro f ⟨⟩
  simp [ofFields, ofShortA]
theorem max (p : Pfx) (w : BitVec 2) (rd : BitVec 5) (ra : BitVec 5) (rb : BitVec 5) : Statement (.max p w rd ra rb) := by
  rintro f ⟨⟩
  simp [ofFields, ofShortA]
theorem minu (p : Pfx) (w : BitVec 2) (rd : BitVec 5) (ra : BitVec 5) (rb : BitVec 5) : Statement (.minu p w rd ra rb) := by
  rintro f ⟨⟩
  simp [ofFields, ofShortA]
theorem maxu (p : Pfx) (w : BitVec 2) (rd : BitVec 5) (ra : BitVec 5) (rb : BitVec 5) : Statement (.maxu p w rd ra rb) := by
  rintro f ⟨⟩
  simp [ofFields, ofShortA]
theorem addImm (p : Pfx) (w : BitVec 2) (rd : BitVec 5) (ra : BitVec 5) (imm : BitVec 32) : Statement (.addImm p w rd ra imm) := by
  rintro f ⟨⟩
  simp [ofFields, ofLong]
theorem subImm (p : Pfx) (w : BitVec 2) (rd : BitVec 5) (ra : BitVec 5) (imm : BitVec 32) : Statement (.subImm p w rd ra imm) := by
  rintro f ⟨⟩
  simp [ofFields, ofLong]
theorem mulImm (p : Pfx) (w : BitVec 2) (rd : BitVec 5) (ra : BitVec 5) (imm : BitVec 32) : Statement (.mulImm p w rd ra imm) := by
  rintro f ⟨⟩
  simp [ofFields, ofLong]
theorem mulhImm (p : Pfx) (w : BitVec 2) (rd : BitVec 5) (ra : BitVec 5) (imm : BitVec 32) : Statement (.mulhImm p w rd ra imm) := by
  rintro f ⟨⟩
  simp [ofFields, ofLong]
theorem mulhuImm (p : Pfx) (w : BitVec 2) (rd : BitVec 5) (ra : BitVec 5) (imm : BitVec 32) : Statement (.mulhuImm p w rd ra imm) := by
  rintro f ⟨⟩
  simp [ofFields, ofLong]
theorem divImm (p : Pfx) (w : BitVec 2) (rd : BitVec 5) (ra : BitVec 5) (imm : BitVec 32) : Statement (.divImm p w rd ra imm) := by
  rintro f ⟨⟩
  simp [ofFields, ofLong]
theorem divuImm (p : Pfx) (w : BitVec 2) (rd : BitVec 5) (ra : BitVec 5) (imm : BitVec 32) : Statement (.divuImm p w rd ra imm) := by
  rintro f ⟨⟩
  simp [ofFields, ofLong]
theorem remImm (p : Pfx) (w : BitVec 2) (rd : BitVec 5) (ra : BitVec 5) (imm : BitVec 32) : Statement (.remImm p w rd ra imm) := by
  rintro f ⟨⟩
  simp [ofFields, ofLong]
theorem remuImm (p : Pfx) (w : BitVec 2) (rd : BitVec 5) (ra : BitVec 5) (imm : BitVec 32) : Statement (.remuImm p w rd ra imm) := by
  rintro f ⟨⟩
  simp [ofFields, ofLong]
theorem andImm (p : Pfx) (w : BitVec 2) (rd : BitVec 5) (ra : BitVec 5) (imm : BitVec 32) : Statement (.andImm p w rd ra imm) := by
  rintro f ⟨⟩
  simp [ofFields, ofLong]
theorem orImm (p : Pfx) (w : BitVec 2) (rd : BitVec 5) (ra : BitVec 5) (imm : BitVec 32) : Statement (.orImm p w rd ra imm) := by
  rintro f ⟨⟩
  simp [ofFields, ofLong]
theorem xorImm (p : Pfx) (w : BitVec 2) (rd : BitVec 5) (ra : BitVec 5) (imm : BitVec 32) : Statement (.xorImm p w rd ra imm) := by
  rintro f ⟨⟩
  simp [ofFields, ofLong]
theorem andnImm (p : Pfx) (w : BitVec 2) (rd : BitVec 5) (ra : BitVec 5) (imm : BitVec 32) : Statement (.andnImm p w rd ra imm) := by
  rintro f ⟨⟩
  simp [ofFields, ofLong]
theorem ornImm (p : Pfx) (w : BitVec 2) (rd : BitVec 5) (ra : BitVec 5) (imm : BitVec 32) : Statement (.ornImm p w rd ra imm) := by
  rintro f ⟨⟩
  simp [ofFields, ofLong]
theorem xnorImm (p : Pfx) (w : BitVec 2) (rd : BitVec 5) (ra : BitVec 5) (imm : BitVec 32) : Statement (.xnorImm p w rd ra imm) := by
  rintro f ⟨⟩
  simp [ofFields, ofLong]
theorem shlImm (p : Pfx) (w : BitVec 2) (rd : BitVec 5) (ra : BitVec 5) (imm : BitVec 32) : Statement (.shlImm p w rd ra imm) := by
  rintro f ⟨⟩
  simp [ofFields, ofLong]
theorem shrImm (p : Pfx) (w : BitVec 2) (rd : BitVec 5) (ra : BitVec 5) (imm : BitVec 32) : Statement (.shrImm p w rd ra imm) := by
  rintro f ⟨⟩
  simp [ofFields, ofLong]
theorem sarImm (p : Pfx) (w : BitVec 2) (rd : BitVec 5) (ra : BitVec 5) (imm : BitVec 32) : Statement (.sarImm p w rd ra imm) := by
  rintro f ⟨⟩
  simp [ofFields, ofLong]
theorem rotImm (p : Pfx) (w : BitVec 2) (rd : BitVec 5) (ra : BitVec 5) (imm : BitVec 32) : Statement (.rotImm p w rd ra imm) := by
  rintro f ⟨⟩
  simp [ofFields, ofLong]
theorem minImm (p : Pfx) (w : BitVec 2) (rd : BitVec 5) (ra : BitVec 5) (imm : BitVec 32) : Statement (.minImm p w rd ra imm) := by
  rintro f ⟨⟩
  simp [ofFields, ofLong]
theorem maxImm (p : Pfx) (w : BitVec 2) (rd : BitVec 5) (ra : BitVec 5) (imm : BitVec 32) : Statement (.maxImm p w rd ra imm) := by
  rintro f ⟨⟩
  simp [ofFields, ofLong]
theorem minuImm (p : Pfx) (w : BitVec 2) (rd : BitVec 5) (ra : BitVec 5) (imm : BitVec 32) : Statement (.minuImm p w rd ra imm) := by
  rintro f ⟨⟩
  simp [ofFields, ofLong]
theorem maxuImm (p : Pfx) (w : BitVec 2) (rd : BitVec 5) (ra : BitVec 5) (imm : BitVec 32) : Statement (.maxuImm p w rd ra imm) := by
  rintro f ⟨⟩
  simp [ofFields, ofLong]
theorem addi (p : Pfx) (rd : BitVec 5) (ra : BitVec 5) (imm : BitVec 7) : Statement (.addi p rd ra imm) := by
  rintro f ⟨⟩
  simp [ofFields, ofShortA]
theorem addiLong (p : Pfx) (rd : BitVec 5) (ra : BitVec 5) (imm : BitVec 32) : Statement (.addiLong p rd ra imm) := by
  rintro f ⟨⟩
  simp [ofFields, ofLong]
theorem fshl (p : Pfx) (rd : BitVec 5) (ra : BitVec 5) (rb : BitVec 5) (k : BitVec 6) : Statement (.fshl p rd ra rb k) := by
  rintro f ⟨⟩
  simp [ofFields, ofShortA]
theorem fshr (p : Pfx) (rd : BitVec 5) (ra : BitVec 5) (rb : BitVec 5) (k : BitVec 6) : Statement (.fshr p rd ra rb k) := by
  rintro f ⟨⟩
  simp [ofFields, ofShortA]
theorem fshlReg (p : Pfx) (rd : BitVec 5) (ra : BitVec 5) (rb : BitVec 5) (rc : BitVec 5) : Statement (.fshlReg p rd ra rb rc) := by
  rintro f ⟨⟩
  simp [ofFields, ofLong]
theorem fshrReg (p : Pfx) (rd : BitVec 5) (ra : BitVec 5) (rb : BitVec 5) (rc : BitVec 5) : Statement (.fshrReg p rd ra rb rc) := by
  rintro f ⟨⟩
  simp [ofFields, ofLong]
theorem logt (p : Pfx) (rd : BitVec 5) (ra : BitVec 5) (rb : BitVec 5) (rc : BitVec 5) (table : BitVec 8) : Statement (.logt p rd ra rb rc table) := by
  rintro f ⟨⟩
  simp [ofFields, ofLong]
theorem clz (p : Pfx) (w : BitVec 2) (rd : BitVec 5) (ra : BitVec 5) : Statement (.clz p w rd ra) := by
  rintro f ⟨⟩
  simp [ofFields, ofShortA]
theorem ctz (p : Pfx) (w : BitVec 2) (rd : BitVec 5) (ra : BitVec 5) : Statement (.ctz p w rd ra) := by
  rintro f ⟨⟩
  simp [ofFields, ofShortA]
theorem popc (p : Pfx) (w : BitVec 2) (rd : BitVec 5) (ra : BitVec 5) : Statement (.popc p w rd ra) := by
  rintro f ⟨⟩
  simp [ofFields, ofShortA]
theorem brev (p : Pfx) (w : BitVec 2) (rd : BitVec 5) (ra : BitVec 5) : Statement (.brev p w rd ra) := by
  rintro f ⟨⟩
  simp [ofFields, ofShortA]
theorem bswap (p : Pfx) (w : BitVec 2) (rd : BitVec 5) (ra : BitVec 5) : Statement (.bswap p w rd ra) := by
  rintro f ⟨⟩
  simp [ofFields, ofShortA]
theorem sext (p : Pfx) (w : BitVec 2) (rd : BitVec 5) (ra : BitVec 5) : Statement (.sext p w rd ra) := by
  rintro f ⟨⟩
  simp [ofFields, ofShortA]
theorem zext (p : Pfx) (w : BitVec 2) (rd : BitVec 5) (ra : BitVec 5) : Statement (.zext p w rd ra) := by
  rintro f ⟨⟩
  simp [ofFields, ofShortA]
theorem bfx (p : Pfx) (rd : BitVec 5) (ra : BitVec 5) (len : BitVec 7) (lsb : BitVec 6) : Statement (.bfx p rd ra len lsb) := by
  rintro f ⟨⟩
  simp [ofFields, ofLong]
theorem bfxu (p : Pfx) (rd : BitVec 5) (ra : BitVec 5) (len : BitVec 7) (lsb : BitVec 6) : Statement (.bfxu p rd ra len lsb) := by
  rintro f ⟨⟩
  simp [ofFields, ofLong]
theorem bfi (p : Pfx) (rd : BitVec 5) (ra : BitVec 5) (len : BitVec 7) (lsb : BitVec 6) : Statement (.bfi p rd ra len lsb) := by
  rintro f ⟨⟩
  simp [ofFields, ofLong]
theorem li (p : Pfx) (rd : BitVec 5) (imm : BitVec 7) : Statement (.li p rd imm) := by
  rintro f ⟨⟩
  simp [ofFields, ofShortA]
theorem liLong (p : Pfx) (rd : BitVec 5) (imm : BitVec 32) : Statement (.liLong p rd imm) := by
  rintro f ⟨⟩
  simp [ofFields, ofLong]
theorem lih (rd : BitVec 5) (ra : BitVec 5) (imm : BitVec 32) : Statement (.lih rd ra imm) := by
  rintro f ⟨⟩
  simp [ofFields, ofLong]
theorem mov (p : Pfx) (rd : BitVec 5) (ra : BitVec 5) : Statement (.mov p rd ra) := by
  rintro f ⟨⟩
  simp [ofFields, ofShortA]
theorem sel (p : Pfx) (rd : BitVec 5) (ra : BitVec 5) (rb : BitVec 5) (neg : BitVec 1) (pn : BitVec 3) : Statement (.sel p rd ra rb neg pn) := by
  rintro f ⟨⟩
  simp [ofFields, ofShortA]
theorem cmp (p : Pfx) (cond : BitVec 3) (w : BitVec 2) (rd : BitVec 5) (ra : BitVec 5) (rb : BitVec 5) : Statement (.cmp p cond w rd ra rb) := by
  rintro f ⟨⟩
  simp [ofFields, ofShortA]
theorem cmpImm (p : Pfx) (cond : BitVec 3) (w : BitVec 2) (rd : BitVec 5) (ra : BitVec 5) (imm : BitVec 32) : Statement (.cmpImm p cond w rd ra imm) := by
  rintro f ⟨⟩
  simp [ofFields, ofLong]
theorem pand (p : Pfx) (rd : BitVec 5) (ra : BitVec 5) (rb : BitVec 5) : Statement (.pand p rd ra rb) := by
  rintro f ⟨⟩
  simp [ofFields, ofShortA]
theorem por (p : Pfx) (rd : BitVec 5) (ra : BitVec 5) (rb : BitVec 5) : Statement (.por p rd ra rb) := by
  rintro f ⟨⟩
  simp [ofFields, ofShortA]
theorem pxor (p : Pfx) (rd : BitVec 5) (ra : BitVec 5) (rb : BitVec 5) : Statement (.pxor p rd ra rb) := by
  rintro f ⟨⟩
  simp [ofFields, ofShortA]
theorem pnot (p : Pfx) (rd : BitVec 5) (ra : BitVec 5) : Statement (.pnot p rd ra) := by
  rintro f ⟨⟩
  simp [ofFields, ofShortA]
theorem lea (p : Pfx) (rd : BitVec 5) (ra : BitVec 5) (rb : BitVec 5) (imm : BitVec 7) : Statement (.lea p rd ra rb imm) := by
  rintro f ⟨⟩
  simp [ofFields, ofShortA]
theorem leaLong (p : Pfx) (rd : BitVec 5) (ra : BitVec 5) (rb : BitVec 5) (imm : BitVec 32) : Statement (.leaLong p rd ra rb imm) := by
  rintro f ⟨⟩
  simp [ofFields, ofLong]
theorem addp (p : Pfx) (rd : BitVec 5) (ra : BitVec 5) (rb : BitVec 5) (sh : BitVec 2) : Statement (.addp p rd ra rb sh) := by
  rintro f ⟨⟩
  simp [ofFields, ofShortA]
theorem tagsImm (p : Pfx) (rd : BitVec 5) (ra : BitVec 5) (tag : BitVec 4) : Statement (.tagsImm p rd ra tag) := by
  rintro f ⟨⟩
  simp [ofFields, ofShortA]
theorem tagsReg (p : Pfx) (rd : BitVec 5) (ra : BitVec 5) (rb : BitVec 5) : Statement (.tagsReg p rd ra rb) := by
  rintro f ⟨⟩
  simp [ofFields, ofShortA]
theorem br (ext : Option (BitVec 26)) (neg : BitVec 1) (pn : BitVec 3) (imm : BitVec 17) : Statement (.br ext neg pn imm) := by
  rintro f ⟨⟩
  simp [ofFields, ofShortA]
theorem brLong (ext : Option (BitVec 26)) (neg : BitVec 1) (pn : BitVec 3) (imm : BitVec 32) : Statement (.brLong ext neg pn imm) := by
  rintro f ⟨⟩
  simp [ofFields, ofLong]
theorem j (ext : Option (BitVec 26)) (imm : BitVec 17) : Statement (.j ext imm) := by
  rintro f ⟨⟩
  simp [ofFields, ofShortA]
theorem jLong (ext : Option (BitVec 26)) (imm : BitVec 32) : Statement (.jLong ext imm) := by
  rintro f ⟨⟩
  simp [ofFields, ofLong]
theorem jl (ext : Option (BitVec 26)) (rd : BitVec 5) (imm : BitVec 17) : Statement (.jl ext rd imm) := by
  rintro f ⟨⟩
  simp [ofFields, ofShortA]
theorem jlLong (ext : Option (BitVec 26)) (rd : BitVec 5) (imm : BitVec 32) : Statement (.jlLong ext rd imm) := by
  rintro f ⟨⟩
  simp [ofFields, ofLong]
theorem jlr (ext : Option (BitVec 26)) (rd : BitVec 5) (ra : BitVec 5) (imm : BitVec 7) : Statement (.jlr ext rd ra imm) := by
  rintro f ⟨⟩
  simp [ofFields, ofShortA]
theorem jlrLong (ext : Option (BitVec 26)) (rd : BitVec 5) (ra : BitVec 5) (imm : BitVec 32) : Statement (.jlrLong ext rd ra imm) := by
  rintro f ⟨⟩
  simp [ofFields, ofLong]
theorem ret (ra : BitVec 5) : Statement (.ret ra) := by
  rintro f ⟨⟩
  simp [ofFields, ofShortA]
theorem loop (ext : Option (BitVec 26)) (rd : BitVec 5) (imm : BitVec 17) : Statement (.loop ext rd imm) := by
  rintro f ⟨⟩
  simp [ofFields, ofShortA]
theorem loopLong (ext : Option (BitVec 26)) (rd : BitVec 5) (imm : BitVec 32) : Statement (.loopLong ext rd imm) := by
  rintro f ⟨⟩
  simp [ofFields, ofLong]
theorem mcpy (p : Pfx) (rd : BitVec 5) (ra : BitVec 5) (rb : BitVec 5) : Statement (.mcpy p rd ra rb) := by
  rintro f ⟨⟩
  simp [ofFields, ofShortA]
theorem mset (p : Pfx) (rd : BitVec 5) (ra : BitVec 5) (rb : BitVec 5) : Statement (.mset p rd ra rb) := by
  rintro f ⟨⟩
  simp [ofFields, ofShortA]
theorem nop : Statement (.nop) := by
  rintro f ⟨⟩
  simp [ofFields, ofShortA]
theorem csrr (p : Pfx) (rd : BitVec 5) (csr : BitVec 12) : Statement (.csrr p rd csr) := by
  rintro f ⟨⟩
  simp [ofFields, ofShortA]
theorem csrw (p : Pfx) (ra : BitVec 5) (csr : BitVec 12) : Statement (.csrw p ra csr) := by
  rintro f ⟨⟩
  simp [ofFields, ofShortA]
theorem csrx (p : Pfx) (rd : BitVec 5) (ra : BitVec 5) (csr : BitVec 12) : Statement (.csrx p rd ra csr) := by
  rintro f ⟨⟩
  simp [ofFields, ofShortA]
theorem ld (p : Pfx) (post : BitVec 1) (zx : BitVec 1) (w : BitVec 2) (rd : BitVec 5) (ra : BitVec 5) (imm : BitVec 7) : Statement (.ld p post zx w rd ra imm) := by
  rintro f ⟨⟩
  simp [ofFields, ofShortB]
theorem ldLong (p : Pfx) (post : BitVec 1) (zx : BitVec 1) (w : BitVec 2) (rd : BitVec 5) (ra : BitVec 5) (imm : BitVec 32) : Statement (.ldLong p post zx w rd ra imm) := by
  rintro f ⟨⟩
  simp [ofFields, ofLong]
theorem st (p : Pfx) (post : BitVec 1) (w : BitVec 2) (rd : BitVec 5) (ra : BitVec 5) (imm : BitVec 7) : Statement (.st p post w rd ra imm) := by
  rintro f ⟨⟩
  simp [ofFields, ofShortB]
theorem stLong (p : Pfx) (post : BitVec 1) (w : BitVec 2) (rd : BitVec 5) (ra : BitVec 5) (imm : BitVec 32) : Statement (.stLong p post w rd ra imm) := by
  rintro f ⟨⟩
  simp [ofFields, ofLong]
theorem ldv (p : Pfx) (post : BitVec 1) (rd : BitVec 5) (ra : BitVec 5) (imm : BitVec 7) : Statement (.ldv p post rd ra imm) := by
  rintro f ⟨⟩
  simp [ofFields, ofShortB]
theorem ldvLong (p : Pfx) (post : BitVec 1) (rd : BitVec 5) (ra : BitVec 5) (imm : BitVec 32) : Statement (.ldvLong p post rd ra imm) := by
  rintro f ⟨⟩
  simp [ofFields, ofLong]
theorem stv (p : Pfx) (post : BitVec 1) (rd : BitVec 5) (ra : BitVec 5) (imm : BitVec 7) : Statement (.stv p post rd ra imm) := by
  rintro f ⟨⟩
  simp [ofFields, ofShortB]
theorem stvLong (p : Pfx) (post : BitVec 1) (rd : BitVec 5) (ra : BitVec 5) (imm : BitVec 32) : Statement (.stvLong p post rd ra imm) := by
  rintro f ⟨⟩
  simp [ofFields, ofLong]
theorem ldg (p : Pfx) (pred : BitVec 3) (ty : BitVec 4) (rd : BitVec 5) (ra : BitVec 5) (rb : BitVec 5) : Statement (.ldg p pred ty rd ra rb) := by
  rintro f ⟨⟩
  simp [ofFields, ofShortB]
theorem stx (p : Pfx) (pred : BitVec 3) (ty : BitVec 4) (rd : BitVec 5) (ra : BitVec 5) (rb : BitVec 5) : Statement (.stx p pred ty rd ra rb) := by
  rintro f ⟨⟩
  simp [ofFields, ofShortB]
theorem ldb (p : Pfx) (zx : BitVec 1) (rd : BitVec 5) (ra : BitVec 5) (rb : BitVec 5) : Statement (.ldb p zx rd ra rb) := by
  rintro f ⟨⟩
  simp [ofFields, ofShortB]
theorem stb (p : Pfx) (rd : BitVec 5) (ra : BitVec 5) (rb : BitVec 5) : Statement (.stb p rd ra rb) := by
  rintro f ⟨⟩
  simp [ofFields, ofShortB]
theorem lda (p : Pfx) (scope : BitVec 3) (w : BitVec 2) (rd : BitVec 5) (ra : BitVec 5) (imm : BitVec 7) : Statement (.lda p scope w rd ra imm) := by
  rintro f ⟨⟩
  simp [ofFields, ofShortB]
theorem ldaLong (p : Pfx) (scope : BitVec 3) (w : BitVec 2) (rd : BitVec 5) (ra : BitVec 5) (imm : BitVec 32) : Statement (.ldaLong p scope w rd ra imm) := by
  rintro f ⟨⟩
  simp [ofFields, ofLong]
theorem stl (p : Pfx) (scope : BitVec 3) (w : BitVec 2) (rd : BitVec 5) (ra : BitVec 5) (imm : BitVec 7) : Statement (.stl p scope w rd ra imm) := by
  rintro f ⟨⟩
  simp [ofFields, ofShortB]
theorem stlLong (p : Pfx) (scope : BitVec 3) (w : BitVec 2) (rd : BitVec 5) (ra : BitVec 5) (imm : BitVec 32) : Statement (.stlLong p scope w rd ra imm) := by
  rintro f ⟨⟩
  simp [ofFields, ofLong]
theorem lde (p : Pfx) (rd : BitVec 5) (ra : BitVec 5) (imm : BitVec 7) : Statement (.lde p rd ra imm) := by
  rintro f ⟨⟩
  simp [ofFields, ofShortB]
theorem ldeLong (p : Pfx) (rd : BitVec 5) (ra : BitVec 5) (imm : BitVec 32) : Statement (.ldeLong p rd ra imm) := by
  rintro f ⟨⟩
  simp [ofFields, ofLong]
theorem stf (p : Pfx) (rd : BitVec 5) (ra : BitVec 5) (imm : BitVec 7) : Statement (.stf p rd ra imm) := by
  rintro f ⟨⟩
  simp [ofFields, ofShortB]
theorem stfLong (p : Pfx) (rd : BitVec 5) (ra : BitVec 5) (imm : BitVec 32) : Statement (.stfLong p rd ra imm) := by
  rintro f ⟨⟩
  simp [ofFields, ofLong]
theorem few (p : Pfx) (rd : BitVec 5) (ra : BitVec 5) (imm : BitVec 7) : Statement (.few p rd ra imm) := by
  rintro f ⟨⟩
  simp [ofFields, ofShortB]
theorem fewLong (p : Pfx) (rd : BitVec 5) (ra : BitVec 5) (imm : BitVec 32) : Statement (.fewLong p rd ra imm) := by
  rintro f ⟨⟩
  simp [ofFields, ofLong]
theorem fer (p : Pfx) (rd : BitVec 5) (ra : BitVec 5) (imm : BitVec 7) : Statement (.fer p rd ra imm) := by
  rintro f ⟨⟩
  simp [ofFields, ofShortB]
theorem ferLong (p : Pfx) (rd : BitVec 5) (ra : BitVec 5) (imm : BitVec 32) : Statement (.ferLong p rd ra imm) := by
  rintro f ⟨⟩
  simp [ofFields, ofLong]
theorem touch (p : Pfx) (rd : BitVec 5) (ra : BitVec 5) (imm : BitVec 7) : Statement (.touch p rd ra imm) := by
  rintro f ⟨⟩
  simp [ofFields, ofShortB]
theorem touchLong (p : Pfx) (rd : BitVec 5) (ra : BitVec 5) (imm : BitVec 32) : Statement (.touchLong p rd ra imm) := by
  rintro f ⟨⟩
  simp [ofFields, ofLong]
theorem tagld (p : Pfx) (rd : BitVec 5) (ra : BitVec 5) (imm : BitVec 7) : Statement (.tagld p rd ra imm) := by
  rintro f ⟨⟩
  simp [ofFields, ofShortB]
theorem tagldLong (p : Pfx) (rd : BitVec 5) (ra : BitVec 5) (imm : BitVec 32) : Statement (.tagldLong p rd ra imm) := by
  rintro f ⟨⟩
  simp [ofFields, ofLong]
theorem tagst (p : Pfx) (rd : BitVec 5) (ra : BitVec 5) (imm : BitVec 7) : Statement (.tagst p rd ra imm) := by
  rintro f ⟨⟩
  simp [ofFields, ofShortB]
theorem tagstLong (p : Pfx) (rd : BitVec 5) (ra : BitVec 5) (imm : BitVec 32) : Statement (.tagstLong p rd ra imm) := by
  rintro f ⟨⟩
  simp [ofFields, ofLong]
theorem amo (p : Pfx) (scope : BitVec 3) (aop : BitVec 4) (rd : BitVec 5) (ra : BitVec 5) (rb : BitVec 5) : Statement (.amo p scope aop rd ra rb) := by
  rintro f ⟨⟩
  simp [ofFields, ofShortB]
theorem cas (p : Pfx) (scope : BitVec 3) (rd : BitVec 5) (ra : BitVec 5) (rb : BitVec 5) : Statement (.cas p scope rd ra rb) := by
  rintro f ⟨⟩
  simp [ofFields, ofShortB]
theorem red (p : Pfx) (scope : BitVec 3) (aop : BitVec 4) (ra : BitVec 5) (rb : BitVec 5) : Statement (.red p scope aop ra rb) := by
  rintro f ⟨⟩
  simp [ofFields, ofShortB]
theorem amoI32 (p : Pfx) (scope : BitVec 3) (aop : BitVec 4) (rd : BitVec 5) (ra : BitVec 5) (rb : BitVec 5) : Statement (.amoI32 p scope aop rd ra rb) := by
  rintro f ⟨⟩
  simp [ofFields, ofPage1]
theorem casI32 (p : Pfx) (scope : BitVec 3) (rd : BitVec 5) (ra : BitVec 5) (rb : BitVec 5) : Statement (.casI32 p scope rd ra rb) := by
  rintro f ⟨⟩
  simp [ofFields, ofPage1]
theorem redI32 (p : Pfx) (scope : BitVec 3) (aop : BitVec 4) (ra : BitVec 5) (rb : BitVec 5) : Statement (.redI32 p scope aop ra rb) := by
  rintro f ⟨⟩
  simp [ofFields, ofPage1]
theorem casQ (p : Pfx) (scope : BitVec 3) (rd : BitVec 5) (ra : BitVec 5) (rb : BitVec 5) : Statement (.casQ p scope rd ra rb) := by
  rintro f ⟨⟩
  simp [ofFields, ofPage1]
theorem fence (p : Pfx) (scope : BitVec 3) (kinds : BitVec 6) : Statement (.fence p scope kinds) := by
  rintro f ⟨⟩
  simp [ofFields, ofShortB]
theorem bar (p : Pfx) (num : BitVec 4) (level : BitVec 3) : Statement (.bar p num level) := by
  rintro f ⟨⟩
  simp [ofFields, ofShortB]
theorem barArm (p : Pfx) (num : BitVec 4) (level : BitVec 3) (ra : BitVec 5) : Statement (.barArm p num level ra) := by
  rintro f ⟨⟩
  simp [ofFields, ofShortB]
theorem bara (p : Pfx) (num : BitVec 4) (level : BitVec 3) (rd : BitVec 5) : Statement (.bara p num level rd) := by
  rintro f ⟨⟩
  simp [ofFields, ofShortB]
theorem barw (p : Pfx) (num : BitVec 4) (level : BitVec 3) (ra : BitVec 5) : Statement (.barw p num level ra) := by
  rintro f ⟨⟩
  simp [ofFields, ofShortB]
theorem tbi (p : Pfx) (ra : BitVec 5) (rb : BitVec 5) : Statement (.tbi p ra rb) := by
  rintro f ⟨⟩
  simp [ofFields, ofShortB]
theorem tba (p : Pfx) (rd : BitVec 5) (ra : BitVec 5) (rb : BitVec 5) : Statement (.tba p rd ra rb) := by
  rintro f ⟨⟩
  simp [ofFields, ofShortB]
theorem tbw (p : Pfx) (rd : BitVec 5) (ra : BitVec 5) (rb : BitVec 5) : Statement (.tbw p rd ra rb) := by
  rintro f ⟨⟩
  simp [ofFields, ofShortB]
theorem tbt (p : Pfx) (rd : BitVec 5) (ra : BitVec 5) (rb : BitVec 5) : Statement (.tbt p rd ra rb) := by
  rintro f ⟨⟩
  simp [ofFields, ofShortB]
theorem waitc (p : Pfx) (t : BitVec 6) (c : BitVec 6) (st : BitVec 6) (l : BitVec 6) : Statement (.waitc p t c st l) := by
  rintro f ⟨⟩
  simp [ofFields, ofLong]
theorem msnd (p : Pfx) (ra : BitVec 5) (rb : BitVec 5) : Statement (.msnd p ra rb) := by
  rintro f ⟨⟩
  simp [ofFields, ofShortB]
theorem mrcv (p : Pfx) (rd : BitVec 5) (ra : BitVec 5) : Statement (.mrcv p rd ra) := by
  rintro f ⟨⟩
  simp [ofFields, ofShortB]
theorem mrcvFrom (p : Pfx) (rd : BitVec 5) (ra : BitVec 5) : Statement (.mrcvFrom p rd ra) := by
  rintro f ⟨⟩
  simp [ofFields, ofShortB]
theorem fill (p : Pfx) (rd : BitVec 5) (ra : BitVec 5) (rb : BitVec 5) (force : BitVec 1) (cls : BitVec 2) : Statement (.fill p rd ra rb force cls) := by
  rintro f ⟨⟩
  simp [ofFields, ofShortB]
theorem vadd (p : Pfx) (pred : BitVec 3) (ty : BitVec 4) (rd : BitVec 5) (ra : BitVec 5) (rb : BitVec 5) : Statement (.vadd p pred ty rd ra rb) := by
  rintro f ⟨⟩
  simp [ofFields, ofShortC]
theorem vsub (p : Pfx) (pred : BitVec 3) (ty : BitVec 4) (rd : BitVec 5) (ra : BitVec 5) (rb : BitVec 5) : Statement (.vsub p pred ty rd ra rb) := by
  rintro f ⟨⟩
  simp [ofFields, ofShortC]
theorem vmul (p : Pfx) (pred : BitVec 3) (ty : BitVec 4) (rd : BitVec 5) (ra : BitVec 5) (rb : BitVec 5) : Statement (.vmul p pred ty rd ra rb) := by
  rintro f ⟨⟩
  simp [ofFields, ofShortC]
theorem vmulh (p : Pfx) (pred : BitVec 3) (ty : BitVec 4) (rd : BitVec 5) (ra : BitVec 5) (rb : BitVec 5) : Statement (.vmulh p pred ty rd ra rb) := by
  rintro f ⟨⟩
  simp [ofFields, ofShortC]
theorem vfma (p : Pfx) (pred : BitVec 3) (ty : BitVec 4) (rd : BitVec 5) (ra : BitVec 5) (rb : BitVec 5) : Statement (.vfma p pred ty rd ra rb) := by
  rintro f ⟨⟩
  simp [ofFields, ofShortC]
theorem vfms (p : Pfx) (pred : BitVec 3) (ty : BitVec 4) (rd : BitVec 5) (ra : BitVec 5) (rb : BitVec 5) : Statement (.vfms p pred ty rd ra rb) := by
  rintro f ⟨⟩
  simp [ofFields, ofShortC]
theorem vfnma (p : Pfx) (pred : BitVec 3) (ty : BitVec 4) (rd : BitVec 5) (ra : BitVec 5) (rb : BitVec 5) : Statement (.vfnma p pred ty rd ra rb) := by
  rintro f ⟨⟩
  simp [ofFields, ofShortC]
theorem vmin (p : Pfx) (pred : BitVec 3) (ty : BitVec 4) (rd : BitVec 5) (ra : BitVec 5) (rb : BitVec 5) : Statement (.vmin p pred ty rd ra rb) := by
  rintro f ⟨⟩
  simp [ofFields, ofShortC]
theorem vmax (p : Pfx) (pred : BitVec 3) (ty : BitVec 4) (rd : BitVec 5) (ra : BitVec 5) (rb : BitVec 5) : Statement (.vmax p pred ty rd ra rb) := by
  rintro f ⟨⟩
  simp [ofFields, ofShortC]
theorem vabs (p : Pfx) (pred : BitVec 3) (ty : BitVec 4) (rd : BitVec 5) (ra : BitVec 5) : Statement (.vabs p pred ty rd ra) := by
  rintro f ⟨⟩
  simp [ofFields, ofShortC]
theorem vneg (p : Pfx) (pred : BitVec 3) (ty : BitVec 4) (rd : BitVec 5) (ra : BitVec 5) : Statement (.vneg p pred ty rd ra) := by
  rintro f ⟨⟩
  simp [ofFields, ofShortC]
theorem vrcp (p : Pfx) (pred : BitVec 3) (ty : BitVec 4) (rd : BitVec 5) (ra : BitVec 5) : Statement (.vrcp p pred ty rd ra) := by
  rintro f ⟨⟩
  simp [ofFields, ofShortC]
theorem vrsq (p : Pfx) (pred : BitVec 3) (ty : BitVec 4) (rd : BitVec 5) (ra : BitVec 5) : Statement (.vrsq p pred ty rd ra) := by
  rintro f ⟨⟩
  simp [ofFields, ofShortC]
theorem vexp2 (p : Pfx) (pred : BitVec 3) (ty : BitVec 4) (rd : BitVec 5) (ra : BitVec 5) : Statement (.vexp2 p pred ty rd ra) := by
  rintro f ⟨⟩
  simp [ofFields, ofShortC]
theorem vlog2 (p : Pfx) (pred : BitVec 3) (ty : BitVec 4) (rd : BitVec 5) (ra : BitVec 5) : Statement (.vlog2 p pred ty rd ra) := by
  rintro f ⟨⟩
  simp [ofFields, ofShortC]
theorem vsqrt (p : Pfx) (pred : BitVec 3) (ty : BitVec 4) (rd : BitVec 5) (ra : BitVec 5) : Statement (.vsqrt p pred ty rd ra) := by
  rintro f ⟨⟩
  simp [ofFields, ofShortC]
theorem vand (p : Pfx) (pred : BitVec 3) (rd : BitVec 5) (ra : BitVec 5) (rb : BitVec 5) : Statement (.vand p pred rd ra rb) := by
  rintro f ⟨⟩
  simp [ofFields, ofShortC]
theorem vor (p : Pfx) (pred : BitVec 3) (rd : BitVec 5) (ra : BitVec 5) (rb : BitVec 5) : Statement (.vor p pred rd ra rb) := by
  rintro f ⟨⟩
  simp [ofFields, ofShortC]
theorem vxor (p : Pfx) (pred : BitVec 3) (rd : BitVec 5) (ra : BitVec 5) (rb : BitVec 5) : Statement (.vxor p pred rd ra rb) := by
  rintro f ⟨⟩
  simp [ofFields, ofShortC]
theorem vlogt (p : Pfx) (pred : BitVec 3) (ty : BitVec 4) (rd : BitVec 5) (ra : BitVec 5) (rb : BitVec 5) (vc : BitVec 5) (table : BitVec 8) : Statement (.vlogt p pred ty rd ra rb vc table) := by
  rintro f ⟨⟩
  simp [ofFields, ofLong]
theorem vshl (p : Pfx) (pred : BitVec 3) (ty : BitVec 4) (rd : BitVec 5) (ra : BitVec 5) (rb : BitVec 5) : Statement (.vshl p pred ty rd ra rb) := by
  rintro f ⟨⟩
  simp [ofFields, ofShortC]
theorem vshr (p : Pfx) (pred : BitVec 3) (ty : BitVec 4) (rd : BitVec 5) (ra : BitVec 5) (rb : BitVec 5) : Statement (.vshr p pred ty rd ra rb) := by
  rintro f ⟨⟩
  simp [ofFields, ofShortC]
theorem vsar (p : Pfx) (pred : BitVec 3) (ty : BitVec 4) (rd : BitVec 5) (ra : BitVec 5) (rb : BitVec 5) : Statement (.vsar p pred ty rd ra rb) := by
  rintro f ⟨⟩
  simp [ofFields, ofShortC]
theorem vcmp (p : Pfx) (pred : BitVec 3) (ty : BitVec 4) (cond : BitVec 3) (rd : BitVec 5) (ra : BitVec 5) (rb : BitVec 5) (part : BitVec 3) : Statement (.vcmp p pred ty cond rd ra rb part) := by
  rintro f ⟨⟩
  simp [ofFields, ofLong]
theorem vsel (p : Pfx) (pred : BitVec 3) (ty : BitVec 4) (rd : BitVec 5) (ra : BitVec 5) (rb : BitVec 5) : Statement (.vsel p pred ty rd ra rb) := by
  rintro f ⟨⟩
  simp [ofFields, ofShortC]
theorem vcvt (p : Pfx) (pred : BitVec 3) (ty : BitVec 4) (rd : BitVec 5) (ra : BitVec 5) (dpart : BitVec 3) (spart : BitVec 3) (sty : BitVec 4) : Statement (.vcvt p pred ty rd ra dpart spart sty) := by
  rintro f ⟨⟩
  simp [ofFields, ofLong]
theorem vbcst (p : Pfx) (pred : BitVec 3) (ty : BitVec 4) (rd : BitVec 5) (ra : BitVec 5) : Statement (.vbcst p pred ty rd ra) := by
  rintro f ⟨⟩
  simp [ofFields, ofShortC]
theorem vmovsToScalar (p : Pfx) (ty : BitVec 4) (rd : BitVec 5) (ra : BitVec 5) (rb : BitVec 5) : Statement (.vmovsToScalar p ty rd ra rb) := by
  rintro f ⟨⟩
  simp [ofFields, ofShortC]
theorem vmovsToLane (p : Pfx) (ty : BitVec 4) (rd : BitVec 5) (ra : BitVec 5) (rb : BitVec 5) : Statement (.vmovsToLane p ty rd ra rb) := by
  rintro f ⟨⟩
  simp [ofFields, ofShortC]
theorem vperm (p : Pfx) (pred : BitVec 3) (ty : BitVec 4) (rd : BitVec 5) (ra : BitVec 5) (rb : BitVec 5) : Statement (.vperm p pred ty rd ra rb) := by
  rintro f ⟨⟩
  simp [ofFields, ofShortC]
theorem vshuf (p : Pfx) (pred : BitVec 3) (ty : BitVec 4) (rd : BitVec 5) (ra : BitVec 5) (rb : BitVec 5) : Statement (.vshuf p pred ty rd ra rb) := by
  rintro f ⟨⟩
  simp [ofFields, ofShortC]
theorem vsld (p : Pfx) (pred : BitVec 3) (ty : BitVec 4) (rd : BitVec 5) (ra : BitVec 5) (rb : BitVec 5) : Statement (.vsld p pred ty rd ra rb) := by
  rintro f ⟨⟩
  simp [ofFields, ofShortC]
theorem vred (p : Pfx) (pred : BitVec 3) (ty : BitVec 4) (rd : BitVec 5) (ra : BitVec 5) (rop : BitVec 3) : Statement (.vred p pred ty rd ra rop) := by
  rintro f ⟨⟩
  simp [ofFields, ofShortC]
theorem vscan (p : Pfx) (pred : BitVec 3) (ty : BitVec 4) (rd : BitVec 5) (ra : BitVec 5) (rop : BitVec 3) : Statement (.vscan p pred ty rd ra rop) := by
  rintro f ⟨⟩
  simp [ofFields, ofShortC]
theorem vdot4 (p : Pfx) (pred : BitVec 3) (ty : BitVec 4) (rd : BitVec 5) (ra : BitVec 5) (rb : BitVec 5) : Statement (.vdot4 p pred ty rd ra rb) := by
  rintro f ⟨⟩
  simp [ofFields, ofShortC]
theorem vlut (p : Pfx) (pred : BitVec 3) (ty : BitVec 4) (rd : BitVec 5) (ra : BitVec 5) (part : BitVec 5) : Statement (.vlut p pred ty rd ra part) := by
  rintro f ⟨⟩
  simp [ofFields, ofShortC]
theorem vqnt (p : Pfx) (pred : BitVec 3) (ty : BitVec 4) (rd : BitVec 5) (ra : BitVec 5) (rb : BitVec 5) : Statement (.vqnt p pred ty rd ra rb) := by
  rintro f ⟨⟩
  simp [ofFields, ofShortC]
theorem vdqnt (p : Pfx) (pred : BitVec 3) (ty : BitVec 4) (rd : BitVec 5) (ra : BitVec 5) (rb : BitVec 5) : Statement (.vdqnt p pred ty rd ra rb) := by
  rintro f ⟨⟩
  simp [ofFields, ofShortC]
theorem vdiv (p : Pfx) (pred : BitVec 3) (ty : BitVec 4) (rd : BitVec 5) (ra : BitVec 5) (rb : BitVec 5) : Statement (.vdiv p pred ty rd ra rb) := by
  rintro f ⟨⟩
  simp [ofFields, ofShortC]
theorem fadd (p : Pfx) (ty : BitVec 4) (rd : BitVec 5) (ra : BitVec 5) (rb : BitVec 5) : Statement (.fadd p ty rd ra rb) := by
  rintro f ⟨⟩
  simp [ofFields, ofShortC]
theorem fsub (p : Pfx) (ty : BitVec 4) (rd : BitVec 5) (ra : BitVec 5) (rb : BitVec 5) : Statement (.fsub p ty rd ra rb) := by
  rintro f ⟨⟩
  simp [ofFields, ofShortC]
theorem fmul (p : Pfx) (ty : BitVec 4) (rd : BitVec 5) (ra : BitVec 5) (rb : BitVec 5) : Statement (.fmul p ty rd ra rb) := by
  rintro f ⟨⟩
  simp [ofFields, ofShortC]
theorem fdiv (p : Pfx) (ty : BitVec 4) (rd : BitVec 5) (ra : BitVec 5) (rb : BitVec 5) : Statement (.fdiv p ty rd ra rb) := by
  rintro f ⟨⟩
  simp [ofFields, ofShortC]
theorem fsqrt (p : Pfx) (ty : BitVec 4) (rd : BitVec 5) (ra : BitVec 5) : Statement (.fsqrt p ty rd ra) := by
  rintro f ⟨⟩
  simp [ofFields, ofShortC]
theorem fmin (p : Pfx) (ty : BitVec 4) (rd : BitVec 5) (ra : BitVec 5) (rb : BitVec 5) : Statement (.fmin p ty rd ra rb) := by
  rintro f ⟨⟩
  simp [ofFields, ofShortC]
theorem fmax (p : Pfx) (ty : BitVec 4) (rd : BitVec 5) (ra : BitVec 5) (rb : BitVec 5) : Statement (.fmax p ty rd ra rb) := by
  rintro f ⟨⟩
  simp [ofFields, ofShortC]
theorem fclass (p : Pfx) (ty : BitVec 4) (rd : BitVec 5) (ra : BitVec 5) : Statement (.fclass p ty rd ra) := by
  rintro f ⟨⟩
  simp [ofFields, ofShortC]
theorem ffma (p : Pfx) (ty : BitVec 4) (rd : BitVec 5) (ra : BitVec 5) (rb : BitVec 5) (neg : BitVec 2) (rc : BitVec 5) : Statement (.ffma p ty rd ra rb neg rc) := by
  rintro f ⟨⟩
  simp [ofFields, ofLong]
theorem fcmp (p : Pfx) (cond : BitVec 3) (ty : BitVec 4) (rd : BitVec 5) (ra : BitVec 5) (rb : BitVec 5) : Statement (.fcmp p cond ty rd ra rb) := by
  rintro f ⟨⟩
  simp [ofFields, ofLong]
theorem fcvt (p : Pfx) (rd : BitVec 5) (ra : BitVec 5) (dt : BitVec 4) (sty : BitVec 4) : Statement (.fcvt p rd ra dt sty) := by
  rintro f ⟨⟩
  simp [ofFields, ofLong]
theorem tsub (p : Pfx) (rd : BitVec 5) (ra : BitVec 5) : Statement (.tsub p rd ra) := by
  rintro f ⟨⟩
  simp [ofFields, ofShortD]
theorem tsubCopy (p : Pfx) (ra : BitVec 5) : Statement (.tsubCopy p ra) := by
  rintro f ⟨⟩
  simp [ofFields, ofShortD]
theorem tqry (p : Pfx) (rd : BitVec 5) (ra : BitVec 5) : Statement (.tqry p rd ra) := by
  rintro f ⟨⟩
  simp [ofFields, ofShortD]
theorem tqryCopy (p : Pfx) (rd : BitVec 5) (ra : BitVec 5) : Statement (.tqryCopy p rd ra) := by
  rintro f ⟨⟩
  simp [ofFields, ofShortD]
theorem tcan (p : Pfx) (rd : BitVec 5) (ra : BitVec 5) : Statement (.tcan p rd ra) := by
  rintro f ⟨⟩
  simp [ofFields, ofShortD]
theorem tcanCopy (p : Pfx) (rd : BitVec 5) (ra : BitVec 5) : Statement (.tcanCopy p rd ra) := by
  rintro f ⟨⟩
  simp [ofFields, ofShortD]
theorem lutld (p : Pfx) (ra : BitVec 5) (rb : BitVec 5) : Statement (.lutld p ra rb) := by
  rintro f ⟨⟩
  simp [ofFields, ofShortD]
theorem lutrd (p : Pfx) (rd : BitVec 5) (h : BitVec 1) : Statement (.lutrd p rd h) := by
  rintro f ⟨⟩
  simp [ofFields, ofShortD]
theorem rbind (p : Pfx) (rd : BitVec 5) (ra : BitVec 5) (rb : BitVec 5) : Statement (.rbind p rd ra rb) := by
  rintro f ⟨⟩
  simp [ofFields, ofShortD]
theorem rlook (p : Pfx) (rd : BitVec 5) (ra : BitVec 5) : Statement (.rlook p rd ra) := by
  rintro f ⟨⟩
  simp [ofFields, ofShortD]
theorem revict (p : Pfx) (rd : BitVec 5) (ra : BitVec 5) : Statement (.revict p rd ra) := by
  rintro f ⟨⟩
  simp [ofFields, ofShortD]
theorem rinv (p : Pfx) (rd : BitVec 5) (ra : BitVec 5) : Statement (.rinv p rd ra) := by
  rintro f ⟨⟩
  simp [ofFields, ofShortD]
theorem rinvUnbind (p : Pfx) (rd : BitVec 5) (ra : BitVec 5) : Statement (.rinvUnbind p rd ra) := by
  rintro f ⟨⟩
  simp [ofFields, ofShortD]
theorem sbind (p : Pfx) (ra : BitVec 5) (qn : BitVec 5) : Statement (.sbind p ra qn) := by
  rintro f ⟨⟩
  simp [ofFields, ofShortD]
theorem sunb (p : Pfx) (qn : BitVec 5) : Statement (.sunb p qn) := by
  rintro f ⟨⟩
  simp [ofFields, ofShortD]
theorem sqry (p : Pfx) (rd : BitVec 5) (qn : BitVec 5) : Statement (.sqry p rd qn) := by
  rintro f ⟨⟩
  simp [ofFields, ofShortD]
theorem spawn (p : Pfx) (rd : BitVec 5) (ra : BitVec 5) (rb : BitVec 5) : Statement (.spawn p rd ra rb) := by
  rintro f ⟨⟩
  simp [ofFields, ofShortD]
theorem launch (p : Pfx) (rd : BitVec 5) (ra : BitVec 5) (rb : BitVec 5) : Statement (.launch p rd ra rb) := by
  rintro f ⟨⟩
  simp [ofFields, ofShortD]
theorem exit (p : Pfx) : Statement (.exit p) := by
  rintro f ⟨⟩
  simp [ofFields, ofShortD]
theorem yield (p : Pfx) : Statement (.yield p) := by
  rintro f ⟨⟩
  simp [ofFields, ofShortD]
theorem park (p : Pfx) (rd : BitVec 5) (ra : BitVec 5) : Statement (.park p rd ra) := by
  rintro f ⟨⟩
  simp [ofFields, ofShortD]
theorem swapctx (p : Pfx) (ra : BitVec 5) : Statement (.swapctx p ra) := by
  rintro f ⟨⟩
  simp [ofFields, ofShortD]
theorem migr (p : Pfx) (rd : BitVec 5) (ra : BitVec 5) : Statement (.migr p rd ra) := by
  rintro f ⟨⟩
  simp [ofFields, ofShortD]
theorem migrAddr (p : Pfx) (rd : BitVec 5) (ra : BitVec 5) : Statement (.migrAddr p rd ra) := by
  rintro f ⟨⟩
  simp [ofFields, ofShortD]
theorem home (p : Pfx) (rd : BitVec 5) (ra : BitVec 5) : Statement (.home p rd ra) := by
  rintro f ⟨⟩
  simp [ofFields, ofShortD]
theorem policy (p : Pfx) (rd : BitVec 5) (ra : BitVec 5) : Statement (.policy p rd ra) := by
  rintro f ⟨⟩
  simp [ofFields, ofShortD]
theorem lease (p : Pfx) (rd : BitVec 5) (ra : BitVec 5) (rb : BitVec 5) : Statement (.lease p rd ra rb) := by
  rintro f ⟨⟩
  simp [ofFields, ofShortD]
theorem lrel (p : Pfx) (rd : BitVec 5) : Statement (.lrel p rd) := by
  rintro f ⟨⟩
  simp [ofFields, ofShortD]
theorem dnext (p : Pfx) : Statement (.dnext p) := by
  rintro f ⟨⟩
  simp [ofFields, ofShortD]
theorem trap (p : Pfx) (imm : BitVec 15) : Statement (.trap p imm) := by
  rintro f ⟨⟩
  simp [ofFields, ofShortD]
theorem eret (p : Pfx) (ra : BitVec 5) (disp : BitVec 2) : Statement (.eret p ra disp) := by
  rintro f ⟨⟩
  simp [ofFields, ofShortD]
theorem bkpt (p : Pfx) : Statement (.bkpt p) := by
  rintro f ⟨⟩
  simp [ofFields, ofShortD]
theorem tlbi (p : Pfx) (scope : BitVec 3) (ra : BitVec 5) (rb : BitVec 5) (page : BitVec 1) : Statement (.tlbi p scope ra rb page) := by
  rintro f ⟨⟩
  simp [ofFields, ofShortD]
theorem idle (p : Pfx) (rd : BitVec 5) (ra : BitVec 5) : Statement (.idle p rd ra) := by
  rintro f ⟨⟩
  simp [ofFields, ofShortD]
theorem gallery85cCrossing : Statement .gallery85cCrossing := by rintro f ⟨⟩
theorem gallery80cRelease : Statement .gallery80cRelease := by rintro f ⟨⟩
theorem gallery95cThrottle : Statement .gallery95cThrottle := by rintro f ⟨⟩
theorem gallery90cRelease : Statement .gallery90cRelease := by rintro f ⟨⟩
theorem emergencySave : Statement .emergencySave := by rintro f ⟨⟩
theorem saveComplete : Statement .saveComplete := by rintro f ⟨⟩
theorem railCut : Statement .railCut := by rintro f ⟨⟩
theorem savectlResume : Statement .savectlResume := by rintro f ⟨⟩
theorem withdrawableSuspendBegin : Statement .withdrawableSuspendBegin := by rintro f ⟨⟩
theorem withdrawableSuspendEnd : Statement .withdrawableSuspendEnd := by rintro f ⟨⟩
theorem powerSample : Statement .powerSample := by rintro f ⟨⟩
theorem energyUpdate : Statement .energyUpdate := by rintro f ⟨⟩
theorem energysetWrite : Statement .energysetWrite := by rintro f ⟨⟩
theorem qaddWrite : Statement .qaddWrite := by rintro f ⟨⟩
theorem sprintmaxWrite : Statement .sprintmaxWrite := by rintro f ⟨⟩
theorem islandFreqChange : Statement .islandFreqChange := by rintro f ⟨⟩
theorem meltUpdate : Statement .meltUpdate := by rintro f ⟨⟩
theorem leaseExpiry : Statement .leaseExpiry := by rintro f ⟨⟩
theorem islandOwnerWrite : Statement .islandOwnerWrite := by rintro f ⟨⟩
theorem ownerChange : Statement .ownerChange := by rintro f ⟨⟩
theorem savelistRead : Statement .savelistRead := by rintro f ⟨⟩
theorem flitInject : Statement .flitInject := by rintro f ⟨⟩
theorem flitHop : Statement .flitHop := by rintro f ⟨⟩
theorem floorTransfer : Statement .floorTransfer := by rintro f ⟨⟩
theorem configFlit : Statement .configFlit := by rintro f ⟨⟩
theorem memoryRequestArrive : Statement .memoryRequestArrive := by rintro f ⟨⟩
theorem memoryService : Statement .memoryService := by rintro f ⟨⟩
theorem refreshService : Statement .refreshService := by rintro f ⟨⟩
theorem memoryAccessDone : Statement .memoryAccessDone := by rintro f ⟨⟩
theorem memoryReplyInject : Statement .memoryReplyInject := by rintro f ⟨⟩
theorem cmSetup : Statement .cmSetup := by rintro f ⟨⟩
theorem cmTeardown : Statement .cmTeardown := by rintro f ⟨⟩
theorem cmResize : Statement .cmResize := by rintro f ⟨⟩
theorem cmSetWheel : Statement .cmSetWheel := by rintro f ⟨⟩
theorem cmReadEntry : Statement .cmReadEntry := by rintro f ⟨⟩
theorem circuitActivate : Statement .circuitActivate := by rintro f ⟨⟩
theorem teardownSuspend : Statement .teardownSuspend := by rintro f ⟨⟩
theorem teardownRemove : Statement .teardownRemove := by rintro f ⟨⟩
theorem wheelChange : Statement .wheelChange := by rintro f ⟨⟩
theorem hallLockLoss : Statement .hallLockLoss := by rintro f ⟨⟩
theorem floorEntryClear : Statement .floorEntryClear := by rintro f ⟨⟩
theorem hallRelock : Statement .hallRelock := by rintro f ⟨⟩
theorem floorEntryRestore : Statement .floorEntryRestore := by rintro f ⟨⟩
theorem podFlitReceive : Statement .podFlitReceive := by rintro f ⟨⟩
theorem podAck : Statement .podAck := by rintro f ⟨⟩
theorem podLockLoss : Statement .podLockLoss := by rintro f ⟨⟩
theorem podOpticalLock : Statement .podOpticalLock := by rintro f ⟨⟩
theorem podResume : Statement .podResume := by rintro f ⟨⟩
theorem partitionHold : Statement .partitionHold := by rintro f ⟨⟩
theorem partitionRelease : Statement .partitionRelease := by rintro f ⟨⟩
theorem hostMw1Read : Statement .hostMw1Read := by rintro f ⟨⟩
theorem hostMw1Write : Statement .hostMw1Write := by rintro f ⟨⟩
theorem hostfaultRead : Statement .hostfaultRead := by rintro f ⟨⟩
theorem lqbaseWrite : Statement .lqbaseWrite := by rintro f ⟨⟩
theorem lqtailWrite : Statement .lqtailWrite := by rintro f ⟨⟩
theorem lqstatErrClear : Statement .lqstatErrClear := by rintro f ⟨⟩
theorem queuePacketFetch : Statement .queuePacketFetch := by rintro f ⟨⟩
theorem intcauseClear : Statement .intcauseClear := by rintro f ⟨⟩
theorem functionLevelReset : Statement .functionLevelReset := by rintro f ⟨⟩
theorem podidWrite : Statement .podidWrite := by rintro f ⟨⟩
theorem pairgrantWrite : Statement .pairgrantWrite := by rintro f ⟨⟩
theorem pairingMatch : Statement .pairingMatch := by rintro f ⟨⟩
theorem moduleStart : Statement .moduleStart := by rintro f ⟨⟩
theorem recgoWrite : Statement .recgoWrite := by rintro f ⟨⟩
theorem recoveryFlashDone : Statement .recoveryFlashDone := by rintro f ⟨⟩
theorem bootrecClear : Statement .bootrecClear := by rintro f ⟨⟩
theorem attreqWrite : Statement .attreqWrite := by rintro f ⟨⟩
theorem attestationReportReady : Statement .attestationReportReady := by rintro f ⟨⟩
theorem snapshotTake : Statement .snapshotTake := by rintro f ⟨⟩
theorem snapshotTaken : Statement .snapshotTaken := by rintro f ⟨⟩
theorem snapshotRelease : Statement .snapshotRelease := by rintro f ⟨⟩
theorem snapshotRestore : Statement .snapshotRestore := by rintro f ⟨⟩
theorem snapshotRestored : Statement .snapshotRestored := by rintro f ⟨⟩
theorem hostLinkLoss : Statement .hostLinkLoss := by rintro f ⟨⟩
theorem dependencePoll : Statement .dependencePoll := by rintro f ⟨⟩
theorem dispatchBegin : Statement .dispatchBegin := by rintro f ⟨⟩
theorem slotSelect : Statement .slotSelect := by rintro f ⟨⟩
theorem launchRetire : Statement .launchRetire := by rintro f ⟨⟩
theorem donefaultRead : Statement .donefaultRead := by rintro f ⟨⟩
theorem dueEviction : Statement .dueEviction := by rintro f ⟨⟩
theorem stallEviction : Statement .stallEviction := by rintro f ⟨⟩
theorem strandWake : Statement .strandWake := by rintro f ⟨⟩
theorem vacate : Statement .vacate := by rintro f ⟨⟩
theorem vacateDone : Statement .vacateDone := by rintro f ⟨⟩
theorem vacateRelease : Statement .vacateRelease := by rintro f ⟨⟩
theorem dpartWrite : Statement .dpartWrite := by rintro f ⟨⟩
theorem clbaseWrite : Statement .clbaseWrite := by rintro f ⟨⟩
theorem clctlModeWrite : Statement .clctlModeWrite := by rintro f ⟨⟩
theorem logPause : Statement .logPause := by rintro f ⟨⟩
theorem clctlResume : Statement .clctlResume := by rintro f ⟨⟩
theorem clctlAbort : Statement .clctlAbort := by rintro f ⟨⟩
theorem lineFetchDone : Statement .lineFetchDone := by rintro f ⟨⟩
theorem keptWritebackRetry : Statement .keptWritebackRetry := by rintro f ⟨⟩
theorem transitFlitSend : Statement .transitFlitSend := by rintro f ⟨⟩
theorem travelDepart : Statement .travelDepart := by rintro f ⟨⟩
theorem carryArrive : Statement .carryArrive := by rintro f ⟨⟩
theorem lineRequest : Statement .lineRequest := by rintro f ⟨⟩
theorem lineReply : Statement .lineReply := by rintro f ⟨⟩
theorem transitLineWriteback : Statement .transitLineWriteback := by rintro f ⟨⟩
theorem writebackAck : Statement .writebackAck := by rintro f ⟨⟩
theorem remoteAccessRequest : Statement .remoteAccessRequest := by rintro f ⟨⟩
theorem remoteAccessReply : Statement .remoteAccessReply := by rintro f ⟨⟩
theorem controlDelta : Statement .controlDelta := by rintro f ⟨⟩
theorem walkComplete : Statement .walkComplete := by rintro f ⟨⟩
theorem windowFillComplete : Statement .windowFillComplete := by rintro f ⟨⟩
theorem windowWritebackComplete : Statement .windowWritebackComplete := by rintro f ⟨⟩
theorem migrationDecay : Statement .migrationDecay := by rintro f ⟨⟩
theorem pageMoveFlip : Statement .pageMoveFlip := by rintro f ⟨⟩
theorem zeroctlGo : Statement .zeroctlGo := by rintro f ⟨⟩
theorem zeroComplete : Statement .zeroComplete := by rintro f ⟨⟩
theorem loadReply : Statement .loadReply := by rintro f ⟨⟩
theorem storeAck : Statement .storeAck := by rintro f ⟨⟩
theorem atomicReply : Statement .atomicReply := by rintro f ⟨⟩
theorem feResend : Statement .feResend := by rintro f ⟨⟩
theorem withdrawal : Statement .withdrawal := by rintro f ⟨⟩
theorem streamMemoryFetch : Statement .streamMemoryFetch := by rintro f ⟨⟩
theorem streamMemoryWrite : Statement .streamMemoryWrite := by rintro f ⟨⟩
theorem streamFlitArrive : Statement .streamFlitArrive := by rintro f ⟨⟩
theorem tileTaskStart : Statement .tileTaskStart := by rintro f ⟨⟩
theorem tileTaskComplete : Statement .tileTaskComplete := by rintro f ⟨⟩
theorem copyChunk : Statement .copyChunk := by rintro f ⟨⟩
theorem messageArrive : Statement .messageArrive := by rintro f ⟨⟩
theorem msndResend : Statement .msndResend := by rintro f ⟨⟩
theorem asyncTrapTake : Statement .asyncTrapTake := by rintro f ⟨⟩
theorem trapDeliver : Statement .trapDeliver := by rintro f ⟨⟩
theorem handlerHandover : Statement .handlerHandover := by rintro f ⟨⟩
theorem thctxWrite : Statement .thctxWrite := by rintro f ⟨⟩
theorem thcntWrite : Statement .thcntWrite := by rintro f ⟨⟩
theorem vfStop : Statement .vfStop := by rintro f ⟨⟩
theorem vfStopApply : Statement .vfStopApply := by rintro f ⟨⟩
theorem vfResume : Statement .vfResume := by rintro f ⟨⟩
theorem vfResumeApply : Statement .vfResumeApply := by rintro f ⟨⟩
theorem dbgsubGo : Statement .dbgsubGo := by rintro f ⟨⟩
theorem debugTokenVerified : Statement .debugTokenVerified := by rintro f ⟨⟩
theorem dbgstatEnd : Statement .dbgstatEnd := by rintro f ⟨⟩
theorem debugAuthExpire : Statement .debugAuthExpire := by rintro f ⟨⟩
theorem dbgctlWrite : Statement .dbgctlWrite := by rintro f ⟨⟩
theorem dbgkeyWrite : Statement .dbgkeyWrite := by rintro f ⟨⟩
theorem dbgevRead : Statement .dbgevRead := by rintro f ⟨⟩
theorem strcmdStop : Statement .strcmdStop := by rintro f ⟨⟩
theorem strcmdResume : Statement .strcmdResume := by rintro f ⟨⟩
theorem strcmdStep : Statement .strcmdStep := by rintro f ⟨⟩
theorem strcmdResumeRpc : Statement .strcmdResumeRpc := by rintro f ⟨⟩
theorem strcmdEnd : Statement .strcmdEnd := by rintro f ⟨⟩
theorem hallHalt : Statement .hallHalt := by rintro f ⟨⟩
theorem hallHaltRelease : Statement .hallHaltRelease := by rintro f ⟨⟩
theorem barrierWatchdog : Statement .barrierWatchdog := by rintro f ⟨⟩
theorem registerWrite : Statement .registerWrite := by rintro f ⟨⟩
theorem lossOfPower : Statement .lossOfPower := by rintro f ⟨⟩
theorem functionEnable : Statement .functionEnable := by rintro f ⟨⟩
theorem uncorrectableError : Statement .uncorrectableError := by rintro f ⟨⟩
theorem instructionCacheFill : Statement .instructionCacheFill := by rintro f ⟨⟩
theorem illegalInstruction : Statement .illegalInstruction := by rintro f ⟨⟩

/-- Every instruction that is no REP. -/
theorem plain (i : Instr) (hrep : ∀ cnt adv0 adv1 step body, i ≠ .rep cnt adv0 adv1 step body) : Statement i := by
  cases i with
  | add p w rd ra rb => exact Encoding.add p w rd ra rb
  | sub p w rd ra rb => exact Encoding.sub p w rd ra rb
  | mul p w rd ra rb => exact Encoding.mul p w rd ra rb
  | mulh p w rd ra rb => exact Encoding.mulh p w rd ra rb
  | mulhu p w rd ra rb => exact Encoding.mulhu p w rd ra rb
  | div p w rd ra rb => exact Encoding.div p w rd ra rb
  | divu p w rd ra rb => exact Encoding.divu p w rd ra rb
  | rem p w rd ra rb => exact Encoding.rem p w rd ra rb
  | remu p w rd ra rb => exact Encoding.remu p w rd ra rb
  | and p w rd ra rb => exact Encoding.and p w rd ra rb
  | or p w rd ra rb => exact Encoding.or p w rd ra rb
  | xor p w rd ra rb => exact Encoding.xor p w rd ra rb
  | andn p w rd ra rb => exact Encoding.andn p w rd ra rb
  | orn p w rd ra rb => exact Encoding.orn p w rd ra rb
  | xnor p w rd ra rb => exact Encoding.xnor p w rd ra rb
  | shl p w rd ra rb => exact Encoding.shl p w rd ra rb
  | shr p w rd ra rb => exact Encoding.shr p w rd ra rb
  | sar p w rd ra rb => exact Encoding.sar p w rd ra rb
  | rot p w rd ra rb => exact Encoding.rot p w rd ra rb
  | min p w rd ra rb => exact Encoding.min p w rd ra rb
  | max p w rd ra rb => exact Encoding.max p w rd ra rb
  | minu p w rd ra rb => exact Encoding.minu p w rd ra rb
  | maxu p w rd ra rb => exact Encoding.maxu p w rd ra rb
  | addImm p w rd ra imm => exact Encoding.addImm p w rd ra imm
  | subImm p w rd ra imm => exact Encoding.subImm p w rd ra imm
  | mulImm p w rd ra imm => exact Encoding.mulImm p w rd ra imm
  | mulhImm p w rd ra imm => exact Encoding.mulhImm p w rd ra imm
  | mulhuImm p w rd ra imm => exact Encoding.mulhuImm p w rd ra imm
  | divImm p w rd ra imm => exact Encoding.divImm p w rd ra imm
  | divuImm p w rd ra imm => exact Encoding.divuImm p w rd ra imm
  | remImm p w rd ra imm => exact Encoding.remImm p w rd ra imm
  | remuImm p w rd ra imm => exact Encoding.remuImm p w rd ra imm
  | andImm p w rd ra imm => exact Encoding.andImm p w rd ra imm
  | orImm p w rd ra imm => exact Encoding.orImm p w rd ra imm
  | xorImm p w rd ra imm => exact Encoding.xorImm p w rd ra imm
  | andnImm p w rd ra imm => exact Encoding.andnImm p w rd ra imm
  | ornImm p w rd ra imm => exact Encoding.ornImm p w rd ra imm
  | xnorImm p w rd ra imm => exact Encoding.xnorImm p w rd ra imm
  | shlImm p w rd ra imm => exact Encoding.shlImm p w rd ra imm
  | shrImm p w rd ra imm => exact Encoding.shrImm p w rd ra imm
  | sarImm p w rd ra imm => exact Encoding.sarImm p w rd ra imm
  | rotImm p w rd ra imm => exact Encoding.rotImm p w rd ra imm
  | minImm p w rd ra imm => exact Encoding.minImm p w rd ra imm
  | maxImm p w rd ra imm => exact Encoding.maxImm p w rd ra imm
  | minuImm p w rd ra imm => exact Encoding.minuImm p w rd ra imm
  | maxuImm p w rd ra imm => exact Encoding.maxuImm p w rd ra imm
  | addi p rd ra imm => exact Encoding.addi p rd ra imm
  | addiLong p rd ra imm => exact Encoding.addiLong p rd ra imm
  | fshl p rd ra rb k => exact Encoding.fshl p rd ra rb k
  | fshr p rd ra rb k => exact Encoding.fshr p rd ra rb k
  | fshlReg p rd ra rb rc => exact Encoding.fshlReg p rd ra rb rc
  | fshrReg p rd ra rb rc => exact Encoding.fshrReg p rd ra rb rc
  | logt p rd ra rb rc table => exact Encoding.logt p rd ra rb rc table
  | clz p w rd ra => exact Encoding.clz p w rd ra
  | ctz p w rd ra => exact Encoding.ctz p w rd ra
  | popc p w rd ra => exact Encoding.popc p w rd ra
  | brev p w rd ra => exact Encoding.brev p w rd ra
  | bswap p w rd ra => exact Encoding.bswap p w rd ra
  | sext p w rd ra => exact Encoding.sext p w rd ra
  | zext p w rd ra => exact Encoding.zext p w rd ra
  | bfx p rd ra len lsb => exact Encoding.bfx p rd ra len lsb
  | bfxu p rd ra len lsb => exact Encoding.bfxu p rd ra len lsb
  | bfi p rd ra len lsb => exact Encoding.bfi p rd ra len lsb
  | li p rd imm => exact Encoding.li p rd imm
  | liLong p rd imm => exact Encoding.liLong p rd imm
  | lih rd ra imm => exact Encoding.lih rd ra imm
  | mov p rd ra => exact Encoding.mov p rd ra
  | sel p rd ra rb neg pn => exact Encoding.sel p rd ra rb neg pn
  | cmp p cond w rd ra rb => exact Encoding.cmp p cond w rd ra rb
  | cmpImm p cond w rd ra imm => exact Encoding.cmpImm p cond w rd ra imm
  | pand p rd ra rb => exact Encoding.pand p rd ra rb
  | por p rd ra rb => exact Encoding.por p rd ra rb
  | pxor p rd ra rb => exact Encoding.pxor p rd ra rb
  | pnot p rd ra => exact Encoding.pnot p rd ra
  | lea p rd ra rb imm => exact Encoding.lea p rd ra rb imm
  | leaLong p rd ra rb imm => exact Encoding.leaLong p rd ra rb imm
  | addp p rd ra rb sh => exact Encoding.addp p rd ra rb sh
  | tagsImm p rd ra tag => exact Encoding.tagsImm p rd ra tag
  | tagsReg p rd ra rb => exact Encoding.tagsReg p rd ra rb
  | br ext neg pn imm => exact Encoding.br ext neg pn imm
  | brLong ext neg pn imm => exact Encoding.brLong ext neg pn imm
  | j ext imm => exact Encoding.j ext imm
  | jLong ext imm => exact Encoding.jLong ext imm
  | jl ext rd imm => exact Encoding.jl ext rd imm
  | jlLong ext rd imm => exact Encoding.jlLong ext rd imm
  | jlr ext rd ra imm => exact Encoding.jlr ext rd ra imm
  | jlrLong ext rd ra imm => exact Encoding.jlrLong ext rd ra imm
  | ret ra => exact Encoding.ret ra
  | loop ext rd imm => exact Encoding.loop ext rd imm
  | loopLong ext rd imm => exact Encoding.loopLong ext rd imm
  | rep cnt adv0 adv1 step body => exact absurd rfl (hrep cnt adv0 adv1 step body)
  | mcpy p rd ra rb => exact Encoding.mcpy p rd ra rb
  | mset p rd ra rb => exact Encoding.mset p rd ra rb
  | nop => exact Encoding.nop
  | csrr p rd csr => exact Encoding.csrr p rd csr
  | csrw p ra csr => exact Encoding.csrw p ra csr
  | csrx p rd ra csr => exact Encoding.csrx p rd ra csr
  | ld p post zx w rd ra imm => exact Encoding.ld p post zx w rd ra imm
  | ldLong p post zx w rd ra imm => exact Encoding.ldLong p post zx w rd ra imm
  | st p post w rd ra imm => exact Encoding.st p post w rd ra imm
  | stLong p post w rd ra imm => exact Encoding.stLong p post w rd ra imm
  | ldv p post rd ra imm => exact Encoding.ldv p post rd ra imm
  | ldvLong p post rd ra imm => exact Encoding.ldvLong p post rd ra imm
  | stv p post rd ra imm => exact Encoding.stv p post rd ra imm
  | stvLong p post rd ra imm => exact Encoding.stvLong p post rd ra imm
  | ldg p pred ty rd ra rb => exact Encoding.ldg p pred ty rd ra rb
  | stx p pred ty rd ra rb => exact Encoding.stx p pred ty rd ra rb
  | ldb p zx rd ra rb => exact Encoding.ldb p zx rd ra rb
  | stb p rd ra rb => exact Encoding.stb p rd ra rb
  | lda p scope w rd ra imm => exact Encoding.lda p scope w rd ra imm
  | ldaLong p scope w rd ra imm => exact Encoding.ldaLong p scope w rd ra imm
  | stl p scope w rd ra imm => exact Encoding.stl p scope w rd ra imm
  | stlLong p scope w rd ra imm => exact Encoding.stlLong p scope w rd ra imm
  | lde p rd ra imm => exact Encoding.lde p rd ra imm
  | ldeLong p rd ra imm => exact Encoding.ldeLong p rd ra imm
  | stf p rd ra imm => exact Encoding.stf p rd ra imm
  | stfLong p rd ra imm => exact Encoding.stfLong p rd ra imm
  | few p rd ra imm => exact Encoding.few p rd ra imm
  | fewLong p rd ra imm => exact Encoding.fewLong p rd ra imm
  | fer p rd ra imm => exact Encoding.fer p rd ra imm
  | ferLong p rd ra imm => exact Encoding.ferLong p rd ra imm
  | touch p rd ra imm => exact Encoding.touch p rd ra imm
  | touchLong p rd ra imm => exact Encoding.touchLong p rd ra imm
  | tagld p rd ra imm => exact Encoding.tagld p rd ra imm
  | tagldLong p rd ra imm => exact Encoding.tagldLong p rd ra imm
  | tagst p rd ra imm => exact Encoding.tagst p rd ra imm
  | tagstLong p rd ra imm => exact Encoding.tagstLong p rd ra imm
  | amo p scope aop rd ra rb => exact Encoding.amo p scope aop rd ra rb
  | cas p scope rd ra rb => exact Encoding.cas p scope rd ra rb
  | red p scope aop ra rb => exact Encoding.red p scope aop ra rb
  | amoI32 p scope aop rd ra rb => exact Encoding.amoI32 p scope aop rd ra rb
  | casI32 p scope rd ra rb => exact Encoding.casI32 p scope rd ra rb
  | redI32 p scope aop ra rb => exact Encoding.redI32 p scope aop ra rb
  | casQ p scope rd ra rb => exact Encoding.casQ p scope rd ra rb
  | fence p scope kinds => exact Encoding.fence p scope kinds
  | bar p num level => exact Encoding.bar p num level
  | barArm p num level ra => exact Encoding.barArm p num level ra
  | bara p num level rd => exact Encoding.bara p num level rd
  | barw p num level ra => exact Encoding.barw p num level ra
  | tbi p ra rb => exact Encoding.tbi p ra rb
  | tba p rd ra rb => exact Encoding.tba p rd ra rb
  | tbw p rd ra rb => exact Encoding.tbw p rd ra rb
  | tbt p rd ra rb => exact Encoding.tbt p rd ra rb
  | waitc p t c st l => exact Encoding.waitc p t c st l
  | msnd p ra rb => exact Encoding.msnd p ra rb
  | mrcv p rd ra => exact Encoding.mrcv p rd ra
  | mrcvFrom p rd ra => exact Encoding.mrcvFrom p rd ra
  | fill p rd ra rb force cls => exact Encoding.fill p rd ra rb force cls
  | vadd p pred ty rd ra rb => exact Encoding.vadd p pred ty rd ra rb
  | vsub p pred ty rd ra rb => exact Encoding.vsub p pred ty rd ra rb
  | vmul p pred ty rd ra rb => exact Encoding.vmul p pred ty rd ra rb
  | vmulh p pred ty rd ra rb => exact Encoding.vmulh p pred ty rd ra rb
  | vfma p pred ty rd ra rb => exact Encoding.vfma p pred ty rd ra rb
  | vfms p pred ty rd ra rb => exact Encoding.vfms p pred ty rd ra rb
  | vfnma p pred ty rd ra rb => exact Encoding.vfnma p pred ty rd ra rb
  | vmin p pred ty rd ra rb => exact Encoding.vmin p pred ty rd ra rb
  | vmax p pred ty rd ra rb => exact Encoding.vmax p pred ty rd ra rb
  | vabs p pred ty rd ra => exact Encoding.vabs p pred ty rd ra
  | vneg p pred ty rd ra => exact Encoding.vneg p pred ty rd ra
  | vrcp p pred ty rd ra => exact Encoding.vrcp p pred ty rd ra
  | vrsq p pred ty rd ra => exact Encoding.vrsq p pred ty rd ra
  | vexp2 p pred ty rd ra => exact Encoding.vexp2 p pred ty rd ra
  | vlog2 p pred ty rd ra => exact Encoding.vlog2 p pred ty rd ra
  | vsqrt p pred ty rd ra => exact Encoding.vsqrt p pred ty rd ra
  | vand p pred rd ra rb => exact Encoding.vand p pred rd ra rb
  | vor p pred rd ra rb => exact Encoding.vor p pred rd ra rb
  | vxor p pred rd ra rb => exact Encoding.vxor p pred rd ra rb
  | vlogt p pred ty rd ra rb vc table => exact Encoding.vlogt p pred ty rd ra rb vc table
  | vshl p pred ty rd ra rb => exact Encoding.vshl p pred ty rd ra rb
  | vshr p pred ty rd ra rb => exact Encoding.vshr p pred ty rd ra rb
  | vsar p pred ty rd ra rb => exact Encoding.vsar p pred ty rd ra rb
  | vcmp p pred ty cond rd ra rb part => exact Encoding.vcmp p pred ty cond rd ra rb part
  | vsel p pred ty rd ra rb => exact Encoding.vsel p pred ty rd ra rb
  | vcvt p pred ty rd ra dpart spart sty => exact Encoding.vcvt p pred ty rd ra dpart spart sty
  | vbcst p pred ty rd ra => exact Encoding.vbcst p pred ty rd ra
  | vmovsToScalar p ty rd ra rb => exact Encoding.vmovsToScalar p ty rd ra rb
  | vmovsToLane p ty rd ra rb => exact Encoding.vmovsToLane p ty rd ra rb
  | vperm p pred ty rd ra rb => exact Encoding.vperm p pred ty rd ra rb
  | vshuf p pred ty rd ra rb => exact Encoding.vshuf p pred ty rd ra rb
  | vsld p pred ty rd ra rb => exact Encoding.vsld p pred ty rd ra rb
  | vred p pred ty rd ra rop => exact Encoding.vred p pred ty rd ra rop
  | vscan p pred ty rd ra rop => exact Encoding.vscan p pred ty rd ra rop
  | vdot4 p pred ty rd ra rb => exact Encoding.vdot4 p pred ty rd ra rb
  | vlut p pred ty rd ra part => exact Encoding.vlut p pred ty rd ra part
  | vqnt p pred ty rd ra rb => exact Encoding.vqnt p pred ty rd ra rb
  | vdqnt p pred ty rd ra rb => exact Encoding.vdqnt p pred ty rd ra rb
  | vdiv p pred ty rd ra rb => exact Encoding.vdiv p pred ty rd ra rb
  | fadd p ty rd ra rb => exact Encoding.fadd p ty rd ra rb
  | fsub p ty rd ra rb => exact Encoding.fsub p ty rd ra rb
  | fmul p ty rd ra rb => exact Encoding.fmul p ty rd ra rb
  | fdiv p ty rd ra rb => exact Encoding.fdiv p ty rd ra rb
  | fsqrt p ty rd ra => exact Encoding.fsqrt p ty rd ra
  | fmin p ty rd ra rb => exact Encoding.fmin p ty rd ra rb
  | fmax p ty rd ra rb => exact Encoding.fmax p ty rd ra rb
  | fclass p ty rd ra => exact Encoding.fclass p ty rd ra
  | ffma p ty rd ra rb neg rc => exact Encoding.ffma p ty rd ra rb neg rc
  | fcmp p cond ty rd ra rb => exact Encoding.fcmp p cond ty rd ra rb
  | fcvt p rd ra dt sty => exact Encoding.fcvt p rd ra dt sty
  | tsub p rd ra => exact Encoding.tsub p rd ra
  | tsubCopy p ra => exact Encoding.tsubCopy p ra
  | tqry p rd ra => exact Encoding.tqry p rd ra
  | tqryCopy p rd ra => exact Encoding.tqryCopy p rd ra
  | tcan p rd ra => exact Encoding.tcan p rd ra
  | tcanCopy p rd ra => exact Encoding.tcanCopy p rd ra
  | lutld p ra rb => exact Encoding.lutld p ra rb
  | lutrd p rd h => exact Encoding.lutrd p rd h
  | rbind p rd ra rb => exact Encoding.rbind p rd ra rb
  | rlook p rd ra => exact Encoding.rlook p rd ra
  | revict p rd ra => exact Encoding.revict p rd ra
  | rinv p rd ra => exact Encoding.rinv p rd ra
  | rinvUnbind p rd ra => exact Encoding.rinvUnbind p rd ra
  | sbind p ra qn => exact Encoding.sbind p ra qn
  | sunb p qn => exact Encoding.sunb p qn
  | sqry p rd qn => exact Encoding.sqry p rd qn
  | spawn p rd ra rb => exact Encoding.spawn p rd ra rb
  | launch p rd ra rb => exact Encoding.launch p rd ra rb
  | exit p => exact Encoding.exit p
  | yield p => exact Encoding.yield p
  | park p rd ra => exact Encoding.park p rd ra
  | swapctx p ra => exact Encoding.swapctx p ra
  | migr p rd ra => exact Encoding.migr p rd ra
  | migrAddr p rd ra => exact Encoding.migrAddr p rd ra
  | home p rd ra => exact Encoding.home p rd ra
  | policy p rd ra => exact Encoding.policy p rd ra
  | lease p rd ra rb => exact Encoding.lease p rd ra rb
  | lrel p rd => exact Encoding.lrel p rd
  | dnext p => exact Encoding.dnext p
  | trap p imm => exact Encoding.trap p imm
  | eret p ra disp => exact Encoding.eret p ra disp
  | bkpt p => exact Encoding.bkpt p
  | tlbi p scope ra rb page => exact Encoding.tlbi p scope ra rb page
  | idle p rd ra => exact Encoding.idle p rd ra
  | gallery85cCrossing => exact Encoding.gallery85cCrossing
  | gallery80cRelease => exact Encoding.gallery80cRelease
  | gallery95cThrottle => exact Encoding.gallery95cThrottle
  | gallery90cRelease => exact Encoding.gallery90cRelease
  | emergencySave => exact Encoding.emergencySave
  | saveComplete => exact Encoding.saveComplete
  | railCut => exact Encoding.railCut
  | savectlResume => exact Encoding.savectlResume
  | withdrawableSuspendBegin => exact Encoding.withdrawableSuspendBegin
  | withdrawableSuspendEnd => exact Encoding.withdrawableSuspendEnd
  | powerSample => exact Encoding.powerSample
  | energyUpdate => exact Encoding.energyUpdate
  | energysetWrite => exact Encoding.energysetWrite
  | qaddWrite => exact Encoding.qaddWrite
  | sprintmaxWrite => exact Encoding.sprintmaxWrite
  | islandFreqChange => exact Encoding.islandFreqChange
  | meltUpdate => exact Encoding.meltUpdate
  | leaseExpiry => exact Encoding.leaseExpiry
  | islandOwnerWrite => exact Encoding.islandOwnerWrite
  | ownerChange => exact Encoding.ownerChange
  | savelistRead => exact Encoding.savelistRead
  | flitInject => exact Encoding.flitInject
  | flitHop => exact Encoding.flitHop
  | floorTransfer => exact Encoding.floorTransfer
  | configFlit => exact Encoding.configFlit
  | memoryRequestArrive => exact Encoding.memoryRequestArrive
  | memoryService => exact Encoding.memoryService
  | refreshService => exact Encoding.refreshService
  | memoryAccessDone => exact Encoding.memoryAccessDone
  | memoryReplyInject => exact Encoding.memoryReplyInject
  | cmSetup => exact Encoding.cmSetup
  | cmTeardown => exact Encoding.cmTeardown
  | cmResize => exact Encoding.cmResize
  | cmSetWheel => exact Encoding.cmSetWheel
  | cmReadEntry => exact Encoding.cmReadEntry
  | circuitActivate => exact Encoding.circuitActivate
  | teardownSuspend => exact Encoding.teardownSuspend
  | teardownRemove => exact Encoding.teardownRemove
  | wheelChange => exact Encoding.wheelChange
  | hallLockLoss => exact Encoding.hallLockLoss
  | floorEntryClear => exact Encoding.floorEntryClear
  | hallRelock => exact Encoding.hallRelock
  | floorEntryRestore => exact Encoding.floorEntryRestore
  | podFlitReceive => exact Encoding.podFlitReceive
  | podAck => exact Encoding.podAck
  | podLockLoss => exact Encoding.podLockLoss
  | podOpticalLock => exact Encoding.podOpticalLock
  | podResume => exact Encoding.podResume
  | partitionHold => exact Encoding.partitionHold
  | partitionRelease => exact Encoding.partitionRelease
  | hostMw1Read => exact Encoding.hostMw1Read
  | hostMw1Write => exact Encoding.hostMw1Write
  | hostfaultRead => exact Encoding.hostfaultRead
  | lqbaseWrite => exact Encoding.lqbaseWrite
  | lqtailWrite => exact Encoding.lqtailWrite
  | lqstatErrClear => exact Encoding.lqstatErrClear
  | queuePacketFetch => exact Encoding.queuePacketFetch
  | intcauseClear => exact Encoding.intcauseClear
  | functionLevelReset => exact Encoding.functionLevelReset
  | podidWrite => exact Encoding.podidWrite
  | pairgrantWrite => exact Encoding.pairgrantWrite
  | pairingMatch => exact Encoding.pairingMatch
  | moduleStart => exact Encoding.moduleStart
  | recgoWrite => exact Encoding.recgoWrite
  | recoveryFlashDone => exact Encoding.recoveryFlashDone
  | bootrecClear => exact Encoding.bootrecClear
  | attreqWrite => exact Encoding.attreqWrite
  | attestationReportReady => exact Encoding.attestationReportReady
  | snapshotTake => exact Encoding.snapshotTake
  | snapshotTaken => exact Encoding.snapshotTaken
  | snapshotRelease => exact Encoding.snapshotRelease
  | snapshotRestore => exact Encoding.snapshotRestore
  | snapshotRestored => exact Encoding.snapshotRestored
  | hostLinkLoss => exact Encoding.hostLinkLoss
  | dependencePoll => exact Encoding.dependencePoll
  | dispatchBegin => exact Encoding.dispatchBegin
  | slotSelect => exact Encoding.slotSelect
  | launchRetire => exact Encoding.launchRetire
  | donefaultRead => exact Encoding.donefaultRead
  | dueEviction => exact Encoding.dueEviction
  | stallEviction => exact Encoding.stallEviction
  | strandWake => exact Encoding.strandWake
  | vacate => exact Encoding.vacate
  | vacateDone => exact Encoding.vacateDone
  | vacateRelease => exact Encoding.vacateRelease
  | dpartWrite => exact Encoding.dpartWrite
  | clbaseWrite => exact Encoding.clbaseWrite
  | clctlModeWrite => exact Encoding.clctlModeWrite
  | logPause => exact Encoding.logPause
  | clctlResume => exact Encoding.clctlResume
  | clctlAbort => exact Encoding.clctlAbort
  | lineFetchDone => exact Encoding.lineFetchDone
  | keptWritebackRetry => exact Encoding.keptWritebackRetry
  | transitFlitSend => exact Encoding.transitFlitSend
  | travelDepart => exact Encoding.travelDepart
  | carryArrive => exact Encoding.carryArrive
  | lineRequest => exact Encoding.lineRequest
  | lineReply => exact Encoding.lineReply
  | transitLineWriteback => exact Encoding.transitLineWriteback
  | writebackAck => exact Encoding.writebackAck
  | remoteAccessRequest => exact Encoding.remoteAccessRequest
  | remoteAccessReply => exact Encoding.remoteAccessReply
  | controlDelta => exact Encoding.controlDelta
  | walkComplete => exact Encoding.walkComplete
  | windowFillComplete => exact Encoding.windowFillComplete
  | windowWritebackComplete => exact Encoding.windowWritebackComplete
  | migrationDecay => exact Encoding.migrationDecay
  | pageMoveFlip => exact Encoding.pageMoveFlip
  | zeroctlGo => exact Encoding.zeroctlGo
  | zeroComplete => exact Encoding.zeroComplete
  | loadReply => exact Encoding.loadReply
  | storeAck => exact Encoding.storeAck
  | atomicReply => exact Encoding.atomicReply
  | feResend => exact Encoding.feResend
  | withdrawal => exact Encoding.withdrawal
  | streamMemoryFetch => exact Encoding.streamMemoryFetch
  | streamMemoryWrite => exact Encoding.streamMemoryWrite
  | streamFlitArrive => exact Encoding.streamFlitArrive
  | tileTaskStart => exact Encoding.tileTaskStart
  | tileTaskComplete => exact Encoding.tileTaskComplete
  | copyChunk => exact Encoding.copyChunk
  | messageArrive => exact Encoding.messageArrive
  | msndResend => exact Encoding.msndResend
  | asyncTrapTake => exact Encoding.asyncTrapTake
  | trapDeliver => exact Encoding.trapDeliver
  | handlerHandover => exact Encoding.handlerHandover
  | thctxWrite => exact Encoding.thctxWrite
  | thcntWrite => exact Encoding.thcntWrite
  | vfStop => exact Encoding.vfStop
  | vfStopApply => exact Encoding.vfStopApply
  | vfResume => exact Encoding.vfResume
  | vfResumeApply => exact Encoding.vfResumeApply
  | dbgsubGo => exact Encoding.dbgsubGo
  | debugTokenVerified => exact Encoding.debugTokenVerified
  | dbgstatEnd => exact Encoding.dbgstatEnd
  | debugAuthExpire => exact Encoding.debugAuthExpire
  | dbgctlWrite => exact Encoding.dbgctlWrite
  | dbgkeyWrite => exact Encoding.dbgkeyWrite
  | dbgevRead => exact Encoding.dbgevRead
  | strcmdStop => exact Encoding.strcmdStop
  | strcmdResume => exact Encoding.strcmdResume
  | strcmdStep => exact Encoding.strcmdStep
  | strcmdResumeRpc => exact Encoding.strcmdResumeRpc
  | strcmdEnd => exact Encoding.strcmdEnd
  | hallHalt => exact Encoding.hallHalt
  | hallHaltRelease => exact Encoding.hallHaltRelease
  | barrierWatchdog => exact Encoding.barrierWatchdog
  | registerWrite => exact Encoding.registerWrite
  | lossOfPower => exact Encoding.lossOfPower
  | functionEnable => exact Encoding.functionEnable
  | uncorrectableError => exact Encoding.uncorrectableError
  | instructionCacheFill => exact Encoding.instructionCacheFill
  | illegalInstruction => exact Encoding.illegalInstruction

/-- A REP prefix beside the fields of an instruction. -/
theorem ofFields_rep (f : Sys2Proof.Fields) (r : Rep) (i : Instr) (hf : f.rep = none) (h : ofFields f = some i) :
    ofFields { f with rep := some r } = some (.rep r.cnt r.adv0 r.adv1 r.step i) := by
  obtain ⟨pfx, q, page, long, op, rd, ra, rb, fn, pay⟩ := f
  subst hf
  have e : ∀ b : Option Instr,
      (match b, (none : Option Rep) with
        | some i, some r => some (Instr.rep r.cnt r.adv0 r.adv1 r.step i)
        | b, none => b
        | none, _ => none) = b := fun b => by cases b <;> rfl
  have h' := (e _).symm.trans h
  show (match _, some r with
        | some i, some r => some (Instr.rep r.cnt r.adv0 r.adv1 r.step i)
        | b, none => b
        | none, _ => none) = _
  exact congrArg (fun b => match b, some r with
        | some i, some r => some (Instr.rep r.cnt r.adv0 r.adv1 r.step i)
        | b, none => b
        | none, _ => none) h'

/-- The fields of a REP: its body's, with the prefix. -/
theorem toFields_rep (cnt adv0 adv1 : BitVec 5) (step : BitVec 11) (body : Instr) :
    toFields (.rep cnt adv0 adv1 step body) =
      match toFields body with
      | some g => if g.rep.isNone then some { g with rep := some ⟨cnt, adv0, adv1, step⟩ } else none
      | none => none := rfl

theorem rep (cnt adv0 adv1 : BitVec 5) (step : BitVec 11) (body : Instr) : Statement (.rep cnt adv0 adv1 step body) := by
  intro f h
  rw [toFields_rep] at h
  split at h
  · next g hg =>
    split at h
    · next hn =>
      cases h
      have hb : ∀ a b c d e, body ≠ .rep a b c d e := by
        rintro a b c d e rfl
        rw [toFields_rep] at hg
        split at hg
        · split at hg
          · cases hg
            simp at hn
          · cases hg
        · cases hg
      exact ofFields_rep g ⟨cnt, adv0, adv1, step⟩ body (Option.isNone_iff_eq_none.mp hn) (plain body hb g hg)
    · cases h
  · cases h


end Sys2Proof.Laws.Encoding
end

