-- ==== Sys2Proof/Laws/Store.lean ====
section
/-! SUPPORT. Laws of Store: every operation on memory and on the scratchpads keeps the canonical form of R3, what a write
leaves to a read of each byte, and all else such a write can change (R160, R166). -/

namespace Sys2Proof.Machine

/-! ### Lists of cells -/

theorem cellsFrom_filter (m : List Host.Cell) (lo : Nat) (p : Host.Cell → Bool) (hm : cellsFrom lo m = true) :
    cellsFrom lo (m.filter p) = true := by
  induction m generalizing lo with
  | nil => rfl
  | cons e t ih =>
    obtain ⟨j, b⟩ := e
    simp only [cellsFrom, Bool.and_eq_true, decide_eq_true_eq] at hm
    rw [List.filter_cons]
    split
    · simp only [cellsFrom, Bool.and_eq_true, decide_eq_true_eq]
      exact ⟨hm.1, ih _ hm.2⟩
    · exact cellsFrom_le _ (j + 1) lo (by omega) (ih _ hm.2)

theorem Memory.wf_filter (m : List Host.Cell) (p : Host.Cell → Bool) (hm : Memory.wf m = true) :
    Memory.wf (m.filter p) = true := cellsFrom_filter m 0 p hm

theorem cellsFrom_append (m n : List Host.Cell) (lo mid : Nat) (hm : cellsFrom lo m = true) (hlo : lo ≤ mid)
    (hb : ∀ e ∈ m, e.1 < mid) (hn : cellsFrom mid n = true) : cellsFrom lo (m ++ n) = true := by
  induction m generalizing lo with
  | nil => exact cellsFrom_le _ mid lo hlo hn
  | cons e t ih =>
    obtain ⟨j, b⟩ := e
    simp only [cellsFrom, Bool.and_eq_true, decide_eq_true_eq, List.cons_append] at hm ⊢
    exact ⟨hm.1, ih (j + 1) hm.2 (hb (j, b) (by simp)) (fun e he => hb e (by simp [he]))⟩

/-- Cells moved together to other addresses stay canonical. -/
theorem cellsFrom_shift (m : List Host.Cell) (lo k base : Nat) (hm : cellsFrom lo m = true) (hk : k ≤ lo) :
    cellsFrom (base + (lo - k)) (m.map (fun e => (base + (e.1 - k), e.2))) = true := by
  induction m generalizing lo with
  | nil => rfl
  | cons e t ih =>
    obtain ⟨j, b⟩ := e
    simp only [cellsFrom, Bool.and_eq_true, decide_eq_true_eq, List.map_cons] at hm ⊢
    refine ⟨⟨by omega, hm.1.2⟩, ?_⟩
    have h := ih (j + 1) hm.2 (by omega)
    rwa [show base + (j + 1 - k) = base + (j - k) + 1 by omega] at h

theorem cellsFrom_filter_ge (m : List Host.Cell) (lo k : Nat) (p : Host.Cell → Bool) (hm : cellsFrom lo m = true)
    (hp : ∀ e, p e = true → k ≤ e.1) : cellsFrom k (m.filter p) = true := by
  induction m generalizing lo with
  | nil => rfl
  | cons e t ih =>
    obtain ⟨j, b⟩ := e
    simp only [cellsFrom, Bool.and_eq_true, decide_eq_true_eq] at hm
    rw [List.filter_cons]
    split
    · next h =>
      simp only [cellsFrom, Bool.and_eq_true, decide_eq_true_eq]
      exact ⟨⟨hp _ h, hm.1.2⟩, cellsFrom_filter t (j + 1) p hm.2⟩
    · exact ih _ hm.2

/-! ### Bytes at rising addresses -/

theorem Memory.wf_putBytes (bs : List Byte) (a : Nat) (m : List Host.Cell) (hm : Memory.wf m = true) :
    Memory.wf (putBytes bs a m) = true := by
  induction bs generalizing a m with
  | nil => exact hm
  | cons b t ih => exact ih _ _ (Memory.wf_cellPut _ _ _ hm)

/-- What a byte reads as after bytes are put. -/
theorem cellGet_putBytes (bs : List Byte) (a c : Nat) (m : List Host.Cell) (hm : Memory.wf m = true) :
    cellGet (putBytes bs a m) c = if a ≤ c ∧ c < a + bs.length then bs.getD (c - a) 0#8 else cellGet m c := by
  induction bs generalizing a m with
  | nil =>
    rw [if_neg (by simp only [List.length_nil]; omega)]
    rfl
  | cons b t ih =>
    rw [putBytes, ih _ _ (Memory.wf_cellPut _ _ _ hm), cellGet_cellPut _ _ _ _ hm]
    simp only [List.length_cons]
    by_cases h : c = a
    · subst h
      rw [if_neg (by omega), if_pos rfl, if_pos (by omega)]
      simp
    · rw [if_neg h]
      by_cases h' : a + 1 ≤ c ∧ c < a + 1 + t.length
      · rw [if_pos h', if_pos (by omega), show c - a = (c - (a + 1)) + 1 by omega, List.getD_cons_succ]
      · rw [if_neg h', if_neg (by omega)]

/-! ### Writes of memory -/

/-- All that a write of memory can change. -/
theorem memWriteGran_shape (key a : Nat) (bs : List Byte) (s : State) :
    ∃ x y z, memWriteGran key a bs s = { s with mem := x, memErr := y, memKey := z } := by
  unfold memWriteGran
  dsimp only
  split
  · exact ⟨s.mem, s.memErr, s.memKey, rfl⟩
  · split <;> split <;> exact ⟨_, _, _, rfl⟩

theorem memWriteGran_wf (key a : Nat) (bs : List Byte) (s : State) (h : Memory.wf s.mem = true) :
    Memory.wf (memWriteGran key a bs s).mem = true := by
  unfold memWriteGran
  dsimp only
  split
  · exact h
  · split <;> split <;>
      simp [Memory.wf_putBytes, h]

/-- Every property of states that a write inside one granule keeps is kept by every write. -/
theorem memWrite_induct (P : State → Prop) (hP : ∀ key a bs s, P s → P (memWriteGran key a bs s)) (key a : Nat)
    (bs : List Byte) (s : State) (h : P s) : P (memWrite key a bs s) := by
  unfold memWrite
  generalize bs.length / 32 + 2 = n
  induction n generalizing a bs s with
  | zero => exact h
  | succ n ih =>
    unfold memWriteFuel
    dsimp only
    split
    · split
      · exact h
      · exact hP _ _ _ _ h
    · exact ih _ _ _ (hP _ _ _ _ h)

theorem memWrite_wf (key a : Nat) (bs : List Byte) (s : State) (h : Memory.wf s.mem = true) :
    Memory.wf (memWrite key a bs s).mem = true :=
  memWrite_induct (fun s => Memory.wf s.mem = true) (fun _ _ _ _ h => memWriteGran_wf _ _ _ _ h) key a bs s h

/-- All that a write of memory can change. -/
theorem memWrite_shape (key a : Nat) (bs : List Byte) (s : State) :
    ∃ x y z, memWrite key a bs s = { s with mem := x, memErr := y, memKey := z } :=
  memWrite_induct (fun t => ∃ x y z, t = { s with mem := x, memErr := y, memKey := z })
    (fun key a bs t ⟨x, y, z, h⟩ => by
      obtain ⟨x', y', z', h'⟩ := memWriteGran_shape key a bs t
      exact ⟨x', y', z', by rw [h', h]⟩) key a bs s ⟨s.mem, s.memErr, s.memKey, rfl⟩

@[simp] theorem memWrite_spad (key a : Nat) (bs : List Byte) (s : State) : (memWrite key a bs s).spad = s.spad := by
  obtain ⟨x, y, z, h⟩ := memWrite_shape key a bs s; rw [h]
@[simp] theorem memWrite_snap (key a : Nat) (bs : List Byte) (s : State) : (memWrite key a bs s).snap = s.snap := by
  obtain ⟨x, y, z, h⟩ := memWrite_shape key a bs s; rw [h]
@[simp] theorem memWrite_lines (key a : Nat) (bs : List Byte) (s : State) : (memWrite key a bs s).lines = s.lines := by
  obtain ⟨x, y, z, h⟩ := memWrite_shape key a bs s; rw [h]
@[simp] theorem memWrite_strands (key a : Nat) (bs : List Byte) (s : State) : (memWrite key a bs s).strands = s.strands := by
  obtain ⟨x, y, z, h⟩ := memWrite_shape key a bs s; rw [h]
@[simp] theorem memWrite_issue (key a : Nat) (bs : List Byte) (s : State) : (memWrite key a bs s).issue = s.issue := by
  obtain ⟨x, y, z, h⟩ := memWrite_shape key a bs s; rw [h]
@[simp] theorem memWrite_fns (key a : Nat) (bs : List Byte) (s : State) : (memWrite key a bs s).fns = s.fns := by
  obtain ⟨x, y, z, h⟩ := memWrite_shape key a bs s; rw [h]
@[simp] theorem memWrite_mw0 (key a : Nat) (bs : List Byte) (s : State) : (memWrite key a bs s).mw0 = s.mw0 := by
  obtain ⟨x, y, z, h⟩ := memWrite_shape key a bs s; rw [h]
@[simp] theorem memWrite_memTags (key a : Nat) (bs : List Byte) (s : State) : (memWrite key a bs s).memTags = s.memTags := by
  obtain ⟨x, y, z, h⟩ := memWrite_shape key a bs s; rw [h]
@[simp] theorem memWrite_memEmpty (key a : Nat) (bs : List Byte) (s : State) : (memWrite key a bs s).memEmpty = s.memEmpty := by
  obtain ⟨x, y, z, h⟩ := memWrite_shape key a bs s; rw [h]

/-- A write of some bytes inside a granule without an error, under the granule's key: the bytes written read back, every
other byte reads as before. -/
theorem cellGet_memWriteGran (key a c : Nat) (bs : List Byte) (s : State) (h : Memory.wf s.mem = true)
    (he : s.memErr.contains (a / 32) = false) (hk : granKey (a / 32) s = key) :
    cellGet (memWriteGran key a bs s).mem c =
      if a ≤ c ∧ c < a + bs.length then bs.getD (c - a) 0#8 else cellGet s.mem c := by
  simp only [memWriteGran, he, Bool.false_and, Bool.false_eq_true, if_false, hk, if_true]
  exact cellGet_putBytes _ _ _ _ h

/-! ### Writes of scratchpads -/

theorem spadWriteWord_shape (c off : Nat) (bs : List Byte) (s : State) :
    ∃ x y, spadWriteWord c off bs s = { s with spad := x, spadErr := y } := by
  unfold spadWriteWord
  dsimp only
  split
  · exact ⟨s.spad, s.spadErr, rfl⟩
  · exact ⟨_, _, rfl⟩

theorem spadWriteWord_wf (c off : Nat) (bs : List Byte) (s : State) (h : Memory.wf s.spad = true) :
    Memory.wf (spadWriteWord c off bs s).spad = true := by
  unfold spadWriteWord
  dsimp only
  split
  · exact h
  · exact Memory.wf_putBytes _ _ _ h

/-- Every property of states that a write inside one word keeps is kept by every write of a scratchpad. -/
theorem spadWrite_induct (P : State → Prop) (hP : ∀ c off bs s, P s → P (spadWriteWord c off bs s)) (c off : Nat)
    (bs : List Byte) (s : State) (h : P s) : P (spadWrite c off bs s) := by
  unfold spadWrite
  generalize bs.length / 8 + 2 = n
  induction n generalizing off bs s with
  | zero => exact h
  | succ n ih =>
    unfold spadWriteFuel
    dsimp only
    split
    · split
      · exact h
      · exact hP _ _ _ _ h
    · exact ih _ _ _ (hP _ _ _ _ h)

theorem spadWrite_wf (c off : Nat) (bs : List Byte) (s : State) (h : Memory.wf s.spad = true) :
    Memory.wf (spadWrite c off bs s).spad = true :=
  spadWrite_induct (fun s => Memory.wf s.spad = true) (fun _ _ _ _ h => spadWriteWord_wf _ _ _ _ h) c off bs s h

/-- All that a write of a scratchpad can change. -/
theorem spadWrite_shape (c off : Nat) (bs : List Byte) (s : State) :
    ∃ x y, spadWrite c off bs s = { s with spad := x, spadErr := y } :=
  spadWrite_induct (fun t => ∃ x y, t = { s with spad := x, spadErr := y })
    (fun c off bs t ⟨x, y, h⟩ => by
      obtain ⟨x', y', h'⟩ := spadWriteWord_shape c off bs t
      exact ⟨x', y', by rw [h', h]⟩) c off bs s ⟨s.spad, s.spadErr, rfl⟩

@[simp] theorem spadWrite_mem (c off : Nat) (bs : List Byte) (s : State) : (spadWrite c off bs s).mem = s.mem := by
  obtain ⟨x, y, h⟩ := spadWrite_shape c off bs s; rw [h]
@[simp] theorem spadWrite_snap (c off : Nat) (bs : List Byte) (s : State) : (spadWrite c off bs s).snap = s.snap := by
  obtain ⟨x, y, h⟩ := spadWrite_shape c off bs s; rw [h]
@[simp] theorem spadWrite_lines (c off : Nat) (bs : List Byte) (s : State) : (spadWrite c off bs s).lines = s.lines := by
  obtain ⟨x, y, h⟩ := spadWrite_shape c off bs s; rw [h]
@[simp] theorem spadWrite_strands (c off : Nat) (bs : List Byte) (s : State) : (spadWrite c off bs s).strands = s.strands := by
  obtain ⟨x, y, h⟩ := spadWrite_shape c off bs s; rw [h]
@[simp] theorem spadWrite_issue (c off : Nat) (bs : List Byte) (s : State) : (spadWrite c off bs s).issue = s.issue := by
  obtain ⟨x, y, h⟩ := spadWrite_shape c off bs s; rw [h]
@[simp] theorem spadWrite_spadEmpty (c off : Nat) (bs : List Byte) (s : State) : (spadWrite c off bs s).spadEmpty = s.spadEmpty := by
  obtain ⟨x, y, h⟩ := spadWrite_shape c off bs s; rw [h]

/-! ### The other operations that replace contents -/

theorem setOwner_wf (vf : BitVec 7) (pa : Nat) (s : State) (h : Memory.wf s.mem = true) :
    Memory.wf (setOwner vf pa s).mem = true := memWrite_wf _ _ _ _ h

theorem clearRange_wf (key pa n : Nat) (s : State) (h : Memory.wf s.mem = true) :
    Memory.wf (clearRange key pa n s).mem = true := Memory.wf_filter _ _ h

theorem clearPad_wf (c : Nat) (s : State) (h : Memory.wf s.spad = true) : Memory.wf (clearPad c s).spad = true :=
  Memory.wf_filter _ _ h

/-- The image of a scratchpad in the save area keeps memory canonical (R223). -/
theorem savePad_wf (h i : Nat) (s : State) (hm : Memory.wf s.mem = true) (hs : Memory.wf s.spad = true) :
    Memory.wf (savePad h i s).mem = true := by
  unfold savePad
  apply memWrite_wf
  dsimp only
  generalize 256 * h + i = c
  generalize saveBase h s + 2 ^ 28 + 2 ^ 21 * i = base
  generalize keyOf _ s = key
  have hc : Memory.wf (clearRange key base (2 ^ 21) s).mem = true := clearRange_wf _ _ _ _ hm
  have e : (clearRange key base (2 ^ 21) s).spad = s.spad := rfl
  rw [e]
  have hgap : ∀ x ∈ (clearRange key base (2 ^ 21) s).mem, x.1 < base ∨ base + 2 ^ 21 ≤ x.1 := by
    intro x hx
    simp only [clearRange, List.mem_filter, Bool.or_eq_true, decide_eq_true_eq, Nat.one_mul] at hx
    exact hx.2
  generalize (clearRange key base (2 ^ 21) s).mem = m at hc hgap
  unfold Memory.wf at *
  rw [List.append_assoc]
  refine cellsFrom_append _ _ 0 base (cellsFrom_filter _ _ _ hc) (Nat.zero_le _)
    (fun x hx => by simpa using (List.mem_filter.mp hx).2) ?_
  refine cellsFrom_append _ _ base (base + 2 ^ 21) ?_ (by omega) ?_ ?_
  · have hf := cellsFrom_shift (s.spad.filter (fun e => decide (spadKey c 0 ≤ e.1) && decide (e.1 < spadKey c 0 + 2 ^ 21)))
      (spadKey c 0) (spadKey c 0) base
      (cellsFrom_filter_ge _ 0 _ _ hs (fun e he => by simp only [Bool.and_eq_true, decide_eq_true_eq] at he; exact he.1))
      (Nat.le_refl _)
    simpa using hf
  · intro x hx
    simp only [List.mem_map, List.mem_filter, Bool.and_eq_true, decide_eq_true_eq] at hx
    obtain ⟨y, hy, rfl⟩ := hx
    dsimp only
    omega
  · induction m with
    | nil => rfl
    | cons x t ih =>
      obtain ⟨j, b⟩ := x
      rw [List.filter_cons]
      split
      · next hj =>
        simp only [cellsFrom, Bool.and_eq_true, decide_eq_true_eq] at hc hj ⊢
        have := hgap (j, b) (by simp)
        exact ⟨⟨by dsimp only at this; omega, hc.1.2⟩, cellsFrom_filter _ _ _ hc.2⟩
      · simp only [cellsFrom, Bool.and_eq_true, decide_eq_true_eq] at hc
        exact ih (cellsFrom_le _ _ _ (Nat.zero_le _) hc.2) (fun x hx => hgap x (by simp [hx]))

/-- Cells put one by one keep the canonical form. -/
theorem Memory.wf_foldl_cellPut (l : List Host.Cell) (m : List Host.Cell) (h : Memory.wf m = true) :
    Memory.wf (l.foldl (fun m e => cellPut m e.1 e.2) m) = true := by
  induction l generalizing m with
  | nil => exact h
  | cons e t ih => exact ih _ (Memory.wf_cellPut _ _ _ h)

/-- Memory right after reset. -/
theorem reset_mem_wf : Memory.wf State.reset.mem = true := rfl
theorem reset_spad_wf : Memory.wf State.reset.spad = true := rfl

end Sys2Proof.Machine
end

