-- ==== Sys2Proof/Tests/Slice0.lean ====
section
/-! SUPPORT. Tests: the checks of WellFormed, words written out from the spec's encodings, results worked by hand from the
rules cited, and for each statement of Obligations.lean concrete states and operands that meet its hypotheses. -/

set_option maxRecDepth 20000

open Sys2Proof Sys2Proof.Machine

namespace Sys2Proof.Tests

/-! ### Small states and readings -/

/-- One strand of the hypervisor at its turn on core 0, its record whole in the register cache. -/
def start : State :=
  { placeWords [] State.reset with issue := ⟨0#7, 0x2000#56, 0, 0, 0x10000#56, 0x10004#56, [], false, false⟩ }
/-- The strand's number. -/
def k : Nat := 0x2000
/-- A scalar register, a predicate, a vector register, a full bit, a header field of that strand set. -/
def sreg (r : BitVec 5) (v : Word) (s : State) : State := writeS k r v s
def preg (n : Nat) (v : BitVec 32) (s : State) : State := writeP k n v s
def vreg (j : BitVec 5) (v : Vec) (s : State) : State := writeV k j v s
def empt (code : Nat) (s : State) : State := setFull k code false s
def field (i lo n v : Nat) (s : State) : State := setHdrN k i lo n v s
/-- The strand as the device keeps it, changed. -/
def mine (f : Strand → Strand) (s : State) : State := modStrand k f s
/-- The next state of an instruction or event has a property. -/
def gives (i : Instr) (s : State) (p : State → Bool) : Bool := match exec i s with | .next t => p t | _ => false
/-- The instruction retires, its strand goes on at an address, and a property holds. -/
def ends (i : Instr) (pc : BitVec 56) (s : State) (p : State → Bool) : Bool :=
  gives i s (fun t => t.issue.retired && hdrPc k t == pc && p t)
/-- The instruction retires at the next word with a scalar in s1. -/
def one (i : Instr) (v : Word) (s : State) : Bool := ends i 0x10004#56 s (fun t => readS k 1 t == v)
/-- The strand stops with a trap of a kind and cause. -/
def traps (i : Instr) (kind cause : BitVec 8) (s : State) : Bool :=
  gives i s (fun t => match (strandAt k t).trap with
    | some x => x.kind == kind && x.cause == cause && (strandAt k t).run == .trapped
    | none => false)
/-- The strand stalls with a hold. -/
def stalls (i : Instr) (hold : BitVec 4) (s : State) : Bool :=
  gives i s (fun t => (strandAt k t).hold == hold && (strandAt k t).stall.isSome && !t.issue.retired)
/-- Prefixes: class codes and synchronisation of rd, ra and rb; a saturation code. -/
def cls (d a b : BitVec 2) : Pfx := ⟨none, none, some ⟨0, 0, 0, 0, d, a, b, 0⟩⟩
def sat (c : BitVec 2) : Pfx := ⟨none, some ⟨0, c, 0⟩, none⟩
/-- Address of offset o in the core's own scratchpad (R156). -/
def pad (o : Nat) : Word := BitVec.ofNat 64 (0xFE * 2 ^ 48 + o)

/-- The checks place an access in the scratchpad, or in memory. -/
theorem toPad {r : Rules} {a : Word} {s : State} {o : Nat} (h : answer s = none)
    (h' : (match check r a s with | .pad x => x == o | _ => false) = true) : ToPad r a o s := by
  refine ⟨h, ?_⟩
  split at h'
  · next x e => rw [e, eq_of_beq h']
  · cases h'
theorem checkMem {r : Rules} {a : Word} {s : State} {pa : Nat} {tc : Bool}
    (h' : (match check r a s with | .mem x y => x == pa && y == tc | _ => false) = true) : check r a s = .mem pa tc := by
  split at h'
  · next x y e =>
    rw [Bool.and_eq_true] at h'
    rw [e, eq_of_beq h'.1, eq_of_beq h'.2]
  · cases h'

/-! ### WellFormed: a term each check refuses -/

/-- Reserved rounding mode 6, saturation 3, flush 3 (R268). -/
theorem test_wf_rounding : (Instr.add ⟨none, some ⟨6, 0, 0⟩, none⟩ 3 1 2 3).wf = false ∧
    (Instr.add ⟨none, some ⟨5, 2, 2⟩, none⟩ 3 1 2 3).wf = true := by decide
theorem test_wf_saturation : (Instr.add ⟨none, some ⟨0, 3, 0⟩, none⟩ 3 1 2 3).wf = false := by decide
theorem test_wf_flush : (Instr.add ⟨none, some ⟨0, 0, 3⟩, none⟩ 3 1 2 3).wf = false := by decide
/-- Reserved scope 7 and class 3 (R269). -/
theorem test_wf_scope : (Instr.ld ⟨none, none, some ⟨7, 0, 0, 0, 0, 0, 0, 0⟩⟩ 0 0 3 1 2 0).wf = false := by decide
theorem test_wf_classes : (Instr.add (cls 3 0 0) 3 1 2 3).wf = false ∧ (Instr.add (cls 0 3 0) 3 1 2 3).wf = false ∧
    (Instr.add (cls 0 0 3) 3 1 2 3).wf = false := by decide
/-- REP of a REP (R303), and a count of s0 (R268). -/
theorem test_wf_rep : (Instr.rep 1 2 3 8 (.rep 1 2 3 8 .nop)).wf = false ∧
    encodable (.rep 1 2 3 8 (.rep 1 2 3 8 .nop)) = false ∧ encodable (.rep 0 2 3 8 (.add .empty 3 1 2 3)) = false := by decide

/-! ### Words written out from the encodings (R261 to R277, R288 to R391) -/

/-- k=0, op 0x00 then 0x01, ADD.i32 s4, s5, s6 and ADD.i64 s1, s2, #-1. -/
theorem test_dec_alu : decode [0x00085306#32] = .ok (.add .empty 2 4 5 6) 1 := by decide
theorem test_dec_li : decode [0x01C20003#32] = .ok (.li .empty 1 3) 1 := by decide
theorem test_dec_ld : decode [0x08085190#32] = .ok (.ld .empty 0 0 3 4 5 16) 1 := by decide
theorem test_dec_ldLong : decode [0x48085180#32, 0x64#32] = .ok (.ldLong .empty 0 0 3 4 5 100) 2 := by decide
theorem test_dec_st : decode [0x084C4108#32] = .ok (.st .empty 0 2 6 4 8) 1 := by decide
theorem test_dec_funnel : decode [0x00D69401#32] = .ok (.fshl .empty 11 9 8 1) 1 := by decide
theorem test_dec_logt : decode [0x411AB480#32, 0x00000C96#32] = .ok (.logt .empty 13 11 9 12 0x96) 2 := by decide
theorem test_dec_br : decode [0x0415FFFD#32] = .ok (.br none 1 2 0x1FFFD) 1 := by decide
theorem test_dec_loop : decode [0x0547FFFB#32] = .ok (.loop none 3 0x1FFFB) 1 := by decide
theorem test_dec_rep : decode [0x900400C3#32, 0x200A5307#32] = .ok (.rep 3 6 0 8 (.add .empty 3 5 5 6)) 2 := by decide
theorem test_dec_nop : decodeTableWord 32 0x06000000 = some .nop := by decide
theorem test_dec_csr : decode [0x06480000#32] = .ok (.csrr .empty 4 0) 1 ∧ decode [0x06805001#32] = .ok (.csrw .empty 5 1) 1 := by
  decide
theorem test_dec_amo : decode [0x0C485351#32] = .ok (.amo .empty 5 1 4 5 6) 1 := by decide
theorem test_dec_amo32 : decode [0x8C000001#32, 0x2C485341#32] = .ok (.amoI32 .empty 4 1 4 5 6) 2 := by decide
theorem test_dec_fence : decode [0x0D080009#32] = .ok (.fence .empty 4 9) 1 := by decide
theorem test_dec_barrier : decode [0x0D40A082#32] = .ok (.barArm .empty 0 2 10) 1 := by decide
theorem test_dec_tbw : decode [0x0E924000#32] = .ok (.tbw .empty 9 4 0) 1 := by decide
theorem test_dec_waitc : decode [0x4F000000#32, 0x00002000#32] = .ok (.waitc .empty 0 2 0 0) 2 := by decide
theorem test_dec_vfma : decode [0x84000001#32, 0xA8000008#32, 0x31085309#32] =
    .ok (.vfma ⟨none, some ⟨1, 0, 0⟩, some ⟨0, 1, 0, 0, 0, 0, 0, 0⟩⟩ 0 9 4 5 6) 3 := by decide
theorem test_dec_liLong : decode [0x80000123#32, 0x61CE0000#32, 0x456789AB#32] =
    .ok (.liLong ⟨some 0x123, none, none⟩ 7 0x456789AB) 3 := by decide
theorem test_dec_vadd : decode [0x8400000F#32, 0x300642A1#32] = .ok (.vadd ⟨none, some ⟨7, 1, 0⟩, none⟩ 2 1 3 4 5) 2 := by decide
theorem test_dec_vcmp : decode [0x53C64299#32, 0x00000002#32] = .ok (.vcmp .empty 1 9 2 3 4 5 0) 2 := by decide
theorem test_dec_vcvt : decode [0x544C400B#32, 0x00000089#32] = .ok (.vcvt .empty 0 11 6 4 1 0 9) 2 := by decide
theorem test_dec_vred : decode [0x15C85009#32] = .ok (.vred .empty 0 9 4 5 0) 1 := by decide
theorem test_dec_fadd : decode [0x17885309#32] = .ok (.fadd .empty 9 4 5 6) 1 := by decide
theorem test_dec_ffma : decode [0x57C85300#32, 0x00000078#32] = .ok (.ffma .empty 8 4 5 6 0 7) 2 := by decide
theorem test_dec_trap : decode [0x1DC00280#32] = .ok (.trap .empty 5) 1 ∧ decode [0x1DC05009#32] = .ok (.eret .empty 5 1) 1 ∧
    decode [0x1DC05063#32] = .ok (.tlbi .empty 4 5 0 1) 1 := by decide
theorem test_dec_exit : decode [0x1B800000#32] = .ok (.exit .empty) 1 := by decide
/-- A reserved kind, a chain bit where none is due, a prefix out of order, a code point that is no instruction (R270). -/
theorem test_dec_refused : decode [0xC0000000#32] = .trap 1 0 1 ∧ decode [0x20085306#32] = .trap 2 0 1 ∧
    decode [0x84000001#32, 0xA0000000#32, 0x20085306#32] = .trap 2 1 2 ∧ decode [0x1FC00000#32] = .trap 1 0 1 := by decide
/-- The predicate instructions at the limits of their fields: 7 is accepted, 8 refused with cause 1, a nonzero fn[6:2]
with cause 0 (R299). -/
theorem test_dec_predicates : decode [0x030E7380#32] = .ok (.pand .empty 7 7 7) 1 ∧ decode [0x03107380#32] = .trap 1 1 1 ∧
    decode [0x030E8380#32] = .trap 1 1 1 ∧ decode [0x030E7400#32] = .trap 1 1 1 ∧ decode [0x030E7384#32] = .trap 1 0 1 ∧
    decode [0x030E7383#32] = .trap 1 0 1 ∧ decode [0x030E7003#32] = .ok (.pnot .empty 7 7) 1 := by decide

/-! ### Scalar instructions -/

/-- ADD.i32 wraps and sign-extends; SUB.i8; MULH.i64 of -1 and 1 is -1, MULHU of all ones squared is 2^64 - 2 (R289). -/
theorem test_add_sub_mul :
    one (.add .empty 2 1 2 3) 0xFFFFFFFF80000000 (sreg 2 0x7FFFFFFF (sreg 3 1 start)) = true ∧
    one (.sub .empty 0 1 2 3) 0xFFFFFFFFFFFFFFFF (sreg 2 0 (sreg 3 1 start)) = true ∧
    one (.mul .empty 3 1 2 3) 42 (sreg 2 6 (sreg 3 7 start)) = true ∧
    one (.mulh .empty 3 1 2 3) 0xFFFFFFFFFFFFFFFF (sreg 2 (-1) (sreg 3 1 start)) = true ∧
    one (.mulhu .empty 3 1 2 3) 0xFFFFFFFFFFFFFFFE (sreg 2 (-1) (sreg 3 (-1) start)) = true := by decide
/-- -7 / 2 = -3 remainder -1; by zero; the least value by -1 (R235). -/
theorem test_division :
    one (.div .empty 3 1 2 3) (-3) (sreg 2 (-7) (sreg 3 2 start)) = true ∧
    one (.rem .empty 3 1 2 3) (-1) (sreg 2 (-7) (sreg 3 2 start)) = true ∧
    one (.divu .empty 0 1 2 3) 0xFF (sreg 2 5 start) = true ∧ one (.remu .empty 0 1 2 3) 5 (sreg 2 5 start) = true ∧
    one (.div .empty 3 1 2 3) 0x8000000000000000 (sreg 2 0x8000000000000000 (sreg 3 (-1) start)) = true ∧
    one (.rem .empty 3 1 2 3) 0 (sreg 2 0x8000000000000000 (sreg 3 (-1) start)) = true := by decide
/-- The six bitwise operations of 12 and 10 (R289). -/
theorem test_bitwise :
    one (.and .empty 3 1 2 3) 8 (sreg 2 12 (sreg 3 10 start)) = true ∧ one (.or .empty 3 1 2 3) 14 (sreg 2 12 (sreg 3 10 start)) = true ∧
    one (.xor .empty 3 1 2 3) 6 (sreg 2 12 (sreg 3 10 start)) = true ∧ one (.andn .empty 3 1 2 3) 4 (sreg 2 12 (sreg 3 10 start)) = true ∧
    one (.orn .empty 3 1 2 3) (-3) (sreg 2 12 (sreg 3 10 start)) = true ∧
    one (.xnor .empty 3 1 2 3) (-7) (sreg 2 12 (sreg 3 10 start)) = true := by decide
/-- A shift counts modulo the width: 65 on i64 shifts by 1, 9 on i8 by 1 (R289). -/
theorem test_shifts :
    one (.shl .empty 3 1 2 3) 6 (sreg 2 3 (sreg 3 65 start)) = true ∧ one (.shl .empty 0 1 2 3) 0 (sreg 2 0x80 (sreg 3 9 start)) = true ∧
    one (.shr .empty 2 1 2 3) 0x40000000 (sreg 2 0x80000000 (sreg 3 1 start)) = true ∧
    one (.sar .empty 2 1 2 3) 0xFFFFFFFFC0000000 (sreg 2 0x80000000 (sreg 3 1 start)) = true ∧
    one (.rot .empty 0 1 2 3) 0xFFFFFFFFFFFFFF81 (sreg 2 0xC0 (sreg 3 1 start)) = true := by decide
/-- Signed and unsigned order of 0xFF and 1 in 8 bits (R289). -/
theorem test_minmax :
    one (.min .empty 0 1 2 3) (-1) (sreg 2 0xFF (sreg 3 1 start)) = true ∧ one (.max .empty 0 1 2 3) 1 (sreg 2 0xFF (sreg 3 1 start)) = true ∧
    one (.minu .empty 0 1 2 3) 1 (sreg 2 0xFF (sreg 3 1 start)) = true ∧ one (.maxu .empty 0 1 2 3) 0xFF (sreg 2 0xFF (sreg 3 1 start)) = true := by
  decide
/-- Signed saturation clamps 127 + 1 to 127, unsigned 0 - 1 to 0 (R234). -/
theorem test_saturation :
    one (.add (sat 1) 0 1 2 3) 127 (sreg 2 127 (sreg 3 1 start)) = true ∧ one (.sub (sat 2) 0 1 2 3) 0 (sreg 3 1 start) = true := by decide
/-- The immediate form sign-extends; a type-0 prefix supplies the bits above (R266, R288). -/
theorem test_immediates :
    one (.addImm .empty 3 1 2 0xFFFFFFFF) 4 (sreg 2 5 start) = true ∧ one (.addi .empty 1 2 0xFFF) 4 (sreg 2 5 start) = true ∧
    one (.li .empty 1 0x7F) (-1) start = true ∧ one (.liLong ⟨some 1, none, none⟩ 1 2) 0x100000002 start = true ∧
    one (.lih 1 1 0x12345678) 0x1234567800000009 (sreg 1 0xFFFFFFFF00000009 start) = true := by decide
/-- Funnel shifts, counts, reversals, fields (R292 to R295). -/
theorem test_bits :
    one (.fshl .empty 1 2 3 4) 0x1F (sreg 2 1 (sreg 3 0xF000000000000000 start)) = true ∧
    one (.fshr .empty 1 2 3 4) 0x1000000000000000 (sreg 2 1 start) = true ∧
    one (.clz .empty 2 1 2) 31 (sreg 2 1 start) = true ∧ one (.ctz .empty 1 1 2) 16 start = true ∧
    one (.popc .empty 3 1 2) 64 (sreg 2 (-1) start) = true ∧ one (.bswap .empty 1 1 2) 0x3412 (sreg 2 0x1234 start) = true ∧
    one (.bfx .empty 1 2 4 4) (-1) (sreg 2 0xF0 start) = true ∧ one (.bfxu .empty 1 2 4 4) 15 (sreg 2 0xF0 start) = true ∧
    one (.bfi .empty 1 2 4 4) 0x5A5 (sreg 1 0x555 (sreg 2 0xA start)) = true ∧
    one (.logt .empty 1 2 3 4 0x96) 6 (sreg 2 5 (sreg 3 3 start)) = true := by decide
/-- Address arithmetic keeps the tag byte and wraps in 56 bits (R300). -/
theorem test_addresses :
    one (.lea .empty 1 2 3 1) 0xAB00000000000003 (sreg 2 0xAB00000000000001 (sreg 3 1 start)) = true ∧
    one (.addp .empty 1 2 3 3) 0xAB00000000000007 (sreg 2 0xABFFFFFFFFFFFFFF (sreg 3 1 start)) = true ∧
    one (.tagsImm .empty 1 2 5) 0x0500000000000001 (sreg 2 0x0F00000000000001 start) = true := by decide
/-- s0 reads zero and a write to it is discarded (R272). -/
theorem test_s0 : ends (.addi .empty 0 0 7) 0x10004#56 start (fun t => readS k 0 t == 0#64 && fullBit k 0 t) = true := by decide
/-- Compares and SEL; p0 reads all ones (R272, R298, R299). -/
theorem test_predicates :
    ends (.cmp .empty 2 3 1 2 3) 0x10004#56 (sreg 2 (-1) start) (fun t => readP k 1 t == 0xFFFFFFFF#32) = true ∧
    ends (.cmp .empty 4 3 1 2 3) 0x10004#56 (sreg 2 (-1) start) (fun t => readP k 1 t == 0#32) = true ∧
    ends (.pnot .empty 1 0) 0x10004#56 start (fun t => readP k 1 t == 0#32) = true ∧
    one (.sel .empty 1 2 3 0 0) 5 (sreg 2 5 start) = true := by decide
/-- A synchronised source reads a full register and empties it, and stalls with hold 2 on an empty one (R194, R195). -/
theorem test_synchronised :
    let i : Instr := .add ⟨none, none, some ⟨0, 1, 0, 0, 0, 0, 0, 0⟩⟩ 3 1 2 3
    ends i 0x10004#56 (sreg 2 5 start) (fun t => readS k 1 t == 5#64 && !fullBit k 2 t) = true ∧
    stalls i 2 (empt 2 start) = true := by decide

/-! ### Control transfers -/

/-- Branch taken, not taken, negated; jump back one word; JL links; LOOP at 2, 1 and 0 (R301, R302). -/
theorem test_branches :
    ends (.br none 0 0 3) 0x1000C#56 start (fun _ => true) = true ∧ ends (.br none 1 0 3) 0x10004#56 start (fun _ => true) = true ∧
    ends (.j none 0x1FFFF) 0xFFFC#56 start (fun _ => true) = true ∧
    ends (.jl none 1 2) 0x10008#56 start (fun t => readS k 1 t == 0x10004#64) = true ∧
    ends (.loop none 1 0x1FFFF) 0xFFFC#56 (sreg 1 2 start) (fun t => readS k 1 t == 1#64) = true ∧
    ends (.loop none 1 0x1FFFF) 0x10004#56 (sreg 1 1 start) (fun t => readS k 1 t == 0#64) = true ∧
    ends (.loop none 1 0x1FFFF) 0x10004#56 start (fun t => readS k 1 t == 0#64) = true := by decide
/-- RET to a register, and its misalignment (R261, R301). -/
theorem test_ret : ends (.ret 2) 0x20000#56 (sreg 2 0x20000 start) (fun _ => true) = true ∧
    traps (.ret 2) 4 0 (sreg 2 0x20002 start) = true := by decide

/-! ### What meets the hypotheses: scalar statements and control transfers -/

theorem witness_ResultsAndConditions : (scalarValue (.add .empty 3 1 2 3)).isSome = true ∧ runs (.add .empty 3 1 2 3) start = true ∧
    (predValue (.cmp .empty 0 3 1 2 3)).isSome = true ∧ runs (.cmp .empty 0 3 1 2 3) start = true := by decide
theorem witness_PredicateRule : runs (.pand .empty 7 1 7) start = true ∧ runs (.por .empty 7 1 7) start = true ∧
    runs (.pxor .empty 0 1 7) start = true ∧ runs (.pnot .empty 7 7) start = true := by decide
theorem witness_PredicateRule_fields : (8 ≤ (8#5).toNat ∧ (7#5).toNat < 8) ∧ (31#5 : BitVec 5) ≠ 0#5 ∧ (1#5 : BitVec 5) ≠ 0#5 := by decide
theorem witness_RegisterInstructionsFrame : computes (.vadd .empty 0 9 1 2 3) = true ∧ runs (.vadd .empty 0 9 1 2 3) start = true ∧
    computes (.add .empty 3 0 2 3) = true ∧ runs (.add .empty 3 0 2 3) start = true := by decide
theorem witness_IntegerAndBitOperations : (1 ≤ 64 ∧ 0 + 64 ≤ 64 ∧ 63 < 64) ∧ (1 ≤ 1 ∧ 63 + 1 ≤ 64 ∧ 0 < 64) ∧ 7 < widthOf 0 := by decide
theorem witness_SaturationAndIntegerLanes : (6 ∈ [0, 1, 2, 4, 5, 6] ∧ 2 ^ 32 - 1 < 2 ^ tyBits 6) ∧
    (23 ≠ 1 ∧ 23 ≠ 2 ∧ 23 ≠ 3 ∧ 23 ≠ 6 ∧ 23 ≠ 16 ∧ 2 < 3) := by decide
theorem witness_DivisionRule : ((255#64 : Word).setWidth (widthOf 0) ≠ 0 ∧ (255#64 : Word).setWidth (widthOf 0) ≠ 0) ∧
    (256#64 : Word).setWidth (widthOf 0) = 0 ∧
    (((0x80#64 : Word).setWidth (widthOf 0) : BitVec (widthOf 0)).toInt = -(2 ^ (widthOf 0 - 1)) ∧
      ((255#64 : Word).setWidth (widthOf 0) : BitVec (widthOf 0)).toInt = -1) ∧
    divides (.div .empty 3 1 2 3) = true ∧ (scalarValue (.div .empty 3 1 2 3)).isSome = true ∧
    runs (.div .empty 3 1 2 3) (sreg 2 1 start) = true := by decide
theorem witness_BranchesAndTargets : (branchForm (.br none 0 7 3)).isSome = true ∧ runs (.br none 0 7 3) start = true ∧
    (linkForm (.jl none 1 2)).isSome = true ∧ runs (.jl none 1 2) start = true := by decide
theorem witness_BranchesAndTargets_register : (registerForm (.jlr none 1 2 0)).isSome = true ∧
    runs (.jlr none 1 2 0) (sreg 2 4 start) = true ∧ (srcS (.jlr none 1 2 0) .a (sreg 2 4 start)).toNat % 4 = 0 ∧
    runs (.jlr none 1 2 0) (sreg 2 3 start) = true ∧ (srcS (.jlr none 1 2 0) .a (sreg 2 3 start)).toNat % 4 ≠ 0 := by decide
theorem witness_LoopRule : (loopForm (.loop none 1 9)).isSome = true ∧ runs (.loop none 1 9) start = true ∧ readS k 1 start = 0#64 ∧
    runs (.loop none 1 9) (sreg 1 1 start) = true ∧ readS k 1 (sreg 1 1 start) ≠ 0#64 := by decide
theorem witness_NopDoesNothing : runs .nop start = true := by decide

/-! ### Floating scalars, control registers, vectors -/

/-- A vector of 32-bit lanes, lane 0 first; zero above. -/
def lanes32 (l : List Nat) : Vec := BitVec.ofNat 1024 (ofLanes 32 l)
/-- Lane j of 32 bits of v1 after the instruction. -/
def lane (i : Instr) (j v : Nat) (s : State) : Bool := ends i 0x10004#56 s (fun t => laneAt 32 (readV k 1 t).toNat j == v)

/-- 1.5 + 2 = 3.5; 1 / 0 = infinity with the division flag, FCSR bit 5 + 3; sqrt 4 = 2; 3 < 4 (R244, R248, R249, R362). -/
theorem test_float :
    one (.fadd .empty 9 1 2 3) 0x40600000 (sreg 2 0x3FC00000 (sreg 3 0x40000000 start)) = true ∧
    one (.fmul .empty 9 1 2 3) 0x40400000 (sreg 2 0x3FC00000 (sreg 3 0x40000000 start)) = true ∧
    one (.fdiv .empty 9 1 2 3) 0x7F800000 (sreg 2 0x3F800000 start) = true ∧
    one (.fsqrt .empty 9 1 2) 0x40000000 (sreg 2 0x40800000 start) = true ∧
    one (.fsub .empty 8 1 2 3) 0xBFF0000000000000 (sreg 3 0x3FF0000000000000 start) = true ∧
    one (.fmin .empty 9 1 2 3) 0x40400000 (sreg 2 0x40400000 (sreg 3 0x40800000 start)) = true ∧
    one (.fclass .empty 9 1 2) 16 start = true := by decide
/-- Integer 3 to f32, and -1.5 to i32 toward zero under mode 1 (R350, R365). -/
theorem test_fcvt : one (.fcvt .empty 1 2 9 2) 0x40400000 (sreg 2 3 start) = true ∧
    one (.fcvt ⟨none, some ⟨2, 0, 0⟩, none⟩ 1 2 2 9) (-1) (sreg 2 0xBFC00000 start) = true := by decide
/-- RNGSEED reads 1 at the start and never becomes 0 (R247); CSRX exchanges (R307). -/
theorem test_csr : one (.csrr .empty 1 1) 1 start = true ∧
    ends (.csrw .empty 2 1) 0x10004#56 start (fun t => rngOf 0 t == 1#32) = true ∧
    ends (.csrx .empty 1 2 1) 0x10004#56 (sreg 2 9 start) (fun t => rngOf 0 t == 9#32 && readS k 1 t == 1#64) = true ∧
    traps (.csrr .empty 1 0x102) 3 1 (field 1 8 2 0 start) = true := by decide
/-- Lanes add and wrap; an inactive lane keeps the old value; shift, permute, broadcast, lane moves (R339 to R354). -/
theorem test_lanes :
    lane (.vadd .empty 0 2 1 2 3) 1 4 (vreg 2 (lanes32 [7, 5]) (vreg 3 (lanes32 [1, 0xFFFFFFFF]) start)) = true ∧
    lane (.vadd .empty 1 2 1 2 3) 1 9 (preg 1 1 (vreg 1 (lanes32 [9, 9]) start)) = true ∧
    lane (.vmul .empty 0 2 1 2 3) 0 42 (vreg 2 (lanes32 [6]) (vreg 3 (lanes32 [7]) start)) = true ∧
    lane (.vshl .empty 0 2 1 2 3) 0 12 (vreg 2 (lanes32 [3]) (vreg 3 (lanes32 [2]) start)) = true ∧
    lane (.vbcst .empty 0 2 1 2) 31 5 (sreg 2 5 start) = true ∧
    lane (.vperm .empty 0 2 1 2 3) 0 8 (vreg 2 (lanes32 [7, 8]) (vreg 3 (lanes32 [1]) start)) = true ∧
    lane (.vmovsToLane .empty 2 1 2 3) 2 6 (sreg 2 6 (sreg 3 2 start)) = true ∧
    one (.vmovsToScalar .empty 2 1 2 3) (-2) (vreg 2 (lanes32 [1, 0xFFFFFFFE]) (sreg 3 1 start)) = true := by decide
/-- Floating lanes: 1.5 * 2 + 1 = 4 fused into the old destination (R343). -/
theorem test_vfma : lane (.vfma .empty 0 9 1 2 3) 0 0x40800000
    (vreg 1 (lanes32 [0x3F800000]) (vreg 2 (lanes32 [0x3FC00000]) (vreg 3 (lanes32 [0x40000000]) start))) = true := by decide
/-- Compare into a predicate, select by one, reduce and scan by addition (R348, R349, R355, R356). -/
theorem test_vector_predicates :
    ends (.vcmp .empty 0 2 0 1 2 3 0) 0x10004#56 (vreg 2 (lanes32 [1, 2]) (vreg 3 (lanes32 [1, 3]) start))
      (fun t => (readP k 1 t).getLsbD 0 && !(readP k 1 t).getLsbD 1) = true ∧
    lane (.vsel .empty 1 2 1 2 3) 1 6 (preg 1 1 (vreg 2 (lanes32 [5, 5]) (vreg 3 (lanes32 [6, 6]) start))) = true ∧
    one (.vred .empty 0 2 1 2 0) 9 (vreg 2 (lanes32 [4, 5]) start) = true ∧
    lane (.vscan .empty 0 2 1 2 0) 1 9 (vreg 2 (lanes32 [4, 5]) start) = true := by decide

theorem witness_FloatScalarResult : (floatValue (.fadd .empty 9 1 2 3)).isSome = true ∧ runs (.fadd .empty 9 1 2 3) start = true := by decide
theorem witness_ControlRegisters : runs (.csrr .empty 1 0x010) start = true ∧
    hdrDmode (cur start) start = false ∧ runs (.csrw .empty 2 1) start = true ∧ runs (.csrx .empty 1 2 0x102) start = true := by decide
theorem witness_ControlRegisters_level : judged (.csrr .empty 1 0x100) (field 1 8 2 0 start) = true ∧
    judged (.csrx .empty 1 2 0x102) (field 1 8 2 0 start) = true ∧ hdrPriv k (field 1 8 2 0 start) = 0 ∧
    (operands (.csrr .empty 1 0x100)).p.notag = false := by decide
theorem witness_LanewiseResult : (laneForm (.vadd .empty 7 9 1 2 3)).isSome = true ∧ runs (.vadd .empty 7 9 1 2 3) start = true := by decide
theorem witness_VectorCompareAndSelect : runs (.vcmp .empty 7 9 2 3 4 5 0) start = true ∧ runs (.fcmp .empty 2 9 1 2 3) start = true ∧
    runs (.vsel .empty 1 2 1 2 3) start = true ∧ runs (.vmovsToLane .empty 2 1 2 3) start = true := by decide
/-- Stream register 4 bound outbound to memory, elements of 8 bytes, nothing buffered. -/
def bound : State := setStream k 4 { streamZero with desc := BitVec.ofNat 512 (1 * 2 ^ 464 + 3 * 2 ^ 466) } start
theorem witness_VectorConvertAndQuantise : runs (.vcvt .empty 0 11 6 4 1 0 9) start = true ∧ runs (.vqnt .empty 0 12 1 2 3) start = true ∧
    ¬(clsOf (.vqnt .empty 0 12 1 2 3) .d = 1#2) ∧ runs (.vqnt (cls 1 0 1) 0 15 4 2 4) bound = true ∧
    clsOf (.vqnt (cls 1 0 1) 0 15 4 2 4) .d = 1#2 ∧ clsOf (.vqnt (cls 1 0 1) 0 15 4 2 4) .b = 1#2 := by decide
theorem witness_ReductionsAndScans : runs (.vred .empty 7 2 1 2 0) start = true ∧ runs (.vred .empty 7 9 1 2 0) start = true ∧
    runs (.vscan .empty 0 6 1 2 0) start = true ∧ runs (.vscan .empty 0 9 1 2 0) start = true := by decide

/-! ### Accesses -/

/-- A page of the hypervisor at 0x20000, readable, writable and executable, over physical address 0 (R153). -/
def mapped (s : State) : State := setCore 0 { coreAt 0 s with tlb := [⟨0#7, 0x20000#56, 16, 0x3F#64⟩] } s
/-- The strand's request of a kind, answered with a value. -/
def answered (kind : BitVec 4) (v : BitVec 256) (s : State) : State :=
  let r : Req := { reqZero with ctx := 0x2000#56, grp := 7, size := 8, value := v, status := 0#8, arrived := true }
  mine (fun t => { t with wait := .answered 7 v 0 }) (setReq 5 { r with kind := kind } s)
/-- The strand has an earlier load open at physical address 0. -/
def open_ (s : State) : State := setReq 5 { reqZero with ctx := 0x2000#56, grp := 7, size := 8 } s
/-- Eight bytes of the scratchpad. -/
def put8 (o v : Nat) (s : State) : State := spadWrite 0 o (toBytes 8 v) s

/-- Loads extend and step their base; stores write their bytes only, at the last eight of the scratchpad (R308 to R311). -/
theorem test_scratchpad :
    one (.ld .empty 0 0 0 1 2 3) (-1) (put8 0 0xFF000000 (sreg 2 (pad 0) start)) = true ∧
    one (.ld .empty 0 1 0 1 2 3) 0xFF (put8 0 0xFF000000 (sreg 2 (pad 0) start)) = true ∧
    ends (.ld .empty 1 0 3 1 2 8) 0x10004#56 (put8 0 5 (sreg 2 (pad 0) start))
      (fun t => readS k 1 t == 5#64 && readS k 2 t == pad 8) = true ∧
    ends (.st .empty 0 2 1 2 0) 0x10004#56 (sreg 1 0x123456789 (sreg 2 (pad 0x1FFFF8) start))
      (fun t => spadVal 0 0x1FFFF8 8 t == 0x23456789) = true ∧
    ends (.stv .empty 0 1 2 0) 0x10004#56 (vreg 1 (lanes32 [3, 4]) (sreg 2 (pad 0) start))
      (fun t => spadVal 0 4 4 t == 4) = true ∧
    traps (.ld .empty 0 0 2 1 2 0) 4 0 (sreg 2 (pad 2) start) = true := by decide
/-- A load of memory retires with its register pending and its request out; a page not mapped is walked (R152, R194). -/
theorem test_memory :
    ends (.ld .empty 0 0 3 1 2 0) 0x10004#56 (mapped (sreg 2 0x20008 start))
      (fun t => (strandAt k t).pending == [1] && (strandAt k t).loads == 1 && t.reqs.length == 1) = true ∧
    gives (.ld .empty 0 0 3 1 2 0) (sreg 2 0x20008 start) (fun t => !t.issue.retired && t.walks.length == 1) = true ∧
    traps (.ld .empty 0 0 3 1 2 0) 7 1 (sreg 2 0x1000000000000000 start) = true := by decide
/-- A gather keeps its inactive lanes; a bounded load checks its index (R312, R314). -/
theorem test_gather_bounded :
    lane (.ldg .empty 1 2 1 2 3) 0 5 (preg 1 1 (put8 16 5 (sreg 2 (pad 0) (vreg 3 (lanes32 [16, 3]) start)))) = true ∧
    lane (.ldg .empty 1 2 1 2 3) 1 9 (preg 1 1 (vreg 1 (lanes32 [9, 9]) (sreg 2 (pad 0) start))) = true ∧
    one (.ldb .empty 0 1 2 4) 5 (put8 8 5 (sreg 2 (pad 0) (sreg 3 (BitVec.ofNat 64 (2 + 8 * 2 ^ 40 + 3 * 2 ^ 56)) (sreg 4 1 start)))) = true ∧
    traps (.ldb .empty 0 1 2 4) 6 0 (sreg 2 (pad 0) (sreg 3 (BitVec.ofNat 64 (2 + 8 * 2 ^ 40 + 3 * 2 ^ 56)) (sreg 4 2 start))) = true := by
  decide
/-- LDE empties its word, a second stalls; STF of a full word stalls; FEW and FER (R316 to R319). -/
theorem test_full_empty :
    ends (.lde .empty 1 2 0) 0x10004#56 (put8 0 5 (sreg 2 (pad 0) start)) (fun t => readS k 1 t == 5#64 && !spadFull 0 0 t) = true ∧
    stalls (.lde .empty 1 2 0) 2 (setSpadFull 0 0 false (sreg 2 (pad 0) start)) = true ∧
    stalls (.stf .empty 1 2 0) 2 (sreg 2 (pad 0) start) = true ∧
    ends (.few .empty 1 2 0) 0x10004#56 (setSpadFull 0 0 false (sreg 1 7 (sreg 2 (pad 0) start)))
      (fun t => spadVal 0 0 8 t == 7 && spadFull 0 0 t) = true ∧
    one (.fer .empty 1 2 0) 5 (put8 0 5 (sreg 2 (pad 0) start)) = true := by decide
/-- An atomic gives the old value; a compare writes on a match only; 32 bits sign-extend (R323 to R325). -/
theorem test_atomics :
    ends (.amo .empty 5 1 1 2 3) 0x10004#56 (put8 0 5 (sreg 2 (pad 0) (sreg 3 6 start)))
      (fun t => readS k 1 t == 5#64 && spadVal 0 0 8 t == 11) = true ∧
    ends (.cas .empty 5 1 2 3) 0x10004#56 (put8 0 5 (sreg 1 5 (sreg 2 (pad 0) (sreg 3 6 start)))) (fun t => spadVal 0 0 8 t == 6) = true ∧
    ends (.cas .empty 5 1 2 3) 0x10004#56 (put8 0 5 (sreg 1 4 (sreg 2 (pad 0) (sreg 3 6 start)))) (fun t => spadVal 0 0 8 t == 5) = true ∧
    ends (.amoI32 .empty 5 0 1 2 3) 0x10004#56 (put8 0 0x1FFFFFFFF (sreg 2 (pad 0) start))
      (fun t => readS k 1 t == 0xFFFFFFFFFFFFFFFF#64 && spadVal 0 0 8 t == 0x100000000) = true := by decide

theorem witness_ScratchpadLoadsAndStores :
    let s := sreg 2 (pad 0) start
    (loadForm (.ld .empty 1 0 3 1 2 8)).isSome = true ∧ runs (.ld .empty 1 0 3 1 2 8) s = true ∧
    ToPad ⟨8, 8, .read, false, true⟩ (srcS (.ld .empty 1 0 3 1 2 8) .a s) 0 s ∧ spadErrAt s.issue.core 0 8 s = false :=
  ⟨by decide, by decide, toPad (by decide) (by decide), by decide⟩
theorem witness_ScratchpadLoadsAndStores_vector :
    let s := sreg 2 (pad 0x1FFF80) start
    (vectorLoadForm (.ldv .empty 0 1 2 0)).isSome = true ∧ runs (.ldv .empty 0 1 2 0) s = true ∧
    ToPad ⟨128, 128, .read, false, true⟩ (pad 0x1FFF80) 0x1FFF80 s ∧ spadErrAt s.issue.core 0x1FFF80 128 s = false :=
  ⟨by decide, by decide, toPad (by decide) (by decide), by decide⟩
theorem witness_ScratchpadLoadsAndStores_store :
    let s := sreg 2 (pad 0x1FFFF8) start
    (storeForm (.stl .empty 5 3 1 2 0)).isSome = true ∧ runs (.stl .empty 5 3 1 2 0) s = true ∧ Memory.wf s.spad = true ∧
    ToPad ⟨8, 8, .write, false, true⟩ (pad 0x1FFFF8) 0x1FFFF8 s ∧ domainBusy (cur s) 5 true true s = false :=
  ⟨by decide, by decide, by decide, toPad (by decide) (by decide), by decide⟩
theorem witness_MemoryLoadsAndStores :
    let s := mapped (sreg 2 0x2FFF8 start)
    runs (.ld .empty 0 0 3 1 2 0) s = true ∧ ToMemory true ⟨8, 8, .read, false, true⟩ 0x2FFF8#64 0xFFF8 false s ∧
    mustWait (.ld .empty 0 0 3 1 2 0) s = false ∧ runs (.st .empty 0 3 1 2 0) s = true ∧
    ToMemory false ⟨8, 8, .write, false, true⟩ 0x2FFF8#64 0xFFF8 false s :=
  ⟨by decide, ⟨by decide, checkMem (by decide), by decide, by decide, by decide⟩, by decide, by decide,
    ⟨by decide, checkMem (by decide), by decide, by decide, by decide⟩⟩
theorem witness_MemoryLoadsAndStores_answered :
    let s := answered 0 9 (sreg 2 0x20000 start)
    runs (.ld .empty 0 0 3 1 2 0) s = true ∧ Answered 7 s ∧ runs (.ldv .empty 0 1 2 0) s = true ∧
    runs (.stl .empty 5 3 1 2 0) (answered 1 0 (sreg 2 0x20000 start)) = true ∧ Answered 7 (answered 1 0 (sreg 2 0x20000 start)) ∧
    ∀ e ∈ groupReqs 7 (answered 1 0 (sreg 2 0x20000 start)), e.2.kind ≠ 4#4 :=
  ⟨by decide, ⟨by decide, by decide⟩, by decide, by decide, ⟨by decide, by decide⟩, by decide⟩
theorem witness_GatheredAndBoundedAccess :
    let s := preg 1 1 (sreg 2 (pad 0) (vreg 3 (lanes32 [0x1FFFFC]) start))
    runs (.ldg .empty 1 2 1 2 3) s = true ∧ runs (.stx .empty 1 2 1 2 3) s = true ∧ answer s = none ∧ Memory.wf s.spad = true ∧
    laneAddrs (.ldg .empty 1 2 1 2 3) 1 s = [(0, pad 0x1FFFFC)] ∧ laneAddrs (.stx .empty 1 2 1 2 3) 1 s = [(0, pad 0x1FFFFC)] ∧
    ToPad ⟨4, 4, .read, false, true⟩ (pad 0x1FFFFC) 0x1FFFFC s ∧ ToPad ⟨4, 4, .write, false, true⟩ (pad 0x1FFFFC) 0x1FFFFC s ∧
    spadErrAt s.issue.core 0x1FFFFC 4 s = false :=
  ⟨by decide, by decide, by decide, by decide, by decide, by decide, toPad (by decide) (by decide), toPad (by decide) (by decide), by decide⟩
theorem witness_GatheredAndBoundedAccess_bounded :
    let s := sreg 2 (pad 0) (sreg 3 (BitVec.ofNat 64 (2 + 8 * 2 ^ 40 + 3 * 2 ^ 56)) (sreg 4 1 start))
    runs (.ldb .empty 0 1 2 4) s = true ∧ runs (.stb .empty 1 2 4) s = true ∧
    boundsCheck (readS k 2 s) (readS k 3 s) (readS k 4 s) false = .ok (pad 8, 3) ∧
    boundsCheck (readS k 2 s) (readS k 3 s) (readS k 4 s) true = .ok (pad 8, 3) ∧
    boundsCheck (readS k 2 s) (readS k 3 s) 2 false = .error 0 ∧
    ToPad ⟨8, 8, .read, false, true⟩ (pad 8) 8 s ∧ ToPad ⟨8, 8, .write, false, true⟩ (pad 8) 8 s ∧ spadErrAt 0 8 8 s = false :=
  ⟨by decide, by decide, by rfl, by rfl, by rfl, toPad (by decide) (by decide), toPad (by decide) (by decide), by decide⟩
theorem witness_FullEmptyAccess :
    let s := sreg 2 (pad 0) start
    (fullEmptyForm (.lde .empty 1 2 0)).isSome = true ∧ runs (.lde .empty 1 2 0) s = true ∧ runs (.fer .empty 1 2 0) s = true ∧
    runs (.stf .empty 1 2 0) s = true ∧ runs (.few .empty 1 2 0) s = true ∧
    ToPad ⟨8, 8, .read, false, false⟩ (pad 0) 0 s ∧ ToPad ⟨8, 8, .write, false, false⟩ (pad 0) 0 s ∧
    spadFull 0 0 s = true ∧ domainBusy (cur s) (feScope .empty (pad 0) s) true true s = false ∧
    spadFull 0 0 (setSpadFull 0 0 false s) = false ∧ runs (.stf .empty 1 2 0) (setSpadFull 0 0 false s) = true :=
  ⟨by decide, by decide, by decide, by decide, by decide, toPad (by decide) (by decide), toPad (by decide) (by decide), by decide,
    by decide, by decide, by decide⟩
theorem witness_AtomicOperationsAndAccess :
    let s := put8 0 5 (sreg 2 (pad 0) start)
    (atomicForm (.amo .empty 5 1 1 2 3)).isSome = true ∧ runs (.amo .empty 5 1 1 2 3) s = true ∧ Memory.wf s.spad = true ∧
    ToPad ⟨8, 8, .both, false, false⟩ (srcS (.amo .empty 5 1 1 2 3) .a s) 0 s ∧ spadErrAt s.issue.core 0 8 s = false ∧
    domainBusy (cur s) 5 true true s = false ∧ hdrDmode (cur s) s = false ∧
    runs (.cas .empty 5 1 2 3) (sreg 1 5 s) = true ∧ spadVal 0 0 8 (sreg 1 5 s) = (readS k 1 (sreg 1 5 s)).toNat % 2 ^ 64 ∧
    runs (.cas .empty 5 1 2 3) s = true ∧ spadVal 0 0 8 s ≠ (readS k 1 s).toNat % 2 ^ 64 ∧
    runs (.casQ .empty 5 4 2 6) s = true ∧ ToPad ⟨16, 16, .both, false, false⟩ (pad 0) 0 s :=
  ⟨by decide, by decide, by decide, toPad (by decide) (by decide), by decide, by decide, by decide, by decide, by decide, by decide,
    by decide, by decide, toPad (by decide) (by decide)⟩

/-! ### Ordering, barriers, messages, engines, strands -/

/-- A page table entry that maps addresses 0 to 2 MiB to themselves for the hypervisor, and its translation cached. -/
def paged (s : State) : State :=
  setCore 0 { coreAt 0 s with tlb := [⟨0#7, 0#56, 21, 0x3F#64⟩] }
    (setHall 0 { hallAt 0 s with wcache := [⟨0#7, 2, 0, 0x100001#64⟩] } { s with mem := [(0x100000, 0x3F#8)] })
/-- Four strands of hall 0, core 0, records from 0x2000, four spawns, a lease policy. -/
def packet : Packet := BitVec.ofNat 1024 (3 * 2 ^ 64 + 2 ^ 168 + 2 ^ 181 + 0x2000 * 2 ^ 192 + 2 ^ 254 + 4 * 2 ^ 970)
def alaunch : Launch := ⟨0#7, 0, 0#32, packet, [0], [0], [], [], 0, 1, 0, 0, 0, false, false, [], []⟩
def launched (s : State) : State := setLaunch 1 alaunch (mine (fun t => { t with launch := 1 }) s)
/-- A message of index 2 to the strand, in core 0's buffer. -/
def mailed (s : State) : State := setCore 0 { coreAt 0 s with msgs := [⟨1, 2, 0, 0, 9#64⟩] } (launched s)
/-- Barrier 0 of a level armed with a count. -/
def armed (level : BitVec 3) (n : Nat) (s : State) : State :=
  setBarrier (curBarrier 0 level s) { barrierZero with armed := true, initial := n, pending := n, phase := 3 } s
/-- A structure is read, a word of one written, in the scratchpad. -/
theorem padRead {a : Word} {n off : Nat} {s : State} (h : check ⟨n, n, .read, true, true⟩ a s = .pad off)
    (he : spadErrAt s.issue.core off n s = false) :
    StructRead a n s (spadVal s.issue.core off n s) (raceNote (cur s) s.issue.core off n false s) :=
  .inl ⟨off, h, he, rfl, rfl⟩
theorem padPut {a : Word} {v off : Nat} {s : State} (h : check ⟨8, 8, .write, true, true⟩ a s = .pad off) :
    StructWritten a v s (raceNote (cur s) s.issue.core off 8 true
      (dirtyWindows s.issue.core off 8 (spadWrite s.issue.core off (toBytes 8 v) s))) := .inl ⟨off, h, rfl⟩
theorem isPad {r : Rules} {a : Word} {s : State} {o : Nat}
    (h : (match check r a s with | .pad x => x == o | _ => false) = true) : check r a s = .pad o := by
  split at h
  · next x e => rw [e, eq_of_beq h]
  · cases h
/-- An operation that may fail did not. -/
def isOk {ε α : Type} : Except ε α → Bool | .ok _ => true | .error _ => false

/-- A fence waits behind an open access of its kind and passes one of another (R327, R328). -/
theorem test_fence : gives (.fence .empty 5 1) (open_ start) (fun t => !t.issue.retired) = true ∧
    ends (.fence .empty 5 4) 0x10004#56 (open_ start) (fun _ => true) = true := by decide
/-- WAITC within its limits and beyond them (R333). -/
theorem test_waitc : ends (.waitc .empty 0 0 0 0) 0x10004#56 start (fun _ => true) = true ∧
    stalls (.waitc .empty 0 0 0 0) 3 (mine (fun t => { t with loads := 1 }) start) = true := by decide
/-- The last arrival moves the phase and reloads the count; a token of the phase waits (R90, R330). -/
theorem test_level_barrier :
    ends (.barArm .empty 0 4 2) 0x10004#56 (sreg 2 2 start) (fun t => (barrierAt (curBarrier 0 4 start) t).pending == 2) = true ∧
    ends (.bara .empty 0 4 1) 0x10004#56 (armed 4 1 start)
      (fun t => readS k 1 t == 3#64 && (barrierAt (curBarrier 0 4 start) t).phase == 4#4) = true ∧
    stalls (.barw .empty 0 4 2) 4 (armed 4 1 (sreg 2 3 start)) = true ∧ traps (.bar .empty 0 4) 3 3 start = true := by decide
/-- A transaction barrier of one arrival: TBA gives the old phase and says it ended; TBT finds it gone (R331, R332). -/
theorem test_transaction_barrier :
    ends (.tbi .empty 2 3) 0x10004#56 (sreg 2 (pad 0) (sreg 3 1 start)) (fun t => spadVal 0 0 16 t != 0) = true ∧
    one (.tba .empty 1 2 3) 16 (spadWrite 0 0 (toBytes 16 (tbInit 1).toNat) (sreg 2 (pad 0) (sreg 3 1 start))) = true := by decide
/-- A message is taken with its sender; without one the strand stalls (R335). -/
theorem test_messages : ends (.mrcv .empty 1 2) 0x10004#56 (mailed start)
      (fun t => readS k 1 t == 9#64 && readS k 2 t == 2#64 && (coreAt 0 t).msgs == []) = true ∧
    stalls (.mrcv .empty 1 2) 2 (launched start) = true := by decide
/-- FILL of the strand's own s4: full bit and value (R336). -/
theorem test_fill : ends (.fill .empty 4 2 3 1 0) 0x10004#56 (paged (sreg 2 0x2000 (sreg 3 7 start)))
    (fun t => readS k 4 t == 7#64 && fullBit k 4 t) = true := by decide
/-- RBIND, RLOOK, REVICT, RINV of a window of 256 bytes (R161, R376 to R378); the codebook (R375). -/
def windowed (st : BitVec 2) (s : State) : State :=
  setWindow 0 1 ⟨0, 8, st, false, true, 0x20000#56, 0#56, 0#56, 0#7, false, [], false⟩ s
theorem test_windows :
    ends (.rbind .empty 1 2 3) 0x10004#56 (sreg 1 (BitVec.ofNat 64 (1 + 8 * 2 ^ 19)) (sreg 2 0x20000 start))
      (fun t => readS k 1 t == 0#64 && (windowAt 0 1 t).bound) = true ∧
    one (.rlook .empty 1 2) 0x81 (windowed 2 (sreg 2 0x200FF start)) = true ∧ one (.rlook .empty 1 2) (-1) (windowed 2 (sreg 2 0x20100 start)) = true ∧
    one (.revict .empty 1 2) 0 (windowed 2 (sreg 2 1 start)) = true ∧ one (.rinv .empty 1 2) 2 (sreg 2 1 start) = true ∧
    ends (.lutld .empty 2 3) 0x10004#56 (sreg 2 5 (sreg 3 6 start)) (fun t => (coreAt 0 t).codebook == 6#64 ++ 5#64) = true := by decide
/-- A tile task that no engine holds, a stream not bound (R373, R380). -/
theorem test_queries : one (.tqry .empty 1 2) 0 start = true ∧ one (.tcanCopy .empty 1 2) 0 start = true ∧
    one (.sqry .empty 1 4) (BitVec.ofNat 64 (1)) bound = true := by decide
/-- SPAWN gives the record after the grid's; PARK past its time is ready at once; EXIT; POLICY; MIGR to the strand's own
hall; LREL without a lease (R381 to R388). -/
theorem test_strands :
    one (.spawn .empty 1 2 3) 0xA000 (paged (launched (sreg 2 0x10000 start))) = true ∧
    gives (.park .empty 1 2) start (fun t => (strandAt k t).run == .ready && readS k 1 t == 1#64) = true ∧
    gives (.park .empty 1 2) (sreg 2 9 start) (fun t => (strandAt k t).run == .held && (strandAt k t).hold == 5#4) = true ∧
    gives (.exit .empty) start (fun t => (strandAt k t).run == .exited) = true ∧
    gives (.yield .empty) start (fun t => (strandAt k t).run == .ready && (strandAt k t).slot == none) = true ∧
    ends (.policy .empty 1 2) 0x10004#56 (sreg 2 5 start) (fun t => readS k 1 t == 0#64 && hdr k 2 t == 5#64) = true ∧
    one (.migr .empty 1 2) 0 start = true ∧ one (.lrel .empty 1) 0 start = true ∧
    one (.home .empty 1 2) 0 (paged (sreg 2 0x20000 start)) = true := by decide
/-- TRAP carries its immediate; BKPT; TLBI drops the function's translations (R389 to R391). -/
theorem test_traps : gives (.trap .empty 5) start (fun t => match (strandAt k t).trap with
      | some x => x.kind == 23#8 && x.info1 == 5#64 && x.epc == 0x10000#56 && x.npc == 0x10004#56 | none => false) = true ∧
    traps (.bkpt .empty) 19 0 start = true ∧
    ends (.tlbi .empty 5 0 0 0) 0x10004#56 (paged start) (fun t => (coreAt 0 t).tlb == []) = true := by decide
/-- A repeat of ADD stays at its chain until its count is 0; MSET of 5 bytes (R303, R305). -/
theorem test_repeats :
    ends (.rep 1 6 0 8 (.add .empty 3 5 5 6)) 0x10000#56 (sreg 1 2 (sreg 5 1 (sreg 6 3 start)))
      (fun t => readS k 5 t == 4#64 && readS k 6 t == 11#64 && readS k 1 t == 1#64) = true ∧
    ends (.rep 1 6 0 8 (.add .empty 3 5 5 6)) 0x10004#56 (sreg 1 1 start) (fun _ => true) = true ∧
    ends (.mset .empty 2 3 4) 0x10004#56 (sreg 2 (pad 0) (sreg 3 0xAB (sreg 4 5 start)))
      (fun t => spadVal 0 0 8 t == 0xABABABABAB && readS k 2 t == pad 5 && readS k 4 t == 0#64) = true := by decide

theorem witness_TagsAndTouch : (tagForm (.tagld .empty 1 2 0)).isSome = true ∧ runs (.tagld .empty 1 2 0) (sreg 2 (pad 0) start) = true ∧
    answer (sreg 2 (pad 0) start) = none ∧ inAperture (pad 0) = true ∧
    (checkFirst ⟨32, 32, .read, false, false⟩ (pad 0) (sreg 2 (pad 0) start)).isNone = true ∧
    whereIs 0 0 (pad 0) start = .scratchpad 0 ∧
    runs (.tagst .empty 1 2 0) (sreg 2 (pad 0x1FFFE0) start) = true := by decide
theorem witness_TagsAndTouch_memory :
    let s := mapped (sreg 2 0x2FFE0 start)
    runs (.tagst .empty 1 2 0) s = true ∧ inAperture 0x2FFE0 = false ∧
    ToMemory false ⟨32, 32, .write, false, false⟩ 0x2FFE0#64 0xFFE0 false s ∧
    tlbHit 0 0 0x2FFE0 s = some ⟨0#7, 0x20000#56, 16, 0x3F#64⟩ ∧ bitB 0x3F#64 6 = false ∧
    runs (.tagld .empty 1 2 0) (answered 4 3 s) = true ∧ Answered 7 (answered 4 3 s) :=
  ⟨by decide, by decide, ⟨by decide, checkMem (by decide), by decide, by decide, by decide⟩, by decide, by decide, by decide,
    ⟨by decide, by decide⟩⟩
theorem witness_TagsAndTouch_touch :
    let s := windowed 2 (sreg 2 0x20000 start)
    let u := windowed 0 (paged (sreg 2 0x20000 start))
    (touchForm (.touch .empty 1 2 0)).isSome = true ∧ runs (.touch .empty 1 2 0) start = true ∧ touchedWindow 0 start = none ∧
    runs (.touch .empty 1 2 0) s = true ∧ touchedWindow 0x20000 s = some 1 ∧ (windowAt 0 1 s).state ≠ 0#2 ∧
    runs (.touch .empty 1 2 0) u = true ∧ touchedWindow 0x20000 u = some 1 ∧ (windowAt 0 1 u).state = 0#2 ∧
    (match startWindow k 0 1 false u with | .started _ => true | _ => false) = true := by decide
theorem witness_FencesCountersAndMessages : runs (.fence .empty 5 1) (open_ start) = true ∧ domainBusy k 5 true false (open_ start) = true ∧
    runs (.fence .empty 5 32) start = true ∧ domainBusy k 5 false true start = false ∧
    runs (.waitc .empty 63 63 63 63) start = true ∧ (countFault k start).isNone = true ∧ (strandAt k start).loads ≤ 63 ∧
    copyCount k start ≤ 63 ∧ tileCount k start ≤ 63 ∧
    ¬(strandAt k (mine (fun t => { t with loads := 1 }) start)).loads ≤ 0 := by decide
theorem witness_FencesCountersAndMessages_mail : runs (.msnd .empty 2 3) (mine (fun t => { t with wait := .answered 0 0 0 }) start) = true ∧
    runs (.msnd .empty 2 3) (launched (sreg 2 7 start)) = true ∧ launchOf k (launched (sreg 2 7 start)) = some alaunch ∧
    indexOk k 7 (launched (sreg 2 7 start)) = true ∧ indexOk k 8 (launched (sreg 2 7 start)) = false ∧
    runs (.mrcvFrom .empty 1 2) (mailed (sreg 2 2 start)) = true ∧ (findMsg k (some 2) (mailed (sreg 2 2 start))).isSome = true ∧
    runs (.mrcvFrom .empty 1 2) (mailed (sreg 2 1 start)) = true ∧ findMsg k (some 1) (mailed (sreg 2 1 start)) = none ∧
    runs (.mrcv .empty 1 2) (mailed start) = true ∧ hdrDmode k start = false ∧ (findMsg k none (mailed start)).isSome = true ∧
    findMsg k none (launched start) = none := by decide
theorem witness_BarrierInstructions : (levelForm (.bar .empty 0 1)).isSome = true ∧ runs (.bar .empty 0 1) start = true ∧
    domainBusy k 1 true true start = false ∧ runs (.bar .empty 0 4) start = true ∧ barrierBarred 4 (curBarrier 0 4 start) false start = true ∧
    runs (.barArm .empty 0 4 2) (sreg 2 0xFFFFFF start) = true ∧ barrierBarred 4 (curBarrier 0 4 start) true start = false ∧
    runs (.bar .empty 0 4) (armed 4 2 start) = true ∧ barrierBarred 4 (curBarrier 0 4 start) false (armed 4 2 start) = false ∧
    domainBusy k 4 true true (armed 4 2 start) = false ∧ runs (.bara .empty 0 4 1) (armed 4 1 start) = true ∧
    runs (.barw .empty 0 4 2) (armed 4 1 start) = true ∧ (barrierAt (curBarrier 0 4 start) (armed 4 1 start)).phase ≠ 0#4 ∧
    runs (.barw .empty 0 4 2) (armed 4 1 (sreg 2 3 start)) = true := by decide
theorem witness_BarrierInstructions_object :
    let s := sreg 2 (pad 0) start
    (barrierForm (.tbw .empty 1 2 3)).isSome = true ∧ runs (.tbi .empty 2 3) s = true ∧ runs (.tba .empty 1 2 3) s = true ∧
    runs (.tbw .empty 1 2 3) s = true ∧ runs (.tbt .empty 1 2 3) s = true ∧ Memory.wf s.spad = true ∧
    ToPad ⟨16, 16, .write, false, false⟩ (pad 0) 0 s ∧ ToPad ⟨16, 16, .both, false, false⟩ (pad 0) 0 s ∧
    ToPad ⟨16, 16, .read, false, false⟩ (pad 0) 0 s ∧ spadErrAt 0 0 16 s = false ∧
    (zeroRange 32 0 = false ∧ zeroRange 33 0 = false ∧ zeroRange 34 15 = false) ∧ domainBusy k 5 true true s = false ∧
    tbOvr 0 = false ∧ tbPhase 0 = bitsN (0#64) 0 4 ∧ tbPhase 0 ≠ bitsN (15#64) 0 4 :=
  ⟨by decide, by decide, by decide, by decide, by decide, by decide, toPad (by decide) (by decide), toPad (by decide) (by decide),
    toPad (by decide) (by decide), by decide, by decide, by decide, by decide, by decide, by decide⟩
theorem witness_FillRule :
    let s := paged (sreg 2 0x2000 start)
    runs (.fill .empty 4 2 3 1 0) s = true ∧ (0x2000#56).toNat % 2 ^ 13 = 0 ∧ domainBusy k 5 true true s = false ∧
    placeAt 0 0 (curPriv s) .write false 0x2000 8 s = .at_ (.mem 0 0x2000) ∧ (strandAt k s).run = .resident ∧
    isOk (openFill k 0 s) = true ∧ hdrN k 5 56 7 s = 0 ∧ (strandAt k s).pending = [] ∧ syncCodes (.fill .empty 4 2 3 1 0) = [] ∧
    runs (.fill .empty 4 2 3 0 0) s = true ∧ fullBit k (fillCode 0 4) s = true := by decide
theorem witness_RepeatsAndBlockMoves :
    let i : Instr := .rep 1 6 0 8 (.add .empty 3 5 5 6)
    repDone 1 start = true ∧ runs i (sreg 1 2 start) = true ∧ operable (.add .empty 3 5 5 6) (sreg 1 2 start) = true ∧
    repDone 1 (sreg 1 2 start) = false ∧ clsOf (.add .empty 3 5 5 6) .d = 0#2 ∧
    (match repBody (.add .empty 3 5 5 6) (sreg 1 2 start) with | .next u => u.issue.retired | _ => false) = true := by decide
theorem witness_RepeatsAndBlockMoves_bytes :
    let s := sreg 2 (pad 0x1FFFFF) (sreg 3 (pad 0) (sreg 4 1 start))
    runs (.mset .empty 2 3 4) start = true ∧ (curStrand start).wait = .none ∧ readS k 4 start = 0#64 ∧ runs (.mset .empty 2 3 4) s = true ∧
    runs (.mcpy .empty 2 3 4) s = true ∧ readS k 4 s ≠ 0#64 ∧
    stepBytes (readS k 4 s) (readS k 2 s) (readS k 3 s) false = 1 ∧ stepBytes (readS k 4 s) (readS k 2 s) (readS k 3 s) true = 1 ∧
    check ⟨1, 1, .write, false, true⟩ (readS k 2 s) s = .pad 0x1FFFFF ∧ check ⟨1, 1, .read, false, true⟩ (readS k 3 s) s = .pad 0 ∧
    check ⟨1, 1, .write, false, true⟩ (readS k 2 s) (keepRead (spadVal 0 0 1 s) s) = .pad 0x1FFFFF ∧
    hdrRace k s = false ∧ Memory.wf s.spad = true ∧ spadErrAt 0 0x1FFFFF 1 s = false ∧ spadErrAt 0 0 1 s = false :=
  ⟨by decide, by decide, by decide, by decide, by decide, by decide, by decide, by decide, isPad (by decide), isPad (by decide),
    isPad (by decide), by decide, by decide, by decide, by decide⟩

/-! ### What meets the hypotheses: engines and strands -/

/-- A tile record in FP32 whose sizes are 0: accepted (R371). -/
def tileRec : Nat := 0x9999 * 2 ^ 384
def atask (order : Nat) : Task := ⟨0#7, 0x2000#56, 1, pad 0x100, BitVec.ofNat 1024 tileRec, 0, 0, order, 2, [], [], 0#128⟩
def acopy (order : Nat) : CopyJob := ⟨0#7, 0x2000#56, 1, pad 0x100, 0#1024, 0, 2, 0, none, false, false, order⟩
/-- The quad of core 0 with given work. -/
def quad (q : Quad) (s : State) : State := setQuad 0 q s
/-- The record address in s2, the record's bytes in the scratchpad. -/
def submitted (v : Nat) (s : State) : State := spadWrite 0 0x100 (toBytes 128 v) (sreg 2 (pad 0x100) s)

theorem witness_TileInstructions :
    let s := paged (submitted tileRec start)
    let r : Rec := BitVec.ofNat 1024 tileRec
    runs (.tsub .empty 1 2) s = true ∧ bitsN (pad 0x100) 0 7 = 0 ∧ tileCount k s ≠ 63 ∧
    StructRead (pad 0x100) 128 s (spadVal 0 0x100 128 s) (raceNote k 0 0x100 128 false s) ∧
    spadVal 0 0x100 128 s = tileRec ∧ recCode r [] = 0 ∧ recCode 0#1024 [] = 2 ∧ findTask 0 0 (pad 0x100) s = none ∧
    (quadAt 0 s).tiles.length < 64 ∧ addrOff (pad 0x100) 120 = pad 0x178 ∧
    StructWritten (pad 0x178) (rTail r 4) s (raceNote k 0 0x178 8 true
      (dirtyWindows 0 0x178 8 (spadWrite 0 0x178 (toBytes 8 (rTail r 4)) s))) ∧
    isOk (openCounts k (spadWrite 0 0x178 (toBytes 8 (rTail r 4)) s)) = true ∧
    (findTask 0 0 (pad 0x100) (quad { quadZero with tiles := [atask 3] } s)).isSome = true ∧
    groupsErr 0 r (raceNote k 0 0x100 128 false s) = false :=
  ⟨by decide, by decide, by decide, padRead (isPad (by decide)) (by decide), by decide, by decide, by decide, by decide, by decide,
    by decide, padPut (isPad (by decide)), by decide, by decide, by decide⟩
theorem witness_TileInstructions_query :
    let s := sreg 2 (pad 0x100) start
    let u := quad { quadZero with running := some (atask 3) } s
    let w := quad { quadZero with tiles := [atask 3] } s
    runs (.tqry .empty 1 2) s = true ∧ runs (.tcan .empty 1 2) s = true ∧ findTask 0 0 (pad 0x100) s = none ∧
    runs (.tqry .empty 1 2) u = true ∧ findTask 0 0 (pad 0x100) u = some (atask 3) ∧ (quadAt 0 u).running.map Task.order = some 3 ∧
    runs (.tcan .empty 1 2) w = true ∧ findTask 0 0 (pad 0x100) w = some (atask 3) ∧ (quadAt 0 w).running.map Task.order ≠ some 3 ∧
    StructWritten (addrOff (pad 0x100) 120) (rTail (atask 3).record 13) w (raceNote k 0 0x178 8 true
      (dirtyWindows 0 0x178 8 (spadWrite 0 0x178 (toBytes 8 (rTail (atask 3).record 13)) w))) :=
  ⟨by decide, by decide, by decide, by decide, by decide, by decide, by decide, by decide, by decide, padPut (isPad (by decide))⟩
theorem witness_CopyInstructions :
    let s := paged (submitted 0 start)
    runs (.tsubCopy .empty 2) s = true ∧ copyCount k s ≠ 63 ∧
    StructRead (pad 0x100) 128 s (spadVal 0 0x100 128 s) (raceNote k 0 0x100 128 false s) ∧
    copyStart (BitVec.ofNat 1024 (spadVal 0 0x100 128 s)) none = some 0 ∧ (quadAt 0 s).copies.length < 64 ∧
    StructWritten (addrOff (pad 0x100) 104) (2 ^ 40) s (raceNote k 0 0x168 8 true
      (dirtyWindows 0 0x168 8 (spadWrite 0 0x168 (toBytes 8 (2 ^ 40)) s))) ∧
    isOk (openCounts k (spadWrite 0 0x168 (toBytes 8 (2 ^ 40)) s)) = true ∧
    (quadAt 0 s).copies.find? (fun j => j.paused && j.vf == 0#7 && bitsN j.addr 0 56 == bitsN (pad 0x100) 0 56) = none ∧
    ((quadAt 0 (quad { quadZero with copies := [{ acopy 3 with paused := true }] } s)).copies.find?
      (fun j => j.paused && j.vf == 0#7 && bitsN j.addr 0 56 == bitsN (pad 0x100) 0 56)).isSome = true :=
  ⟨by decide, by decide, padRead (isPad (by decide)) (by decide), by decide, by decide, padPut (isPad (by decide)), by decide, by decide,
    by decide⟩
theorem witness_CopyInstructions_query :
    let s := sreg 2 (pad 0x100) start
    let u := quad { quadZero with active := [acopy 3] } s
    let w := quad { quadZero with copies := [acopy 3] } s
    runs (.tqryCopy .empty 1 2) s = true ∧ findCopy 0 0 (pad 0x100) s = none ∧ runs (.tqryCopy .empty 1 2) u = true ∧
    findCopy 0 0 (pad 0x100) u = some (acopy 3, true) ∧ runs (.tcanCopy .empty 1 2) u = true ∧ (acopy 3).paused = false ∧
    (true && !({ acopy 3 with paused := true } : CopyJob).paused) = false ∧ runs (.tcanCopy .empty 1 2) w = true ∧ findCopy 0 0 (pad 0x100) w = some (acopy 3, false) ∧
    StructWritten (addrOff (pad 0x100) 104) (13 * 2 ^ 40) w (raceNote k 0 0x168 8 true
      (dirtyWindows 0 0x168 8 (spadWrite 0 0x168 (toBytes 8 (13 * 2 ^ 40)) w))) :=
  ⟨by decide, by decide, by decide, by decide, by decide, by decide, by decide, by decide, by decide, padPut (isPad (by decide))⟩
/-- RBIND: a bad size, a window that meets another, a window that holds data, and one that binds; sizes 8 and 21 are in
range, 7 and 22 are not. -/
theorem witness_WindowsAndCodebook :
    let w (n ls : Nat) : Word := BitVec.ofNat 64 (n + ls * 2 ^ 19)
    runs (.lutld .empty 2 3) start = true ∧ runs (.rbind .empty 1 2 3) (sreg 1 (w 1 7) start) = true ∧
    runs (.rbind .empty 1 2 3) (sreg 1 (w 2 8) (sreg 2 0x20000 (windowed 2 start))) = true ∧
    (coreAt 0 (windowed 2 start)).windows.any (fun e => e.1 != 2 && e.2.bound && rangesMeet 0 256 0 256) = true ∧
    runs (.rbind .empty 1 2 3) (sreg 1 (w 1 8) (sreg 2 0x20000 (windowed 2 start))) = true ∧ (windowAt 0 1 (windowed 2 start)).state ≠ 0#2 ∧
    runs (.rbind .empty 1 2 3) (sreg 1 (w 63 21) start) = true ∧ bitsN (w 63 21) 24 40 = 0 ∧ bitsN (w 63 21) 19 5 = 21 ∧
    (coreAt 0 start).windows = [] := by decide
theorem witness_WindowsAndCodebook_others :
    let s (st : BitVec 2) := windowed st (paged (sreg 2 1 start))
    runs (.rlook .empty 1 2) start = true ∧ windowByKey 0 0 start = none ∧ windowByKey 0 0x200FF (windowed 2 start) = some 1 ∧
    runs (.revict .empty 1 2) (s 2) = true ∧ (windowAt 0 1 (s 2)).bound = true ∧ (windowAt 0 1 (s 2)).busy = false ∧
    (windowAt 0 63 start).bound = false ∧ runs (.revict .empty 1 2) (s 3) = true ∧ (windowAt 0 1 (s 3)).state = 3#2 ∧
    (match startWindow k 0 1 true (s 3) with | .started _ => true | _ => false) = true ∧
    runs (.rinv .empty 1 2) (sreg 2 64 start) = true ∧ runs (.rinv .empty 1 2) (s 1) = true ∧ (windowAt 0 1 (s 1)).state = 1#2 ∧
    runs (.rinv .empty 1 2) (s 3) = true ∧ runs (.rinvUnbind .empty 1 2) (s 2) = true := by decide
theorem witness_StreamInstructions :
    let s := sreg 2 (pad 0x1FFFC0) start
    runs (.sbind .empty 2 0) s = true ∧ bitsN (pad 0x1FFFC0) 0 6 = 0 ∧
    StructRead (pad 0x1FFFC0) 64 s (spadVal 0 0x1FFFC0 64 s) (raceNote k 0 0x1FFFC0 64 false s) ∧ runs (.sbind .empty 2 7) s = true ∧
    (streamAt k 7 s).kind = 0 ∧ runs (.sunb .empty 4) bound = true ∧ (streamAt k 4 bound).kind ≠ 0 ∧ drains k 4 bound = false ∧
    runs (.sqry .empty 1 7) bound = true ∧ runs (.sunb .empty 3) bound = true :=
  ⟨by decide, by decide, padRead (isPad (by decide)) (by decide), by decide, by decide, by decide, by decide, by decide, by decide, by decide⟩
/-- SPAWN: a place named that is not the launch's, none left, and one that starts at index 4. -/
theorem witness_SpawnAndLaunch :
    let s := paged (launched (sreg 2 0x10000 start))
    runs (.spawn .empty 1 2 3) s = true ∧ launchOf k s = some alaunch ∧ bitsN (0#64) 13 51 = 0 ∧ hdrDmode k s = false ∧
    alaunch.spawnNext < pkSpawnMax alaunch.packet ∧ pkSpawnMax alaunch.packet ≤ 4 ∧
    placeAt 0 0 1 .write false ((indexCtx alaunch.packet 4).setWidth 64) 8 s = .at_ (.mem 0 0xA000) ∧
    domainBusy k 5 true true s = false ∧ runs (.spawn .empty 1 2 3) (sreg 1 0x1FFF s) = true ∧ bitsN (0x1FFF#64) 13 51 = 0 ∧
    bitB (0x1FFF#64) 12 = true ∧ placeAllowed 0 alaunch.packet (256 * bitsN (0x1FFF#64) 0 4 + bitsN (0x1FFF#64) 4 8)
      (setReg 0 (0x30900 + 8 * 61) 5 s) = false := by decide
theorem witness_SpawnAndLaunch_queue :
    let s := paged (setReg 0 0 (BitVec.ofNat 64 (2 ^ 63 + 4 + 0x40000)) (sreg 2 (pad 0) start))
    runs (.launch .empty 1 2 3) (sreg 2 (pad 0) start) = true ∧ regN 0 0 63 1 start = 0 ∧ runs (.launch .empty 1 2 3) s = true ∧
    StructRead (pad 0) 128 s (spadVal 0 0 128 s) (raceNote k 0 0 128 false s) ∧ domainBusy k 5 true true s = false ∧
    regN 0 0 63 1 s = 1 ∧ regN 0 24 8 1 s = 0 ∧ (0 + 2 ^ 32 - 0) % 2 ^ 32 ≠ 2 ^ regN 0 0 0 5 s ∧
    (match xlateNow 0 0 1 .write 0x40000 s with | .ok _ => true | _ => false) = true ∧ regN 0 0 12 44 s * 2 ^ 12 = 0x40000 ∧
    (16 + 2 ^ 32 - 0) % 2 ^ 32 = 2 ^ regN 0 0 0 5 (setReg 0 8 16 s) :=
  ⟨by decide, by decide, by decide, padRead (isPad (by decide)) (by decide), by decide, by decide, by decide, by decide, by decide,
    by decide, by decide⟩
theorem witness_LeavingTheSlot :
    runs (.exit .empty) start = true ∧ outstanding (curStrand start) = false ∧ (curStrand start).errored = [] ∧ undrained k start = false ∧
    runs (.yield .empty) start = true ∧ hdrDmode k start = false ∧ hdrDmode k (field 1 13 1 1 start) = true ∧
    runs (.yield .empty) (field 1 13 1 1 start) = true ∧ runs (.park .empty 1 2) (sreg 2 1 start) = true ∧ tick start < 1 ∧
    runs (.idle .empty 1 2) start = true ∧ (0#64 : Word).toNat ≤ tick start ∧ stepping start = false ∧
    stepping (putWord k 0x1480 1 start) = true ∧ runs (.yield .empty) (putWord k 0x1480 1 start) = true := by decide
/-- A second strand, ready, its record at 0x6000 read from memory. -/
def second (s : State) : State := setStrand 0x6000 { strandZero with run := .ready } (paged s)
theorem witness_LeavingTheSlot_swap :
    let s := second (sreg 2 0x6000 start)
    runs (.swapctx .empty 2) s = true ∧ bitsN (0x6000#56) 0 13 = 0 ∧ sid 0 0x6000 ≠ k ∧
    (match openFill 0x6000 0 s with
      | .ok u => hdrN 0x6000 5 56 7 u == 0 && (strandAt 0x6000 u).run == .ready && decide (hdrPriv 0x6000 u ≤ hdrPriv k u) &&
          !outstanding (curStrand u) && (curStrand u).errored.isEmpty && !notStarted 0x6000 u && !stepping u
      | .error _ => false) = true ∧
    runs (.dnext .empty) (field 1 13 1 1 start) = true ∧ slotEntry 0 0 (endStrand k (field 1 13 1 1 start)) = none := by decide
/-- A D-mode slot whose next entry is index 1. -/
def dslot : State :=
  let s := paged (launched (field 1 13 1 1 start))
  mine (fun t => { t with launch := 1 }) (setCore 0 { coreAt 0 s with dlist := List.replicate 8 (1, 0) ++ [(1, 1)] } s)
theorem witness_LeavingTheSlot_dnext : runs (.dnext .empty) dslot = true ∧ hdrDmode k dslot = true ∧
    slotEntry 0 0 (endStrand k dslot) = some (1, 1) ∧ (tfind (endStrand k dslot).launches 1).isSome = true ∧
    (strandAt 0x4000 (runEntry 0 0 (endStrand k dslot))).run = .resident ∧ indexCtx alaunch.packet 1 = 0x4000#56 := by decide
theorem witness_TravelPolicyAndLeases :
    runs (.migr .empty 1 2) start = true ∧ hallTarget k 0 0 start = none ∧ runs (.migr .empty 1 2) (sreg 2 1 start) = true ∧
    hallTarget k 1 256 start = some 256 ∧ runs (.migrAddr .empty 1 2) (sreg 2 (pad 0) start) = true ∧
    (match lookOnly (pad 0) start with | .ok none => true | _ => false) = true ∧
    (match lookOnly 0x1FFFFF (paged start) with | .ok (some e) => e.2 == 0x1FFFFF | _ => false) = true ∧
    runs (.home .empty 1 2) (paged (sreg 2 0x1FFFFF start)) = true ∧ runs (.policy .empty 1 2) (sreg 2 2048 start) = true ∧
    bitsN (2048#64) 11 53 ≠ 0 ∧ runs (.policy .empty 1 2) (sreg 2 2047 start) = true ∧ bitsN (2047#64) 0 2 = 3 ∧
    runs (.policy .empty 1 2) (sreg 2 2046 start) = true ∧ bitsN (2046#64) 11 53 = 0 ∧ bitsN (2046#64) 0 2 ≠ 3 := by decide
theorem witness_TravelPolicyAndLeases_lease :
    let s := setReg 0 0x30300 0 (setReg 0 0x30060 6 (setIslandN 2 8 1 1 (setIsland 2 { islandZero with leaseEnd := 100000 } (launched (sreg 2 6 (sreg 3 100 start))))))
    let h := field 3 0 1 1 s
    runs (.lease .empty 1 2 3) (sreg 2 7 start) = true ∧ runs (.lease .empty 1 2 3) h = true ∧ hdrN k 3 0 1 h = 1 ∧
    4 * hdrN k 3 4 4 h + hdrN k 3 8 2 h ≠ coreQuadrant 0 ∧
    4 * hdrN k 3 4 4 (field 3 8 2 2 h) + hdrN k 3 8 2 (field 3 8 2 2 h) = coreQuadrant 0 ∧ runs (.lease .empty 1 2 3) start = true ∧
    hdrN k 3 0 1 start = 0 ∧ leasePolicy k start = 0 ∧ runs (.lease .empty 1 2 3) s = true ∧ (grantLease k 2 6 100 s).1 ≠ 0 ∧
    runs (.lrel .empty 1) start = true ∧ runs (.lrel .empty 1) h = true := by decide
theorem witness_TrapEntry : (1 : Nat) < 256 ∧ (255 : Nat) < 256 := by decide
theorem witness_TrapsReturnsAndTlbi : runs (.trap .empty 7) start = true ∧ runs (.bkpt .empty) start = true ∧
    (curStrand start).suppress = false ∧ (curStrand (mine (fun t => { t with suppress := true }) start)).suppress = true ∧
    judged (.tlbi .empty 5 0 5 0) (field 1 8 2 1 start) = true ∧ curPriv (field 1 8 2 1 start) < 2 ∧
    runs (.tlbi .empty 5 0 0 0) (paged start) = true ∧
    xlatsInUse 5 0 0 (withdrawWaiting 5 0 0 (dropXlats 5 0 0 none (paged start))) = false := by decide
/-- A trapped strand whose record at 0x6000 reads from memory. -/
def trapped : State := setStrand 0x6000 { strandZero with run := .trapped } (paged (sreg 2 0x6000 start))
theorem witness_TrapsReturnsAndTlbi_return : runs (.eret .empty 2 0) trapped = true ∧
    lackWords (lineKey k 78) 16#8 trapped = false ∧ domainBusy k 5 false true trapped = false ∧
    (strandAt 0x6000 trapped).run = .trapped ∧ (strandAt 0x6000 trapped).trapTo = 0#2 ∧ (strandAt 0x6000 trapped).wait = .none ∧
    (match openLine 0x6000 0 0 trapped with
      | .ok u => (match openLine 0x6000 81 0 u with
        | .ok w => hdrN 0x6000 5 56 7 w == 0 && decide (bitsN (cachedWord 0x6000 0x1458 w) 2 2 ≤ hdrPriv k w) && !undrained 0x6000 w &&
            decide (w.lines.length + 1 ≤ Config.hallCacheLines) && decide ((lineAt (lineKey 0x6000 0) w).hc.length = 1)
        | .error _ => false)
      | .error _ => false) = true ∧ runs (.eret .empty 2 3) trapped = true ∧ k + 84 * 64 ≤ 0x6000 := by decide
/-! ### Events: witnesses -/

def evt (a : EvArgs) (s : State) : State := { s with ev := a }
theorem noReply {w : Wait} (h : w = .none) (g : Nat) : w ≠ .reply g := by rw [h]; intro e; cases e
theorem witness_SensorsAndLeases_readings :
    let s (i c : Nat) := evt { EvArgs.none with id := i, v := BitVec.ofNat 64 c } start
    (s 63 85).ev.id < 64 ∧ (s 63 85).ev.stack = false ∧ 85 ≤ (s 63 85).ev.v.toNat ∧ (s 0 79).ev.v.toNat < 80 ∧ 80 ≤ (s 0 80).ev.v.toNat ∧
    (s 0 84).ev.v.toNat < 85 ∧ 95 ≤ (s 0 95).ev.v.toNat ∧ (s 0 89).ev.v.toNat < 90 ∧ 90 ≤ (s 0 90).ev.v.toNat ∧ (s 0 94).ev.v.toNat < 95 ∧
    islandN 63 48 1 (s 63 85) = 0 ∧ islandN 0 48 1 (setIslandN 0 48 1 1 (s 0 79)) = 1 ∧
    (islandAt 0 (s 0 95)).hot = false ∧ (evt { EvArgs.none with id := 60, stack := true, v := 85 } start).ev.stack = true ∧
    (islandAt 60 start).stackDbl = false ∧ (islandAt 60 (setIsland 60 { islandZero with stackDbl := true } start)).stackDbl = true := by decide
theorem witness_SensorsAndLeases_throttle :
    let s := evt { EvArgs.none with id := 5 } (setIsland 5 { islandZero with hot := true } start)
    let u := setIsland 6 { islandZero with hot := true } s
    s.ev.id < 64 ∧ (islandAt 5 s).hot = true ∧ (∀ q < 4, 4 * (s.ev.id / 4) + q ≠ s.ev.id → (islandAt (4 * (s.ev.id / 4) + q) s).hot = false) ∧
    (2 < 4 ∧ 4 * (u.ev.id / 4) + 2 ≠ u.ev.id ∧ (islandAt (4 * (u.ev.id / 4) + 2) u).hot = true) := by decide
theorem witness_SensorsAndLeases_melt :
    let s (f : Nat) := evt { EvArgs.none with pairs := [(15, f)] } start
    (s 0xF334).ev.pairs = [(15, 0xF334)] ∧ (15 : Nat) < 16 ∧ 0xFFFF < 2 ^ 16 ∧
    regN 0 (0x30300 + 8 * 15) 17 1 (setRegN 0 (0x30300 + 8 * 15) 17 1 0 (s 0)) = 0 ∧
    regN 0 (0x30300 + 8 * 15) 17 1 (setRegN 0 (0x30300 + 8 * 15) 17 1 1 (s 0)) = 1 ∧ 0xFD71 ≤ 0xFFFF := by decide
theorem witness_SensorsAndLeases_lease :
    let s := evt { EvArgs.none with id := 63, v := 5000 } (setIslandN 63 8 1 1 (setIsland 63 { islandZero with leaseEnd := 5000 } start))
    let u := evt { EvArgs.none with v := 1, flag := true } (setIslandN 63 9 3 5 s)
    islandN 63 8 1 s = 1 ∧ (islandAt 63 s).leaseEnd = s.ev.v.toNat ∧ (islandAt 62 s).leaseEnd ≠ s.ev.v.toNat ∧
    u.ev.flag = true ∧ hostClosed u.ev.vf u = false ∧ islandN 63 8 1 u = 1 ∧ islandOwner 63 u = u.ev.vf ∧ u.ev.v.toNat % 8 < islandN 63 9 3 u ∧
    (evt { EvArgs.none with vf := 5 } start).ev.vf ≠ 0#7 ∧ (evt { EvArgs.none with vf := 5 } start).ev.flag = false := by decide
theorem witness_EnergyAndLimits :
    let s := evt { EvArgs.none with v := 20001 } (setReg 0 0x300A0 0x2000 (launched start))
    let named (e : Nat × Launch) : Bool := e.2.vf == s.ev.vf && pkCtx e.2.packet == regN s.ev.vf 0x300A0 13 43 s * 2 ^ 13
    tfind s.launches 1 = some alaunch ∧ alaunch.vf = s.ev.vf ∧ alaunch.used < 2 ^ 64 ∧ hostClosed s.ev.vf s = false ∧
    s.launches.find? named = some (1, alaunch) ∧ start.launches = [] ∧ 20000 < s.ev.v.toNat ∧
    (evt { EvArgs.none with v := 20000 } start).ev.v.toNat ≤ 20000 ∧ 17000 < (evt { EvArgs.none with v := 20000 } start).ev.v.toNat ∧
    10000 < (evt { EvArgs.none with w := 10001 } start).ev.w.toNat ∧ start.ctl.refuse = false ∧
    (evt { EvArgs.none with v := 16150, w := 9500 } start).ev.v.toNat * 100 ≤ 17000 * 95 ∧
    (evt { EvArgs.none with v := 16150, w := 9500 } start).ev.w.toNat * 100 ≤ 10000 * 95 ∧ start.ctl.okSince = none ∧
    (evt { EvArgs.none with pairs := [(63, 7)] } start).ev.pairs = [(63, 7)] := by decide
theorem witness_SaveCutAndOwners_save :
    let s (c : Nat) := evt { EvArgs.none with id := 63, v := BitVec.ofNat 64 c } start
    let f := evt { EvArgs.none with flag := true, n := 2 } State.reset
    (s 104).ev.flag = false ∧ (s 104).ev.id < 64 ∧ (s 104).ev.v.toNat < 105 ∧ 105 ≤ (s 105).ev.v.toNat ∧ (s 114).ev.v.toNat < 115 ∧
    (s 105).power = .on ∧ 115 ≤ (s 115).ev.v.toNat ∧ (s 115).power ≠ .cut ∧ f.ev.flag = true ∧ f.power ≠ .saving ∧
    ({ f with power := .saving } : State).power = .saving ∧ f.ev.n = 2#8 ∧ atRest (withdrawAll { f with power := .saving }) = true := by decide
theorem witness_SaveCutAndOwners_resume :
    let s := { evt { EvArgs.none with v := 4 } start with power := .saved }
    let c := { s with power := .cut }
    let b := setBoot 8 4 { evt { EvArgs.none with n := 8 } c with power := .cut }
    s.ev.n ≠ 7#8 ∧ s.ev.n ≠ 8#8 ∧ (evt { EvArgs.none with vf := 1 } start).ev.vf ≠ 0#7 ∧ bitB start.ev.v 2 = false ∧ s.ev.vf = 0#7 ∧
    bitB s.ev.v 2 = true ∧ bootStarted 7 s = false ∧ bootStarted 8 s = false ∧
    95 ≤ islandN 63 40 8 (setIslandN 63 40 8 95 s) ∧ 60 ≤ islandN 63 40 8 (setIslandN 63 40 8 60 c) ∧
    (∀ i < 64, islandN i 40 8 s < 95) ∧ (∀ i < 64, islandN i 40 8 c < 60) ∧
    (match stepChoice 7 c with | .run _ => true | _ => false) = true ∧ b.ev.n = 8#8 ∧ bootStarted 8 b = true ∧
    stepWorks 8 b.ev.w b = true := by decide
theorem witness_SaveCutAndOwners_owner :
    let s (i : Nat) := setIsland i { islandZero with newOwner := some 5#7 } (evt { EvArgs.none with id := i } start)
    (islandAt 2 (s 2)).newOwner = some 5#7 ∧ 5#7 ≠ islandOwner 2 (s 2) ∧ quadrantBusy 2 (islandOwner 2 (s 2)) (s 2) = true ∧
    (islandAt 63 (s 63)).newOwner = some 5#7 ∧ 5#7 ≠ islandOwner 63 (s 63) ∧ quadrantBusy 63 (islandOwner 63 (s 63)) (s 63) = false ∧
    hostClosed 0 start = false ∧ hostClosed 5 (setFn 5 { fnZero with resetting := true } start) = true ∧
    (fnAt 0 (setFn 0 { fnZero with lost := [1, 2] } start)).lost = [1, 2] := by decide

/-- A flit on two links. -/
def aflit : Flit := ⟨0, 0, 0, 0, none, 0, true, (6, 0), [(0, 0)], none, 1, .request 3⟩
def areq : Req := { reqZero with ctx := 0x2000#56, grp := 3, pa := 0x4000000#52, size := 8, route := .standing }
def asked (r : Req) : State := setReq 3 r (evt { EvArgs.none with id := 3 } start)
theorem witness_FlitsAndRequests_flits :
    let s (f : Flit) := putFlit 9 f (evt { EvArgs.none with id := 9 } start)
    let f5 : Flit := { aflit with circ := some 5, floor := some (0, [(0, 0), (0, 0)]) }
    let t := { s f5 with entries := [(entryKey (attachCore 0 0) 0 0 0, 655371#32)] }
    let f6 : Flit := { aflit with hops := [(5, 0)], floor := some (3, [(1, 2)]) }
    let c : Flit := { aflit with circ := some 5 }
    tfind (s aflit).flits 9 = some aflit ∧ 256 ≤ (hallAt aflit.hall (s aflit)).w ∧ tfind (s c).flits 9 = some c ∧
    entryForwards (entryAt 0 0 0 0 (s c)) 0 5 (6, 0) = false ∧
    tfind (s { aflit with hops := [(4, 0)] }).flits 9 = some { aflit with hops := [(4, 0)] } ∧ tfind (s f6).flits 9 = some f6 ∧
    tget ({ s f6 with floor := [(floorKey 0 (channelOf 0) 0, 1 + 32 * 3 + 2)] } : State).floor (floorKey 0 (channelOf 0) (start.wheel % 1024)) 0 =
      1 + 32 * 3 + 2 ∧
    tfind t.flits 9 = some f5 ∧ entryForwards (entryAt (attachCore 0 0) 0 0 (t.wheel % (hallAt 0 t).w) t) 0 5 (5, 0) = true ∧
    (evt { EvArgs.none with pairs := [(77, 3)] } start).ev.pairs = [(77, 3)] := by decide
theorem witness_FlitsAndRequests_standing :
    let s := evt { EvArgs.none with id := 3, n := 1#8 } (asked areq)
    s.ev.n = 1#8 ∧ tfind s.reqs 3 = some areq ∧ areq.route = .standing ∧ injectionHeld 0 s = false ∧ 256 ≤ (hallAt 0 s).w ∧
    transSlot 0 (bankCore (bankOf areq.pa.toNat)) = 1 ∧ s.wheel % (hallAt 0 s).w ≠ 1 ∧
    ({ s with wheel := 1025 } : State).wheel % (hallAt 0 s).w = 1 ∧ standingBusy 3 areq { s with wheel := 1025 } = false ∧
    standingHeld areq.core { s with wheel := 1025 } = false ∧ start.ev.n = 0#8 ∧ twoFlits areq = false ∧
    hasStanding (bankHall (bankOf areq.pa.toNat)) s = true ∧ slotTaken (bankCore (bankOf areq.pa.toNat)) s = false ∧
    secondDue (bankCore (bankOf areq.pa.toNat)) none s = false := by decide
theorem witness_FlitsAndRequests_service :
    let r := { areq with kind := 2#4, op := 24#6, size := 8 }
    let s := asked r
    tfind (asked areq).reqs 3 = some areq ∧ areq.tagchk = false ∧ areq.tagop = false ∧ (bankAt (bankOf areq.pa.toNat) (asked areq)).waits = [] ∧
    areq.kind = 0#4 ∧ memErrAt areq.pa.toNat 8 (asked areq) = false ∧ (asked { areq with kind := 1#4 }).reqs ≠ [] ∧
    tfind s.reqs 3 = some r ∧ 24 ≤ r.op.toNat ∧
    (performReq r (charge (payer r { s with memEmpty := [0x4000000 / 8] }) 0 4 (bankOf 0x4000000) { s with memEmpty := [0x4000000 / 8] })).2.1 = 3 := by
  decide
theorem witness_FlitsAndRequests_replies :
    let r := { areq with status := 0#8, reg := 31, route := .near }
    let done (r : Req) := asked r
    tfind (done r).reqs 3 = some r ∧ r.route = .near ∧ r.kind = 0#4 ∧ r.peer = none ∧ r.status = 0#8 ∧ (strandAt (reqSid r) (done r)).wait = .none ∧
    groupReqs 3 (setReq 3 { r with arrived := true } (done r)) = [(3, { r with arrived := true })] ∧ 0 < r.reg ∧ r.reg < 32 ∧
    ({ r with kind := 1#4 } : Req).waiting = false ∧ areq.status = 255#8 ∧
    (strandAt (reqSid r) (mine (fun t => { t with wait := .reply 3 }) (done r))).wait = .reply r.grp ∧
    ({ r with waiting := true } : Req).waiting = true := by decide
/-- A ring of the PF at 0 with one record. -/
def ring (r : Nat) (s : State) : State :=
  setRegN 0 0x10008 0 16 1 (setReg 0 0x10018 0x00400040 (memWrite (keyOf 0 s) 0 (toBytes 64 r) (paged s)))
def ringHas (ev : Instr) (s : State) : Bool :=
  decide (cmHead s.ev.vf s ≠ cmTail s.ev.vf s) && cmReachable s.ev.vf (cmAddr s.ev.vf s) s && decide (cmEvent (cmRecord s.ev.vf s) = ev)
theorem ringHas_spec {ev : Instr} {s : State} (h : ringHas ev s = true) : RingHas ev s := by
  simpa [ringHas, RingHas, and_assoc] using h
def noBad (s : State) : Bool := !recordBad (cmRecord 0 s) (cmAddr 0 s) s
/-- Core 0 to core 1 of hall 0, one slot, named 300, at turn 4000. -/
def setupRec : Nat := 1 + 4000 * 2 ^ 32 + 1 * 2 ^ 80 + 1 * 2 ^ 100 + 300 * 2 ^ 104
def acirc : Circ := ⟨0, ⟨0, 0, 0, 1, 0, 0⟩, 0, false,
  [⟨⟨0, 0, 0, 1, 0, 0⟩, 300, ⟨0, [], none, [], 0⟩, none, 0, ⟨0, [], none, [], 0⟩, false, false, .live, false⟩], false, none, 0⟩
theorem witness_CircuitManagement_setup :
    let s := ring setupRec start
    Memory.wf s.mem = true ∧ ringHas .cmSetup s = true ∧ noBad s = true ∧
    (match (cmPlace 0 (cmRecord 0 s) false s).1 with | ⟨0, some 1, none⟩ => true | _ => false) = true ∧
    ringHas .cmSetup (ring (1 + 2 ^ 225) start) = true ∧ noBad (ring (1 + 2 ^ 225) start) = false ∧
    ringHas .cmResize (ring 3 start) = true := by decide
theorem witness_CircuitManagement_teardown :
    let s := setCirc 5 acirc (ring (2 + 5 * 16 + 4000 * 2 ^ 32) start)
    ringHas .cmTeardown s = true ∧ noBad s = true ∧ bitsN (cmRecord 0 s) 4 11 = 5 ∧ circAt 5 s = some acirc ∧ acirc.ending = false ∧
    acirc.vf.toNat = bitsN (cmRecord 0 s) 15 7 ∧ s.ev.vf = 0#7 ∧ Memory.wf s.mem = true ∧
    circAt 5 (ring (2 + 5 * 16) start) = none ∧ ringHas .cmTeardown (ring (2 + 5 * 16) start) = true := by decide
theorem witness_CircuitManagement_wheel :
    let s (w t : Nat) := ring (4 + t * 2 ^ 32 + w * 2 ^ 184) start
    let bad := ring (4 + 2 ^ 256 * 2 ^ 32) start
    ringHas .cmSetWheel (s 8 1) = true ∧ noBad (s 8 1) = true ∧ bitsN (cmRecord 0 (s 8 1)) 68 8 = 0 ∧
    bitsN (cmRecord 0 (s 8 1)) 184 12 = 2 ^ (0 + 3) ∧ bitsN (cmRecord 0 (s 1024 1)) 184 12 = 2 ^ (7 + 3) ∧ ringHas .cmSetWheel (s 1024 1) = true ∧
    noBad (s 1024 1) = true ∧ hallHasCircuit 0 (s 8 1) = false ∧ hallHasCircuit 0 (setCirc 5 acirc (s 8 1)) = true ∧
    namedTurn (cmRecord 0 (s 8 0)) (s 8 0) ≤ ((s 8 0).wheel / 1024 : Nat) ∧ ((s 8 1).wheel / 1024 : Nat) < namedTurn (cmRecord 0 (s 8 1)) (s 8 1) ∧
    ringHas .cmSetWheel bad = true ∧ noBad bad = false ∧ bitsN (cmRecord 0 (ring (4 + 255 * 2 ^ 68) start)) 68 8 ≠ 0 ∧
    ringHas .cmSetWheel (ring (4 + 255 * 2 ^ 68) start) = true ∧ noBad (ring (4 + 255 * 2 ^ 68) start) = true := by decide
theorem witness_CircuitManagement_read :
    let s (p n : Nat) := ring (5 + p * 2 ^ 208 + n * 2 ^ 215) start
    ringHas .cmReadEntry (s 5 1023) = true ∧ noBad (s 5 1023) = true ∧ bitsN (cmRecord 0 (s 5 1023)) 208 3 = 5 ∧
    bitsN (cmRecord 0 (s 5 1023)) 215 10 < (hallAt (bitsN (cmRecord 0 (s 5 1023)) 196 4) (s 5 1023)).w ∧
    ringHas .cmReadEntry (s 6 0) = true ∧ 6 ≤ bitsN (cmRecord 0 (s 6 0)) 208 3 := by decide
theorem witness_CircuitManagement_stages :
    let s (l : List (Nat × Nat)) := setCirc 5 acirc (evt { EvArgs.none with id := 5, pairs := l } start)
    circAt 5 (s []) = some acirc ∧ (∀ j < acirc.paths.length, ((s [(0, 0)]).ev.pairs.map Prod.fst).contains j = true) ∧
    (match acirc.paths[0]? with | some p => ((s []).ev.pairs.map Prod.fst).contains 0 == false && p.stage != .gone | none => false) = true ∧
    (s []).ev.stack = false ∧ (evt { EvArgs.none with stack := true } start).ev.stack = true := by decide
theorem witness_LossOfLock_hall :
    let s (l : Lock) := setHall 0 { hallAt 0 start with lock := l, savedFloor := [(7, 8)] } { start with floor := [(31 * 1024 + 1023, 0)] }
    (hallAt 0 (s .locked)).lock = .locked ∧ (hallAt 0 (s .lost)).lock ≠ .locked ∧ (31 * 1024 + 1023) / 1024 / 32 = 0 ∧
    (hallAt 0 (s .relocking)).lock = .relocking ∧ (hallAt 0 (s .relocking)).lock ≠ .locked := by decide
theorem witness_LossOfLock_port :
    let s (p : PortState) := setPort 7 { portZero with state := p, expect := 9, fails := [0, 0], replay := [(3, 4)] }
      (evt { EvArgs.none with n := 7, v := 9, flag := true } start)
    let c : Circ := { acirc with pod := some ⟨0, 7, false⟩ }
    (portAt 7 (s .locked)).state = .locked ∧ (s .locked).ev.v.setWidth 16 = (portAt 7 (s .locked)).expect ∧ (s .locked).ev.flag = true ∧
    start.ev.flag = false ∧ 2 ≤ ((portAt 7 (s .locked)).fails.filter (fun n => decide ((s .locked).wheel < n + 1024))).length ∧
    (portAt 7 (s .lost)).state ≠ .locked ∧ (portAt 7 (s .retrain)).state = .retrain ∧ (portAt 7 (s .slew)).state = .slew ∧
    circAt 0 (setCirc 0 c (s .locked)) = some c ∧ bootOutcome 10 start ≠ 1 ∧ bootOutcome 10 (setBoot 10 1 (s .lost)) = 1 ∧
    regN 0 (0x2200 + 8 * 15) 23 1 (setRegN 0 (0x2200 + 8 * 15) 23 1 1 start) = 1 ∧
    partPort 0 7 (setCirc 0 { c with vf := 0 } (setReg 0 0x2200 (BitVec.ofNat 64 (2 ^ 23 + 1)) (s .locked))) = true := by decide
theorem witness_LossOfLock_partition :
    let s := setPart 0 { partZero with held := true } start
    (partAt 0 s).held = true ∧ (partAt 0 start).held = false ∧ partBusy 0 s = false ∧
    partBusy 0 (setPart 0 { partZero with held := true, paused := true } start) = true := by decide
theorem witness_HostAccessesAndFunctions_host :
    let s (v : Nat) := evt { EvArgs.none with n := 1, v := BitVec.ofNat 64 v, w := 7 } (paged start)
    hostClosed 0 (setFn 0 { fnZero with resetting := true } start) = true ∧ hostClosed 0 (s 0) = false ∧
    inStaging 0 (s 0) = false ∧ inMw1 0 (s 5).ev.v.toNat 1 (s 5) = true ∧ inMw1 0 (2 ^ 26) 1 (s (2 ^ 26)) = false ∧
    hostBytes 0 .read (apBase 0 (s 5) + (s 5).ev.v.toNat) (s 5) (min 8 (s 5).ev.n.toNat) = some [5] ∧
    hostBytes 0 .read (apBase 0 (s 0x200000) + (s 0x200000).ev.v.toNat) (s 0x200000) (min 8 (s 0).ev.n.toNat) = none ∧
    inMw1 0 0x200000 1 (s 0x200000) = true ∧
    hostBytes 0 .write (apBase 0 (s 0x1FFFFF) + (s 0x1FFFFF).ev.v.toNat) (s 0x1FFFFF) (min 8 (s 0).ev.n.toNat) = some [0x1FFFFF] ∧
    (s 0).ev.n = 1#8 ∧ Memory.wf (s 0).mem = true ∧ memErrAt 0x1FFFFF 1 (s 0) = false ∧ (bankAt (bankOf 0x1FFFFF) (s 0)).waits = [] ∧
    hostBytes 0 .write (apBase 0 (s 0x200000) + (s 0x200000).ev.v.toNat) (s 0x200000) (min 8 (s 0).ev.n.toNat) = none := by decide
theorem witness_HostAccessesAndFunctions_functions :
    let s (n : BitVec 8) := evt { EvArgs.none with vf := 127, n := n } start
    start.ev.vf = 0#7 ∧ (s 0).ev.vf ≠ 0#7 ∧ (fnAt 127 (s 0)).enabled = false ∧ (s 0).phase.phase ≠ .recovery ∧ (s 0).ev.n = 0#8 ∧ (s 1).ev.n ≠ 0#8 ∧
    26 ≤ (s 40).ev.n.toNat ∧ (s 40).ev.n.toNat ≤ 40 ∧ 26 ≤ (s 26).ev.n.toNat ∧
    (fnAt 127 (setFn 127 { fnZero with enabled := true } (s 0))).enabled = true ∧ (s 1).quads = [] ∧ (s 1).reqs = [] ∧ (s 1).circs = [] := by
  decide
theorem witness_HostAccessesAndFunctions_pairing :
    let s := setRegN 0 0x60100 8 1 1 (setRegN 0 (0x60208 + 16 * 63) 0 2 1 (setRegN 0 (0x60200 + 16 * 63) 63 1 1
      (evt { EvArgs.none with id := 63 } start)))
    let c : Circ := { acirc with pod := some ⟨63, 0, true⟩ }
    start.phase.phase ≠ .recovery ∧ (evt { EvArgs.none with vf := 1 } start).ev.vf ≠ 0#7 ∧
    ({ start with phase := { start.phase with phase := .recovery } } : State).phase.phase = .recovery ∧
    (evt { EvArgs.none with id := 0x60200 + 16 * 63 } start).ev.id = 0x60200 + 16 * 63 ∧ (63 : Nat) < 64 ∧
    circAt 5 (setCirc 5 c start) = some c ∧ c.ending = false ∧ bitB start.ev.v 63 = false ∧
    regN 0 0x60100 8 1 s = 1 ∧ regN 0 (0x60200 + 16 * (s.ev.id % 64)) 63 1 s = 1 ∧ regN 0 (0x60208 + 16 * (s.ev.id % 64)) 0 2 s = 1 ∧
    regN 0 0x60100 8 1 start ≠ 1 := by decide
theorem witness_RegisterWrites_plain :
    let s (o : Nat) := evt { EvArgs.none with id := o } start
    hostClosed 0 (s 0) = false ∧ hostClosed 0 (setFn 0 { fnZero with resetting := true } start) = true ∧
    (evt { EvArgs.none with n := 1 } start).ev.n = 1#8 ∧ (s 0x1010).ev.n ≠ 1#8 ∧ (s 0x1010).ev.id = 0x1010 ∧ (s 0x1108).ev.id = 0x1108 ∧
    ownEvents 0 0 = [.lqbaseWrite] ∧ ownEvents 0x1000 0 = [] ∧ rwMask 0 true 0x1000 (s 0x1000) ≠ 0#64 ∧ ownEvents 0x5000 0 = [] ∧
    rwMask 0 true 0x5000 (s 0x5000) = 0#64 ∧ (0x1000 : Nat) ≠ 0x1010 ∧ (0x1000 : Nat) ≠ 0x1108 ∧ (0x1000 : Nat) ≠ 0x40240 ∧
    (0x1000 : Nat) < 0x20000 ∧ (0 : Nat) * 2 ^ 20 + 0x1008 ≠ 0 * 2 ^ 20 + 0x1000 ∧ (5#7 : BitVec 7) ≠ 0#7 ∧ pfOnly 0x2400 = true := by decide
theorem witness_RegisterWrites_queues :
    let s (v : Nat) := evt { EvArgs.none with id := 0xFC0, v := BitVec.ofNat 64 v } start
    hostClosed 0 (s 0) = false ∧ regN 0 (qoff 63) 63 1 (s 0) = 0 ∧ offQueue 0xFC0 = 63 ∧ regN 0 (qoff 63) 63 1 (setRegN 0 (qoff 63) 63 1 1 (s 0)) = 1 ∧
    bitB (s (2 ^ 63 + 3)).ev.v 63 = true ∧ bitsN (s (2 ^ 63 + 3)).ev.v 0 5 < 4 ∧ 16 < bitsN (s (2 ^ 63 + 17)).ev.v 0 5 ∧
    bitB (s (2 ^ 63 + 17)).ev.v 63 = true ∧ 4 ≤ bitsN (s (2 ^ 63 + 4)).ev.v 0 5 ∧ bitsN (s (2 ^ 63 + 16)).ev.v 0 5 ≤ 16 ∧
    bitB (s 0).ev.v 8 = false ∧ bitB (s 256).ev.v 8 = true ∧ (8 : Nat) < 9 ∧ bitB (s 0x66).ev.v 1 = true ∧ bitB (s 0x66).ev.v 2 = true ∧
    bitB (s 0x66).ev.v 5 = true ∧ bitB (s 0x66).ev.v 6 = true := by decide

/-- An image with no code, its header as R58 lays it out: whether its signature holds is the free values' (log 3). -/
def image : List (BitVec 8) :=
  toBytes 4 0x39534F54 ++ toBytes 4 0x4C455041 ++ List.replicate 8 0#8 ++ toBytes 48 (Config.sha384 []).toNat ++ List.replicate 192 0#8
def fusedOk : Prop := (toBytes 48 (Config.sha384 (toBytes 96 Config.bootKey.toNat)).toNat == toBytes 48 Config.fusedKeyHash.toNat &&
  Config.ecdsaVerify Config.bootKey (Config.sha384 (imgBytes image 0 64)) (BitVec.ofNat 768 (imgNat image 64 96))) = true
theorem image_digest : imgNat image 16 48 = (Config.sha384 (imgBytes image 256 0)).toNat := by
  have h : imgBytes image 16 48 = toBytes 48 (Config.sha384 []).toNat := rfl
  have e : imgBytes image 256 0 = [] := rfl
  rw [imgNat, h, ofBytes_toBytes, e]
  exact Nat.mod_eq_of_lt (Config.sha384 []).isLt
/-- Where the fused key and the signature hold, the image passes. -/
theorem image_passes (h : fusedOk) : imageCode image 0 = 0 := by
  unfold imageCode
  rw [show imgNat image 12 4 = 0 from rfl, show imgNat image 8 4 = 0 from rfl, image_digest]
  rw [fusedOk] at h
  rw [h]
  rw [show (imgBytes image 160 96).any (fun b => b != 0#8) = false by decide]
  simp [show image.length = 256 from rfl, show imgNat image 0 4 = 0x39534F54 from rfl, show imgNat image 4 4 = 0x4C455041 from rfl]
/-- The module being started: step k begun, what fails in `v`. -/
def starting (k v : Nat) : State :=
  setBoot k 4 { State.reset with ev := { EvArgs.none with n := BitVec.ofNat 8 k, v := BitVec.ofNat 64 v } }
theorem witness_StartAttestationAndSnapshots_start (h : fusedOk) :
    let s := setBoot 1 4 { State.reset with ev := { EvArgs.none with n := 1 }, phase := { State.reset.phase with flash := image } }
    s.phase.phase = .off ∧ s.ev.n.toNat = 1 ∧ bootStarted 1 s = true ∧ stepWorks 1 s.ev.v s = true ∧ stepChoice 2 s = .run 0 := by
  refine ⟨by decide, by decide, by decide, ?_, by rfl⟩
  have e : imageCode image 0 = 0 := image_passes h
  show (imageCode image 0 == 0) = true
  rw [e]; rfl
theorem witness_StartAttestationAndSnapshots_steps :
    let run (n : Nat) (s : State) : Nat := match stepChoice n s with | .run c => c | .skip => 2 | .recovery => 3
    start.phase.phase ≠ .off ∧ State.reset.phase.phase = .off ∧ State.reset.ev.n = 0#8 ∧ bootStarted 1 State.reset = false ∧
    run 1 State.reset = 0 ∧ run 1 (setBoot 1 0x30 State.reset) = 3 ∧ (starting 11 0).ev.n.toNat = 11 ∧
    bootStarted 11 { State.reset with ev := (starting 11 0).ev } = false ∧ bootStarted 1 (starting 1 0) = true ∧ stepWorks 1 (starting 1 0).ev.v (starting 1 0) = false ∧
    stepWorks 2 (starting 2 4).ev.v (starting 2 4) = false ∧ stepWorks 11 (starting 11 0).ev.v (starting 11 0) = true ∧
    stepWorks 2 (starting 2 8).ev.v (starting 2 8) = true ∧ run 3 (starting 2 8) = 0 ∧ run 3 (setBoot 3 0x30 (starting 2 0)) = 3 := by decide
theorem witness_StartAttestationAndSnapshots_phases :
    let s := { State.reset with phase := { State.reset.phase with phase := .recovery } }
    State.reset.phase.flashing = false ∧ s.phase.phase = .recovery ∧ s.ev.vf = 0#7 ∧ (evt { EvArgs.none with v := 1 } s).ev.vf = 0#7 ∧
    (evt { EvArgs.none with vf := 1 } s).ev.vf ≠ 0#7 ∧
    bitB (evt { EvArgs.none with v := 1 } s).ev.v 0 = true ∧ bitB start.ev.v 0 = false ∧ imageCode (staged s) s.phase.minSvn ≠ 0 ∧
    (evt { EvArgs.none with flag := true } s).ev.flag = true ∧ start.ev.flag = false ∧ bitsN s.ev.v 0 8 = 0 ∧
    ({ s with phase := { s.phase with flashing := true } } : State).phase.flashing = true ∧
    (evt { EvArgs.none with id := 0x6000A } s).ev.id = 0x60000 + (11 - 1) ∧ bitsN (evt { EvArgs.none with v := 1 } s).ev.v 0 8 ≠ 0 := by decide
/-- The same image staged. -/
def stagedImage : State := { State.reset with phase := { State.reset.phase with phase := .recovery, staging := (List.range 256).zip image } }
theorem witness_StartAttestationAndSnapshots_staged (h : fusedOk) : imageCode (staged stagedImage) stagedImage.phase.minSvn = 0 := by
  have e : staged stagedImage = image := rfl
  rw [e]
  exact image_passes h
theorem witness_StartAttestationAndSnapshots_report :
    let due (s : State) : Bool := s.agenda.any (fun d => d.ev == .attestationReportReady && d.args.vf == s.ev.vf)
    let s := evt { EvArgs.none with v := 1 } start
    hostClosed 0 s = false ∧ hostClosed 0 (setFn 0 { fnZero with resetting := true } s) = true ∧ bitB s.ev.v 0 = true ∧ bitB start.ev.v 0 = false ∧
    due s = false ∧ due (post 9 .attestationReportReady (argVf 0) s) = true := by decide
/-- An image of the module at reset with its key wrapped by the module's own. -/
def asnap : Image where
  mem := []
  memKey := []
  tags := []
  empty := []
  err := []
  spad := []
  spadEmpty := []
  shadow := []
  lines := []
  cores := []
  streams := []
  quads := []
  strands := []
  launches := []
  barriers := []
  kgens := []
  config := configOf State.reset
  snapKey := 0
  wrapped := Config.wrapKey Config.identityKey (Config.snapshotKey 0)
  keys := []
/-- No work, an operation under way or not, what a restore finds. -/
def kept (busy mine intact : Bool) (l : Table Image) (s : State) : State :=
  { s with snap := ⟨busy, busy, false, 0, mine, intact, 0, 0, 0, 0, l⟩, phase := { s.phase with phase := .running } }
theorem witness_StartAttestationAndSnapshots_image :
    let s := kept true true true [(0, asnap)] State.reset
    let r := kept false true true [(0, asnap)] State.reset
    tfind s.snap.images s.snap.place = some asnap ∧
    asnap.wrapped = Config.wrapKey Config.identityKey (Config.snapshotKey asnap.snapKey) ∧ tfind r.snap.images (imageKey (bitB r.ev.v 2) r) = some asnap :=
  ⟨rfl, rfl, rfl⟩
theorem witness_StartAttestationAndSnapshots_take :
    let s (b : Bool) := kept b true true [] State.reset
    let u := setQuad 0 { quadZero with running := some ⟨0, 0, 0, 0, 0, 0, 0, 0, 0, [], [], 0⟩ } (evt { EvArgs.none with flag := true } start)
    (s true).ev.flag = false ∧ (s true).ev.vf = 0#7 ∧ (s true).phase.phase ≠ .recovery ∧ (evt { EvArgs.none with vf := 1 } start).ev.vf ≠ 0#7 ∧
    (s true).snap.busy = true ∧ (s false).snap.busy = false ∧
    regN 0 (0x2200 + 8 * 15) 23 1 (setRegN 0 (0x2200 + 8 * 15) 23 1 1 (s false)) = 1 ∧ u.ev.flag = true ∧
    (s true).quads = [] ∧ (tfind u.quads 0).isSome = true ∧ (quadAt 0 u).running ≠ none := by decide
theorem witness_StartAttestationAndSnapshots_restore :
    let s := kept false true true [] State.reset
    (kept true false true [] State.reset).snap.mine = false ∧ (kept true true false [] State.reset).snap.intact = false ∧
    (kept true true true [] State.reset).snap.mine = true ∧ (kept true true true [] State.reset).snap.intact = true ∧
    (kept true true true [] State.reset).snap.images = [] ∧ workExists start = true ∧ workExists s = false ∧ bitB s.ev.n 0 = false ∧
    (tfind s.snap.images (imageKey (bitB s.ev.v 2) s)).isNone = true ∧ s.ev.vf = 0#7 ∧ s.phase.phase ≠ .recovery ∧
    configOf State.reset = configOf s ∧ configOf State.reset ≠ configOf (setFn 5 { fnZero with enabled := true } s) ∧
    (kept true true true [] State.reset).snap.host = true ∧ s.snap.host = false := by decide

/-- The PF's queue 0 over 16 entries at 0x3000, its first packet there. -/
def qs (v : Nat) (s : State) : State :=
  let u := paged s
  setRegN 0 8 0 32 1 (setReg 0 0 (BitVec.ofNat 64 (2 ^ 63 + 0x3000 + 4)) (memWrite (keyOf 0 u) 0x3000 (toBytes 128 v) u))
theorem witness_QueueDispatchAndRetire_fetch :
    let got (s : State) := functionRead 0 (regN 0 0 12 44 s * 2 ^ 12 + 128 * (0 % 2 ^ 4)) 128 s
    let s := qs packet.toNat start
    let far := setReg 0 0 (BitVec.ofNat 64 (2 ^ 63 + 2 ^ 40 + 4)) s
    regN 0 16 0 32 s = 0 ∧ regN 0 8 0 32 s = 1 ∧ regN 0 0 0 5 s = 4 ∧ (1 + 2 ^ 32 - 0) % 2 ^ 32 ≤ 2 ^ 4 ∧
    ¬ (17 + 2 ^ 32 - 0) % 2 ^ 32 ≤ 2 ^ 4 ∧ regN 0 8 0 32 (setRegN 0 8 0 32 17 s) = 17 ∧
    regN 0 0 63 1 s = 1 ∧ regN 0 24 8 1 s = 0 ∧ (fnAt 0 s).stopped = false ∧ (fnAt 0 s).resetting = false ∧
    (queueAt (lqueueKey 0 0) s).packet = none ∧ ¬(0 ∈ (queueAt (lqueueKey 0 0) s).held ∧ submissionsHeld 0 s = true) ∧ regN 0 0 63 1 start ≠ 1 ∧ regN 0 8 0 32 start = 0 ∧
    (match got s with | .ok v => (packetTable 0 (BitVec.ofNat 1024 v) s == some []) | .error _ => false) = true ∧
    (match got (qs 0 start) with | .ok v => (packetTable 0 (BitVec.ofNat 1024 v) s == none) | .error _ => false) = true ∧
    (match got { s with memErr := [0x3000 / 32] } with | .error 1 => true | _ => false) = true ∧
    (match got far with | .error e => e != 1 | .ok _ => false) = true := by decide
theorem witness_QueueDispatchAndRetire_dispatch :
    let s (w : Nat) := setQueue (lqueueKey 0 0) { queueZero with packet := some (packet + BitVec.ofNat 1024 (w * 2 ^ 640)) } (paged start)
    let p (w : Nat) : Packet := packet + BitVec.ofNat 1024 (w * 2 ^ 640)
    let deps (w : Nat) : Nat := match depsMet 0 (p w) (s w) with | .ok true => 10 | .ok false => 11 | .error e => e
    (queueAt (lqueueKey 0 0) (s 0)).packet = some (p 0) ∧ (queueAt (lqueueKey 0 0) start).packet = none ∧ (fnAt 0 (s 0)).stopped = false ∧
    deps 0 = 10 ∧ deps (2 ^ 63 + 0x4000) = 10 ∧ deps (2 ^ 63 + 2 ^ 56 + 0x4000) = 11 ∧ deps (2 ^ 63 + 2 ^ 40) ≠ 10 ∧ deps (2 ^ 63 + 2 ^ 40) ≠ 11 ∧
    pkOrdered (p 0) = false ∧ tfind (s 0).launches 0 = none ∧ pkDmode (p 0) = false ∧
    hostClosed 0 start = false ∧ hostClosed 0 (setFn 0 { fnZero with resetting := true } start) = true ∧
    (match depsMet 0 (p (2 ^ 63 + 0x4000)) { s 0 with memErr := [0x4000 / 32] } with | .error 1 => true | _ => false) = true := by decide
theorem witness_QueueDispatchAndRetire_retire :
    let l := { alaunch with cursor := [(0, 4)], live := 0, packet := packet + BitVec.ofNat 1024 (2 ^ 40 * 2 ^ 576), places := [0] }
    let s := setLaunch 1 l (evt { EvArgs.none with id := 1 } start)
    tfind start.launches start.ev.id = none ∧ tfind s.launches 1 = some l ∧ launchOver l = true ∧ launchOver alaunch = false ∧
    pkDone l.packet ≠ 0 ∧ (arriveDone ((l.places.head?).getD 0) 0 (BitVec.ofNat 64 (pkDone l.packet)) s).isNone = true := by decide
def full : State := (List.range 7).foldl (fun s b => setStrand (0x100000 * (b + 1)) { strandZero with run := .resident, slot := some (b + 1) } s)
  (mine (fun t => { t with issued := 8 }) { second start with wheel := 2000000 })
theorem witness_SlotsAndWakes_choose :
    let due := { second start with wheel := 2000000 }
    let l := { alaunch with cursor := [(0, 3)] }
    let f := setLaunch 1 l start
    (choose 0 (second start)).isSome = true ∧ (offers 0 (second start)).all (fun o => !isDue o (second start)) = true ∧
    (offers 0 due).any (fun o => isDue o due) = true ∧ (choose 0 due).isSome = true ∧
    coreIdle 0 (second start) = false ∧ coreIdle 0 { start with power := .cut } = true ∧ partOf (coreHall 0) start = none ∧
    (choose 0 start).isNone = true ∧ freeSlot 0 (second start) = some 1 ∧
    (match choose 0 (second start) with
      | some o => (match o.cand with | .strand 0x6000 => true | _ => false) && (choose 0 (enterOffer 0 1 o (second start))).isNone
      | none => false) = true ∧
    (match choose 0 f with
      | some o => (match o.cand with | .fresh 1 0 3 => true | _ => false) && (choose 0 (enterOffer 0 1 o f)).isNone
      | none => false) = true ∧ freeSlot 0 f = some 1 ∧ tfind f.launches 1 = some l := by decide
theorem witness_SlotsAndWakes_due :
    let due := { second start with wheel := 2000000 }
    (offers 0 start).all (fun o => !isDue o start) = true ∧ (offers 0 due).any (fun o => isDue o due) = true ∧ (freeSlot 0 due).isSome = true ∧
    (freeSlot 0 full).isSome = false ∧ (offers 0 full).any (fun o => isDue o full) = true ∧
    (∀ e ∈ full.strands, e.2.core = 0 → e.2.slot.isSome = true → e.2.leaving = false) ∧
    (full.strands.filter (fun e => e.2.core == 0 && e.2.slot.isSome && e.2.run == .resident && decide (8 ≤ e.2.issued) && !isDmode e.1 full)).map Prod.fst = [k] ∧
    (mine (fun t => { t with leaving := true }) full).strands.any (fun e => e.2.core == 0 && e.2.slot.isSome && e.2.leaving) = true ∧
    (freeSlot 0 (mine (fun t => { t with leaving := true }) full)).isSome = false := by decide
theorem witness_SlotsAndWakes_stall :
    let ev := evt { EvArgs.none with ctx := 0x2000 }
    let s := ev (mine (fun t => { t with stall := some 0 }) { second start with wheel := 2000000 })
    sid s.ev.vf s.ev.ctx = k ∧ (strandAt k start).stall = none ∧ (strandAt k s).stall = some 0 ∧ (strandAt k s).slot.isSome = true ∧
    (strandAt k s).leaving = false ∧ hdrN k 2 0 2 s ≠ 1 ∧ hdrDmode k s = false ∧
    0 + cyclesToSlots 0 (8 * 64) s ≤ s.wheel ∧ hdrN k 2 2 8 s = 0 ∧ hdrN k 2 0 2 s ≠ 2 ∧ offers 0 s ≠ [] ∧ offers 0 start = [] ∧
    ({ s with wheel := 0 } : State).wheel < 0 + cyclesToSlots 0 (8 * 64) s := by decide
theorem witness_SlotsAndWakes_wake :
    let s (f : Strand → Strand) := evt { EvArgs.none with ctx := 0x2000, n := 2 } (mine f start)
    let parked := s (fun t => { t with run := .held, hold := 5, wakeBits := 3, goalReg := 31, goalStream := false })
    let waits := s (fun t => { t with run := .held, hold := 3, wait := .barrier (curBarrier 0 4 start) 2 })
    (strandAt k (s id)).run ≠ .held ∧ (strandAt k parked).run = .held ∧ (strandAt k parked).hold = 5#4 ∧ wakeCauses k 2 parked ≠ 0 ∧
    bitB (strandAt k parked).wakeBits 1 = true ∧ (strandAt k parked).goalStream = false ∧ (strandAt k parked).goalReg ≠ 0#5 ∧
    wakeCauses k 0 (s (fun t => { t with run := .held, hold := 5, wakeBits := 2 })) = 0 ∧
    (strandAt k waits).run = .held ∧ (strandAt k waits).hold ≠ 5#4 ∧ (strandAt k waits).wait = .barrier (curBarrier 0 4 start) 2 ∧
    barrierLeft (curBarrier 0 4 start) 2 waits = true ∧
    barrierLeft (curBarrier 0 4 start) (barrierAt (curBarrier 0 4 start) waits).phase waits = false ∧
    (strandAt k (s (fun t => { t with run := .held, hold := 1 }))).wait = .none := by decide
/-- Every core of hall 0: vacate (op 1) and release (op 2). -/
def vac (op : Nat) : Word := BitVec.ofNat 64 (2 ^ 63 + op * 2 ^ 24 + 64 * 2 ^ 10)
theorem witness_VacatingAndPartitions_vacate :
    let s := evt { EvArgs.none with v := vac 1 } start
    let l := { alaunch with places := [0], orig := [0] }
    let pin (s : State) : Bool := s.launches.any (fun e => e.2.places.any (vacCores (vac 1)).contains && pkPinned e.2.packet)
    hostClosed 0 s = false ∧ hostClosed 0 (setFn 0 { fnZero with resetting := true } s) = true ∧
    bitB start.ev.v 63 = false ∧ bitB s.ev.v 63 = true ∧ vacWorking 0 s = false ∧ vacWorking 0 (post 1 .vacateDone (argVf 0) s) = true ∧
    vacMalformed 0 (vac 1) = false ∧ vacMalformed 0 (vac 2) = false ∧ vacMalformed 0 (vac 0) = true ∧ pin s = false ∧
    pin (setLaunch 1 { l with vf := 3, packet := packet + BitVec.ofNat 1024 (2 ^ 63) } s) = true ∧
    (vacCores (vac 1)).any (fun c => (partOf (coreHall c) s).isSome) = false ∧
    (vacCores (vac 1)).any (fun c => (partOf (coreHall c) (setReg 0 0x2200 0x800001 s)).isSome) = true ∧
    tfind (setLaunch 1 { l with suspended := true } s).launches 1 = some { l with suspended := true } ∧ l.vf = vacVictim (vac 2) ∧
    l.orig.any (vacCores (vac 2)).contains = true := by decide
theorem witness_VacatingAndPartitions_vacated :
    let s := evt { EvArgs.none with v := vac 1 } start
    let free := mine (fun t => { t with slot := none }) s
    s.strands.any (fun e => sidVf e.1 == vacVictim (vac 1) && (vacCores (vac 1)).contains e.2.core && e.2.slot.isSome) = true ∧
    free.strands.any (fun e => sidVf e.1 == vacVictim (vac 1) && (vacCores (vac 1)).contains e.2.core && e.2.slot.isSome) = false ∧
    (vacQuads (vac 1)).length = 64 ∧ free.quads = [] ∧ (∀ c ∈ vacCores (vac 1), busyWindows c free = []) ∧ alaunch.vf = vacVictim (vac 1) ∧
    ([0, 255] : List Nat).all (vacCores (vac 1)).contains = true ∧ (vacCores (vac 1)).contains 256 = false := by decide
theorem witness_VacatingAndPartitions_dpart :
    let s (v : Word) := evt { EvArgs.none with id := 0x2200 + 8 * 15, v := v } State.reset
    let o (v : Word) := setReg 0 0x2200 0x800001 (s v)
    let exceeds (s : State) : Bool := (List.range 16).any (fun m => m != 15 && regN 0 (0x2200 + 8 * m) 23 1 s == 1 &&
        (reg 0 (0x2200 + 8 * m) s &&& (s.ev.v &&& 0xFFFFFF#64) &&& 0xFFFF#64) != 0#64)
    (15 : Nat) < 16 ∧ (s 0).ev.id = 0x2200 + 8 * 15 ∧ (evt { EvArgs.none with vf := 1 } start).ev.vf ≠ 0#7 ∧ (s 0).ev.vf = 0#7 ∧
    bitB ((s 0x808000).ev.v &&& 0xFFFFFF#64) 23 = true ∧ exceeds (o 0x800001) = true ∧ exceeds (o 0x808000) = false ∧
    (s 0x808000).strands = [] ∧ (s 0x808000).ev.v &&& 0xFFFFFF#64 ≠ reg 0 (0x2200 + 8 * 15) (s 0x808000) ∧
    bitB ((s 0).ev.v &&& 0xFFFFFF#64) 23 = false ∧ hallHasStrand 0 false (evt { EvArgs.none with v := 0x800001 } start) = true := by decide
theorem witness_VacatingAndPartitions_logs :
    let s := evt { EvArgs.none with id := 0x4000 + 64 * 15 } (setReg 0 (0x2200 + 8 * 15) 0x808000 start)
    hostClosed 0 s = false ∧ hostClosed 0 (setFn 0 { fnZero with resetting := true } s) = true ∧ s.ev.id / 64 = 0x100 + 15 ∧
    (partAt 15 s).waitingLog = [] ∧ partLaunches 15 s = [] ∧ logMode 15 s = 0 ∧ logSizeOk (logSize 15 s) = false ∧ ownsLog 0 15 s = true ∧ ownsLog 0 15 start = false ∧ (partAt 15 s).paused = false ∧
    (partAt 15 (setPart 15 { partZero with paused := true } s)).paused = true ∧
    (partAt 15 (setPart 15 { partZero with paused := true } s)).diverged = false ∧
    (partAt 15 (setPart 15 { partZero with diverged := true } s)).diverged = true ∧ (partAt 15 s).held = false ∧
    s.ev.flag = false ∧ (evt { EvArgs.none with id := 0x4000 + 64 * 15, flag := true } s).ev.flag = true := by decide

def acached (pl : Nat) (m : BitVec 8) : Copy := ⟨pl, m, false, false, false, 0, 7⟩
def amsg : TMsg := { tmsgZero with dst := 1, ctx := 0x6000#56, id := 10, mask := 255, data := [1, 2, 3, 4, 5, 6, 7, 8] }
def sent (m : TMsg) (n : BitVec 8) (s : State) : State := { evt { EvArgs.none with id := 9, n := n } s with tmsgs := [(9, m)] }
theorem witness_LinesOfRecords_fetch :
    let s (f : State → State) := evt { EvArgs.none with ctx := 0x6000, n := 10 } (f (setStrand 0x6000 { strandZero with run := .ready, fetching := [10] } (paged start)))
    let held := setLine (lineKey 0x6000 10) ⟨none, [acached 0 255]⟩
    let marked (s : State) := setHdrN 0x6000 6 0 64 32 (withHeader 0x6000 s)
    sid (s id).ev.vf (s id).ev.ctx = 0x6000 ∧ 10 ∈ (strandAt 0x6000 (s id)).fetching ∧ 10 ∉ (strandAt k start).fetching ∧
    (s id).power = .on ∧ ({ s id with power := .saved } : State).power ≠ .on ∧ (s id).lineErr = [] ∧
    lineKey 0x6000 10 ∈ ({ s held with lineErr := [lineKey 0x6000 10] } : State).lineErr ∧ lineEmpty (lineAt (lineKey 0x6000 10) (s held)) = false ∧
    cacheLoad 0 (s id) < Config.registerCacheLines ∧ cacheLoad 0 (s held) < Config.registerCacheLines ∧ (10 : Nat) ≠ 80 ∧ (10 : Nat) < 84 ∧
    (lineAt (lineKey 0x6000 10) (s held)).hc = [acached 0 255] ∧ (acached 0 255).mask = 255#8 ∧ (lineAt (lineKey 0x6000 10) (s id)).hc = [] ∧
    hdrN 0x6000 1 36 1 (s id) = 0 ∧ (0x6000 : Nat) % 8192 = 0 ∧ lineMaterial 0x6000 10 (s id) = false ∧ hdrN 0x6000 1 36 1 (s marked) = 0 ∧
    lineMaterial 0x6000 10 (s marked) = true ∧ (lineAt (lineKey 0x6000 10) (s marked)).rc = none ∧ (lineAt (lineKey 0x6000 10) (s marked)).hc = [] ∧
    (match readRecLine 0x6000 10 0 (s marked) with | .ok _ => true | .error _ => false) = true ∧
    (match readRecLine 0x6000 10 0 { s marked with memErr := [(0x6000 + 640) / 32] } with | .error _ => true | .ok _ => false) = true := by decide
theorem witness_LinesOfRecords_messages :
    let s (m : TMsg) (n : BitVec 8) := sent m n (second start)
    let held (l : List Copy) (s : State) := setLine (lineKey 0x6000 10) ⟨none, l⟩ s
    let moving : Copy := { acached onTransit 255 with data := ofWords amsg.data }
    let home := { amsg with dst := 0 }
    let w := { amsg with id := 0x8000, kind := .lineWriteback }
    let f := setStrand 0x6000 { strandZero with fetching := [10] } (s home 0)
    tfind start.tmsgs 9 = none ∧ tfind (s amsg 0).tmsgs 9 = some amsg ∧ (s amsg 0).ev.n = 0#8 ∧ (s amsg 1).ev.n ≠ 0#8 ∧
    hcAt amsg.dst (lineAt (lineKey 0x6000 10) (held [acached 1 255] (s amsg 0))) = some (acached 1 255) ∧
    (lineAt (lineKey 0x6000 10) (s amsg 0)).hc = [] ∧ amsg.present = false ∧
    (match readRecLine 0x6000 10 1 (dropT 9 (setHall 1 (hallAt 0 (paged start)) (s { amsg with present := true } 1))) with | .ok _ => true | .error _ => false) = true ∧
    (tfind (s { amsg with mask := 0 } 0).tmsgs 9).isSome = true ∧ home.mask = 255#8 ∧ home.dst = coreHall (strandAt 0x6000 f).core ∧ home.dst ≠ onTransit ∧
    home.id ≠ 80 ∧ (lineAt (lineKey 0x6000 10) f).rc = none ∧ 10 ∈ (strandAt 0x6000 f).fetching ∧ (lineAt (lineKey 0x6000 10) f).hc = [] ∧
    (lineAt (lineKey 0x6000 10) (held [moving] f)).hc = [moving] ∧ moving.place = onTransit ∧ moving.mask = 255#8 ∧ moving.data = ofWords amsg.data ∧
    f.lineErr = [] ∧ cacheLoad 0 f < Config.registerCacheLines ∧ cacheLoad 0 (held [moving] f) < Config.registerCacheLines ∧
    (held [moving] f).lines.length + 1 ≤ Config.hallCacheLines ∧
    w.id % 64 = 0 ∧ Memory.wf (s w 1).mem = true ∧ memErrAt w.id 64 (s w 1) = false ∧ w.src ≠ w.dst ∧ uncached k (s w 1) = false ∧
    (lineAt (lineKey 0x6000 80) (s amsg 0)).hc = [] := by decide
theorem witness_LinesOfRecords_exclusive : Exclusive ⟨some (acached 0 255), [acached 0 3, acached 1 4]⟩ := by
  refine List.Pairwise.cons ?_ (List.Pairwise.cons ?_ List.Pairwise.nil) <;> simp [acached]
theorem witness_LinesOfRecords_kept :
    let kept := setLine (lineKey 0x6000 10) ⟨some { acached 0 255 with kept := true }, []⟩ (setStrand 0x6000 strandZero start)
    let held := setStrand 0x6000 { strandZero with run := .held, hold := 6 } start
    (∀ e ∈ held.lines, keptLine e.2 = false) ∧ held.lines.length + held.strands.length ≤ Config.hallCacheLines ∧
    kept.lines.length + kept.strands.length ≤ Config.hallCacheLines ∧ (strandAt 0x6000 held).run = .held ∧ (strandAt 0x6000 held).hold = 6#4 ∧
    (kept.lines.filter (fun e => keptLine e.2)).map Prod.fst = [lineKey 0x6000 10] ∧
    (match recXlate 0x6000 .write (64 * 10) 0 kept with | .ok _ => false | _ => true) = true := by decide
theorem witness_TransitAndTravel_send :
    let m : TMsg := { amsg with src := 0, dst := 1, flits := 2, kind := .carry }
    let s (m : TMsg) := setHall 0 { hallZero with transmap := none } (sent m 0 start)
    transitQueue 0 ((0 + 1 + (s m).wheel % 15) % 16) (s m) = [(9, m)] ∧ tfind (s m).tmsgs 9 = some m ∧ transByte 0 0 (s m) < 128 ∧
    m.sent + 1 < m.flits ∧ ({ m with sent := 1 } : TMsg).sent + 1 = m.flits ∧
    transitQueue 0 1 (s { m with sent := 1 }) = [(9, { m with sent := 1 })] := by decide
theorem witness_TransitAndTravel_depart :
    let s (f : Strand → Strand) := evt { EvArgs.none with ctx := 0x2000 } (mine f start)
    outstanding (strandAt k (s (fun t => { t with loads := 1 }))) = true ∧ outstanding (strandAt k (s id)) = false ∧ (s id).power = .on ∧
    ({ s id with power := .cut } : State).power ≠ .on ∧
    (strandAt k (s (fun t => { t with errored := [⟨5, 6, 7⟩] }))).errored = [⟨5, 6, 7⟩] ∧ (strandAt k (s id)).errored = [] ∧
    (∀ l ∈ [0, 1, 2, 5], haveMask (lineAt (lineKey k l) (s id)) = 255#8) ∧ (lineAt (lineKey k 0) (s id)).hc = [] ∧
    (s id).lines.length + 1 ≤ Config.hallCacheLines ∧ hdrN k 1 36 1 (s id) = 0 ∧
    carriesQueued 0 0 (coreHall ((strandAt k (s id)).goal.getD 0)) (s id) < 64 := by decide
theorem witness_TransitAndTravel_arrive :
    let c : TMsg := { amsg with kind := .carry, ctx := 0x2000 }
    let s := sent { amsg with kind := .remoteRequest, id := 3 } 0 (asked areq)
    tfind start.tmsgs 9 = none ∧ tfind s.tmsgs 9 = some { amsg with kind := .remoteRequest, id := 3 } ∧ tfind s.reqs 3 = some areq ∧
    areq.kind = 0#4 ∧ areq.peer = none ∧ 1 ≤ (8#5).toNat ∧ (8#5).toNat ≤ 10 ∧ tfind (sent c 0 start).tmsgs 9 = some c ∧
    (strandAt k (sent c 0 start)).goal = none ∧ strandHalted k 256 (sent c 0 start) = false ∧
    strandHalted k 256 (setHall 1 { hallZero with halts := [(0, false)] } (sent c 0 start)) = true ∧
    cacheLoad 256 (sent c 0 start) + 4 ≤ Config.registerCacheLines ∧ (∀ l ∈ [0, 1, 2, 5], hcAt onTransit (lineAt (lineKey k l) (sent c 0 start)) = none) := by
  decide
theorem witness_TranslationAndPages_walk :
    let w (va : BitVec 56) : Walk := ⟨0, va, 0, none, 0⟩
    let s (va : BitVec 56) := { evt { EvArgs.none with id := 4 } (paged start) with walks := [(4, w va)] }
    tfind start.walks start.ev.id = none ∧ tfind (s 5).walks 4 = some (w 5) ∧
    (match (walk 0 0 5 (s 5)).res with | .ok _ => true | _ => false) = true ∧
    (match (walk 0 0 0x40000000 (s 0x40000000)).res with | .fault _ _ => true | _ => false) = true := by decide
theorem witness_TranslationAndPages_lines :
    let s := evt { EvArgs.none with ctx := 0x1FFFC0 } (paged start)
    (tlbHit 0 0 0x1FFFC0 start).isNone = true ∧ (tlbHit 0 0 0x1FFFC0 s).isSome = true ∧ memErrAt 0x1FFFC0 64 s = false ∧
    memErrAt 0x1FFFC0 64 { s with memErr := [0x1FFFE0 / 32] } = true ∧
    (match tlbHit 0 0 0x1FFFC0 s with | some x => x.pa 0x1FFFC0 == 0x1FFFC0 | none => false) = true ∧
    start.ev.flag = false ∧ (evt { EvArgs.none with flag := true } start).ev.flag = true ∧
    (windowAt 0 0 (setCore 0 { coreAt 0 start with windows := [(0, ⟨0, 0, 3, false, true, 0, 0, 0, 0, true, [k], true⟩)] } start)).waiters = [k] ∧
    (windowAt 0 0 start).bound = false ∧
    (windowAt 0 0 (setCore 0 { coreAt 0 start with windows := [(0, ⟨0, 0, 3, false, true, 0, 0, 0, 0, true, [k], true⟩)] } start)).bound = true ∧
    (windowAt 0 0 (setCore 0 { coreAt 0 start with windows := [(0, ⟨0, 0, 3, false, true, 0, 0, 0, 0, true, [k], true⟩)] } start)).state = 3#2 ∧
    (strandAt k (mine (fun t => { t with touching := some 0 }) start)).touching = some 0 ∧ homeOf 0x1FFFC0 = coreHall 0 ∧
    nextDecay start = some (2 * (1000000 * 10)) ∧ (tfind (setHall 3 hallZero start).halls 3).isSome = true := by decide
theorem witness_TranslationAndPages_moves :
    let m : Move := ⟨0, 0x200000, 21, 0, 0, 0x100000, 0x3F, 0x400000, 0x600000, 0⟩
    let s := { evt { EvArgs.none with id := 4 } (paged start) with moves := [(4, m)] }
    let bad (s : State) : Bool := memErrAt m.oldPa (2 ^ m.lsize) s || memErrAt m.leafPa 8 s || memVal (keyOf m.vf s) m.leafPa 8 s != m.leaf.toNat
    tfind start.moves start.ev.id = none ∧ tfind s.moves 4 = some m ∧ moveBusy m s.ev.flag (withdrawMoved m s) = false ∧ bad s = false ∧ s.ev.flag = false ∧
    moveBusy m true (withdrawMoved m (evt { EvArgs.none with id := 4, flag := true } s)) = false ∧
    bad { s with memErr := [0x600000 / 32 - 1] } = true ∧
    moveBusy m false (withdrawMoved m (setReq 3 { areq with pa := 0x5FFFF8, kind := 1 } s)) = true ∧
    moveBusy m true (withdrawMoved m (setReq 3 { areq with pa := 0x400000 } s)) = true := by decide
theorem witness_TranslationAndPages_zeroing :
    let s (vf n pa : Nat) := setReg 0 0x3408 (BitVec.ofNat 64 n) (setReg 0 0x3400 (BitVec.ofNat 64 pa)
      (evt { EvArgs.none with v := BitVec.ofNat 64 (2 ^ 63 + vf) } start))
    let out (s : State) : Bool := let pa := regN 0 0x3400 16 36 s * 2 ^ 16
      let last := pa + regN 0 0x3408 0 32 s * 2 ^ 16 - 1
      !inMemory pa || !inMemory last || isHbm pa != isHbm last
    let own (b : Nat) (s : State) := memWrite (keyOf 0 s) (ownBase s + ownIndex 0x10000) [BitVec.ofNat 8 b] (setReg 0 0x3000 1 s)
    (evt { EvArgs.none with vf := 1 } start).ev.vf ≠ 0#7 ∧ bitB start.ev.v 63 = false ∧ (s 0 1 0).ev.vf = 0#7 ∧ bitB (s 0 1 0).ev.v 63 = true ∧
    ({ s 0 1 0 with zeroing := some (0, 1, 0) } : State).zeroing ≠ none ∧ (s 0 0 0).zeroing = none ∧ regN 0 0x3408 0 32 (s 0 0 0) = 0 ∧
    regN 0 0x3408 0 32 (s 0 1 0x10000) = 1 ∧ out (s 0 1 (2 ^ 38)) = true ∧ out (s 0 2 (2 ^ 38 - 2 ^ 16)) = true ∧ out (s 0 1 0x10000) = false ∧
    zeroForeign 0 0x10000 (s 0 1 0x10000) = false ∧ zeroForeign 0 0x10000 (own 133 (s 0 1 0x10000)) = true ∧
    (fnAt 5 (s 5 1 0x10000)).enabled = false ∧ (fnAt 5 (setFn 5 { fnZero with enabled := true } (s 5 1 0x10000))).enabled = true ∧
    (0x10000 : Nat) % 32 = 0 ∧ ({ s 0 1 0x10000 with zeroing := some (0x10000, 1, 0) } : State).zeroing = some (0x10000, 1, 0) ∧ Memory.wf start.mem = true := by decide
theorem witness_TranslationAndPages_errors :
    let s (n : BitVec 8) := evt { EvArgs.none with n := n, id := lineKey k 3 } start
    (s 0).ev.n = 0#8 ∧ (s 1).ev.n = 1#8 ∧ (s 2).ev.n = 2#8 ∧ lineEmpty (lineAt (lineKey k 3) (s 2)) = false ∧
    lineEmpty (lineAt (lineKey 0x6000 3) (evt { EvArgs.none with n := 2, id := lineKey 0x6000 3 } start)) = true := by decide

def setEv (s : State) : State := evt { s.ev with n := 1, id := 1 } s
/-- A stream of 8-byte elements from an address, kind 1, n of them. -/
def sdesc (a n : Nat) : BitVec 512 := setBits (setBits (setBits (BitVec.ofNat 512 a) 464 2 1) 466 3 3) 224 24 n
def astream (d : BitVec 512) (buf : List (BitVec 8)) (q : Nat) (s : State) : State :=
  setStream k q { streamZero with desc := d, priv := 1, buf := buf } (evt { EvArgs.none with ctx := 0x2000, q := BitVec.ofNat 6 q } s)
theorem witness_EnginesAndMessages_streams :
    let s (a n b : Nat) := astream (sdesc a n) (List.replicate b 1) 0 (paged start)
    let x (s : State) := streamAt k 0 s
    let asked (ev : Instr) := post 9 ev { EvArgs.none with ctx := 0x2000, q := 0, n := 1, id := 1 }
    (x (s 0x3000 1 0)).kind = 1 ∧ (x (s 0x3000 1 0)).status = 0 ∧ (s 0x3000 1 0).ev.n ≠ 1#8 ∧ (x start).kind ≠ 1 ∧
    streamOut .streamMemoryFetch k 0 (asked .streamMemoryFetch (s 0x3000 1 0)) = true ∧ streamOut .streamMemoryFetch k 0 (s 0x3000 1 0) = false ∧
    streamOut .streamMemoryWrite k 0 (asked .streamMemoryWrite (s 0x3000 1 8)) = true ∧ streamOut .streamMemoryWrite k 0 (s 0x3000 1 8) = false ∧
    2 ^ (x (s 0x3000 1 0)).esz = 8 ∧ sdTotal (sdesc 0x3000 1) ≤ fetchIndex (x (s 0x3000 1 8)) ∧ fetchIndex (x (s 0x3000 1 0)) < sdTotal (sdesc 0x3000 1) ∧
    fetchIndex (x (s 0x3000 100 505)) < sdTotal (sdesc 0x3000 100) ∧
    (x (s 0x3000 100 505)).room < 8 ∧ 8 ≤ (x (s 0x3000 100 504)).room ∧ (x (s 0x3000 1 7)).buf.length < 8 ∧ 8 ≤ (x (s 0x3000 1 8)).buf.length ∧
    streamMoving k 0 (s 0x3000 1 8) = false ∧
    streamMoving k 0 { s 0x3000 1 0 with moves := [(4, ⟨0, 0, 21, 0, 0, 0, 0x3F, 0, 0, 0⟩)] } = true := by decide
theorem witness_EnginesAndMessages_elements :
    let s (a n b : Nat) := setEv (astream (sdesc a n) (List.replicate b 1) 0 (paged start))
    let w (a n b c : Nat) := setStream k 0 { streamAt k 0 (s a n b) with count := c } (s a n b)
    let x (s : State) := streamAt k 0 s
    (s 0x3000 1 0).ev.n = 1#8 ∧ (s 0x3000 1 0).ev.v = BitVec.ofNat 64 (x (s 0x3000 1 0)).order ∧ (s 0x3000 1 0).ev.id = 1 ∧
    (match engineRead 0 0 1 true (sdAddr (sdesc 0x3000 1) (fetchIndex (x (s 0x3000 1 0)))) 8 (s 0x3000 1 0) with | .ok _ => true | .error _ => false) = true ∧
    (match engineRead 0 0 1 true (sdAddr (sdesc 0x40000000 1) (fetchIndex (x (s 0x40000000 1 0)))) 8 (s 0x40000000 1 0) with | .ok _ => false | .error _ => true) = true ∧
    sdTotal (sdesc 0x3000 1) ≤ writeIndex (x (w 0x3000 1 0 1)) ∧ writeIndex (x (w 0x3000 1 8 1)) < sdTotal (sdesc 0x3000 1) ∧
    writeIndex (x (w 0x3000 1 0 0)) < sdTotal (sdesc 0x3000 1) ∧ (x (w 0x3000 1 0 0)).buf.length < 8 ∧ (x (w 0x3000 1 8 1)).buf.length < 2 * 8 ∧
    (match engineWrite 0 0 1 true (sdAddr (sdesc 0x3000 1) (writeIndex (x (w 0x3000 1 8 1)))) 8 (ofBytes (List.replicate 8 1)) (w 0x3000 1 8 1) with
      | .ok _ => true | .error _ => false) = true ∧
    (match engineWrite 0 0 1 true (sdAddr (sdesc 0x40000000 1) (writeIndex (x (w 0x40000000 1 8 1)))) 8 (ofBytes (List.replicate 8 1)) (w 0x40000000 1 8 1) with
      | .ok _ => false | .error _ => true) = true := by decide
theorem witness_EnginesAndMessages_arrive :
    let d (st : Nat) : BitVec 512 := setBits (setBits (setBits 0 464 2 2) 472 11 5) 469 3 st
    let s (b st : Nat) := evt { EvArgs.none with id := 5, n := 32 } (astream (d st) (List.replicate b 1) 0 start)
    let found (s : State) := s.streams.find? (fun e => decide (e.1 % 8 < 4) && e.2.core == 0 && e.2.kind == 2 && decide (e.2.status < 6) && sdCirc e.2.desc == 5 && sidVf (e.1 / 8) == 0)
    (found start).isNone = true ∧ (found (s 0 0)).isSome = true ∧ (match found (s 0 1) with | some e => e.2.status != 0 | none => false) = true ∧
    (match found (s 0 0) with | some e => tfind (s 0 0).streams e.1 == some e.2 | none => false) = true ∧
    (match found (s 0 0) with | some e => e.2.status == 0 && decide (32 ≤ e.2.room) | none => false) = true ∧
    (match found (s 4065 0) with | some e => e.2.status == 0 && decide (e.2.room < 32) | none => false) = true := by decide
theorem witness_EnginesAndMessages_tiles :
    let t (dep : Nat) : Task := ⟨0, 0, 1, 0, BitVec.ofNat 1024 (dep * 2 ^ (8 * 104)), 0, 0, 0, 1, [], [], 0⟩
    let s (dep : Nat) := setQuad 0 { quadZero with tiles := [t dep] } (launched (paged start))
    let r (dep : Nat) (s : State) : Nat := match taskReady (t dep) s with | .ok true => 1 | .ok false => 0 | .error _ => 2
    (quadAt 0 start).tiles = [] ∧ (quadAt 0 (s 0)).running = none ∧ (quadAt 0 (s 0)).tiles = [t 0] ∧ r 0 (s 0) = 1 ∧
    r (2 ^ 63 + 2 ^ 56 + 0x4000) (s 0) = 0 ∧ r (2 ^ 63 + 2 ^ 40) (s 0) = 2 ∧ workHeld 0 (s 0) = false ∧
    workHeld 0 { s 0 with power := .saving } = true ∧ Memory.wf (s 0).spad = true ∧ tfind (s 0).launches 1 = some alaunch ∧
    (quadAt 0 (setQuad 0 { quadZero with running := some (t 0) } start)).running = some (t 0) := by decide
theorem witness_EnginesAndMessages_copies :
    let d (a esz n z : Nat) : BitVec 1024 := BitVec.ofNat 1024 (a + (0x3000) * 2 ^ 64 + n * 2 ^ (8 * 56) + n * 2 ^ (8 * 71) + esz * 2 ^ (8 * 86) + z * 2 ^ (8 * 86 + 3))
    let j (d : BitVec 1024) : CopyJob := ⟨0, 0, 1, 0, d, 0, 1, 0, none, false, false, 0⟩
    let s (d : BitVec 1024) := evt { EvArgs.none with n := 1#8 } (setQuad 0 { quadZero with active := [j d] } (paged start))
    let w := setQuad 0 { quadZero with copies := [j 0] } (paged start)
    let n (d : BitVec 1024) := min (4096 / 2 ^ dEsz d) (dTotal d - 0)
    let ran (d : BitVec 1024) (s : State) := copyElems (j d) (n d) 0 (charge 0 1 3 (n d * 2 ^ dEsz d) s)
    let whole (d : BitVec 1024) (s : State) (p : State → Bool) : Bool := match ran d s with | (none, u) => p u | _ => false
    let held (s : State) := setFn 0 { fnZero with stopped := true } s
    w.ev.n = 0#8 ∧ w.ev.id = 0 ∧ (quadAt 0 w).active = [] ∧ (quadAt 0 w).copies = [j 0] ∧ copyHeld (j 0) w = false ∧ chunkOut 0 w = false ∧
    (s 0).ev.n = 1#8 ∧ (s 0).ev.v.toNat = (j 0).order ∧
    (quadAt 0 start).active = [] ∧ (quadAt 0 start).copies = [] ∧ (quadAt 0 (s 0)).active = [j 0] ∧ (quadAt 0 (s 0)).copies = [] ∧
    chunkMoving (j 0) (n 0) (s 0) = false ∧
    (match ran (d 0x40000000 3 1 0) (s (d 0x40000000 3 1 0)) with | (some _, _) => true | _ => false) = true ∧
    n (d 0x2000 3 1 0) = 1 ∧ whole (d 0x2000 3 1 0) (s (d 0x2000 3 1 0)) (fun _ => true) = true ∧
    dTotal (d 0x2000 3 1 0) ≤ 0 + n (d 0x2000 3 1 0) ∧ dTotal (d 0x2000 3 1 1) = 0 ∧ n (d 0x2000 7 33 0) = 32 ∧
    0 + n (d 0x2000 7 33 0) < dTotal (d 0x2000 7 33 0) ∧
    whole (d 0x2000 7 33 0) (s (d 0x2000 7 33 0)) (fun u => !copyAborted (j (d 0x2000 7 33 0)) u && !copyHeld (j (d 0x2000 7 33 0)) u) = true ∧
    whole (d 0x2000 7 33 0) (held (s (d 0x2000 7 33 0))) (fun u => !copyAborted (j (d 0x2000 7 33 0)) u && copyHeld (j (d 0x2000 7 33 0)) u) = true := by decide
theorem witness_EnginesAndMessages_messages :
    let m : TMsg := { tmsgZero with ctx := 0x2000, id := 0, data := [7, 2, 1], src := 15, flits := 2, kind := .mail }
    let s (m : TMsg) := sent m 0 (setLaunch 1 { alaunch with places := [0] } (launched start))
    let kk := sid 0 (indexCtx packet 0)
    tfind start.tmsgs 9 = none ∧ tfind (s m).tmsgs 9 = some m ∧ ((m.data[2]?).getD 0).toNat = 1 ∧ tfind start.launches 1 = none ∧
    (tfind (s m).launches 1).isSome = true ∧ (strandAt kk (s m)).run ≠ .exited ∧ (coreAt 0 (s m)).msgs.length < 256 ∧
    256 ≤ (coreAt 0 (setCore 0 { coreAt 0 start with msgs := List.replicate 256 ⟨1, 2, 0, 0, 9⟩ } (s m))).msgs.length ∧
    (strandAt kk (setStrand kk { strandZero with launch := 1, run := .exited } (s m))).run = .exited ∧
    (strandAt kk (setStrand kk { strandZero with launch := 1, run := .exited } (s m))).launch = 1 ∧
    ({ m with flits := 0 } : TMsg).flits = 0 ∧ m.flits ≠ 0 ∧ m.src < 16 ∧
    (strandAt (sid m.vf m.ctx) (mine (fun t => { t with wait := .message 9 }) (s m))).wait = .message 9 := by decide

theorem witness_PendingTrapsAndStops_traps :
    let s (f : Strand → Strand) := evt { EvArgs.none with ctx := 0x2000 } (mine f start)
    sid (s id).ev.vf (s id).ev.ctx = k ∧ (strandAt k (s (fun t => { t with errored := [⟨5, 6, 7⟩] }))).errored = [⟨5, 6, 7⟩] ∧
    (strandAt k (s id)).errored = [] ∧ (strandAt k (s (fun t => { t with stepped := true }))).stepped = true ∧ (strandAt k (s id)).stepped = false ∧
    (strandAt k (s (fun t => { t with stopReq := true }))).stopReq = true ∧ (strandAt k (s id)).stopReq = false ∧
    strandDue k (s id) = 0 ∧
    (match logStrand k 4 24#64 (s id) with | .go _ _ => true | _ => false) = true ∧ (match logStrand k 4 16#64 (s id) with | .go _ _ => true | _ => false) = true ∧
    ((lineAt (lineKey k 0) (s id)).rc).isSome = true ∧ lexpPending k (field 3 10 1 1 (s id)) = true ∧ lexpPending k (s id) = false ∧ qexhPending k (field 3 11 1 1 (s id)) = true ∧ qexhPending k (s id) = false := by
  decide
theorem witness_PendingTrapsAndStops_stops :
    let s (v : Nat) := evt { EvArgs.none with v := BitVec.ofNat 64 v } start
    (evt { EvArgs.none with vf := 1 } start).ev.vf ≠ 0#7 ∧ bitB (s 0).ev.v 63 = false ∧ bitB (s (2 ^ 63 + 127)).ev.v 63 = true ∧
    bitsN (s (2 ^ 63 + 127)).ev.v 7 2 ≠ 1 ∧ BitVec.ofNat 7 (bitsN (s (2 ^ 63 + 128)).ev.v 0 7) = 0#7 ∧ bitsN (s (2 ^ 63 + 128 + 127)).ev.v 7 2 = 1 ∧
    bitsN (s (2 ^ 63 + 256 + 127)).ev.v 7 2 = 2 ∧ BitVec.ofNat 7 (bitsN (s (2 ^ 63 + 128 + 127)).ev.v 0 7) ≠ 0#7 ∧
    (tfind start.strands k).isSome = true ∧ (strandAt k start).slot.isSome = true ∧ start.strands.any (fun e => sidVf e.1 == 0 && e.2.slot.isSome) = true ∧
    start.ev.flag = false ∧ (evt { EvArgs.none with flag := true } start).ev.flag = true ∧ (fnAt 0 start).stopped = false ∧
    (fnAt 0 (setFn 0 { fnZero with stopped := true } start)).stopped = true ∧
    State.reset.strands = [] ∧ State.reset.quads = [] ∧ (strandAt 0x6000 (second start)).run = .ready ∧ (tfind (second start).strands 0x6000).isSome = true := by
  decide
/-- The first strand trapped, its accesses done or not. -/
def atrap : Trap := ⟨1, 0, 0x10000, 0x10004, 0, 0, 0, [], false⟩
def dealt (n : BitVec 8) (f : Strand → Strand) (u : State) : State :=
  evt { EvArgs.none with ctx := 0x2000, n := n } (mine (fun t => f { t with run := .trapped, slot := none, trap := some atrap }) u)
def backing (s : State) : State := { s with tmsgs := [(9, { tmsgZero with kind := .writebackAck, ctx := 0x2000 })] }
theorem witness_DeliveryAndHandlers_phases :
    let s := dealt 0 id start
    (strandAt k start).trap = none ∧ (strandAt k s).trap = some atrap ∧ (dealt 1 id start).ev.n = 1#8 ∧ (dealt 2 id start).ev.n = 2#8 ∧ s.ev.n = 0#8 ∧
    writeBacksOut k s = false ∧ writeBacksOut k (backing s) = true ∧ s.ev.flag = false ∧
    (strandAt k s).trapTo ≠ 2#2 ∧ (strandAt k (dealt 2 (fun t => { t with trapTo := 2 }) start)).trapTo = 2#2 ∧
    (strandAt k (dealt 2 (fun t => { t with trapTo := 1 }) start)).trapTo = 1#2 ∧ (fnAt (sidVf k) s).events.length < 64 := by decide
theorem witness_DeliveryAndHandlers_deliver :
    let s := dealt 0 id
    let held (u : State) : State := holdTrapped k atrap (withHeader k u)
    let w (u : State) : State := withHeader k (held u)
    let put (u : State) (a : Nat) (alt : Bool) : Bool := (deviceWrite 0 0 a (wordsBytes (recordWords k atrap (trapDest k atrap (w u)) alt 0 (strandAt k u).trapTime)) (w u)).isSome
    let dpart := setReg 0 0x2200 0x800001 (field 3 5 1 1 (dealt 0 id start))
    outstanding (strandAt k (dealt 0 (fun t => { t with stores := 1 }) start)) = true ∧
    outstanding (strandAt k (s start)) = false ∧ writeBacksOut k (held (s start)) = false ∧ writeBacksOut k (held (backing (s start))) = true ∧
    (strandAt k (dealt 0 (fun t => { t with errored := [⟨5, 6, 7⟩] }) start)).errored = [⟨5, 6, 7⟩] ∧ ¬ (atrap.kind = 13#8 ∧ atrap.cause = 4#8) ∧
    partOf (coreHall (strandAt k (withHeader k dpart)).core) (withHeader k dpart) = some 0 ∧ atrap.kind ≠ 17#8 ∧ atrap.kind ≠ 18#8 ∧
    (strandAt k (s start)).errored = [] ∧ (strandAt k (w (s start))).run = .trapped ∧ handlerIndex k (w (s start)) = none ∧
    hdrN k 1 31 1 (w (s start)) = 0 ∧
    put (s (paged start)) (hdrN k 4 6 50 (w (s (paged start))) * 64) false = true ∧
    put (field 4 6 50 (2 ^ 24) (s (paged start))) (hdrN k 4 6 50 (w (field 4 6 50 (2 ^ 24) (s (paged start)))) * 64) false = false ∧
    put (field 4 6 50 (2 ^ 24) (s (paged start))) (0x2000 + 0x1500) true = true ∧
    put (s start) (hdrN k 4 6 50 (w (s start)) * 64) false = false ∧ put (s start) (0x2000 + 0x1500) true = false := by decide
theorem witness_DeliveryAndHandlers_handlers :
    let y : Trap := ⟨18, 1, 0, 0, 0, 0, 0, [], false⟩
    let s (n : Nat) := setReg 0 0x1110 (BitVec.ofNat 64 n) (setReg 0 0x1100 0x10001 (setFn 0 { fnZero with enabled := true, waiting := [(0, y)] } (paged start)))
    let v := setReg 5 0x1110 1 (setReg 5 0x1100 0x10001 (setFn 5 { fnZero with enabled := true, waiting := [(0, y)] }
      (setRegN 0 0x30900 0 7 5 start)))
    let b := setFn 0 { fnZero with busy := [1] } (s 2)
    let record (pool : BitVec 7) (c : Nat) (s : State) : Bool := (deviceWrite (coreHall c) pool (thBase pool s + 0x1500)
        (wordsBytes (recordWords 0 y 0 false 0 (tick s))) (setFn pool { fnAt pool s with waiting := [] } s)).isSome
    (fnAt 0 start).waiting = [] ∧ (fnAt 0 (s 1)).waiting = [(0, y)] ∧ freeHandler 0 (s 1) = some 0 ∧ (placeHandler 0 none (s 1)).isSome = true ∧
    (placeHandler 0 (some (strandAt k start).core) (s 1)).isSome = true ∧ freeHandler 0 (s 0) = none ∧
    (match placeHandler 0 none (s 1) with | some c => record 0 c (s 1) && decide (cacheLoad c (s 1) + 1 < Config.registerCacheLines) | none => false) = true ∧
    freeHandler 5 v = some 0 ∧ (match placeHandler 5 none v with | some c => !record 5 c v | none => false) = true ∧
    hostClosed 0 (s 1) = false ∧ hostClosed 0 (setFn 0 { fnZero with resetting := true } start) = true ∧
    regionHolds 0 (bitsN (0 : Word) 13 43 * 2 ^ 13) (thCount 0 b) b = false ∧ regionHolds 0 (bitsN (0x10001 : Word) 13 43 * 2 ^ 13) (thCount 0 b) b = true ∧
    regionHolds 0 (thBase 0 b) 1 b = false ∧ regionHolds 0 (thBase 0 b) 2 b = true := by decide
theorem witness_Debugging_tokens :
    let s (v : Nat) := evt { EvArgs.none with vf := 5, v := BitVec.ofNat 64 v } start
    let on (s : State) := setRegN 5 0x40228 0 4 (2 + 4) s
    hostClosed 5 (s 1) = false ∧ hostClosed 5 (setFn 5 { fnZero with resetting := true } (s 1)) = true ∧ start.ev.vf = 0#7 ∧ (s 1).ev.vf ≠ 0#7 ∧ bitB (s 1).ev.v 0 = true ∧ bitB (s 0).ev.v 0 = false ∧ (s 1).ev.flag = false ∧
    regN 5 0x40228 0 2 (s 16) ≠ 2 ∧ regN 5 0x40228 0 2 (on (s 16)) = 2 ∧ bitB (on (s 16)).ev.v 4 = true ∧ bitB (s 0).ev.v 4 = false ∧
    tick (s 0) ≤ (fnAt 5 (s 0)).tokenUntil ∧ (fnAt 5 { on (s 0) with wheel := 2 }).tokenUntil < tick { on (s 0) with wheel := 2 } ∧
    (fnAt 5 (s 0)).events.length < 64 ∧ haltMask 5 (setHall 15 { hallZero with halts := [(5, false)] } (s 0)) ≠ 0 ∧
    authorised 5 0 (s 0) = false ∧ authorised 5 0 (on (s 0)) = true ∧ authorised 5 1 (on (s 0)) = false ∧ authorised 5 1 (setRegN 5 0x40228 0 4 10 (s 0)) = true ∧
    (fnAt 5 (s 0)).keySet = 0#6 ∧ (fnAt 5 (setFn 5 { fnZero with keySet := 0x3F } (s 0))).keySet ≠ 0#6 ∧ (fnAt 5 (s 0)).events = [] ∧
    (fnAt 5 (setFn 5 { fnZero with events := [⟨6, 0, 0, 0, 0⟩] } (s 0))).events = [⟨6, 0, 0, 0, 0⟩] := by decide
/-- A token of zeros but for its time: good where the free values (log 3) say so. -/
def tokened : State := evt { EvArgs.none with flag := true } (setFn 0 { fnZero with token := BitVec.ofNat 2304 (2 ^ 448), nonces := 1 } start)
theorem witness_Debugging_good (h1 : Config.sha384 (List.replicate 96 0#8) = 0#384) (h2 : Config.sha384 (toBytes 96 Config.deviceKey.toNat) = 0#384)
    (h3 : Config.nonce 0 = 0) (h4 : Config.ecdsaVerify 0#768 (Config.sha384 (tokenBytes (BitVec.ofNat 2304 (2 ^ 448)) 0 192)) 0#768 = true) :
    tokened.ev.flag = true ∧ tokenGood 0 tokened = true := by
  refine ⟨rfl, ?_⟩
  unfold tokenGood
  dsimp only
  rw [show (fnAt 0 tokened).token = BitVec.ofNat 2304 (2 ^ 448) from rfl, show (fnAt 0 tokened).nonces = 1 from rfl, h2]
  rw [show tokenBytes (BitVec.ofNat 2304 (2 ^ 448)) 96 96 = List.replicate 96 0#8 by decide, h1]
  rw [show pairOf (List.replicate 96 0#8) = 0#768 by decide, show pairOf (tokenBytes (BitVec.ofNat 2304 (2 ^ 448)) 192 96) = 0#768 by decide, h4]
  rw [show Config.nonce (BitVec.toNat (0 : BitVec 7) * 2 ^ 32 + (1 - 1)) = 0 from h3]
  decide
theorem witness_Debugging_commands :
    let s (f : Strand → Strand) := setReg 0 0x40238 0x2000 (mine f start)
    let c := s (fun t => { t with run := .trapped, trapTo := 2 })
    let whole (l : Nat) : BitVec 8 := haveMask (lineAt (lineKey k l) c)
    hostClosed 0 (s id) = false ∧ c.lines.length + 1 ≤ Config.hallCacheLines ∧ bitB (strandAt k c).wakeBits 1 = false ∧ (lineAt (lineKey k 0) c).hc = [] ∧
    (tfind (evt { EvArgs.none with vf := 5 } start).strands (selStrand 5 start)).isNone = true ∧ (strandAt k (s id)).stopReq = false ∧
    (strandAt k (s (fun t => { t with stopReq := true }))).stopReq = true ∧ selStrand 0 (s id) = k ∧ authorised 0 0 (s id) = true ∧ (s id).power = .on ∧ (strandAt (selStrand 0 start) start).run = .unborn ∧
    (strandAt k c).run = .trapped ∧ (strandAt k (s (fun t => { t with run := .exited }))).run = .exited ∧ (strandAt k (s (fun t => { t with run := .lost }))).run = .lost ∧
    (strandAt k (s id)).run = .resident ∧ caught k (s id) = false ∧ caught k c = true ∧ whole 0 = 255#8 ∧ whole 81 = 255#8 ∧ whole 82 = 255#8 ∧
    ({ s id with power := .saving } : State).power ≠ .on ∧ (evt { EvArgs.none with vf := 5 } start).ev.vf = 5#7 := by decide
theorem witness_Debugging_halts :
    let s := evt { EvArgs.none with v := 0x8000, hall := 15 } start
    let h := setHall 15 { hallZero with halts := [(0, true)] } s
    let key := 4 * 2 ^ 20 + 15 * 16 + 3
    let late (s : State) := s.barriers.filter (fun e => e.2.armed && instanceHas e.1 15 &&
      !(List.range 15).any (fun g => (hallAt g s).halts.any (fun e => e.1 == 0) && instanceHas e.1 g) && decide (e.2.since + 2000 * regN 0 0x40260 0 32 s ≤ s.wheel))
    let w := setStrand 0x6000 { strandZero with launch := 1, core := 0xF00, run := .held, hold := 9 } (setBarrier key { barrierZero with armed := true, launch := 1 } { h with wheel := 2000000 })
    hostClosed 0 s = false ∧ releasePending 0 s = false ∧ releasePending 0 (post 1024 .hallHaltRelease { argVf 0 with n := 1 } s) = true ∧
    ((hallAt 15 s).halts.find? (fun e => e.1 == 0)).isNone = true ∧ (hallAt 15 h).halts.find? (fun e => e.1 == 0) = some (0, true) ∧
    comingToRest true 0 15 h = false ∧ comingToRest true 0 0 (mine (fun t => { t with wait := .message 9 }) start) = true ∧
    (hallsOf s.ev.v).any (fun h => (List.range 4).all (fun q => islandOwner (4 * h + q) s != 5#7)) = true ∧
    hostClosed 0 (setFn 0 { fnZero with resetting := true } s) = true ∧ authorised 5 1 (setRegN 5 0x40228 0 4 10 s) = true ∧
    authorised 0 1 s = true ∧ s.power = .on ∧ bitB s.ev.v 15 = true ∧ (hallAt 15 s).halts = [] ∧ regN 0 0x40260 0 32 s ≠ 0 ∧
    s.ev.n = 0#8 ∧ (evt { EvArgs.none with n := 1 } s).ev.n ≠ 0#8 ∧ (strandAt 0x6000 w).run = .held ∧ (strandAt 0x6000 w).hold = 9#4 ∧ coreHall (strandAt 0x6000 w).core = 15 ∧
    (tfind w.strands 0x6000).isSome = true ∧ (hallAt 15 s).halts.any (fun e => e.1 == 0) = false ∧ (hallAt 15 h).halts.any (fun e => e.1 == 0) = true ∧
    late h = [] ∧ (late w).map Prod.fst = [key] ∧
    (List.range 16).filter (fun g => (hallAt g w).halts.any (fun e => e.1 == 0) && hallHolds 1 g w) = [15] ∧ (fnAt 0 w).events.length < 64 ∧
    authorised 5 1 (evt { EvArgs.none with vf := 5 } s) = false ∧ regN 0 0x40260 0 32 (setReg 0 0x40260 0 s) = 0 := by decide
/-- Two instructions of the program: NOP, then LD with its long offset. -/
def prog : State := placeWords [0x48085180#32, 0x64#32] State.reset
theorem witness_StepRunsDecoded :
    let u := beginTurn k 0 prog
    let word (n : Nat) (u : State) := match fetchWord 0 0 (hdrPriv k u) (u.issue.pc + BitVec.ofNat 56 (4 * n)) u with | .word w => some w | _ => none
    let far := setHdrN k 0 0 56 (0xFF * 2 ^ 48) prog
    let v := beginTurn k 0 (setHdrN k 0 0 56 0x10000 prog)
    nextIssue prog = some (0, k) ∧ prog.agenda = [] ∧ (strandAt k prog).busyTurns ≤ 1 ∧ baseLines k u = [] ∧ (strandAt k u).wait = .none ∧
    (strandAt k u).stepped = false ∧ (strandAt k u).stopReq = false ∧ lexpPending k u = false ∧ qexhPending k u = false ∧ (strandAt k u).leaving = false ∧
    decode [] = .need ∧ word 0 u = some 0x48085180#32 ∧ decode [0x48085180#32] = .need ∧ word 1 u = some 0x64#32 ∧
    decode [0x48085180#32, 0x64#32] = .ok (.ldLong .empty 0 0 3 4 5 100) 2 ∧ word 0 v = some 0x48085180#32 ∧
    (match fetchWord 0 0 (hdrPriv k (beginTurn k 0 far)) (beginTurn k 0 far).issue.pc (beginTurn k 0 far) with | .trap 7 0 _ => true | _ => false) = true ∧
    (match (strandAt k (mine (fun t => { t with wait := .answered 3 7 0 }) prog)).wait with | .answered _ _ _ => true | _ => false) = true := by decide
theorem witness_StepRunsDecoded_events :
    (match State.reset.agenda with | d :: _ => d.slot == 0 | [] => false) = true ∧ nextIssue State.reset = none ∧
    ({ State.reset with agenda := [] } : State).agenda = [] := by decide
theorem witness_DecodeOfEncode : encodable (.add .empty 3 1 2 3) = true ∧ (0 : Nat) < (encode (.add .empty 3 1 2 3)).length := by decide
theorem witness_EncodeOfDecode : decode [0x900400C3#32, 0x200A5307#32] = .ok (.rep 3 6 0 8 (.add .empty 3 5 5 6)) 2 := by decide
theorem witness_StepKeepsMemory : memoryForm prog = true ∧ (match step prog with | .next _ => true | _ => false) = true := by decide

end Sys2Proof.Tests
end

section
/-! PROOFS. Registers of MW0, causes and the agenda, and the host's register writes and reads (O42). -/

namespace Sys2Proof.Machine

open Host

/-! ### Registers of MW0: what an operation leaves to a read -/

/-- Registers are read from `mw0` alone. -/
theorem reg_of_mw0 {s t : State} (h : t.mw0 = s.mw0) (vf : BitVec 7) (o : Nat) : reg vf o t = reg vf o s := by
  rw [reg, h, reg]

theorem reg_setReg (vf vf' : BitVec 7) (o o' : Nat) (v : Word) (s : State) :
    reg vf' o' (setReg vf o v s) = if vf'.toNat * 2 ^ 20 + o' = vf.toNat * 2 ^ 20 + o then v else reg vf' o' s := by
  simp only [reg, setReg, tget_tput]

@[simp] theorem reg_setReg_same (vf : BitVec 7) (o : Nat) (v : Word) (s : State) : reg vf o (setReg vf o v s) = v := by
  simp [reg_setReg]

theorem reg_setReg_other (vf : BitVec 7) (o o' : Nat) (v : Word) (s : State) (h : o' ≠ o) :
    reg vf o' (setReg vf o v s) = reg vf o' s := by
  simp [reg_setReg, h]

@[simp] theorem reg_setRegN_same (vf : BitVec 7) (o lo n v : Nat) (s : State) :
    reg vf o (setRegN vf o lo n v s) = setBits (reg vf o s) lo n v := by simp [setRegN]

theorem reg_setRegN_other (vf : BitVec 7) (o o' lo n v : Nat) (s : State) (h : o' ≠ o) :
    reg vf o' (setRegN vf o lo n v s) = reg vf o' s := by simp [setRegN, reg_setReg_other _ _ _ _ _ h]

theorem regN_setRegN_same (vf : BitVec 7) (o lo n v : Nat) (s : State) (h : lo + n ≤ 64) :
    regN vf o lo n (setRegN vf o lo n v s) = v % 2 ^ n := by
  rw [regN, reg_setRegN_same, bitsN_setBits _ _ _ _ h]

theorem regN_setRegN_field (vf : BitVec 7) (o lo n v lo' n' : Nat) (s : State) (h' : lo' + n' ≤ 64)
    (h : lo' + n' ≤ lo ∨ lo + n ≤ lo') : regN vf o lo' n' (setRegN vf o lo n v s) = regN vf o lo' n' s := by
  rw [regN, reg_setRegN_same, bitsN_setBits_other _ _ _ _ _ _ h' h, regN]

theorem regN_bit (vf : BitVec 7) (o b : Nat) (s : State) : regN vf o b 1 s = 0 ∨ regN vf o b 1 s = 1 :=
  Nat.mod_two_eq_zero_or_one _

theorem bitsN_one {w : Nat} (x : BitVec w) (b : Nat) : bitsN x b 1 = (bitB x b).toNat := by
  rw [bitsN, bitB, BitVec.getLsbD, Nat.testBit_eq_decide_div_mod_eq]
  rcases Nat.mod_two_eq_zero_or_one (x.toNat / 2 ^ b) with h | h <;> simp [h]

/-- A field inside a mask is not changed by it. -/
theorem bitsN_and_mask {w : Nat} (x m : BitVec w) (lo n : Nat) (h : ∀ i < n, m.getLsbD (lo + i) = true) :
    bitsN (x &&& m) lo n = bitsN x lo n := by
  apply Nat.eq_of_testBit_eq
  intro i
  simp only [bitsN, Nat.testBit_mod_two_pow, ← Nat.shiftRight_eq_div_pow, Nat.testBit_shiftRight, BitVec.testBit_toNat,
    BitVec.getLsbD_and]
  by_cases hi : i < n
  · simp [h i hi]
  · simp [hi]

theorem StrandWork.mw0_eq {s t : State} (h : StrandWork s t) : t.mw0 = s.mw0 := by
  obtain ⟨a, b, c, d, rfl⟩ := h; rfl

theorem StrandWork.fns_eq {s t : State} (h : StrandWork s t) : t.fns = s.fns := by
  obtain ⟨a, b, c, d, rfl⟩ := h; rfl

theorem StrandWork.launches_eq {s t : State} (h : StrandWork s t) : t.launches = s.launches := by
  obtain ⟨a, b, c, d, rfl⟩ := h; rfl

@[simp] theorem hallAt_setHall_same (h : Nat) (v : Hall) (s : State) : hallAt h (setHall h v s) = v := by
  simp [hallAt, setHall]

/-! ### The agenda -/

theorem mem_insertDue (d : Due) (l : List Due) : d ∈ insertDue d l := by
  induction l with
  | nil => simp [insertDue]
  | cons e t ih => simp only [insertDue]; split <;> simp [ih]

theorem Scheduled.of_postAt (slot : Nat) (ev : Instr) (a : EvArgs) (P : EvArgs → Prop) (s : State) (h : P a) :
    Scheduled ev slot P (postAt slot ev a s) :=
  ⟨_, mem_insertDue ⟨slot, ev, a⟩ s.agenda, rfl, rfl, h⟩

/-! ### Vectors and causes (R55) -/

/-- A vector's message reaches no register but the pending bits. -/
theorem sendVector_cases (vf : BitVec 7) (vec : Nat) (s : State) :
    (∃ w, sendVector vf vec s = setReg vf (0x24000 + 8 * (vec / 64)) w s) ∨
      ∃ x, sendVector vf vec s = { s with outbox := x } := by
  simp only [sendVector]
  split
  · exact .inl ⟨_, rfl⟩
  · exact .inr ⟨_, rfl⟩

theorem reg_sendVector (vf : BitVec 7) (vec o : Nat) (s : State) (hv : vec < 128) (ho : o < 0x24000 ∨ 0x24010 ≤ o) :
    reg vf o (sendVector vf vec s) = reg vf o s := by
  obtain ⟨w, h⟩ | ⟨x, h⟩ := sendVector_cases vf vec s
  · rw [h, reg_setReg_other _ _ _ _ _ (by omega)]
  · rw [h]; rfl

/-- All that `raiseCause` does after the bit is set: at most one vector's message, and wakes. -/
theorem raiseCause_cases (vf : BitVec 7) (b : Nat) (s : State) :
    StrandWork (setRegN vf 0x28000 b 1 1 s) (raiseCause vf b s) ∨
    ∃ vec < 128, StrandWork (sendVector vf vec (setRegN vf 0x28000 b 1 1 s)) (raiseCause vf b s) := by
  have wake (t : State) (e : Nat × Strand) : StrandWork t (if e.1 / 2 ^ 56 = vf.toNat ∧ e.2.wakeBits.getLsbD 4 then
      post 1 .strandWake { argStrand e.1 with n := 8#8 } t else t) := by
    split
    · exact .post _ _ _ t
    · exact .refl t
  by_cases h : regN vf 0x28000 b 1 s = 1
  · simp only [raiseCause, h, if_true]
    exact .inl (.refl _)
  · by_cases hm : regN vf 0x28008 7 1 (setRegN vf 0x28000 b 1 1 s) = 1 <;> simp only [raiseCause, h, hm, if_true, if_false]
    · exact .inr ⟨_, Nat.mod_lt _ (by decide), .foldl _ _ wake _⟩
    · exact .inl (.foldl _ _ wake _)

/-- The PF or VF is as before but for the bits of INTCAUSE and the vectors' pending bits. -/
structure CauseWork (vf : BitVec 7) (s t : State) : Prop where
  fns : t.fns = s.fns
  launches : t.launches = s.launches
  regs : ∀ o < 0x24000, reg vf o t = reg vf o s

theorem CauseWork.refl (vf : BitVec 7) (s : State) : CauseWork vf s s := ⟨rfl, rfl, fun _ _ => rfl⟩

theorem CauseWork.trans {vf : BitVec 7} {s t u : State} (h : CauseWork vf s t) (h' : CauseWork vf t u) : CauseWork vf s u :=
  ⟨h'.fns.trans h.fns, h'.launches.trans h.launches, fun o ho => (h'.regs o ho).trans (h.regs o ho)⟩

theorem CauseWork.setCause (vf : BitVec 7) (b v : Nat) (s : State) : CauseWork vf s (setRegN vf 0x28000 b 1 v s) :=
  ⟨rfl, rfl, fun o ho => reg_setRegN_other _ _ _ _ _ _ _ (by omega)⟩

/-- Raising a cause is setting its bit, at every register but the vectors' pending bits. -/
theorem reg_raiseCause (vf : BitVec 7) (b o : Nat) (s : State) (ho : o < 0x24000 ∨ 0x24010 ≤ o) :
    reg vf o (raiseCause vf b s) = reg vf o (setRegN vf 0x28000 b 1 1 s) := by
  obtain h | ⟨vec, hv, h⟩ := raiseCause_cases vf b s
  · exact reg_of_mw0 h.mw0_eq vf o
  · exact (reg_of_mw0 h.mw0_eq vf o).trans (reg_sendVector vf vec o _ hv ho)

theorem caused_raiseCause (vf : BitVec 7) (b : Nat) (s : State) (hb : b < 64) : Caused vf b (raiseCause vf b s) := by
  rw [Caused, regN, reg_raiseCause _ _ _ _ (by omega)]
  exact regN_setRegN_same _ _ _ _ _ _ (by omega)

theorem StrandWork.causeWork {s t : State} (h : StrandWork s t) (vf : BitVec 7) : CauseWork vf s t :=
  ⟨h.fns_eq, h.launches_eq, fun o _ => reg_of_mw0 h.mw0_eq vf o⟩

theorem CauseWork.sendVector (vf : BitVec 7) (vec : Nat) (s : State) : CauseWork vf s (sendVector vf vec s) := by
  obtain ⟨w, h⟩ | ⟨x, h⟩ := sendVector_cases vf vec s <;> rw [h]
  · exact ⟨rfl, rfl, fun o ho => reg_setReg_other _ _ _ _ _ (by omega)⟩
  · exact ⟨rfl, rfl, fun _ _ => rfl⟩

theorem CauseWork.raiseCause (vf : BitVec 7) (b : Nat) (s : State) : CauseWork vf s (raiseCause vf b s) := by
  refine (CauseWork.setCause vf b 1 s).trans ?_
  obtain h | ⟨vec, -, h⟩ := raiseCause_cases vf b s
  · exact h.causeWork vf
  · exact (CauseWork.sendVector vf vec _).trans (h.causeWork vf)

/-- Whether a cause still holds is read neither from INTCAUSE nor from the pending bits. -/
theorem CauseWork.causeHolds_eq {vf : BitVec 7} {s t : State} (h : CauseWork vf s t) (b : Nat) :
    causeHolds vf b t = causeHolds vf b s := by
  have hq : (List.range 64).any (fun q => regN vf (qoff q + 24) 8 1 t == 1) =
      (List.range 64).any (fun q => regN vf (qoff q + 24) 8 1 s == 1) := by
    rw [Bool.eq_iff_iff, List.any_eq_true, List.any_eq_true]
    refine exists_congr fun q => and_congr_right fun hq => ?_
    rw [regN, h.regs _ (by have := List.mem_range.mp hq; unfold qoff; omega), ← regN]
  have hf : fnAt vf t = fnAt vf s := by rw [fnAt, h.fns, fnAt]
  simp only [causeHolds, hq, hf, h.launches, h.regs 0x1018 (by omega)]

/-! ### A function the host does not reach (R56) -/

/-- The host's writes of a function in a reset are discarded (R56). -/
theorem hostWrite_closed (s : State) (f : State → Outcome State Fault Refusal) (h : hostClosed s.ev.vf s = true) :
    hostWrite s f = .next s := by simp [hostWrite, h]

/-! ### INTCAUSE_CLEAR (R55) -/

/-- INTCAUSE_CLEAR at one bit. -/
def clearCause (vf : BitVec 7) (w : Word) (s : State) (b : Nat) : State :=
  if bitB w b ∧ regN vf 0x28000 b 1 s = 1 then
    let s := setRegN vf 0x28000 b 1 0 s
    if causeHolds vf b s then raiseCause vf b s else s
  else s

/-- What a bit of INTCAUSE reads after the word `w` is written. -/
def causeAfter (vf : BitVec 7) (w : Word) (b : Nat) (s : State) : Nat :=
  if bitB w b then (if regN vf 0x28000 b 1 s = 1 ∧ causeHolds vf b s = true then 1 else 0) else regN vf 0x28000 b 1 s

theorem exec_intcauseClear (s : State) (h : hostClosed s.ev.vf s = false) :
    exec .intcauseClear s = .next ((List.range 9).foldl (clearCause s.ev.vf s.ev.v) s) := by
  change execIntcauseClear s = _
  simp only [execIntcauseClear, hostWrite, h]
  rfl

theorem causeWork_clearCause (vf : BitVec 7) (w : Word) (s : State) (b : Nat) : CauseWork vf s (clearCause vf w s b) := by
  unfold clearCause
  split
  · refine (CauseWork.setCause vf b 0 s).trans ?_
    dsimp only
    split
    · exact .raiseCause vf b _
    · exact .refl vf _
  · exact .refl vf s

theorem regN_clearCause_same (vf : BitVec 7) (w : Word) (s : State) (b : Nat) (hb : b < 64) :
    regN vf 0x28000 b 1 (clearCause vf w s b) = causeAfter vf w b s := by
  have hset (v : Nat) : regN vf 0x28000 b 1 (setRegN vf 0x28000 b 1 v s) = v % 2 ^ 1 := regN_setRegN_same _ _ _ _ _ _ (by omega)
  by_cases hw : bitB w b = true
  · obtain h0 | h1 := regN_bit vf 0x28000 b s
    · simp [clearCause, causeAfter, hw, h0]
    · have hc := (CauseWork.setCause vf b 0 s).causeHolds_eq b
      by_cases hh : causeHolds vf b s = true
      · have := caused_raiseCause vf b (setRegN vf 0x28000 b 1 0 s) hb
        rw [Caused] at this
        simp [clearCause, causeAfter, hw, h1, hh, hc, this]
      · simp [clearCause, causeAfter, hw, h1, hh, hc, hset]
  · simp [clearCause, causeAfter, hw]

theorem regN_clearCause_other (vf : BitVec 7) (w : Word) (s : State) (b c : Nat) (hc : c < 64) (h : c ≠ b) :
    regN vf 0x28000 c 1 (clearCause vf w s b) = regN vf 0x28000 c 1 s := by
  have hset (v : Nat) (u : State) : regN vf 0x28000 c 1 (setRegN vf 0x28000 b 1 v u) = regN vf 0x28000 c 1 u :=
    regN_setRegN_field _ _ _ _ _ _ _ _ (by omega) (by omega)
  have hraise (u : State) : regN vf 0x28000 c 1 (raiseCause vf b u) = regN vf 0x28000 c 1 u := by
    rw [regN, reg_raiseCause _ _ _ _ (by omega), ← regN, hset]
  unfold clearCause
  split
  · dsimp only
    split
    · rw [hraise, hset]
    · exact hset 0 s
  · rfl

theorem CauseWork.causeAfter_eq {vf : BitVec 7} {s t : State} (h : CauseWork vf s t) (w : Word) (b : Nat)
    (hr : regN vf 0x28000 b 1 t = regN vf 0x28000 b 1 s) : causeAfter vf w b t = causeAfter vf w b s := by
  simp only [causeAfter, hr, h.causeHolds_eq]

/-- Each bit of INTCAUSE is cleared by itself. -/
theorem regN_foldl_clearCause (vf : BitVec 7) (w : Word) (b : Nat) (hb : b < 64) (l : List Nat) (hl : l.Nodup) (s : State) :
    regN vf 0x28000 b 1 (l.foldl (clearCause vf w) s) = if b ∈ l then causeAfter vf w b s else regN vf 0x28000 b 1 s := by
  induction l generalizing s with
  | nil => simp
  | cons c l ih =>
    obtain ⟨hc, hl⟩ := List.nodup_cons.mp hl
    rw [List.foldl_cons, ih hl]
    by_cases h : b = c
    · subst h
      simp [hc, regN_clearCause_same vf w s b hb]
    · have hr := regN_clearCause_other vf w s c b hb h
      simp [h, hr, (causeWork_clearCause vf w s c).causeAfter_eq w b hr]

/-! ### Queue registers (R52 to R54) -/

theorem reg_stopQueue (vf : BitVec 7) (q code o : Nat) (s : State) (h : o ≠ qoff q + 24)
    (ho : o < 0x24000) : reg vf o (stopQueue vf q code s) = reg vf o s := by
  rw [stopQueue, reg_raiseCause _ _ _ _ (.inl ho), reg_setRegN_other _ _ _ _ _ _ _ (by omega),
    reg_setRegN_other _ _ _ _ _ _ _ h, reg_setRegN_other _ _ _ _ _ _ _ h]

theorem queueStopped_stopQueue (vf : BitVec 7) (q code : Nat) (s : State) (hq : q < 64) (hc : code < 256) :
    QueueStopped vf q code (stopQueue vf q code s) := by
  have hs : reg vf (qoff q + 24) (stopQueue vf q code s) =
      setBits (setBits (reg vf (qoff q + 24) s) 0 8 code) 8 1 1 := by
    have hq' : qoff q + 24 < 0x24000 := by unfold qoff; omega
    rw [stopQueue, reg_raiseCause _ _ _ _ (.inl hq'), reg_setRegN_other _ _ _ _ _ _ _ (by omega), reg_setRegN_same,
      reg_setRegN_same]
  refine ⟨?_, ?_, caused_raiseCause vf 0 _ (by omega)⟩
  · rw [regN, hs, bitsN_setBits_other _ _ _ _ _ _ (by omega) (by omega), bitsN_setBits _ _ _ _ (by omega)]
    exact Nat.mod_eq_of_lt hc
  · rw [regN, hs]
    exact bitsN_setBits _ _ _ _ (by omega)

/-- What follows a write of LQBASE. -/
def afterLqbase (vf : BitVec 7) (q : Nat) (s : State) : State :=
  if regN vf (qoff q) 63 1 s = 0 then s
  else if regN vf (qoff q) 0 5 s < 4 ∨ 16 < regN vf (qoff q) 0 5 s then stopQueue vf q 4 s
  else post 1 .queuePacketFetch (argQueue vf q) s

theorem next_afterLqbase (vf : BitVec 7) (q : Nat) (s : State) :
    (if regN vf (qoff q) 63 1 s = 0 then .next s
      else if regN vf (qoff q) 0 5 s < 4 ∨ 16 < regN vf (qoff q) 0 5 s then .next (stopQueue vf q 4 s)
      else .next (post 1 .queuePacketFetch (argQueue vf q) s) : Outcome State Fault Refusal) = .next (afterLqbase vf q s) := by
  unfold afterLqbase
  split
  · rfl
  · split
    · rfl
    · rfl

theorem reg_afterLqbase (vf : BitVec 7) (q : Nat) (s : State) (hq : q < 64) :
    reg vf (qoff q) (afterLqbase vf q s) = reg vf (qoff q) s := by
  unfold afterLqbase
  split
  · rfl
  · split
    · exact reg_stopQueue vf q 4 _ s (by omega) (by unfold qoff; omega)
    · rfl

/-- A queue enabled with a ring size outside its range stops, with code 4 (R52). -/
theorem queueStopped_afterLqbase (vf : BitVec 7) (q : Nat) (s : State) (hq : q < 64) (he : regN vf (qoff q) 63 1 s = 1)
    (hz : regN vf (qoff q) 0 5 s < 4 ∨ 16 < regN vf (qoff q) 0 5 s) : QueueStopped vf q 4 (afterLqbase vf q s) := by
  have : afterLqbase vf q s = stopQueue vf q 4 s := by simp [afterLqbase, he, hz]
  rw [this]
  exact queueStopped_stopQueue vf q 4 s hq (by omega)

theorem argQueue_q (vf : BitVec 7) (q : Nat) (hq : q < 64) : (argQueue vf q).q.toNat = q := by
  simp [argQueue, Nat.mod_eq_of_lt hq]

/-- The fetch of a queue's next packet stands on the agenda. -/
theorem fetch_scheduled (vf : BitVec 7) (q : Nat) (s : State) (hq : q < 64) :
    Scheduled .queuePacketFetch (s.wheel + 1) (fun a => a.vf = vf ∧ a.q.toNat = q)
      (post 1 .queuePacketFetch (argQueue vf q) s) :=
  .of_postAt _ _ _ _ _ ⟨rfl, argQueue_q vf q hq⟩

theorem fetch_scheduled_afterLqbase (vf : BitVec 7) (q : Nat) (s : State) (hq : q < 64) (he : regN vf (qoff q) 63 1 s = 1)
    (hl : 4 ≤ regN vf (qoff q) 0 5 s) (hu : regN vf (qoff q) 0 5 s ≤ 16) :
    Scheduled .queuePacketFetch (s.wheel + 1) (fun a => a.vf = vf ∧ a.q.toNat = q) (afterLqbase vf q s) := by
  have : afterLqbase vf q s = post 1 .queuePacketFetch (argQueue vf q) s := by
    simp [afterLqbase, he, Nat.not_lt.mpr hl, Nat.not_lt.mpr hu]
  rw [this]
  exact fetch_scheduled vf q s hq

theorem offQueue_lt (off : Nat) : offQueue off < 64 := Nat.mod_lt _ (by omega)

/-- The write of LQBASE itself: while enabled it takes only its enable (R52). -/
def writeLqbase (vf : BitVec 7) (q : Nat) (v : Word) (s : State) : State :=
  if regN vf (qoff q) 63 1 s = 1 then setRegN vf (qoff q) 63 1 (bitsN v 63 1) s
  else setReg vf (qoff q) (v &&& 0x80FFFFFFFFFFF01F#64) s

theorem exec_lqbaseWrite (s : State) (h : hostClosed s.ev.vf s = false) :
    exec .lqbaseWrite s =
      .next (afterLqbase s.ev.vf (offQueue s.ev.id) (writeLqbase s.ev.vf (offQueue s.ev.id) s.ev.v s)) := by
  change execLqbaseWrite s = _
  simp only [execLqbaseWrite, hostWrite, h, if_false, Bool.false_eq_true]
  exact next_afterLqbase _ _ (writeLqbase s.ev.vf (offQueue s.ev.id) s.ev.v s)

theorem writeLqbase_wheel (vf : BitVec 7) (q : Nat) (v : Word) (s : State) : (writeLqbase vf q v s).wheel = s.wheel := by
  unfold writeLqbase; split <;> rfl

theorem reg_writeLqbase_enabled (vf : BitVec 7) (q : Nat) (v : Word) (s : State) (h : regN vf (qoff q) 63 1 s = 1) :
    reg vf (qoff q) (writeLqbase vf q v s) = setBits (reg vf (qoff q) s) 63 1 (bitsN v 63 1) := by
  rw [writeLqbase, if_pos h, reg_setRegN_same]

theorem reg_writeLqbase_disabled (vf : BitVec 7) (q : Nat) (v : Word) (s : State) (h : regN vf (qoff q) 63 1 s = 0) :
    reg vf (qoff q) (writeLqbase vf q v s) = v &&& 0x80FFFFFFFFFFF01F#64 := by
  rw [writeLqbase, if_neg (by omega), reg_setReg_same]

theorem regN_writeLqbase_enable (vf : BitVec 7) (q : Nat) (v : Word) (s : State) (h : regN vf (qoff q) 63 1 s = 0)
    (hv : bitB v 63 = true) : regN vf (qoff q) 63 1 (writeLqbase vf q v s) = 1 := by
  rw [regN, reg_writeLqbase_disabled vf q v s h, bitsN_and_mask _ _ _ _ (by decide), bitsN_one, hv, Bool.toNat_true]

theorem regN_writeLqbase_size (vf : BitVec 7) (q : Nat) (v : Word) (s : State) (h : regN vf (qoff q) 63 1 s = 0) :
    regN vf (qoff q) 0 5 (writeLqbase vf q v s) = bitsN v 0 5 := by
  rw [regN, reg_writeLqbase_disabled vf q v s h, bitsN_and_mask _ _ _ _ (by decide)]

theorem exec_lqtailWrite (s : State) (h : hostClosed s.ev.vf s = false) :
    exec .lqtailWrite s = .next (post 1 .queuePacketFetch (argQueue s.ev.vf (offQueue s.ev.id))
      (setRegN s.ev.vf (qoff (offQueue s.ev.id) + 8) 0 32 (bitsN s.ev.v 0 32) s)) := by
  change execLqtailWrite s = _
  simp [execLqtailWrite, hostWrite, h]

theorem exec_lqstatErrClear (s : State) (h : hostClosed s.ev.vf s = false) :
    exec .lqstatErrClear s = .next (if bitB s.ev.v 8 = true then
      post 1 .queuePacketFetch (argQueue s.ev.vf (offQueue s.ev.id))
        (setRegN s.ev.vf (qoff (offQueue s.ev.id) + 24) 8 1 0 s) else s) := by
  change execLqstatErrClear s = _
  cases hb : bitB s.ev.v 8 <;> simp [execLqstatErrClear, hostWrite, h, hb]

/-! ### Plain register writes (R5) -/

theorem mw0_armDecay (s : State) : (armDecay s).mw0 = s.mw0 := by
  unfold armDecay
  dsimp only
  split <;> rfl

theorem mw0_cmNext (vf : BitVec 7) (s : State) : (cmNext vf s).mw0 = s.mw0 := by
  unfold cmNext
  split <;> rfl

theorem strandWork_repointOwned (vf : BitVec 7) (l : List Nat) (s : State) :
    StrandWork s (l.foldl (fun s i => if islandOwner i s = vf then repoint i s else s) s) := by
  refine .foldl _ _ (fun t i => ?_) s
  split
  · exact .post _ _ _ t
  · exact .refl t

/-- What follows a plain write outside the MSI-X table changes no register. -/
theorem mw0_afterWrite (vf : BitVec 7) (off : Nat) (s : State) (h : off < 0x20000 ∨ 0x20800 ≤ off) :
    (afterWrite vf off s).mw0 = s.mw0 := by
  have hmsi : ¬ (0x20000 ≤ off ∧ off < 0x20800 ∧ off % 16 = 8) := by omega
  simp only [afterWrite, hmsi, if_false]
  split
  case isTrue => exact mw0_armDecay s
  split
  case isTrue => rfl
  split
  case isTrue => exact mw0_cmNext vf s
  split
  case isTrue => rfl
  split
  case isTrue => exact (strandWork_repointOwned vf _ s).mw0_eq
  case isFalse => rfl

/-- What follows a plain write leaves the register written. -/
theorem reg_afterWrite (vf : BitVec 7) (off : Nat) (s : State) : reg vf off (afterWrite vf off s) = reg vf off s := by
  by_cases h : off < 0x20000 ∨ 0x20800 ≤ off
  · exact reg_of_mw0 (mw0_afterWrite vf off s h) vf off
  · have h0 : ¬ off = 0x3008 := by omega
    have h1 : ¬ (0x8000 ≤ off ∧ off < 0xC000 ∧ vf = 0#7) := by omega
    have h2 : ¬ off = 0x10008 := by omega
    have h3 : ¬ (0x40280 ≤ off ∧ off < 0x402B0) := by omega
    have h4 : ¬ (0x30018 ≤ off ∧ off < 0x30060) := by omega
    simp only [afterWrite, h0, h1, h2, h3, h4, if_false]
    split
    · split
      · rw [reg_sendVector _ _ _ _ (by omega) (by omega), reg_setRegN_other _ _ _ _ _ _ _ (by omega)]
      · rfl
    · rfl

/-- REGISTER_WRITE of a register that takes plain fields (R5). -/
theorem exec_registerWrite_plain (s : State) (hn : s.ev.n ≠ 1#8) (hc : hostClosed s.ev.vf s = false)
    (h0 : s.ev.id ≠ 0x1010) (h1 : s.ev.id ≠ 0x1108) (he : ownEvents s.ev.id s.ev.v = []) (h2 : s.ev.id ≠ 0x40240) :
    let m := rwMask s.ev.vf (s.ev.vf == 0#7 || s.ev.flag) s.ev.id s
    exec .registerWrite s = .next (if m = 0#64 then s else afterWrite s.ev.vf s.ev.id
      (setReg s.ev.vf s.ev.id ((reg s.ev.vf s.ev.id s &&& ~~~m) ||| (s.ev.v &&& m)) s)) := by
  change execRegisterWrite s = _
  simp only [execRegisterWrite, hn, hc, h0, h1, he, h2, if_false, Bool.false_eq_true]
  split <;> rfl

/-- REGISTER_WRITE of a register with a behaviour of its own has its events, ahead of any other (R5; log 1). -/
theorem exec_registerWrite_own (s : State) (hn : s.ev.n ≠ 1#8) (hc : hostClosed s.ev.vf s = false)
    (h0 : s.ev.id ≠ 0x1010) (h1 : s.ev.id ≠ 0x1108) (he : ownEvents s.ev.id s.ev.v ≠ []) :
    exec .registerWrite s =
      .next { s with agenda := (ownEvents s.ev.id s.ev.v).map (fun e => ⟨s.wheel, e, s.ev⟩) ++ s.agenda } := by
  change execRegisterWrite s = _
  cases hl : ownEvents s.ev.id s.ev.v with
  | nil => exact absurd hl he
  | cons e es => simp only [execRegisterWrite, hn, hc, h0, h1, hl, if_false, Bool.false_eq_true]

theorem exec_registerWrite_map (s : State) (hn : s.ev.n = 1#8) :
    let h := (s.ev.id - 0x8000) / 1024 % 16
    exec .registerWrite s = .next (setHall h { hallAt h s with transmap := some (mapBytes h s) } s) := by
  change execRegisterWrite s = _
  simp only [execRegisterWrite, hn, if_true]

theorem exec_registerWrite_closed (s : State) (hn : s.ev.n ≠ 1#8) (hc : hostClosed s.ev.vf s = true) :
    exec .registerWrite s = .next s := by
  change execRegisterWrite s = _
  simp only [execRegisterWrite, hn, hc, if_true, if_false]

theorem exec_registerWrite_ptbase (s : State) (hn : s.ev.n ≠ 1#8) (hc : hostClosed s.ev.vf s = false)
    (h : s.ev.id = 0x1010) : exec .registerWrite s = .next (writePtbase s.ev.vf s.ev.v s) := by
  change execRegisterWrite s = _
  simp only [execRegisterWrite, hn, hc, h, if_true, if_false, Bool.false_eq_true]

theorem exec_registerWrite_thent (s : State) (hn : s.ev.n ≠ 1#8) (hc : hostClosed s.ev.vf s = false)
    (h : s.ev.id = 0x1108) : exec .registerWrite s = .next (writeThent s.ev.vf s.ev.v s) := by
  change execRegisterWrite s = _
  simp [execRegisterWrite, hn, hc, h]

/-! ### Register reads (R5, R50) -/

/-- The registers with write-only bits. -/
theorem woMask_ne_zero {off : Nat} (h : woMask off ≠ 0#64) :
    (0x40000 ≤ off ∧ off < 0x40200) ∨ (0x4000 ≤ off ∧ off < 0x4400) ∨
    off ∈ [0x2000, 0x2400, 0x3410, 0x30010, 0x300A8, 0x40220, 0x40240, 0x50020, 0x60600, 0x60800, 0x30388, 0x40228, 0x40250] := by
  refine Decidable.byContradiction fun hn => ?_
  simp only [List.mem_cons, List.not_mem_nil, or_false] at hn
  refine h ?_
  unfold woMask
  iterate 7 rw [if_neg (by omega)]

/-- A register with write-only bits is read through its mask, or not at all. -/
theorem mw0Read_of_woMask (vf : BitVec 7) (off : Nat) (s : State) (hc : hostClosed vf s = false) (h : woMask off ≠ 0#64) :
    mw0Read vf off s = 0#64 ∨ mw0Read vf off s = reg vf off s &&& ~~~woMask off := by
  have ho := woMask_ne_zero h
  simp only [List.mem_cons, List.not_mem_nil, or_false] at ho
  unfold mw0Read
  extract_lets
  rw [if_neg (by rw [hc]; decide)]
  by_cases hz : 0x70000 ≤ off ∨ (vf ≠ 0#7 ∧ pfOnly off = true)
  · exact .inl (if_pos hz)
  rw [if_neg hz]
  by_cases hp : 0x60000 ≤ off ∧ s.phase.phase = .recovery ∧ 0x60010 ≤ off ∧ off ≠ 0x60808
  · exact .inl (if_pos hp)
  rw [if_neg hp, if_neg (by omega), if_neg (by omega)]
  by_cases hl : 0x4000 ≤ off ∧ off < 0x4400 ∧ (!ownsLog vf (logBlock off) s) = true
  · exact .inl (if_pos hl)
  rw [if_neg hl]
  iterate 11 rw [if_neg (by omega)]
  exact .inr rfl

theorem mw0Read_hidden (vf : BitVec 7) (off : Nat) (s : State) (hc : hostClosed vf s = false)
    (h : 0x70000 ≤ off ∨ (vf ≠ 0#7 ∧ pfOnly off = true)) : mw0Read vf off s = 0#64 := by
  unfold mw0Read
  rw [if_neg (by rw [hc]; decide), if_pos h]

theorem mw0Read_closed (vf : BitVec 7) (off : Nat) (s : State) (hc : hostClosed vf s = true) :
    mw0Read vf off s = BitVec.allOnes 64 := if_pos hc

theorem mw0Read_woMask (vf : BitVec 7) (off : Nat) (s : State) (hc : hostClosed vf s = false) :
    mw0Read vf off s &&& woMask off = 0#64 := by
  by_cases h : woMask off = 0#64
  · simp [h]
  · obtain hr | hr := mw0Read_of_woMask vf off s hc h
    · simp [hr]
    · rw [hr, BitVec.and_assoc, BitVec.not_and_self]
      exact BitVec.and_zero

/-! ### The obligation -/

/-- Settles O42: REGISTER_WRITE case by case, then the writes of the queues' registers and of INTCAUSE, then reads. -/
theorem registerWrites : Obligations.RegisterWrites := by
  unfold Obligations.RegisterWrites
  refine ⟨fun s => ⟨fun hn => ?map, exec_registerWrite_closed s, fun hn hc => ⟨fun h => ?ptbase, fun h => ?thent,
    fun h0 h1 => ⟨fun e he => ?own, fun he h2 => ?plain⟩⟩⟩, fun s => ⟨fun hc i hi => ?closed, fun hc => ?queues⟩,
    fun s vf off => ?read⟩
  case map => exact ⟨_, exec_registerWrite_map s hn, by simp⟩
  case ptbase => exact ⟨_, exec_registerWrite_ptbase s hn hc h, reg_setReg_same _ _ _ _⟩
  case thent => exact ⟨_, exec_registerWrite_thent s hn hc h, reg_setReg_same _ _ _ _⟩
  case own =>
    refine ⟨_, exec_registerWrite_own s hn hc h0 h1 (List.ne_nil_of_mem he), ⟨s.wheel, e, s.ev⟩, ?_, rfl, rfl, rfl⟩
    exact List.mem_append_left _ (List.mem_map.mpr ⟨e, he, rfl⟩)
  case plain =>
    have hx := exec_registerWrite_plain s hn hc h0 h1 he h2
    refine ⟨fun hm => by rw [hx, if_pos hm], fun hm => ⟨_, by rw [hx, if_neg hm], ?_, fun vf' o ho hk => ?_⟩⟩
    · rw [reg_afterWrite, reg_setReg_same]
    · rw [reg_of_mw0 (mw0_afterWrite _ _ _ ho), reg_setReg, if_neg hk]
  case closed =>
    simp only [List.mem_cons, List.not_mem_nil, or_false] at hi
    rcases hi with rfl | rfl | rfl | rfl
    · exact (hostWrite_closed s _ hc : execLqbaseWrite s = _)
    · exact (hostWrite_closed s _ hc : execLqtailWrite s = _)
    · exact (hostWrite_closed s _ hc : execLqstatErrClear s = _)
    · exact (hostWrite_closed s _ hc : execIntcauseClear s = _)
  case queues =>
    have hq := offQueue_lt s.ev.id
    refine ⟨fun he => ?enabled, fun he => ?disabled, ?tail, fun hb => ?kept, fun hb => ?cleared, ?cause⟩
    case enabled => exact ⟨_, exec_lqbaseWrite s hc, by rw [reg_afterLqbase _ _ _ hq, reg_writeLqbase_enabled _ _ _ _ he]⟩
    case disabled =>
      have hsize := regN_writeLqbase_size s.ev.vf (offQueue s.ev.id) s.ev.v s he
      refine ⟨_, exec_lqbaseWrite s hc, by rw [reg_afterLqbase _ _ _ hq, reg_writeLqbase_disabled _ _ _ _ he],
        fun hb hz => ?stops, fun hb hl hu => ?fetches⟩
      case stops =>
        exact queueStopped_afterLqbase _ _ _ hq (regN_writeLqbase_enable _ _ _ _ he hb) (by rwa [hsize])
      case fetches =>
        rw [← writeLqbase_wheel s.ev.vf (offQueue s.ev.id) s.ev.v s]
        exact fetch_scheduled_afterLqbase _ _ _ hq (regN_writeLqbase_enable _ _ _ _ he hb) (by rwa [hsize]) (by rwa [hsize])
    case tail =>
      refine ⟨_, exec_lqtailWrite s hc, ?_, fetch_scheduled _ _ _ hq⟩
      exact (regN_setRegN_same _ _ _ _ _ _ (by omega)).trans (Nat.mod_mod _ _)
    case kept => rw [exec_lqstatErrClear s hc, if_neg (by rw [hb]; decide)]
    case cleared =>
      refine ⟨_, (exec_lqstatErrClear s hc).trans (congrArg _ (if_pos hb)), ?_, ?_, fetch_scheduled _ _ _ hq⟩
      · exact regN_setRegN_same _ _ _ _ _ _ (by omega)
      · exact regN_setRegN_field _ _ _ _ _ _ _ _ (by omega) (by omega)
    case cause =>
      refine ⟨_, exec_intcauseClear s hc, fun b hb => ?_⟩
      have hr := regN_foldl_clearCause s.ev.vf s.ev.v b (by omega) (List.range 9) List.nodup_range s
      rw [if_pos (List.mem_range.mpr hb)] at hr
      exact ⟨fun h => by simp [hr, causeAfter, h], fun h => by simp [hr, causeAfter, h]⟩
  case read =>
    exact ⟨mw0Read_closed vf off s, fun hc => ⟨mw0Read_woMask vf off s hc, mw0Read_hidden vf off s hc⟩⟩

end Sys2Proof.Machine
end
